-- ==== Sys2Proof/Word.lean ====
section
/-! DEFINITION. The machine's word types and the type of its sparse stores. -/

namespace Sys2Proof

/-- A register, record or table word (R513, R549). -/
abbrev Word := BitVec 32

/-- A byte of a frame, an image or the deep store. -/
abbrev Byte := BitVec 8

/-- A sparse store: key and value pairs, keys strictly rising. -/
abbrev SMap (α : Type) := List (Nat × α)

end Sys2Proof
end

