-- ==== Sys2Proof/Syntax.lean ====
section
/-! DEFINITION. The commands of the block: one constructor per row of the table of operations and events. The operands of a
row are what comes from outside the device with it; their docstrings say what they are. -/

namespace Sys2Proof

/-- The instructions of the test access port that R594 names, and every other. -/
inductive TapIns where
  | bypass | idcode | sample | other
  deriving DecidableEq, Repr

/-- A stored word of the mix engine that an upset has reached (R288): a plane word by its address in the crosspoint-plane
space, an input-plane word of a cluster's copy, a destination-store word. -/
inductive MixUpset where
  | word (addr : Nat)
  | input (cluster source sample : Nat)
  | dest (d sample : Nat)
  deriving DecidableEq, Repr

/-- The levels of the straps at the rise of `RST_N` (R8, R592). -/
structure Straps where
  cmpt : Bool
  mgtAddr : BitVec 3
  deriving DecidableEq, Repr

/-- Whether the reference clocks of the Ethernet and of the Edarlink ports run (R590). -/
structure RefClocks where
  eth : Bool
  edl : Bool
  deriving DecidableEq, Repr

/-- An item that the device holds for each unit of the search array (R144). -/
inductive UnitItem where
  | value | mask | shadowValue | shadowMask | shadowParity | valid | ad | adParity
  deriving DecidableEq, Repr

/-- A stored word that a soft error has reached, with the bits that flip: an item of a unit of the search array (R144), a way word of the
station table by its location (R203), or a word of a direct table (R190). -/
inductive RamFlip where
  | unit (addr : BitVec 20) (item : UnitItem) (bits : Nat)
  | station (loc : BitVec 18) (bits : Nat)
  | table (t : BitVec 2) (i : BitVec 16) (bits : Nat)
  deriving DecidableEq, Repr

/-- What befalls the strip engine in a stage. A stored word that an upset has reached (R308, R311): a descriptor, a coefficient set, a
section's state, a detector, or a short-pool word with the strip and the age of the sample it holds. The unit that a long line fetches, by
the age of its newest sample, with its corrected and its uncorrectable 64-bit words (R307, R499). A strip that the next deckle tick finds
unfinished (R50). -/
inductive StripUpset where
  | desc (n : Nat)
  | cset (n : Nat)
  | sec (n : Nat)
  | det (n : Nat)
  | pool (word strip age : Nat)
  | unit (strip age : Nat) (corr unc : BitVec 4)
  | unfinished (strip : Nat)
  deriving DecidableEq, Repr

/-- A write of an MSI-X entry and what the configuration of its function holds by then (R511, R512, R556): MSI-X and bus mastering enabled, in PF0
also NumVFs, the virtual functions that the host has enabled; the entry's mask bit, address and data word. -/
structure MsixWrite where
  on : Bool
  vfs : BitVec 6
  mask : Bool
  addr : BitVec 64
  data : Word
  deriving DecidableEq, Repr

/-- Where PNP arrives (R407, R408): at the parley rate, or at the rate of a trained port's mode, with the header granule of the frame in progress
that it cuts off. -/
inductive PnpAt where
  | parley
  | mode (cut : Option (List Byte))
  deriving DecidableEq, Repr

/-- A deep-store request of rank 0 to 2 (R492, R498): a unit of a strip's long line by the age of its newest sample, of a
channel of a stream's felt ring by its first slot, or the next unit of a player. -/
inductive DstReq where
  | line (write : Bool) (strip age : Nat)
  | felt (write : Bool) (stream chan slot : Nat)
  | player (n : Nat)
  deriving DecidableEq, Repr

/-- A command: one row of the table of operations and events. -/
inductive Instr where
  /-- PWR_OK_FALL: `PWR_OK` falls (R587). -/
  | pwrOkFall
  /-- RST_N_FALL: `RST_N` falls (R96). -/
  | rstNFall
  /-- RST_N_RISE: `RST_N` rises, with the levels of the straps, and whether the reference clocks of the ports run (R92, R590). -/
  | rstNRise (straps : Straps) (refs : RefClocks)
  /-- FABRIC_PLL_LOCK: the fabric PLL locks (R92). -/
  | fabricPllLock
  /-- PLL_LOCK_TIMEOUT: 200 µs after the rise of `RST_N` the PLL has not locked (R95). -/
  | pllLockTimeout
  /-- DRAM_INIT_DONE: DRAM initialisation completes (R490). -/
  | dramInitDone
  /-- DRAM_INIT_TIMEOUT: 50 ms after the rise of `RST_N` DRAM initialisation is not done (R94). -/
  | dramInitTimeout
  /-- PCIE_LINK_UP: the data link layer reports link up, at a generation and a width (R92). -/
  | pcieLinkUp (gen : BitVec 4) (width : BitVec 5)
  /-- ENTER_BARE: the later of DRAM initialisation and link up (R92). -/
  | enterBare
  /-- PERST_N_ASSERT: `PERST_N` is asserted (R537). -/
  | perstNAssert
  /-- PERST_N_DEASSERT: `PERST_N` rises (R92). -/
  | perstNDeassert
  /-- FUNCTION_LEVEL_RESET: a function-level reset of function fn (R538). -/
  | functionLevelReset (fn : BitVec 6)
  /-- PLL_LOSS_OF_LOCK: the fabric PLL loses lock (R593). -/
  | pllLossOfLock
  /-- SENSOR_SAMPLE: the readings of sensors 0 to 7, signed, 1/16 °C, 0x8000 for a sensor that failed its self-test (R599). -/
  | sensorSample (temps : List (BitVec 16))
  /-- THERMAL_TRIP: the trip that two consecutive samples call for (R601). -/
  | thermalTrip
  /-- POWER_MONITOR_SAMPLE: VCORE power averaged over 1 ms, in mW. -/
  | powerMonitorSample (mw : BitVec 20)
  /-- MGT_READ: a management-port read of n words after the command byte k (R604). -/
  | mgtRead (k : BitVec 4) (n : BitVec 5)
  /-- TAP_INSTRUCTION: an instruction of the test access port; trst: the level of `TRST_N` (R594). -/
  | tapInstruction (ins : TapIns) (trst : Bool)
  /-- LOAD: function fn writes v to `MLD_CTL`, with LOAD (R70, R72). -/
  | load (fn : BitVec 6) (v : Word)
  /-- ABORT: function fn writes v to `MLD_CTL`, with ABORT (R70, R72). -/
  | abort (fn : BitVec 6) (v : Word)
  /-- CLEAR: function fn writes v to `MLD_CTL`, with CLEAR (R70). -/
  | clear (fn : BitVec 6) (v : Word)
  /-- LIFT: function fn writes v to `MLD_CTL`, with LIFT (R99). -/
  | lift (fn : BitVec 6) (v : Word)
  /-- LOADER_READ_ERROR: a read error on the loader's DMA (R70). -/
  | loaderReadError
  /-- IMAGE_COMPLETE: the next bytes of the image arrive, in address order, up to the last of those that the loader reads (R79, R100). -/
  | imageComplete (bytes : List Byte)
  /-- CHECKING_END: CHECKING completes its checks (R81, R83). -/
  | checkingEnd
  /-- LIFT_BEGIN: step 2 of the coming boundary, for a lift that waits (R99). -/
  | liftBegin
  /-- LIFT_END: the coming boundary, for a lift that ends there (R99). -/
  | liftEnd
  /-- DECKLE_TICK: TB0 reaches a boundary instant; wck: the instants of the rising edges of `WCK_IN` since the boundary before, on TB0 in 1/256 ns (R62, R479). -/
  | deckleTick (wck : List Nat)
  /-- EVENT_TICK: the end of an event tick, of 16 cycles or of fewer up to the boundary instant; flips: the words of the search array and of the switch tables that soft errors reached; upsets: the copies of voted fields that they reached, with the bits that flipped (R55, R144, R190, R530). -/
  | eventTick (flips : List RamFlip) (upsets : List (Nat × Nat))
  /-- PARTERRE_WINDOW: the parterre window; sent at its beginning, its results come in their event ticks, sent later, from then on; gains, descs: class-gain words and descriptor words that upsets reached (R122, R347). -/
  | parterreWindow (gains : List (BitVec 12 × BitVec 6)) (descs : List (BitVec 12 × BitVec 1))
  /-- SEARCH_ISSUE: one fabric cycle of the two pipes (R124). -/
  | searchIssue (cyc : BitVec 4)
  /-- SEARCH_RESULT: the oldest search of a pipe reaches cycle 28 of its path (R127). -/
  | searchResult (pipe : BitVec 1)
  /-- DIAG_GO: function fn writes v to `SRCH_DIAG_CTL` (R139). -/
  | diagGo (fn : BitVec 6) (v : Word)
  /-- SCRUB_VISIT: a rank-3 read grant in cycle cyc of the event tick (R158). -/
  | scrubVisit (cyc : BitVec 4)
  /-- SCRUB_REWRITE: a rank-3 write grant in cycle cyc of the event tick (R160). -/
  | scrubRewrite (cyc : BitVec 4)
  /-- SCRUB_STALL: 4,096 deckles without a scrubber grant (R162). -/
  | scrubStall
  /-- UPD_CMD_WORD: function fn writes v to the `UPD_CMD` window (R176). -/
  | updCmdWord (fn : BitVec 6) (v : Word)
  /-- UPD_FLUSH: function fn writes v to `UPD_FLUSH` (R176). -/
  | updFlush (fn : BitVec 6) (v : Word)
  /-- WRITE: the WRITE command at the head of the command FIFO, its first beat in cycle cyc of the event tick or when the port is free (R173). -/
  | write (cyc : BitVec 4)
  /-- WRITE_AD: the WRITE_AD command at the head of the command FIFO, its first beat in cycle cyc of the event tick or when the port is free (R173). -/
  | writeAd (cyc : BitVec 4)
  /-- INVALIDATE: the INVALIDATE command at the head of the command FIFO, its first beat in cycle cyc of the event tick or when the port is free (R173). -/
  | invalidate (cyc : BitVec 4)
  /-- VALIDATE: the VALIDATE command at the head of the command FIFO, its first beat in cycle cyc of the event tick or when the port is free (R173). -/
  | validate (cyc : BitVec 4)
  /-- REPLACE: the REPLACE command at the head of the command FIFO, its first beat in cycle cyc of the event tick or when the port is free (R173). -/
  | replace (cyc : BitVec 4)
  /-- MOVE: the MOVE command at the head of the command FIFO, its first beat in cycle cyc of the event tick or when the port is free (R173). -/
  | move (cyc : BitVec 4)
  /-- MARK: the MARK command at the head of the command FIFO, its first beat in cycle cyc of the event tick or when the port is free (R173). -/
  | mark (cyc : BitVec 4)
  /-- QUIRE_CELL_WRITE: the quire-cell submission at the head of the command FIFO (R180). -/
  | quireCellWrite (cyc : BitVec 4)
  /-- FRAME_RECEIVE: the last byte of a frame, FCS included, arrives on an Ethernet port in cycle cyc of the event tick; pcsErr, fecBad: an error character lies in it, an uncorrectable codeword covers it (R230, R231). -/
  | frameReceive (port : BitVec 4) (bytes : List Byte) (pcsErr fecBad : Bool) (cyc : BitVec 4)
  /-- FORWARD_DECISION: the decision for the frame at the head of a port (R197). -/
  | forwardDecision (port : BitVec 5)
  /-- SOURCE_LOOKUP: the source lookup of the frame at the head of a port (R210). -/
  | sourceLookup (port : BitVec 5)
  /-- LEARNING_REQUEST: the request at the head of the learning queue (R212). -/
  | learningRequest (cyc : BitVec 4)
  /-- HOLD: function fn writes v to `FWD_LEARN_CTL` (R214). -/
  | hold (fn : BitVec 6) (v : Word)
  /-- AGING_TICK: `FWD_AGE_CFG.TICK` milliseconds have passed (R215). -/
  | agingTick
  /-- AGING_REMOVAL: the aging engine removes the entry marked first (R217). -/
  | agingRemoval (cyc : BitVec 4)
  /-- STA_LOOKUP: function fn writes `FWD_STA_CMD` with GO and OP 1 (R221). -/
  | staLookup (fn : BitVec 6)
  /-- STA_READ: function fn writes `FWD_STA_CMD` with GO and OP 2 (R221). -/
  | staRead (fn : BitVec 6)
  /-- STA_WRITE: function fn writes `FWD_STA_CMD` with GO and OP 3 (R221). -/
  | staWrite (fn : BitVec 6)
  /-- STA_DELETE: function fn writes `FWD_STA_CMD` with GO and OP 4 (R221). -/
  | staDelete (fn : BitVec 6)
  /-- STA_MOVE: function fn writes `FWD_STA_CMD` with GO and OP 5 (R221). -/
  | staMove (fn : BitVec 6)
  /-- STA_HASH: function fn writes `FWD_STA_CMD` with GO and OP 6 (R221). -/
  | staHash (fn : BitVec 6)
  /-- FLUSH_GO: function fn writes v to `FWD_FLUSH_CTL` (R220). -/
  | flushGo (fn : BitVec 6) (v : Word)
  /-- FLUSH_DONE: the running flush ends (R220). -/
  | flushDone
  /-- TABLE_READ: function fn writes `FWD_TBL_CTL` with GO and WRITE = 0 (R223). -/
  | tableRead (fn : BitVec 6) (table : BitVec 2) (index : BitVec 16)
  /-- TABLE_WRITE: function fn writes `FWD_TBL_CTL` with GO and WRITE = 1 (R223). -/
  | tableWrite (fn : BitVec 6) (table : BitVec 2) (index : BitVec 16)
  /-- ETH_PORT_CFG_WRITE: function fn writes v to `ETH_PORTp_CFG` (R227). -/
  | ethPortCfgWrite (fn : BitVec 6) (p : BitVec 4) (v : Word)
  /-- ETH_LINK_UP: the link of port p comes up; fec: the resolution of clause 73, where it is asked for (R226). -/
  | ethLinkUp (p : BitVec 4) (fec : BitVec 2)
  /-- ETH_LINK_DOWN: the link of port p goes down. -/
  | ethLinkDown (p : BitVec 4)
  /-- AN_FAIL: auto-negotiation of port p finds no common mode. -/
  | anFail (p : BitVec 4)
  /-- FRAME_LAUNCH: a port starts its next frame in cycle cyc of the event tick; bad: a packet-buffer word of it has bad parity (R235, R238). -/
  | frameLaunch (port : BitVec 5) (cyc : BitVec 4) (bad : Bool)
  /-- STREAM_DESC_READ: function fn writes `STRM_DESC_CTL` with GO and WRITE = 0 (R258). -/
  | streamDescRead (fn : BitVec 6) (table : BitVec 2) (n : BitVec 12)
  /-- STREAM_DESC_WRITE: function fn writes `STRM_DESC_CTL` with GO and WRITE = 1 (R258). -/
  | streamDescWrite (fn : BitVec 6) (table : BitVec 2) (n : BitVec 12)
  /-- STAGE_A: stage A of the deckle; upsets: what befalls the strips; ecc: the findings in the deep-store units that streams and players read: unit, words corrected, words uncorrectable; waits: of a capture engine, how many of its staged units no arbiter has granted when the stage ends (none where it is not listed) (R291, R499, R507). -/
  | stageA (upsets : List StripUpset) (ecc : List (BitVec 29 × BitVec 4 × BitVec 4)) (waits : List (BitVec 3 × BitVec 8))
  /-- STAGE_C: stage C of the deckle; operands as for STAGE_A (R291). -/
  | stageC (upsets : List StripUpset) (waits : List (BitVec 3 × BitVec 8))
  /-- PACKETISE: the packetiser builds the frames of the finished block (R252). -/
  | packetise
  /-- MIX_TIER: tier k of the deckle runs to the end of its barrier; upsets: the stored words that upsets reached (R271, R288). -/
  | mixTier (k : BitVec 2) (upsets : List MixUpset)
  /-- LIVE_COMMAND: function fn writes v to `MIX_LIVE_CMD` (R280). -/
  | liveCommand (fn : BitVec 6) (v : Word)
  /-- MIX_LIVE_FLUSH: function fn writes v to `MIX_LIVE_FLUSH` (R280). -/
  | mixLiveFlush (fn : BitVec 6) (v : Word)
  /-- COUCH_WRITE: PF0 writes a word of the crosspoint planes through BAR2 (R313). -/
  | couchWrite (addr : BitVec 26) (v : Word)
  /-- COUCH_CHECK: function fn writes v to `MIX_CHK_CTL` (R285). -/
  | couchCheck (fn : BitVec 6) (v : Word)
  /-- COUCH_CHECK_DONE: the running couch check ends (R285). -/
  | couchCheckDone
  /-- STRIP_SUBMIT: function fn writes a word of the strip-coefficient space; the last used word of an entry submits it (R309, R310). -/
  | stripSubmit (fn : BitVec 6) (addr : BitVec 21) (v : Word)
  /-- METER_RECORD_READ: function fn reads word w of the meter record of a strip (R310). -/
  | meterRecordRead (fn : BitVec 6) (strip : BitVec 15) (w : BitVec 1)
  /-- HOST_COMMIT: function fn writes v to `SCN_COMMIT_CTL` (R316). -/
  | hostCommit (fn : BitVec 6) (v : Word)
  /-- COMMIT_FRAME: a COMMIT frame arrives at port n; uncorr as for AUDIO (R398). -/
  | commitFrame (n : BitVec 2) (frame : List Byte) (uncorr : Bool)
  /-- COMMIT_CARRY_OUT: the carry-out of the pending commit at the coming boundary (R320). -/
  | commitCarryOut
  /-- HOLD_END: the end of the hold at the coming boundary (R314). -/
  | holdEnd
  /-- ZONE_DESCRIPTOR_SUBMIT: function fn writes word w of a zone descriptor; word 1 submits it (R335). -/
  | zoneDescriptorSubmit (fn : BitVec 6) (zone : BitVec 12) (w : BitVec 1) (v : Word)
  /-- OVERRIDE_SET_SUBMIT: function fn writes gain k of an override set; gain 63 submits it (R346). -/
  | overrideSetSubmit (fn : BitVec 6) (set : BitVec 12) (k : BitVec 6) (v : Word)
  /-- ZONE_STATUS_READ: function fn reads `PTR_ZSTAT0`, or with hi `PTR_ZSTAT1`. -/
  | zoneStatusRead (fn : BitVec 6) (hi : Bool)
  /-- START: function fn writes v to `SEQn_CTL`, with START (R370). -/
  | start (fn : BitVec 6) (n : BitVec 7) (v : Word)
  /-- PROGRAM_CHECK_END: the start check of sequencer n ends (R370). -/
  | programCheckEnd (n : BitVec 7)
  /-- STOP: function fn writes v to `SEQn_CTL`, with STOP (R372). -/
  | stop (fn : BitVec 6) (n : BitVec 7) (v : Word)
  /-- KICK: function fn writes v to `SEQn_KICK` (R359). -/
  | kick (fn : BitVec 6) (n : BitVec 7) (v : Word)
  /-- NOP: sequencer n executes the NOP at its program counter (R374). -/
  | nop (n : BitVec 7)
  /-- HALT: sequencer n executes the HALT at its program counter (R374). -/
  | halt (n : BitVec 7)
  /-- YIELD: sequencer n executes the YIELD at its program counter (R374). -/
  | yieldRow (n : BitVec 7)
  /-- WAITD: sequencer n executes the WAITD at its program counter (R374). -/
  | waitd (n : BitVec 7)
  /-- WAITU: sequencer n executes the WAITU at its program counter (R374). -/
  | waitu (n : BitVec 7)
  /-- WAITE: sequencer n executes the WAITE at its program counter (R374). -/
  | waite (n : BitVec 7)
  /-- CLRC: sequencer n executes the CLRC at its program counter (R374). -/
  | clrc (n : BitVec 7)
  /-- SIG: sequencer n executes the SIG at its program counter (R374). -/
  | sig (n : BitVec 7)
  /-- FLAGS: sequencer n executes the FLAGS at its program counter (R374). -/
  | flags (n : BitVec 7)
  /-- LDI: sequencer n executes the LDI at its program counter (R374). -/
  | ldi (n : BitVec 7)
  /-- LDIH: sequencer n executes the LDIH at its program counter (R374). -/
  | ldih (n : BitVec 7)
  /-- ALU: sequencer n executes the ALU at its program counter (R374). -/
  | alu (n : BitVec 7)
  /-- ADDI: sequencer n executes the ADDI at its program counter (R374). -/
  | addi (n : BitVec 7)
  /-- RDIN: sequencer n executes the RDIN at its program counter (R374). -/
  | rdin (n : BitVec 7)
  /-- BR: sequencer n executes the BR at its program counter (R374). -/
  | br (n : BitVec 7)
  /-- BRB: sequencer n executes the BRB at its program counter (R374). -/
  | brb (n : BitVec 7)
  /-- COMMIT: sequencer n executes the COMMIT at its program counter (R374). -/
  | commit (n : BitVec 7)
  /-- LIVE: sequencer n executes the LIVE at its program counter (R374). -/
  | live (n : BitVec 7)
  /-- PLAY: sequencer n executes the PLAY at its program counter (R374). -/
  | play (n : BitVec 7)
  /-- RAISE: sequencer n executes the RAISE at its program counter (R374). -/
  | raise (n : BitVec 7)
  /-- WAITE_TIMEOUT: the timeout of the WAITE of sequencer n at the coming boundary (R362). -/
  | waiteTimeout (n : BitVec 7)
  /-- WAITD_EXPIRY: the end of the WAITD of sequencer n at the coming boundary (R362). -/
  | waitdExpiry (n : BitVec 7)
  /-- WAITU_REACHED: the end of the WAITU of sequencer n at the coming boundary (R362). -/
  | waituReached (n : BitVec 7)
  /-- STALL_RELEASE: the release of a stalled group at the coming boundary (R373). -/
  | stallRelease (g : BitVec 3)
  /-- RESTART: function fn writes v to `EDL_PORTn_CTL`, with RESTART (R380). -/
  | restart (fn : BitVec 6) (n : BitVec 2) (v : Word)
  /-- EDL_PNP_WRITE: function fn writes v to `EDL_PORTn_CTL`, for PNP (R407). -/
  | edlPnpWrite (fn : BitVec 6) (n : BitVec 2) (v : Word)
  /-- GEN1_WRITE: function fn writes v to `EDL_PORTn_CTL`, for GEN1 (R412). -/
  | gen1Write (fn : BitVec 6) (n : BitVec 2) (v : Word)
  /-- PARLEY_START: a port of role 1 or 2 that is off starts the parley (R380). -/
  | parleyStart (n : BitVec 2)
  /-- CAPABILITY_PAGE: a capability page of 64 bytes arrives on a lane of port n (R382). -/
  | capabilityPage (n lane : BitVec 2) (page : List Byte)
  /-- NOMODE_RETRY: 100 ms after NOMODE (R384). -/
  | nomodeRetry (n : BitVec 2)
  /-- TRAINING_SUCCESS: the training of port n succeeds (R385). -/
  | trainingSuccess (n : BitVec 2)
  /-- TRAINING_TIMEOUT: the training of port n fails (R385). -/
  | trainingTimeout (n : BitVec 2)
  /-- MARKER: a MARKER arrives at port n in cycle cyc of the event tick, CRC included (R402). -/
  | marker (n : BitVec 2) (bytes : List Byte) (cyc : BitVec 4)
  /-- ECHO: an ECHO arrives at port n in cycle cyc of the event tick, CRC included (R403). -/
  | echo (n : BitVec 2) (bytes : List Byte) (cyc : BitVec 4)
  /-- PNP: a PNP set arrives at port n, at the parley rate or at the rate of its mode (R407). -/
  | pnp (n : BitVec 2) (bytes : List Byte) (at_ : PnpAt)
  /-- LEAVE: a LEAVE set arrives at port n; cut: the header granule of the frame in progress (R408). -/
  | leave (n : BitVec 2) (bytes : List Byte) (cut : Option (List Byte))
  /-- ABORT_SET: an ABORT set arrives at port n; cut: the header granule of the frame in progress (R391). -/
  | abortSet (n : BitVec 2) (bytes : List Byte) (cut : Option (List Byte))
  /-- LOSS_OF_SIGNAL: a lane of port n loses its signal; cut: the header granule of the frame in progress (R408). -/
  | lossOfSignal (n : BitVec 2) (cut : Option (List Byte))
  /-- LOSS_OF_LOCK: port n loses lock; cut: the header granule of the frame in progress (R408). -/
  | lossOfLock (n : BitVec 2) (cut : Option (List Byte))
  /-- MARKER_MISSING: no good MARKER came at two consecutive deckles; cut: the header granule of the frame in progress (R408). -/
  | markerMissing (n : BitVec 2) (cut : Option (List Byte))
  /-- LOCK_CHANGE: the lock of the timing port changes at the coming boundary (R405). -/
  | lockChange
  /-- AUDIO: the granules of an AUDIO frame arrive at port n; uncorr: an uncorrectable codeword holds one of its granules (R391, R395). -/
  | audio (n : BitVec 2) (frame : List Byte) (uncorr : Bool)
  /-- TSUM: a TSUM frame arrives at port n; uncorr as for AUDIO (R430). -/
  | tsum (n : BitVec 2) (frame : List Byte) (uncorr : Bool)
  /-- ETH_CHUNK: an ETH frame arrives at port n; uncorr as for AUDIO (R400). -/
  | ethChunk (n : BitVec 2) (frame : List Byte) (uncorr : Bool)
  /-- LOOP_REQ: a LOOP_REQ frame arrives at port n; uncorr as for AUDIO (R401). -/
  | loopReq (n : BitVec 2) (frame : List Byte) (uncorr : Bool)
  /-- LOOP_RSP: a LOOP_RSP frame arrives at port n; uncorr as for AUDIO (R401). -/
  | loopRsp (n : BitVec 2) (frame : List Byte) (uncorr : Bool)
  /-- MAILBOX: a MAILBOX frame arrives at port n; uncorr as for AUDIO (R401). -/
  | mailbox (n : BitVec 2) (frame : List Byte) (uncorr : Bool)
  /-- MAILBOX_SEND: function fn writes v to `EDL_PORTn_MBOX`, with GO (R401). -/
  | mailboxSend (fn : BitVec 6) (n : BitVec 2) (v : Word)
  /-- MAILBOX_RELEASE: function fn writes v to `EDL_PORTn_MBOX`, with RELEASE (R401). -/
  | mailboxRelease (fn : BitVec 6) (n : BitVec 2) (v : Word)
  /-- FLOW_DESC_READ: function fn reads a flow descriptor, of the receive table with rx (R396). -/
  | flowDescRead (fn : BitVec 6) (rx : Bool) (n : BitVec 10)
  /-- FLOW_DESC_WRITE: function fn writes a flow descriptor from its data words (R397). -/
  | flowDescWrite (fn : BitVec 6) (rx : Bool) (n : BitVec 10)
  /-- TRELLIS_DEADLINE: the deadline of a bus at the coming boundary (R433). -/
  | trellisDeadline (bus : BitVec 11)
  /-- SUBSTITUTE_LAUNCH: the substitute of a bus, on ring A or B, due at the coming boundary (R434). -/
  | substituteLaunch (bus : BitVec 11) (ring : BitVec 1)
  /-- HOST_MIGRATION: function fn writes v to `TRL_MIG_CTL` (R437). -/
  | hostMigration (fn : BitVec 6) (v : Word)
  /-- MIGRATE: a MIGRATE frame arrives at port n; uncorr as for AUDIO (R437). -/
  | migrate (n : BitVec 2) (frame : List Byte) (uncorr : Bool)
  /-- MIGRATION_EFFECT: the migration of a bus takes effect at the coming boundary (R438). -/
  | migrationEffect (bus : BitVec 11)
  /-- BUS_ENTRY_READ: function fn reads a bus entry (R442). -/
  | busEntryRead (fn : BitVec 6) (bus : BitVec 11)
  /-- BUS_ENTRY_WRITE: function fn writes a bus entry from its data words (R442). -/
  | busEntryWrite (fn : BitVec 6) (bus : BitVec 11)
  /-- LEASE: a LEASE frame arrives at port n; uncorr as for AUDIO (R449). -/
  | lease (n : BitVec 2) (frame : List Byte) (uncorr : Bool)
  /-- LEASE_ACK: a LEASE_ACK frame arrives at port n; uncorr as for AUDIO (R450). -/
  | leaseAck (n : BitVec 2) (frame : List Byte) (uncorr : Bool)
  /-- FENCE: the active fences at the coming boundary (R453). -/
  | fence
  /-- TAKEOVER: the standby takes over at the coming boundary (R454). -/
  | takeover
  /-- YIELD_PAIR: function fn writes v to `PAIR_CTL`, with YIELD (R466). -/
  | yieldPair (fn : BitVec 6) (v : Word)
  /-- PAIR_HOLD: function fn writes v to `PAIR_CTL`, for HOLD (R466). -/
  | pairHold (fn : BitVec 6) (v : Word)
  /-- ALONE: function fn writes v to `PAIR_CTL`, for ALONE (R466). -/
  | alone (fn : BitVec 6) (v : Word)
  /-- MIRROR: a MIRROR frame arrives at port n; uncorr as for AUDIO (R463). -/
  | mirror (n : BitVec 2) (frame : List Byte) (uncorr : Bool)
  /-- MIRROR_SET_APPLY: the last event tick of the deckle in which mirror set `set` applies (R464). -/
  | mirrorSetApply (set : BitVec 48)
  /-- TB_RATE_WRITE: function fn writes v to `TBn_RATE` in cycle cyc of its event tick (R472). -/
  | tbRateWrite (fn : BitVec 6) (n : BitVec 3) (v : Word) (cyc : BitVec 4)
  /-- TB_STEP: function fn writes v to `TBn_CTL` (R473). -/
  | tbStep (fn : BitVec 6) (n : BitVec 3) (v : Word) (cyc : BitVec 4)
  /-- TB_NS_READ: function fn reads `TBn_NS` (R469). -/
  | tbNsRead (fn : BitVec 6) (n : BitVec 3) (cyc : BitVec 4)
  /-- ACQ: function fn writes v to `TB_CTL` (R477). -/
  | acq (fn : BitVec 6) (v : Word) (cyc : BitVec 4)
  /-- HOST_WATCHDOG_EXPIRY: `TB_HWDOG.MS` milliseconds have passed without a write of `TB0_RATE` (R477). -/
  | hostWatchdogExpiry
  /-- WORD_CLOCK_LOSS: `WCK_IN` was missing or off-rate at 4 consecutive edges (R479). -/
  | wordClockLoss
  /-- PULSE: the pulse instant of base n is reached (R484). -/
  | pulse (n : BitVec 3) (cyc : BitVec 4)
  /-- PSTART_WRITE: function fn writes v to `TBn_PSTART` (R484). -/
  | pstartWrite (fn : BitVec 6) (n : BitVec 3) (v : Word) (cyc : BitVec 4)
  /-- CAPTURE: an edge on capture input k (R486). -/
  | capture (k : BitVec 3) (falling : Bool) (cyc : BitVec 4)
  /-- CAPTURE_NS0_READ: function fn reads `TB_CAPk_NS0` (R487). -/
  | captureNs0Read (fn : BitVec 6) (k : BitVec 3)
  /-- CAPTURE_INFO_READ: function fn reads `TB_CAPk_INFO` (R487). -/
  | captureInfoRead (fn : BitVec 6) (k : BitVec 3)
  /-- PLAYER_START: function fn writes `DST_PLAYn_CTL` with GO and MSG (R503). -/
  | playerStart (fn : BitVec 6) (n : BitVec 6) (msg : BitVec 16)
  /-- PLAYER_STOP: function fn writes `DST_PLAYn_CTL` with STOP (R504). -/
  | playerStop (fn : BitVec 6) (n : BitVec 6) (msg : BitVec 16)
  /-- DEADLINE_MISS: a deep-store request of rank 0 to 2 is abandoned (R498). -/
  | deadlineMiss (req : DstReq) (unit : BitVec 29)
  /-- DST_SCRUB_READ: the scrubber reads its next unit; corr, unc: the 64-bit words with a single-bit and with an uncorrectable error (R501). -/
  | dstScrubRead (corr unc : BitVec 4)
  /-- DST_SCRUB_WRITEBACK: the scrubber writes the corrected unit back (R501). -/
  | dstScrubWriteback
  /-- DST_SCRUB_STALL: 4,096 deckles without a scrub grant (R501). -/
  | dstScrubStall
  /-- APERTURE_WRITE: PF0 writes bytes of a unit of the deep store from an offset (R508). -/
  | apertureWrite (unit : BitVec 29) (off : BitVec 5) (data : List Byte)
  /-- APERTURE_READ: a host read of a word of the deep store completes; corr, unc: the findings in its unit (R508). -/
  | apertureRead (addr : BitVec 32) (corr unc : BitVec 4)
  /-- APERTURE_READ_TIMEOUT: a host read is not served within `DST_HTMO` (R508). -/
  | apertureReadTimeout
  /-- REGISTER_WRITE: function fn writes v to the register at byte 4 × word of its BAR0, a virtual function of its tenant window (R516), with byte enables be, in cycle cyc of the event tick (R513). -/
  | registerWrite (fn : BitVec 6) (word : BitVec 20) (v : Word) (be : BitVec 4) (cyc : BitVec 4)
  /-- SET_ALIAS_WRITE: function fn writes v to the set alias of the register at byte 4 × word of the base quarter of its BAR0 (R514). -/
  | setAliasWrite (fn : BitVec 6) (word : BitVec 20) (v : Word) (cyc : BitVec 4)
  /-- CLEAR_ALIAS_WRITE: function fn writes v to the clear alias of the register at byte 4 × word of the base quarter of its BAR0 (R514). -/
  | clearAliasWrite (fn : BitVec 6) (word : BitVec 20) (v : Word) (cyc : BitVec 4)
  /-- TOGGLE_ALIAS_WRITE: function fn writes v to the toggle alias of the register at byte 4 × word of the base quarter of its BAR0 (R514). -/
  | toggleAliasWrite (fn : BitVec 6) (word : BitVec 20) (v : Word) (cyc : BitVec 4)
  /-- CLEAR_BY_SEQUENCE: function fn writes v to the SC register at byte 4 × word of its BAR0 (R519). -/
  | clearBySequence (fn : BitVec 6) (word : BitVec 20) (v : Word)
  /-- WIDE_REQ: function fn writes v to `GLB_WIDE_REQ` (R522). -/
  | wideReq (fn : BitVec 6) (v : Word) (cyc : BitVec 4)
  /-- WIDE_DATA3_READ: function fn reads `GLB_WIDE_DATA3` (R522). -/
  | wideData3Read (fn : BitVec 6)
  /-- IND_SEL_ADDR_WRITE: function fn writes v to `IND_SEL`, or with addr to `IND_ADDR` (R523). -/
  | indSelAddrWrite (fn : BitVec 6) (addr : Bool) (v : Word)
  /-- IND_DATA_READ: function fn reads `IND_DATA` (R523). -/
  | indDataRead (fn : BitVec 6)
  /-- IND_DATA_WRITE: function fn writes v to `IND_DATA` (R523). -/
  | indDataWrite (fn : BitVec 6) (v : Word)
  /-- IND_FETCH: the fetch cycle of the indirect port of function fn; corr, unc: the findings in its unit of the deep store (R524). -/
  | indFetch (fn : BitVec 6) (cyc : BitVec 4) (corr unc : BitVec 4)
  /-- INDTMO: the fetch of function fn has not ended within its bound (R524). -/
  | indtmo (fn : BitVec 6)
  /-- LOCK_SET: function fn writes v to `GLB_LOCK_SET` (R527). -/
  | lockSet (fn : BitVec 6) (v : Word)
  /-- TPART_WRITE: function fn writes v to `GLB_TPART` (R518). -/
  | tpartWrite (fn : BitVec 6) (v : Word)
  /-- OUTEN_WRITE: function fn writes v to `GLB_OUTEN` (R531). -/
  | outenWrite (fn : BitVec 6) (v : Word)
  /-- MUTE_WRITE: function fn writes v to `GLB_MUTE` (R531). -/
  | muteWrite (fn : BitVec 6) (v : Word)
  /-- DMA_TAIL_WRITE: function fn writes v to `HOST_DMAc_TAIL` (R532). -/
  | dmaTailWrite (fn : BitVec 6) (c : BitVec 3) (v : Word)
  /-- DMA_TRANSMIT: channel c reads the descriptor at its HEAD and the frame; none is a host memory error (R534). -/
  | dmaTransmit (c : BitVec 3) (desc : List Word) (frame : Option (List Byte))
  /-- DMA_RECEIVE: the oldest frame at the host port meets the next descriptor of its channel (R535). -/
  | dmaReceive (desc : List Word) (memErr : Bool)
  /-- DMA_COPY: a portion of the copy of the descriptor at HEAD of channel c: data from host memory, or n words to it; corr, unc: the findings in the deep-store unit of the first word (R536). -/
  | dmaCopy (c : BitVec 3) (desc : List Word) (data : List Word) (n : BitVec 13) (memErr : Bool) (corr unc : BitVec 4)
  /-- PCLR: function fn writes v to `EVC_PCLRw` (R544). -/
  | pclr (fn : BitVec 6) (w : BitVec 4) (v : Word)
  /-- SET_PENDING: function fn writes v to `EVC_SETPw` (R545). -/
  | setPending (fn : BitVec 6) (w : BitVec 4) (v : Word)
  /-- DOORBELL: function fn writes v to `EVC_TGTt_DB` (R546). -/
  | doorbell (fn : BitVec 6) (t : BitVec 3) (v : Word)
  /-- ACK: function fn reads `EVC_TGTt_ACK` (R552). -/
  | ack (fn : BitVec 6) (t : BitVec 3)
  /-- EOI: function fn writes `EVC_TGTt_EOI` (R553). -/
  | eoi (fn : BitVec 6) (t : BitVec 3)
  /-- RING_BASE_WRITE: function fn writes v to `_BASE_LO` of ring p of target t (R548). -/
  | ringBaseWrite (fn : BitVec 6) (t : BitVec 3) (p : BitVec 4) (v : Word)
  /-- CONS_WRITE: function fn writes v to `_CONS` of ring p of target t (R548). -/
  | consWrite (fn : BitVec 6) (t : BitVec 3) (p : BitVec 4) (v : Word)
  /-- SOURCE_CONFIG_WRITE: function fn writes v to `EVC_SRCn_CFG` (R542). -/
  | sourceConfigWrite (fn : BitVec 6) (n : BitVec 9) (v : Word)
  /-- TARGET_BIND_WRITE: function fn writes v to `EVC_TGTBIND0`, or with hi to `EVC_TGTBIND1` (R547). -/
  | targetBindWrite (fn : BitVec 6) (hi : Bool) (v : Word)
  /-- DCI_FILTER_CHANGE: the level at the pin of channel A, or B, of pair n changes; late: after the clock of the present event tick (R54, R567). -/
  | dciFilterChange (n : BitVec 4) (chanB level late : Bool)
  /-- FAULTN: dual-channel pair n enters fault at the coming boundary (R572). -/
  | faultn (n : BitVec 4)
  /-- REARM: dual-channel pair n leaves its fault at the coming boundary (R573). -/
  | rearm (n : BitVec 4)
  /-- GPIO_LEVEL_CHANGE: the level at a GPIO pin changes from outside (R578). -/
  | gpioLevelChange (pin : BitVec 6) (level : Bool)
  /-- PWR_OK_RISE: `PWR_OK` rises (R92). -/
  | pwrOkRise
  /-- MSIX_VECTOR_UNMASK: the host writes MSI-X entry t of function fn, and so unmasks it or masks it again (R512, R556). -/
  | msixVectorUnmask (fn : BitVec 6) (t : BitVec 3) (w : MsixWrite)
  /-- AGING_SWEEP_END: the aging sweep ends (R217). -/
  | agingSweepEnd
  /-- APERTURE_WRITE_SERVED: the oldest queued host write is granted; corr, unc: the findings of its read transfer (R500). -/
  | apertureWriteServed (corr unc : BitVec 4)
  /-- UNCORRECTABLE_CODEWORD: an uncorrectable codeword on Ethernet port 0 to 15, or Edarlink port − 16 (R391). -/
  | uncorrectableCodeword (port : BitVec 5)
  deriving DecidableEq, Repr

end Sys2Proof
end

