-- ==== Sys2Proof/Decode.lean ====
section
/-! DEFINITION. The decoder of command words. The table of operations and events gives no row any bits: the block takes
commands, not words, so no word spells a command. -/

namespace Sys2Proof

/-- The command a word spells by the bits of the table: none, since no row of the table has bits. [Log 3: DESIGN CHOICE] -/
def decodeTableWord (_nbits _w : Nat) : Option Instr := none

end Sys2Proof
end

