-- ==== Sys2Proof/Machine/Bits.lean ====
section
/-! DEFINITION. Bit fields, sign extension, byte order, modular comparison, CRC-32C and the exact arithmetic the unit
files share. -/

namespace Sys2Proof.Machine

/-- Bits [hi:lo] of a natural number (R10, R11). -/
def bits (n hi lo : Nat) : Nat := n / 2 ^ lo % 2 ^ (hi + 1 - lo)

/-- Field [hi:lo] of a word (R11). -/
def fld (w : Word) (hi lo : Nat) : Nat := bits w.toNat hi lo

/-- Bit i of a word (R11). -/
def bit (w : Word) (i : Nat) : Bool := w.toNat.testBit i

/-- A word with field [hi:lo] replaced by the low bits of v (R11). -/
def setFld (w : Word) (hi lo v : Nat) : Word :=
  let m := 2 ^ (hi + 1 - lo)
  BitVec.ofNat 32 (w.toNat - bits w.toNat hi lo * 2 ^ lo + v % m * 2 ^ lo)

/-- One bit as a number. -/
def b2n (b : Bool) : Nat := if b then 1 else 0

/-- The signed value of an n-bit two's complement number. -/
def sext (n v : Nat) : Int := if v % 2 ^ n < 2 ^ (n - 1) then (v % 2 ^ n : Nat) else (v % 2 ^ n : Nat) - (2 ^ n : Nat)

/-- The n-bit two's complement pattern of an integer, wrapping. -/
def wrapBits (n : Nat) (i : Int) : Nat := (i % (2 ^ n : Nat)).toNat

/-- An integer held within two bounds. -/
def clampInt (lo hi i : Int) : Int := if i < lo then lo else if hi < i then hi else i

/-- Division of naturals rounding up. -/
def ceilDiv (a b : Nat) : Nat := (a + b - 1) / b

/-- Rounding of a rational num/den (den > 0) to the nearest integer, ties to even. -/
def roundEven (num : Int) (den : Nat) : Int :=
  let q := num / (den : Int)
  let r := num % (den : Int)
  if 2 * r < den then q else if (den : Int) < 2 * r then q + 1 else if q % 2 = 0 then q else q + 1

/-- Target t lies in the past of `now` when compared in k bits (R41). -/
def inPast (k t now : Nat) : Bool := decide (2 ^ (k - 1) ≤ (t % 2 ^ k + 2 ^ k - now % 2 ^ k) % 2 ^ k)

/-- The distance t − now modulo 2^k (R41). -/
def modDist (k t now : Nat) : Nat := (t % 2 ^ k + 2 ^ k - now % 2 ^ k) % 2 ^ k

/-- The number of ones among the low n bits. -/
def popCount : Nat → Nat → Nat
  | 0, _ => 0
  | n + 1, v => (if v % 2 = 1 then 1 else 0) + popCount n (v / 2)

/-- The index of the lowest one among the low n bits, counted from `from`. -/
def lowestBit : Nat → Nat → Nat → Option Nat
  | 0, _, _ => none
  | n + 1, i, v => if v % 2 = 1 then some i else lowestBit n (i + 1) (v / 2)

/-- The index of the highest one among the low n bits. -/
def highestBit : Nat → Nat → Option Nat
  | 0, _ => none
  | n + 1, v => if v.testBit n then some n else highestBit n v

/-- One step of the reflected CRC of R76 for one bit. -/
def crcBit (poly c : Nat) : Nat := if c % 2 = 1 then (c / 2) ^^^ poly else c / 2

/-- The reflected CRC register after one byte. -/
def crcByte (poly c b : Nat) : Nat :=
  let x := c ^^^ b
  crcBit poly (crcBit poly (crcBit poly (crcBit poly (crcBit poly (crcBit poly (crcBit poly (crcBit poly x)))))))

/-- CRC-32C of a byte string: polynomial 0x1EDC_6F41 reflected (0x82F6_3B78), initial value and final exclusive-or
0xFFFF_FFFF (R76). -/
def crc32c (bs : List Byte) : Nat :=
  (bs.foldl (fun c b => crcByte 0x82F63B78 c b.toNat) 0xFFFFFFFF) ^^^ 0xFFFFFFFF

/-- CRC-32 of Ethernet (IEEE 802.3, the standard R230 takes the frame check sequence from). -/
def crc32 (bs : List Byte) : Nat :=
  (bs.foldl (fun c b => crcByte 0xEDB88320 c b.toNat) 0xFFFFFFFF) ^^^ 0xFFFFFFFF

/-- A byte list read as a little-endian number (R12). -/
def leNat : List Byte → Nat
  | [] => 0
  | b :: bs => b.toNat + 256 * leNat bs

/-- A byte list read as a big-endian (network order) number (R12). -/
def beNat (bs : List Byte) : Nat := bs.foldl (fun a b => 256 * a + b.toNat) 0

/-- The n low bytes of a number, little-endian (R12). -/
def leBytes : Nat → Nat → List Byte
  | 0, _ => []
  | n + 1, v => BitVec.ofNat 8 v :: leBytes n (v / 256)

/-- The n low bytes of a number, big-endian (R12). -/
def beBytes (n v : Nat) : List Byte := (leBytes n v).reverse

/-- `len` bytes of a string from offset `off`. -/
def slice {α : Type} (bs : List α) (off len : Nat) : List α := (bs.drop off).take len

end Sys2Proof.Machine
end

