-- ==== Sys2Proof/Machine/RegMap.lean ====
section
/-! DEFINITION. The register index of chapter 21 (R562 to R564): the BAR0 offset of every register, and one row per
register with the bits of each access type of R13, taken from the field tables of the chapters. -/

namespace Sys2Proof.Machine

/-- One row of the register index: where the register (or the family of indexed registers) lies, and which of its bits
carry each access type of R13; `mould` marks the bits whose Reset column reads "mould" (R16). -/
structure RegRow where
  base : Nat
  n1 : Nat
  s1 : Nat
  n2 : Nat
  s2 : Nat
  ro : Nat
  rw : Nat
  wo : Nat
  sc : Nat
  lk : Nat
  pv : Nat
  mould : Nat
  reset : Nat
  deriving DecidableEq, Repr

/-- Whether the row holds the register at a BAR0 offset (R563: indexed registers exist only for the index values
shown). -/
def RegRow.hit (r : RegRow) (off : Nat) : Bool :=
  decide (r.base ≤ off) &&
    (let d := off - r.base
     decide (d / r.s1 < r.n1) && decide (d % r.s1 / r.s2 < r.n2) && decide (d % r.s1 % r.s2 = 0))

/-- The first index of the register at an offset the row holds. -/
def RegRow.idx1 (r : RegRow) (off : Nat) : Nat := (off - r.base) / r.s1

/-- The second index of the register at an offset the row holds. -/
def RegRow.idx2 (r : RegRow) (off : Nat) : Nat := (off - r.base) % r.s1 / r.s2

namespace R
/-- Offset of `GLB_CFG` (R563). -/
def GLB_CFG : Nat := 0x0
/-- Offset of `GLB_ID` (R563). -/
def GLB_ID : Nat := 0x4
/-- Offset of `GLB_LOCK` (R563). -/
def GLB_LOCK : Nat := 0x8
/-- Offset of `GLB_LOCK_SET` (R563). -/
def GLB_LOCK_SET : Nat := 0xc
/-- Offset of `GLB_OUTEN` (R563). -/
def GLB_OUTEN : Nat := 0x10
/-- Offset of `GLB_MUTE` (R563). -/
def GLB_MUTE : Nat := 0x14
/-- Offset of `GLB_VOTE_STAT` (R563). -/
def GLB_VOTE_STAT : Nat := 0x18
/-- Offset of `GLB_VOTE_LAST` (R563). -/
def GLB_VOTE_LAST : Nat := 0x1c
/-- Offset of `GLB_TPART_SEL` (R563). -/
def GLB_TPART_SEL : Nat := 0x20
/-- Offset of `GLB_TPART` (R563). -/
def GLB_TPART : Nat := 0x24
/-- Offset of `GLB_WIDE_REQ` (R563). -/
def GLB_WIDE_REQ : Nat := 0x40
/-- Offset of `GLB_WIDE_DATAm` (R563). -/
def GLB_WIDE_DATAm (m : Nat) : Nat := 0x44 + 4 * m
/-- Offset of `MLD_CTL` (R563). -/
def MLD_CTL : Nat := 0x800
/-- Offset of `MLD_SRC_LO` (R563). -/
def MLD_SRC_LO : Nat := 0x804
/-- Offset of `MLD_SRC_HI` (R563). -/
def MLD_SRC_HI : Nat := 0x808
/-- Offset of `MLD_LEN` (R563). -/
def MLD_LEN : Nat := 0x80c
/-- Offset of `MLD_STATE` (R563). -/
def MLD_STATE : Nat := 0x810
/-- Offset of `MLD_STAT` (R563). -/
def MLD_STAT : Nat := 0x814
/-- Offset of `MLD_REFUSE` (R563). -/
def MLD_REFUSE : Nat := 0x818
/-- Offset of `MLD_ITEM` (R563). -/
def MLD_ITEM : Nat := 0x81c
/-- Offset of `MLD_NEED` (R563). -/
def MLD_NEED : Nat := 0x820
/-- Offset of `MLD_HAVE` (R563). -/
def MLD_HAVE : Nat := 0x824
/-- Offset of `MLD_DIGEST` (R563). -/
def MLD_DIGEST : Nat := 0x828
/-- Offset of `MLD_PCLASS` (R563). -/
def MLD_PCLASS : Nat := 0x82c
/-- Offset of `MLD_RTREF` (R563). -/
def MLD_RTREF : Nat := 0x830
/-- Offset of `MLD_RTNEED` (R563). -/
def MLD_RTNEED : Nat := 0x834
/-- Offset of `MLD_RTHAVE` (R563). -/
def MLD_RTHAVE : Nat := 0x838
/-- Offset of `DKL_CFG` (R563). -/
def DKL_CFG : Nat := 0xc00
/-- Offset of `DKL_U` (R563). -/
def DKL_U : Nat := 0xc04
/-- Offset of `DKL_NUM_LO` (R563). -/
def DKL_NUM_LO : Nat := 0xc08
/-- Offset of `DKL_NUM_HI` (R563). -/
def DKL_NUM_HI : Nat := 0xc0c
/-- Offset of `DKL_START_LO` (R563). -/
def DKL_START_LO : Nat := 0xc10
/-- Offset of `DKL_START_HI` (R563). -/
def DKL_START_HI : Nat := 0xc14
/-- Offset of `DKL_ALIGN` (R563). -/
def DKL_ALIGN : Nat := 0xc18
/-- Offset of `DKL_TICK` (R563). -/
def DKL_TICK : Nat := 0xc1c
/-- Offset of `DKL_LAST` (R563). -/
def DKL_LAST : Nat := 0xc20
/-- Offset of `DKL_STAT` (R563). -/
def DKL_STAT : Nat := 0xc24
/-- Offset of `EVC_STAT` (R563). -/
def EVC_STAT : Nat := 0x10000
/-- Offset of `EVC_LAST` (R563). -/
def EVC_LAST : Nat := 0x10004
/-- Offset of `EVC_TGTBIND0` (R563). -/
def EVC_TGTBIND0 : Nat := 0x10010
/-- Offset of `EVC_TGTBIND1` (R563). -/
def EVC_TGTBIND1 : Nat := 0x10014
/-- Offset of `EVC_PENDw` (R563). -/
def EVC_PENDw (w : Nat) : Nat := 0x10100 + 4 * w
/-- Offset of `EVC_PCLRw` (R563). -/
def EVC_PCLRw (w : Nat) : Nat := 0x10140 + 4 * w
/-- Offset of `EVC_SETPw` (R563). -/
def EVC_SETPw (w : Nat) : Nat := 0x10180 + 4 * w
/-- Offset of `EVC_MASKw` (R563). -/
def EVC_MASKw (w : Nat) : Nat := 0x101c0 + 4 * w
/-- Offset of `EVC_ACTw` (R563). -/
def EVC_ACTw (w : Nat) : Nat := 0x10200 + 4 * w
/-- Offset of `EVC_INw` (R563). -/
def EVC_INw (w : Nat) : Nat := 0x10240 + 4 * w
/-- Offset of `EVC_SRCn_CFG` (R563). -/
def EVC_SRCn_CFG (n : Nat) : Nat := 0x11000 + 4 * n
/-- Offset of `EVC_TGTt_ACK` (R563). -/
def EVC_TGTt_ACK (t : Nat) : Nat := 0x18000 + 512 * t
/-- Offset of `EVC_TGTt_EOI` (R563). -/
def EVC_TGTt_EOI (t : Nat) : Nat := 0x18004 + 512 * t
/-- Offset of `EVC_TGTt_RUN` (R563). -/
def EVC_TGTt_RUN (t : Nat) : Nat := 0x18008 + 512 * t
/-- Offset of `EVC_TGTt_DB` (R563). -/
def EVC_TGTt_DB (t : Nat) : Nat := 0x1800c + 512 * t
/-- Offset of `EVC_TGTt_RINGS` (R563). -/
def EVC_TGTt_RINGS (t : Nat) : Nat := 0x18010 + 512 * t
/-- Offset of `EVC_TGTt_RINGp_BASE_LO` (R563). -/
def EVC_TGTt_RINGp_BASE_LO (t p : Nat) : Nat := 0x18100 + 512 * t + 16 * p
/-- Offset of `EVC_TGTt_RINGp_BASE_HI` (R563). -/
def EVC_TGTt_RINGp_BASE_HI (t p : Nat) : Nat := 0x18104 + 512 * t + 16 * p
/-- Offset of `EVC_TGTt_RINGp_PROD` (R563). -/
def EVC_TGTt_RINGp_PROD (t p : Nat) : Nat := 0x18108 + 512 * t + 16 * p
/-- Offset of `EVC_TGTt_RINGp_CONS` (R563). -/
def EVC_TGTt_RINGp_CONS (t p : Nat) : Nat := 0x1810c + 512 * t + 16 * p
/-- Offset of `HOST_LINK` (R563). -/
def HOST_LINK : Nat := 0x20000
/-- Offset of `HOST_STAT` (R563). -/
def HOST_STAT : Nat := 0x20004
/-- Offset of `HOST_B2_DST` (R563). -/
def HOST_B2_DST : Nat := 0x20008
/-- Offset of `IND_SEL` (R563). -/
def IND_SEL : Nat := 0x20100
/-- Offset of `IND_ADDR` (R563). -/
def IND_ADDR : Nat := 0x20104
/-- Offset of `IND_DATA` (R563). -/
def IND_DATA : Nat := 0x20108
/-- Offset of `IND_CTL` (R563). -/
def IND_CTL : Nat := 0x2010c
/-- Offset of `HOST_DMAc_CFG` (R563). -/
def HOST_DMAc_CFG (c : Nat) : Nat := 0x21000 + 64 * c
/-- Offset of `HOST_DMAc_BASE_LO` (R563). -/
def HOST_DMAc_BASE_LO (c : Nat) : Nat := 0x21004 + 64 * c
/-- Offset of `HOST_DMAc_BASE_HI` (R563). -/
def HOST_DMAc_BASE_HI (c : Nat) : Nat := 0x21008 + 64 * c
/-- Offset of `HOST_DMAc_SIZE` (R563). -/
def HOST_DMAc_SIZE (c : Nat) : Nat := 0x2100c + 64 * c
/-- Offset of `HOST_DMAc_HEAD` (R563). -/
def HOST_DMAc_HEAD (c : Nat) : Nat := 0x21010 + 64 * c
/-- Offset of `HOST_DMAc_TAIL` (R563). -/
def HOST_DMAc_TAIL (c : Nat) : Nat := 0x21014 + 64 * c
/-- Offset of `SRCH_QWIDTHn` (R563). -/
def SRCH_QWIDTHn (n : Nat) : Nat := 0x30000 + 4 * n
/-- Offset of `SRCH_CLASSc_CREDIT` (R563). -/
def SRCH_CLASSc_CREDIT (c : Nat) : Nat := 0x30010 + 4 * c
/-- Offset of `SRCH_CMP_BUDGET` (R563). -/
def SRCH_CMP_BUDGET : Nat := 0x30030
/-- Offset of `SRCH_CMP_MAX` (R563). -/
def SRCH_CMP_MAX : Nat := 0x30034
/-- Offset of `SRCH_CMP_LAID` (R563). -/
def SRCH_CMP_LAID : Nat := 0x30038
/-- Offset of `SRCH_STAT` (R563). -/
def SRCH_STAT : Nat := 0x30040
/-- Offset of `SRCH_DIAG_CTL` (R563). -/
def SRCH_DIAG_CTL : Nat := 0x30080
/-- Offset of `SRCH_DIAG_STAT` (R563). -/
def SRCH_DIAG_STAT : Nat := 0x30084
/-- Offset of `SRCH_DIAG_KEYm` (R563). -/
def SRCH_DIAG_KEYm (m : Nat) : Nat := 0x30090 + 4 * m
/-- Offset of `SRCH_DIAG_RESm` (R563). -/
def SRCH_DIAG_RESm (m : Nat) : Nat := 0x300c0 + 4 * m
/-- Offset of `SRCH_PROFn_CTL` (R563). -/
def SRCH_PROFn_CTL (n : Nat) : Nat := 0x31000 + 128 * n
/-- Offset of `SRCH_PROFn_QSEL_LO` (R563). -/
def SRCH_PROFn_QSEL_LO (n : Nat) : Nat := 0x31004 + 128 * n
/-- Offset of `SRCH_PROFn_QSEL_HI` (R563). -/
def SRCH_PROFn_QSEL_HI (n : Nat) : Nat := 0x31008 + 128 * n
/-- Offset of `SRCH_PROFn_TAG` (R563). -/
def SRCH_PROFn_TAG (n : Nat) : Nat := 0x3100c + 128 * n
/-- Offset of `SRCH_PROFn_FXm` (R563). -/
def SRCH_PROFn_FXm (n m : Nat) : Nat := 0x31010 + 128 * n + 4 * m
/-- Offset of `SRCH_REGn_A` (R563). -/
def SRCH_REGn_A (n : Nat) : Nat := 0x34000 + 8 * n
/-- Offset of `SRCH_REGn_B` (R563). -/
def SRCH_REGn_B (n : Nat) : Nat := 0x34004 + 8 * n
/-- Offset of `WMK_STAT` (R563). -/
def WMK_STAT : Nat := 0x36000
/-- Offset of `WMK_FAIL` (R563). -/
def WMK_FAIL : Nat := 0x36004
/-- Offset of `WMK_DBAD` (R563). -/
def WMK_DBAD : Nat := 0x36008
/-- Offset of `WMK_SCRUB` (R563). -/
def WMK_SCRUB : Nat := 0x3600c
/-- Offset of `WMK_SCRUB_POS` (R563). -/
def WMK_SCRUB_POS : Nat := 0x36010
/-- Offset of `WMK_INJ` (R563). -/
def WMK_INJ : Nat := 0x36014
/-- Offset of `UPD_CTL` (R563). -/
def UPD_CTL : Nat := 0x37000
/-- Offset of `UPD_FLUSH` (R563). -/
def UPD_FLUSH : Nat := 0x37004
/-- Offset of `UPD_STAT` (R563). -/
def UPD_STAT : Nat := 0x37008
/-- Offset of `UPD_FREE` (R563). -/
def UPD_FREE : Nat := 0x3700c
/-- Offset of `UPD_DONE` (R563). -/
def UPD_DONE : Nat := 0x37010
/-- Offset of `UPD_LIVE` (R563). -/
def UPD_LIVE : Nat := 0x37014
/-- Offset of `UPD_REJ` (R563). -/
def UPD_REJ : Nat := 0x37018
/-- Offset of `UPD_ARB` (R563). -/
def UPD_ARB : Nat := 0x3701c
/-- Offset of `UPD_CMD` (R563). -/
def UPD_CMD (w : Nat) : Nat := 0x38000 + 4 * w
/-- Offset of `FWD_PROF` (R563). -/
def FWD_PROF : Nat := 0x40000
/-- Offset of `FWD_PROF2` (R563). -/
def FWD_PROF2 : Nat := 0x40004
/-- Offset of `FWD_OVF_TAG` (R563). -/
def FWD_OVF_TAG : Nat := 0x40008
/-- Offset of `FWD_HASH_SEEDn` (R563). -/
def FWD_HASH_SEEDn (n : Nat) : Nat := 0x40010 + 4 * n
/-- Offset of `FWD_AGE_CFG` (R563). -/
def FWD_AGE_CFG : Nat := 0x40020
/-- Offset of `FWD_AGE_LIMIT` (R563). -/
def FWD_AGE_LIMIT : Nat := 0x40024
/-- Offset of `FWD_AGE_NOW` (R563). -/
def FWD_AGE_NOW : Nat := 0x40028
/-- Offset of `FWD_AGE_STAT` (R563). -/
def FWD_AGE_STAT : Nat := 0x4002c
/-- Offset of `FWD_STAT` (R563). -/
def FWD_STAT : Nat := 0x40030
/-- Offset of `FWD_LEARN_CTL` (R563). -/
def FWD_LEARN_CTL : Nat := 0x40034
/-- Offset of `FWD_PERR` (R563). -/
def FWD_PERR : Nat := 0x40038
/-- Offset of `FWD_FAIL0` (R563). -/
def FWD_FAIL0 : Nat := 0x40040
/-- Offset of `FWD_FAIL1` (R563). -/
def FWD_FAIL1 : Nat := 0x40044
/-- Offset of `FWD_FAIL2` (R563). -/
def FWD_FAIL2 : Nat := 0x40048
/-- Offset of `FWD_FLUSH_SEL` (R563). -/
def FWD_FLUSH_SEL : Nat := 0x40050
/-- Offset of `FWD_FLUSH_CTL` (R563). -/
def FWD_FLUSH_CTL : Nat := 0x40054
/-- Offset of `FWD_LIMIT_STAT` (R563). -/
def FWD_LIMIT_STAT : Nat := 0x40060
/-- Offset of `FWD_DROP_STAT` (R563). -/
def FWD_DROP_STAT : Nat := 0x40064
/-- Offset of `FWD_STA_KEY0` (R563). -/
def FWD_STA_KEY0 : Nat := 0x40080
/-- Offset of `FWD_STA_KEY1` (R563). -/
def FWD_STA_KEY1 : Nat := 0x40084
/-- Offset of `FWD_STA_KEY2` (R563). -/
def FWD_STA_KEY2 : Nat := 0x40088
/-- Offset of `FWD_STA_DATA` (R563). -/
def FWD_STA_DATA : Nat := 0x4008c
/-- Offset of `FWD_STA_LOC` (R563). -/
def FWD_STA_LOC : Nat := 0x40090
/-- Offset of `FWD_STA_DEST` (R563). -/
def FWD_STA_DEST : Nat := 0x40094
/-- Offset of `FWD_STA_CMD` (R563). -/
def FWD_STA_CMD : Nat := 0x40098
/-- Offset of `FWD_STA_HASHn` (R563). -/
def FWD_STA_HASHn (n : Nat) : Nat := 0x400a0 + 4 * n
/-- Offset of `FWD_TBL_CTL` (R563). -/
def FWD_TBL_CTL : Nat := 0x400c0
/-- Offset of `FWD_TBL_LO` (R563). -/
def FWD_TBL_LO : Nat := 0x400c4
/-- Offset of `FWD_TBL_HI` (R563). -/
def FWD_TBL_HI : Nat := 0x400c8
/-- Offset of `FWD_PORTp_CFG` (R563). -/
def FWD_PORTp_CFG (p : Nat) : Nat := 0x40100 + 4 * p
/-- Offset of `FWD_PORTp_LEARN` (R563). -/
def FWD_PORTp_LEARN (p : Nat) : Nat := 0x40180 + 4 * p
/-- Offset of `FWD_PORTp_COUNT` (R563). -/
def FWD_PORTp_COUNT (p : Nat) : Nat := 0x40200 + 4 * p
/-- Offset of `ETH_GRPg_CFG` (R563). -/
def ETH_GRPg_CFG (g : Nat) : Nat := 0x50000 + 4 * g
/-- Offset of `ETH_PORTp_CFG` (R563). -/
def ETH_PORTp_CFG (p : Nat) : Nat := 0x50100 + 16 * p
/-- Offset of `ETH_PORTp_LINK` (R563). -/
def ETH_PORTp_LINK (p : Nat) : Nat := 0x50104 + 16 * p
/-- Offset of `ETH_PORTp_STAT` (R563). -/
def ETH_PORTp_STAT (p : Nat) : Nat := 0x50108 + 16 * p
/-- Offset of `ETH_PORTp_DROP` (R563). -/
def ETH_PORTp_DROP (p : Nat) : Nat := 0x50200 + 4 * p
/-- Offset of `ETH_QLIMq` (R563). -/
def ETH_QLIMq (q : Nat) : Nat := 0x50300 + 4 * q
/-- Offset of `STRM_PROF` (R563). -/
def STRM_PROF : Nat := 0x58000
/-- Offset of `STRM_PLANE` (R563). -/
def STRM_PLANE : Nat := 0x58004
/-- Offset of `STRM_MC_OFS` (R563). -/
def STRM_MC_OFS : Nat := 0x58008
/-- Offset of `STRM_MCLK` (R563). -/
def STRM_MCLK : Nat := 0x5800c
/-- Offset of `STRM_ASRC` (R563). -/
def STRM_ASRC : Nat := 0x58010
/-- Offset of `STRM_RXSTAT` (R563). -/
def STRM_RXSTAT : Nat := 0x58020
/-- Offset of `STRM_RXLAST` (R563). -/
def STRM_RXLAST : Nat := 0x58024
/-- Offset of `STRM_DESC_CTL` (R563). -/
def STRM_DESC_CTL : Nat := 0x58040
/-- Offset of `STRM_DESC_Dm` (R563). -/
def STRM_DESC_Dm (m : Nat) : Nat := 0x58080 + 4 * m
/-- Offset of `MIX_TIERk_L` (R563). -/
def MIX_TIERk_L (k : Nat) : Nat := 0x60000 + 4 * k
/-- Offset of `MIX_TIERk_M` (R563). -/
def MIX_TIERk_M (k : Nat) : Nat := 0x60010 + 4 * k
/-- Offset of `MIX_INMAP0` (R563). -/
def MIX_INMAP0 : Nat := 0x60020
/-- Offset of `MIX_INMAP1` (R563). -/
def MIX_INMAP1 : Nat := 0x60024
/-- Offset of `MIX_CLSc_WIN` (R563). -/
def MIX_CLSc_WIN (c : Nat) : Nat := 0x60040 + 4 * c
/-- Offset of `MIX_RAMPn` (R563). -/
def MIX_RAMPn (n : Nat) : Nat := 0x60080 + 4 * n
/-- Offset of `MIX_STAT` (R563). -/
def MIX_STAT : Nat := 0x60100
/-- Offset of `MIX_PERR` (R563). -/
def MIX_PERR : Nat := 0x60104
/-- Offset of `MIX_CHK_CTL` (R563). -/
def MIX_CHK_CTL : Nat := 0x60110
/-- Offset of `MIX_CHK_FIRST` (R563). -/
def MIX_CHK_FIRST : Nat := 0x60114
/-- Offset of `MIX_CHK_TIERk` (R563). -/
def MIX_CHK_TIERk (k : Nat) : Nat := 0x60120 + 4 * k
/-- Offset of `MIX_LIVE_CMD` (R563). -/
def MIX_LIVE_CMD : Nat := 0x60200
/-- Offset of `MIX_LIVE_FLUSH` (R563). -/
def MIX_LIVE_FLUSH : Nat := 0x60204
/-- Offset of `MIX_LIVE_SEL` (R563). -/
def MIX_LIVE_SEL : Nat := 0x60208
/-- Offset of `MIX_LIVE_VAL` (R563). -/
def MIX_LIVE_VAL : Nat := 0x6020c
/-- Offset of `MIX_LIVE_TGT` (R563). -/
def MIX_LIVE_TGT : Nat := 0x60210
/-- Offset of `STRP_COST` (R563). -/
def STRP_COST : Nat := 0x70000
/-- Offset of `STRP_MAX` (R563). -/
def STRP_MAX : Nat := 0x70004
/-- Offset of `STRP_METER_CFG` (R563). -/
def STRP_METER_CFG : Nat := 0x70008
/-- Offset of `STRP_STAT` (R563). -/
def STRP_STAT : Nat := 0x70010
/-- Offset of `STRP_LAST` (R563). -/
def STRP_LAST : Nat := 0x70014
/-- Offset of `STRP_PERR` (R563). -/
def STRP_PERR : Nat := 0x70018
/-- Offset of `DLY_POOL` (R563). -/
def DLY_POOL : Nat := 0x70100
/-- Offset of `DLY_FREE` (R563). -/
def DLY_FREE : Nat := 0x70104
/-- Offset of `DLY_LONG` (R563). -/
def DLY_LONG : Nat := 0x70108
/-- Offset of `DLY_DAU` (R563). -/
def DLY_DAU : Nat := 0x7010c
/-- Offset of `SCN_CFG` (R563). -/
def SCN_CFG : Nat := 0x80000
/-- Offset of `SCN_PLANE` (R563). -/
def SCN_PLANE : Nat := 0x80004
/-- Offset of `SCN_EPOCH` (R563). -/
def SCN_EPOCH : Nat := 0x80008
/-- Offset of `SCN_COMMIT` (R563). -/
def SCN_COMMIT : Nat := 0x80010
/-- Offset of `SCN_COMMIT_CTL` (R563). -/
def SCN_COMMIT_CTL : Nat := 0x80014
/-- Offset of `SCN_PEND_T` (R563). -/
def SCN_PEND_T : Nat := 0x80018
/-- Offset of `SCN_PEND` (R563). -/
def SCN_PEND : Nat := 0x8001c
/-- Offset of `SCN_STAT` (R563). -/
def SCN_STAT : Nat := 0x80020
/-- Offset of `SCN_LATE` (R563). -/
def SCN_LATE : Nat := 0x80024
/-- Offset of `SCN_LATE_T` (R563). -/
def SCN_LATE_T : Nat := 0x80028
/-- Offset of `SCN_DONE_T` (R563). -/
def SCN_DONE_T : Nat := 0x8002c
/-- Offset of `SCN_EMIX` (R563). -/
def SCN_EMIX : Nat := 0x80030
/-- Offset of `PTR_CFG` (R563). -/
def PTR_CFG : Nat := 0x90000
/-- Offset of `PTR_ACTIVE` (R563). -/
def PTR_ACTIVE : Nat := 0x90004
/-- Offset of `PTR_TWIN` (R563). -/
def PTR_TWIN : Nat := 0x90008
/-- Offset of `PTR_GSEL0` (R563). -/
def PTR_GSEL0 : Nat := 0x9000c
/-- Offset of `PTR_GSEL1` (R563). -/
def PTR_GSEL1 : Nat := 0x90010
/-- Offset of `PTR_STAT` (R563). -/
def PTR_STAT : Nat := 0x90020
/-- Offset of `PTR_LAST` (R563). -/
def PTR_LAST : Nat := 0x90024
/-- Offset of `PTR_EVT` (R563). -/
def PTR_EVT : Nat := 0x90028
/-- Offset of `PTR_EVT_RULE` (R563). -/
def PTR_EVT_RULE : Nat := 0x9002c
/-- Offset of `PTR_PERR` (R563). -/
def PTR_PERR : Nat := 0x90030
/-- Offset of `PTR_CHG_SUMk` (R563). -/
def PTR_CHG_SUMk (k : Nat) : Nat := 0x90040 + 4 * k
/-- Offset of `PTR_ZSEL` (R563). -/
def PTR_ZSEL : Nat := 0x90060
/-- Offset of `PTR_ZSTAT0` (R563). -/
def PTR_ZSTAT0 : Nat := 0x90064
/-- Offset of `PTR_ZSTAT1` (R563). -/
def PTR_ZSTAT1 : Nat := 0x90068
/-- Offset of `PTR_GRANTn` (R563). -/
def PTR_GRANTn (n : Nat) : Nat := 0x91000 + 4 * n
/-- Offset of `PTR_CHGw` (R563). -/
def PTR_CHGw (w : Nat) : Nat := 0x92000 + 4 * w
/-- Offset of `SEQ_CFG` (R563). -/
def SEQ_CFG : Nat := 0xa0000
/-- Offset of `SEQ_STAT` (R563). -/
def SEQ_STAT : Nat := 0xa0004
/-- Offset of `SEQ_LAST` (R563). -/
def SEQ_LAST : Nat := 0xa0008
/-- Offset of `SEQ_GRPg_CNT` (R563). -/
def SEQ_GRPg_CNT (g : Nat) : Nat := 0xa0020 + 4 * g
/-- Offset of `SEQn_CTL` (R563). -/
def SEQn_CTL (n : Nat) : Nat := 0xa1000 + 128 * n
/-- Offset of `SEQn_STATE` (R563). -/
def SEQn_STATE (n : Nat) : Nat := 0xa1004 + 128 * n
/-- Offset of `SEQn_BASE` (R563). -/
def SEQn_BASE (n : Nat) : Nat := 0xa1008 + 128 * n
/-- Offset of `SEQn_LEN` (R563). -/
def SEQn_LEN (n : Nat) : Nat := 0xa100c + 128 * n
/-- Offset of `SEQn_COND` (R563). -/
def SEQn_COND (n : Nat) : Nat := 0xa1010 + 128 * n
/-- Offset of `SEQn_FLAGS` (R563). -/
def SEQn_FLAGS (n : Nat) : Nat := 0xa1014 + 128 * n
/-- Offset of `SEQn_KICK` (R563). -/
def SEQn_KICK (n : Nat) : Nat := 0xa1018 + 128 * n
/-- Offset of `SEQn_ZSIG` (R563). -/
def SEQn_ZSIG (n : Nat) : Nat := 0xa101c + 128 * n
/-- Offset of `SEQn_CFG` (R563). -/
def SEQn_CFG (n : Nat) : Nat := 0xa1020 + 128 * n
/-- Offset of `SEQn_WAIT` (R563). -/
def SEQn_WAIT (n : Nat) : Nat := 0xa1024 + 128 * n
/-- Offset of `SEQn_Vk` (R563). -/
def SEQn_Vk (n k : Nat) : Nat := 0xa1040 + 128 * n + 4 * k
/-- Offset of `EDL_CFG` (R563). -/
def EDL_CFG : Nat := 0xb0000
/-- Offset of `EDL_SYSTEM` (R563). -/
def EDL_SYSTEM : Nat := 0xb0004
/-- Offset of `EDL_ROOT` (R563). -/
def EDL_ROOT : Nat := 0xb0008
/-- Offset of `EDL_TIME` (R563). -/
def EDL_TIME : Nat := 0xb000c
/-- Offset of `EDL_OFFSET` (R563). -/
def EDL_OFFSET : Nat := 0xb0010
/-- Offset of `EDL_TOPO` (R563). -/
def EDL_TOPO : Nat := 0xb0020
/-- Offset of `EDL_PEPOCH` (R563). -/
def EDL_PEPOCH : Nat := 0xb0024
/-- Offset of `EDL_PORTn_CTL` (R563). -/
def EDL_PORTn_CTL (n : Nat) : Nat := 0xb0100 + 64 * n
/-- Offset of `EDL_PORTn_LINK` (R563). -/
def EDL_PORTn_LINK (n : Nat) : Nat := 0xb0104 + 64 * n
/-- Offset of `EDL_PORTn_STAT` (R563). -/
def EDL_PORTn_STAT (n : Nat) : Nat := 0xb0108 + 64 * n
/-- Offset of `EDL_PORTn_LOSS` (R563). -/
def EDL_PORTn_LOSS (n : Nat) : Nat := 0xb010c + 64 * n
/-- Offset of `EDL_PORTn_PART` (R563). -/
def EDL_PORTn_PART (n : Nat) : Nat := 0xb0110 + 64 * n
/-- Offset of `EDL_PORTn_CAP` (R563). -/
def EDL_PORTn_CAP (n : Nat) : Nat := 0xb0114 + 64 * n
/-- Offset of `EDL_PORTn_MINCAP` (R563). -/
def EDL_PORTn_MINCAP (n : Nat) : Nat := 0xb0118 + 64 * n
/-- Offset of `EDL_PORTn_ASYM` (R563). -/
def EDL_PORTn_ASYM (n : Nat) : Nat := 0xb011c + 64 * n
/-- Offset of `EDL_PORTn_DELAY` (R563). -/
def EDL_PORTn_DELAY (n : Nat) : Nat := 0xb0120 + 64 * n
/-- Offset of `EDL_PORTn_MBOX` (R563). -/
def EDL_PORTn_MBOX (n : Nat) : Nat := 0xb0124 + 64 * n
/-- Offset of `EDL_PORTn_TOPO` (R563). -/
def EDL_PORTn_TOPO (n : Nat) : Nat := 0xb0128 + 64 * n
/-- Offset of `EDL_PORTn_HEAL` (R563). -/
def EDL_PORTn_HEAL (n : Nat) : Nat := 0xb012c + 64 * n
/-- Offset of `EDL_FLOW_CTL` (R563). -/
def EDL_FLOW_CTL : Nat := 0xb0400
/-- Offset of `EDL_FLOW_Dm` (R563). -/
def EDL_FLOW_Dm (m : Nat) : Nat := 0xb0410 + 4 * m
/-- Offset of `TRL_CFG` (R563). -/
def TRL_CFG : Nat := 0xb0800
/-- Offset of `TRL_STAT` (R563). -/
def TRL_STAT : Nat := 0xb0804
/-- Offset of `TRL_LAST` (R563). -/
def TRL_LAST : Nat := 0xb0808
/-- Offset of `TRL_MIG_M` (R563). -/
def TRL_MIG_M : Nat := 0xb0810
/-- Offset of `TRL_MIG_DEV` (R563). -/
def TRL_MIG_DEV : Nat := 0xb0814
/-- Offset of `TRL_MIG_CTL` (R563). -/
def TRL_MIG_CTL : Nat := 0xb0818
/-- Offset of `TRL_BUS_CTL` (R563). -/
def TRL_BUS_CTL : Nat := 0xb0820
/-- Offset of `TRL_BUS_Dm` (R563). -/
def TRL_BUS_Dm (m : Nat) : Nat := 0xb0830 + 4 * m
/-- Offset of `PAIR_CFG` (R563). -/
def PAIR_CFG : Nat := 0xc0000
/-- Offset of `PAIR_TIMES` (R563). -/
def PAIR_TIMES : Nat := 0xc0004
/-- Offset of `PAIR_STATE` (R563). -/
def PAIR_STATE : Nat := 0xc0008
/-- Offset of `PAIR_EPOCH` (R563). -/
def PAIR_EPOCH : Nat := 0xc000c
/-- Offset of `PAIR_ACKED` (R563). -/
def PAIR_ACKED : Nat := 0xc0010
/-- Offset of `PAIR_SEEN` (R563). -/
def PAIR_SEEN : Nat := 0xc0014
/-- Offset of `PAIR_DUE` (R563). -/
def PAIR_DUE : Nat := 0xc0018
/-- Offset of `PAIR_CTL` (R563). -/
def PAIR_CTL : Nat := 0xc001c
/-- Offset of `PAIR_STAT` (R563). -/
def PAIR_STAT : Nat := 0xc0020
/-- Offset of `PAIR_DIRn` (R563). -/
def PAIR_DIRn (n : Nat) : Nat := 0xc0100 + 4 * n
/-- Offset of `PAIR_DIRn_EPOCH` (R563). -/
def PAIR_DIRn_EPOCH (n : Nat) : Nat := 0xc0200 + 4 * n
/-- Offset of `TBn_NS` (R563). -/
def TBn_NS (n : Nat) : Nat := 0xd0000 + 64 * n
/-- Offset of `TBn_FRAC` (R563). -/
def TBn_FRAC (n : Nat) : Nat := 0xd0004 + 64 * n
/-- Offset of `TBn_RATE` (R563). -/
def TBn_RATE (n : Nat) : Nat := 0xd0008 + 64 * n
/-- Offset of `TBn_APPLIED` (R563). -/
def TBn_APPLIED (n : Nat) : Nat := 0xd000c + 64 * n
/-- Offset of `TBn_STEP_NS` (R563). -/
def TBn_STEP_NS (n : Nat) : Nat := 0xd0010 + 64 * n
/-- Offset of `TBn_STEP_FRAC` (R563). -/
def TBn_STEP_FRAC (n : Nat) : Nat := 0xd0014 + 64 * n
/-- Offset of `TBn_CTL` (R563). -/
def TBn_CTL (n : Nat) : Nat := 0xd0018 + 64 * n
/-- Offset of `TBn_STAT` (R563). -/
def TBn_STAT (n : Nat) : Nat := 0xd001c + 64 * n
/-- Offset of `TBn_PPER` (R563). -/
def TBn_PPER (n : Nat) : Nat := 0xd0020 + 64 * n
/-- Offset of `TBn_PSTART` (R563). -/
def TBn_PSTART (n : Nat) : Nat := 0xd0024 + 64 * n
/-- Offset of `TBn_PCFG` (R563). -/
def TBn_PCFG (n : Nat) : Nat := 0xd0028 + 64 * n
/-- Offset of `TBn_PNEXT` (R563). -/
def TBn_PNEXT (n : Nat) : Nat := 0xd002c + 64 * n
/-- Offset of `TB_DISC` (R563). -/
def TB_DISC : Nat := 0xd0200
/-- Offset of `TB_HWDOG` (R563). -/
def TB_HWDOG : Nat := 0xd0204
/-- Offset of `TB_HRATE` (R563). -/
def TB_HRATE : Nat := 0xd0208
/-- Offset of `TB_PHASE` (R563). -/
def TB_PHASE : Nat := 0xd020c
/-- Offset of `TB_CTL` (R563). -/
def TB_CTL : Nat := 0xd0210
/-- Offset of `TB_TC` (R563). -/
def TB_TC : Nat := 0xd0214
/-- Offset of `TB_CAPk_CFG` (R563). -/
def TB_CAPk_CFG (k : Nat) : Nat := 0xd0300 + 16 * k
/-- Offset of `TB_CAPk_NS0` (R563). -/
def TB_CAPk_NS0 (k : Nat) : Nat := 0xd0304 + 16 * k
/-- Offset of `TB_CAPk_NSB` (R563). -/
def TB_CAPk_NSB (k : Nat) : Nat := 0xd0308 + 16 * k
/-- Offset of `TB_CAPk_INFO` (R563). -/
def TB_CAPk_INFO (k : Nat) : Nat := 0xd030c + 16 * k
/-- Offset of `DST_ADM` (R563). -/
def DST_ADM : Nat := 0xe0000
/-- Offset of `DST_LAIDr` (R563). -/
def DST_LAIDr (r : Nat) : Nat := 0xe0004 + 4 * r
/-- Offset of `DST_STAT` (R563). -/
def DST_STAT : Nat := 0xe0010
/-- Offset of `DST_ECC_C` (R563). -/
def DST_ECC_C : Nat := 0xe0014
/-- Offset of `DST_ECC_U` (R563). -/
def DST_ECC_U : Nat := 0xe0018
/-- Offset of `DST_MISS` (R563). -/
def DST_MISS : Nat := 0xe001c
/-- Offset of `DST_HTMO` (R563). -/
def DST_HTMO : Nat := 0xe0020
/-- Offset of `DST_SCRUB_POS` (R563). -/
def DST_SCRUB_POS : Nat := 0xe0024
/-- Offset of `DST_MSG` (R563). -/
def DST_MSG : Nat := 0xe0028
/-- Offset of `DST_MSGN` (R563). -/
def DST_MSGN : Nat := 0xe002c
/-- Offset of `DST_PLAYLAST` (R563). -/
def DST_PLAYLAST : Nat := 0xe0030
/-- Offset of `DST_ARBn` (R563). -/
def DST_ARBn (n : Nat) : Nat := 0xe0100 + 4 * n
/-- Offset of `DST_PLAYn_CTL` (R563). -/
def DST_PLAYn_CTL (n : Nat) : Nat := 0xe1000 + 16 * n
/-- Offset of `DST_PLAYn_STAT` (R563). -/
def DST_PLAYn_STAT (n : Nat) : Nat := 0xe1004 + 16 * n
/-- Offset of `DST_PLAYn_POS` (R563). -/
def DST_PLAYn_POS (n : Nat) : Nat := 0xe1008 + 16 * n
/-- Offset of `DST_CAPk_CFG` (R563). -/
def DST_CAPk_CFG (k : Nat) : Nat := 0xe2000 + 32 * k
/-- Offset of `DST_CAPk_BASE` (R563). -/
def DST_CAPk_BASE (k : Nat) : Nat := 0xe2004 + 32 * k
/-- Offset of `DST_CAPk_LEN` (R563). -/
def DST_CAPk_LEN (k : Nat) : Nat := 0xe2008 + 32 * k
/-- Offset of `DST_CAPk_WPTR` (R563). -/
def DST_CAPk_WPTR (k : Nat) : Nat := 0xe200c + 32 * k
/-- Offset of `DST_CAPk_SAMP` (R563). -/
def DST_CAPk_SAMP (k : Nat) : Nat := 0xe2010 + 32 * k
/-- Offset of `GPIO_IN0` (R563). -/
def GPIO_IN0 : Nat := 0xf0000
/-- Offset of `GPIO_IN1` (R563). -/
def GPIO_IN1 : Nat := 0xf0004
/-- Offset of `GPIO_OUT0` (R563). -/
def GPIO_OUT0 : Nat := 0xf0008
/-- Offset of `GPIO_OUT1` (R563). -/
def GPIO_OUT1 : Nat := 0xf000c
/-- Offset of `GPIO_DIR0` (R563). -/
def GPIO_DIR0 : Nat := 0xf0010
/-- Offset of `GPIO_DIR1` (R563). -/
def GPIO_DIR1 : Nat := 0xf0014
/-- Offset of `GPIO_FNn` (R563). -/
def GPIO_FNn (n : Nat) : Nat := 0xf0100 + 4 * n
/-- Offset of `DCI_STATE` (R563). -/
def DCI_STATE : Nat := 0xf1000
/-- Offset of `DCI_RAW` (R563). -/
def DCI_RAW : Nat := 0xf1004
/-- Offset of `DCI_STAT` (R563). -/
def DCI_STAT : Nat := 0xf1008
/-- Offset of `DCI_LAST` (R563). -/
def DCI_LAST : Nat := 0xf100c
/-- Offset of `DCI_PAIRn_CFG` (R563). -/
def DCI_PAIRn_CFG (n : Nat) : Nat := 0xf1100 + 16 * n
/-- Offset of `DCI_PAIRn_TIME` (R563). -/
def DCI_PAIRn_TIME (n : Nat) : Nat := 0xf1104 + 16 * n
/-- Offset of `DCI_PAIRn_CNT` (R563). -/
def DCI_PAIRn_CNT (n : Nat) : Nat := 0xf1108 + 16 * n
/-- Offset of `MGT_TEMPn` (R563). -/
def MGT_TEMPn (n : Nat) : Nat := 0xf2000 + 4 * n
/-- Offset of `MGT_TMAX` (R563). -/
def MGT_TMAX : Nat := 0xf2020
/-- Offset of `MGT_WARN` (R563). -/
def MGT_WARN : Nat := 0xf2024
/-- Offset of `MGT_POWER` (R563). -/
def MGT_POWER : Nat := 0xf2028
/-- Offset of `MGT_STAT` (R563). -/
def MGT_STAT : Nat := 0xf2030
/-- Offset of `MGT_ADDR` (R563). -/
def MGT_ADDR : Nat := 0xf2034

end R

/-- Register rows of block 0x0, part 0. -/
def regRows0p0 : List RegRow := [
  -- GLB_CFG
  ⟨0x0, 1, 4, 1, 4, 0x1, 0x0, 0x0, 0x0, 0x0, 0x0, 0x1, 0x0⟩,
  -- GLB_ID
  ⟨0x4, 1, 4, 1, 4, 0xffffffff, 0x0, 0x0, 0x0, 0x0, 0x0, 0x0, 0x0⟩,
  -- GLB_LOCK
  ⟨0x8, 1, 4, 1, 4, 0xffff, 0x0, 0x0, 0x0, 0x0, 0x0, 0x0, 0x0⟩,
  -- GLB_LOCK_SET
  ⟨0xc, 1, 4, 1, 4, 0x0, 0x0, 0xffff, 0x0, 0x0, 0xffff, 0x0, 0x0⟩,
  -- GLB_OUTEN
  ⟨0x10, 1, 4, 1, 4, 0x0, 0xfffff, 0x0, 0x0, 0x0, 0x0, 0xfffff, 0x0⟩,
  -- GLB_MUTE
  ⟨0x14, 1, 4, 1, 4, 0x2, 0x1, 0x0, 0x0, 0x0, 0x0, 0x0, 0x0⟩,
  -- GLB_VOTE_STAT
  ⟨0x18, 1, 4, 1, 4, 0x0, 0x0, 0x0, 0xff000003, 0x0, 0x0, 0x0, 0x0⟩,
  -- GLB_VOTE_LAST
  ⟨0x1c, 1, 4, 1, 4, 0xfc0003ff, 0x0, 0x0, 0x0, 0x0, 0x0, 0x0, 0x0⟩,
  -- GLB_TPART_SEL
  ⟨0x20, 1, 4, 1, 4, 0x0, 0x3ff, 0x0, 0x0, 0x0, 0x3ff, 0x0, 0x0⟩,
  -- GLB_TPART
  ⟨0x24, 1, 4, 1, 4, 0x0, 0x3f, 0x0, 0x0, 0x0, 0x3f, 0x3f, 0x0⟩,
  -- GLB_WIDE_REQ
  ⟨0x40, 1, 4, 1, 4, 0x80000000, 0x1ffffc, 0x0, 0x0, 0x0, 0x0, 0x0, 0x0⟩,
  -- GLB_WIDE_DATAm
  ⟨0x44, 4, 4, 1, 4, 0xffffffff, 0x0, 0x0, 0x0, 0x0, 0x0, 0x0, 0x0⟩,
  -- MLD_CTL
  ⟨0x800, 1, 4, 1, 4, 0x0, 0x0, 0xf, 0x0, 0x0, 0xf, 0x0, 0x0⟩,
  -- MLD_SRC_LO
  ⟨0x804, 1, 4, 1, 4, 0x0, 0xffffffc0, 0x0, 0x0, 0x0, 0xffffffc0, 0x0, 0x0⟩,
  -- MLD_SRC_HI
  ⟨0x808, 1, 4, 1, 4, 0x0, 0xffffffff, 0x0, 0x0, 0x0, 0xffffffff, 0x0, 0x0⟩,
  -- MLD_LEN
  ⟨0x80c, 1, 4, 1, 4, 0x0, 0xffffffff, 0x0, 0x0, 0x0, 0xffffffff, 0x0, 0x0⟩,
  -- MLD_STATE
  ⟨0x810, 1, 4, 1, 4, 0x117, 0x0, 0x0, 0x0, 0x0, 0x117, 0x0, 0x0⟩,
  -- MLD_STAT
  ⟨0x814, 1, 4, 1, 4, 0x0, 0x0, 0x0, 0xff00001f, 0x0, 0xff00001f, 0x0, 0x0⟩,
  -- MLD_REFUSE
  ⟨0x818, 1, 4, 1, 4, 0xff, 0x0, 0x0, 0x0, 0x0, 0xff, 0x0, 0x0⟩,
  -- MLD_ITEM
  ⟨0x81c, 1, 4, 1, 4, 0xffffffff, 0x0, 0x0, 0x0, 0x0, 0xffffffff, 0x0, 0x0⟩,
  -- MLD_NEED
  ⟨0x820, 1, 4, 1, 4, 0xffffffff, 0x0, 0x0, 0x0, 0x0, 0xffffffff, 0x0, 0x0⟩,
  -- MLD_HAVE
  ⟨0x824, 1, 4, 1, 4, 0xffffffff, 0x0, 0x0, 0x0, 0x0, 0xffffffff, 0x0, 0x0⟩,
  -- MLD_DIGEST
  ⟨0x828, 1, 4, 1, 4, 0xffffffff, 0x0, 0x0, 0x0, 0x0, 0xffffffff, 0xffffffff, 0x0⟩,
  -- MLD_PCLASS
  ⟨0x82c, 1, 4, 1, 4, 0x3, 0x0, 0x0, 0x0, 0x0, 0x3, 0x3, 0x0⟩]

/-- Register rows of block 0x0, part 1. -/
def regRows0p1 : List RegRow := [
  -- MLD_RTREF
  ⟨0x830, 1, 4, 1, 4, 0x3ff0fff, 0x0, 0x0, 0x0, 0x0, 0x3ff0fff, 0x0, 0x0⟩,
  -- MLD_RTNEED
  ⟨0x834, 1, 4, 1, 4, 0xffffffff, 0x0, 0x0, 0x0, 0x0, 0xffffffff, 0x0, 0x0⟩,
  -- MLD_RTHAVE
  ⟨0x838, 1, 4, 1, 4, 0xffffffff, 0x0, 0x0, 0x0, 0x0, 0xffffffff, 0x0, 0x0⟩,
  -- DKL_CFG
  ⟨0xc00, 1, 4, 1, 4, 0x77, 0x0, 0x0, 0x0, 0x0, 0x0, 0x77, 0x0⟩,
  -- DKL_U
  ⟨0xc04, 1, 4, 1, 4, 0xfffff, 0x0, 0x0, 0x0, 0x0, 0x0, 0xfffff, 0x0⟩,
  -- DKL_NUM_LO
  ⟨0xc08, 1, 4, 1, 4, 0xffffffff, 0x0, 0x0, 0x0, 0x0, 0x0, 0x0, 0x0⟩,
  -- DKL_NUM_HI
  ⟨0xc0c, 1, 4, 1, 4, 0xffff, 0x0, 0x0, 0x0, 0x0, 0x0, 0x0, 0x0⟩,
  -- DKL_START_LO
  ⟨0xc10, 1, 4, 1, 4, 0x0, 0xffffffff, 0x0, 0x0, 0x0, 0x0, 0x0, 0x0⟩,
  -- DKL_START_HI
  ⟨0xc14, 1, 4, 1, 4, 0x0, 0xffff, 0x0, 0x0, 0x0, 0x0, 0x0, 0x0⟩,
  -- DKL_ALIGN
  ⟨0xc18, 1, 4, 1, 4, 0x0, 0xffffffff, 0x0, 0x0, 0x0, 0x0, 0x0, 0x0⟩,
  -- DKL_TICK
  ⟨0xc1c, 1, 4, 1, 4, 0xffff, 0x0, 0x0, 0x0, 0x0, 0x0, 0x0, 0x0⟩,
  -- DKL_LAST
  ⟨0xc20, 1, 4, 1, 4, 0xfffff, 0x0, 0x0, 0x0, 0x0, 0x0, 0x0, 0x0⟩,
  -- DKL_STAT
  ⟨0xc24, 1, 4, 1, 4, 0x0, 0x0, 0x0, 0xff00001f, 0x0, 0x0, 0x0, 0x0⟩]

/-- Register rows of block 0x0 (R562). -/
def regRows0 : List RegRow := regRows0p0 ++ regRows0p1

/-- Register rows of block 0x1, part 0. -/
def regRows1p0 : List RegRow := [
  -- EVC_STAT
  ⟨0x10000, 1, 4, 1, 4, 0x0, 0x0, 0x0, 0xff00000f, 0x0, 0x0, 0x0, 0x0⟩,
  -- EVC_LAST
  ⟨0x10004, 1, 4, 1, 4, 0xc70f01ff, 0x0, 0x0, 0x0, 0x0, 0x0, 0x0, 0x0⟩,
  -- EVC_TGTBIND0
  ⟨0x10010, 1, 4, 1, 4, 0x0, 0xbfbfbfbf, 0x0, 0x0, 0xbfbfbfbf, 0x0, 0x0, 0x80⟩,
  -- EVC_TGTBIND1
  ⟨0x10014, 1, 4, 1, 4, 0x0, 0xbfbfbfbf, 0x0, 0x0, 0xbfbfbfbf, 0x0, 0x0, 0x0⟩,
  -- EVC_PENDw
  ⟨0x10100, 16, 4, 1, 4, 0xffffffff, 0x0, 0x0, 0x0, 0x0, 0x0, 0x0, 0x0⟩,
  -- EVC_PCLRw
  ⟨0x10140, 16, 4, 1, 4, 0x0, 0x0, 0xffffffff, 0x0, 0x0, 0x0, 0x0, 0x0⟩,
  -- EVC_SETPw
  ⟨0x10180, 16, 4, 1, 4, 0x0, 0x0, 0xffffffff, 0x0, 0x0, 0x0, 0x0, 0x0⟩,
  -- EVC_MASKw
  ⟨0x101c0, 16, 4, 1, 4, 0x0, 0xffffffff, 0x0, 0x0, 0xffffffff, 0x0, 0x0, 0xffffffff⟩,
  -- EVC_ACTw
  ⟨0x10200, 16, 4, 1, 4, 0xffffffff, 0x0, 0x0, 0x0, 0x0, 0x0, 0x0, 0x0⟩,
  -- EVC_INw
  ⟨0x10240, 16, 4, 1, 4, 0xffffffff, 0x0, 0x0, 0x0, 0x0, 0x0, 0x0, 0x0⟩,
  -- EVC_SRCn_CFG
  ⟨0x11000, 512, 4, 1, 4, 0x0, 0x7f7, 0x0, 0x0, 0x7f7, 0x0, 0x0, 0x0⟩,
  -- EVC_TGTt_ACK
  ⟨0x18000, 8, 512, 1, 512, 0x80f1ffff, 0x0, 0x0, 0x0, 0x0, 0x0, 0x0, 0x0⟩,
  -- EVC_TGTt_EOI
  ⟨0x18004, 8, 512, 1, 512, 0x0, 0x0, 0xffffffff, 0x0, 0x0, 0x0, 0x0, 0x0⟩,
  -- EVC_TGTt_RUN
  ⟨0x18008, 8, 512, 1, 512, 0x801fffff, 0x0, 0x0, 0x0, 0x0, 0x0, 0x0, 0x80000000⟩,
  -- EVC_TGTt_DB
  ⟨0x1800c, 8, 512, 1, 512, 0x0, 0x0, 0xffffff3f, 0x0, 0x0, 0x0, 0x0, 0x0⟩,
  -- EVC_TGTt_RINGS
  ⟨0x18010, 8, 512, 1, 512, 0xffffffff, 0x0, 0x0, 0x0, 0x0, 0x0, 0x0, 0x0⟩,
  -- EVC_TGTt_RINGp_BASE_LO
  ⟨0x18100, 8, 512, 16, 16, 0x0, 0xfffffe0f, 0x0, 0x0, 0x0, 0x0, 0x0, 0x0⟩,
  -- EVC_TGTt_RINGp_BASE_HI
  ⟨0x18104, 8, 512, 16, 16, 0x0, 0xffffffff, 0x0, 0x0, 0x0, 0x0, 0x0, 0x0⟩,
  -- EVC_TGTt_RINGp_PROD
  ⟨0x18108, 8, 512, 16, 16, 0xffffffff, 0x0, 0x0, 0x0, 0x0, 0x0, 0x0, 0x0⟩,
  -- EVC_TGTt_RINGp_CONS
  ⟨0x1810c, 8, 512, 16, 16, 0x0, 0xffffffff, 0x0, 0x0, 0x0, 0x0, 0x0, 0x0⟩]

/-- Register rows of block 0x1 (R562). -/
def regRows1 : List RegRow := regRows1p0

/-- Register rows of block 0x2, part 0. -/
def regRows2p0 : List RegRow := [
  -- HOST_LINK
  ⟨0x20000, 1, 4, 1, 4, 0x3ff, 0x0, 0x0, 0x0, 0x0, 0x0, 0x0, 0x0⟩,
  -- HOST_STAT
  ⟨0x20004, 1, 4, 1, 4, 0x0, 0x0, 0x0, 0xff00000f, 0x0, 0x0, 0x0, 0x0⟩,
  -- HOST_B2_DST
  ⟨0x20008, 1, 4, 1, 4, 0x0, 0x1f, 0x0, 0x0, 0x0, 0x0, 0x0, 0x0⟩,
  -- IND_SEL
  ⟨0x20100, 1, 4, 1, 4, 0x0, 0xff, 0x0, 0x0, 0x0, 0x0, 0x0, 0x0⟩,
  -- IND_ADDR
  ⟨0x20104, 1, 4, 1, 4, 0x0, 0xffffffff, 0x0, 0x0, 0x0, 0x0, 0x0, 0x0⟩,
  -- IND_DATA
  ⟨0x20108, 1, 4, 1, 4, 0x0, 0xffffffff, 0x0, 0x0, 0x0, 0x0, 0x0, 0x0⟩,
  -- IND_CTL
  ⟨0x2010c, 1, 4, 1, 4, 0xc0000000, 0x3, 0x0, 0x0, 0x0, 0x0, 0x0, 0x0⟩,
  -- HOST_DMAc_CFG
  ⟨0x21000, 8, 64, 1, 64, 0x0, 0xff003f07, 0x0, 0x0, 0x0, 0xff003f07, 0x0, 0x0⟩,
  -- HOST_DMAc_BASE_LO
  ⟨0x21004, 8, 64, 1, 64, 0x0, 0xffffffe0, 0x0, 0x0, 0x0, 0x0, 0x0, 0x0⟩,
  -- HOST_DMAc_BASE_HI
  ⟨0x21008, 8, 64, 1, 64, 0x0, 0xffffffff, 0x0, 0x0, 0x0, 0x0, 0x0, 0x0⟩,
  -- HOST_DMAc_SIZE
  ⟨0x2100c, 8, 64, 1, 64, 0x0, 0x1ffff, 0x0, 0x0, 0x0, 0x0, 0x0, 0x0⟩,
  -- HOST_DMAc_HEAD
  ⟨0x21010, 8, 64, 1, 64, 0xffff, 0x0, 0x0, 0x0, 0x0, 0x0, 0x0, 0x0⟩,
  -- HOST_DMAc_TAIL
  ⟨0x21014, 8, 64, 1, 64, 0x0, 0xffff, 0x0, 0x0, 0x0, 0x0, 0x0, 0x0⟩]

/-- Register rows of block 0x2 (R562). -/
def regRows2 : List RegRow := regRows2p0

/-- Register rows of block 0x3, part 0. -/
def regRows3p0 : List RegRow := [
  -- SRCH_QWIDTHn
  ⟨0x30000, 4, 4, 1, 4, 0xffffffff, 0x0, 0x0, 0x0, 0x0, 0x0, 0xffffffff, 0x0⟩,
  -- SRCH_CLASSc_CREDIT
  ⟨0x30010, 5, 4, 1, 4, 0x1fffff, 0x0, 0x0, 0x0, 0x0, 0x0, 0x1fffff, 0x0⟩,
  -- SRCH_CMP_BUDGET
  ⟨0x30030, 1, 4, 1, 4, 0xffffffff, 0x0, 0x0, 0x0, 0x0, 0x0, 0xffffffff, 0x0⟩,
  -- SRCH_CMP_MAX
  ⟨0x30034, 1, 4, 1, 4, 0xffffffff, 0x0, 0x0, 0x0, 0x0, 0x0, 0xffffffff, 0x0⟩,
  -- SRCH_CMP_LAID
  ⟨0x30038, 1, 4, 1, 4, 0xffffffff, 0x0, 0x0, 0x0, 0x0, 0x0, 0xffffffff, 0x0⟩,
  -- SRCH_STAT
  ⟨0x30040, 1, 4, 1, 4, 0x0, 0x0, 0x0, 0xff0001b3, 0x0, 0x0, 0x0, 0x0⟩,
  -- SRCH_DIAG_CTL
  ⟨0x30080, 1, 4, 1, 4, 0x0, 0x3ff003f, 0x80000000, 0x0, 0x0, 0x0, 0x0, 0x0⟩,
  -- SRCH_DIAG_STAT
  ⟨0x30084, 1, 4, 1, 4, 0x3, 0x0, 0x0, 0x0, 0x0, 0x0, 0x0, 0x0⟩,
  -- SRCH_DIAG_KEYm
  ⟨0x30090, 12, 4, 1, 4, 0x0, 0xffffffff, 0x0, 0x0, 0x0, 0x0, 0x0, 0x0⟩,
  -- SRCH_DIAG_RESm
  ⟨0x300c0, 4, 4, 1, 4, 0xffffffff, 0x0, 0x0, 0x0, 0x0, 0x0, 0x0, 0x0⟩,
  -- SRCH_PROFn_CTL
  ⟨0x31000, 64, 128, 1, 128, 0x8000ffff, 0x0, 0x0, 0x0, 0x0, 0x0, 0x8000ffff, 0x0⟩,
  -- SRCH_PROFn_QSEL_LO
  ⟨0x31004, 64, 128, 1, 128, 0xffffffff, 0x0, 0x0, 0x0, 0x0, 0x0, 0xffffffff, 0x0⟩,
  -- SRCH_PROFn_QSEL_HI
  ⟨0x31008, 64, 128, 1, 128, 0xffffffff, 0x0, 0x0, 0x0, 0x0, 0x0, 0xffffffff, 0x0⟩,
  -- SRCH_PROFn_TAG
  ⟨0x3100c, 64, 128, 1, 128, 0xffffffff, 0x0, 0x0, 0x0, 0x0, 0x0, 0xffffffff, 0x0⟩,
  -- SRCH_PROFn_FXm
  ⟨0x31010, 64, 128, 12, 4, 0xffffffff, 0x0, 0x0, 0x0, 0x0, 0x0, 0xffffffff, 0x0⟩,
  -- SRCH_REGn_A
  ⟨0x34000, 256, 8, 1, 8, 0x3fffffff, 0x0, 0x0, 0x0, 0x0, 0x0, 0x3fffffff, 0x0⟩,
  -- SRCH_REGn_B
  ⟨0x34004, 256, 8, 1, 8, 0xf7fff, 0x0, 0x0, 0x0, 0x0, 0x0, 0xf7fff, 0x0⟩,
  -- WMK_STAT
  ⟨0x36000, 1, 4, 1, 4, 0x0, 0x0, 0x0, 0xff0000ff, 0x0, 0x0, 0x0, 0x0⟩,
  -- WMK_FAIL
  ⟨0x36004, 1, 4, 1, 4, 0x7ffffff, 0x0, 0x0, 0x0, 0x0, 0x0, 0x0, 0x0⟩,
  -- WMK_DBAD
  ⟨0x36008, 1, 4, 1, 4, 0x7fffff, 0x0, 0x0, 0x0, 0x0, 0x0, 0x0, 0x0⟩,
  -- WMK_SCRUB
  ⟨0x3600c, 1, 4, 1, 4, 0x3fffff, 0x0, 0x0, 0x0, 0x0, 0x0, 0x0, 0x0⟩,
  -- WMK_SCRUB_POS
  ⟨0x36010, 1, 4, 1, 4, 0x800fffff, 0x0, 0x0, 0x0, 0x0, 0x0, 0x0, 0x0⟩,
  -- WMK_INJ
  ⟨0x36014, 1, 4, 1, 4, 0x0, 0x7ff, 0x0, 0x0, 0x7ff, 0x0, 0x0, 0x0⟩,
  -- UPD_CTL
  ⟨0x37000, 1, 4, 1, 4, 0x0, 0x1, 0x0, 0x0, 0x0, 0x0, 0x0, 0x0⟩]

/-- Register rows of block 0x3, part 1. -/
def regRows3p1 : List RegRow := [
  -- UPD_FLUSH
  ⟨0x37004, 1, 4, 1, 4, 0x0, 0x0, 0x1, 0x0, 0x0, 0x0, 0x0, 0x0⟩,
  -- UPD_STAT
  ⟨0x37008, 1, 4, 1, 4, 0x0, 0x0, 0x0, 0xff00000f, 0x0, 0x0, 0x0, 0x0⟩,
  -- UPD_FREE
  ⟨0x3700c, 1, 4, 1, 4, 0x7ff, 0x0, 0x0, 0x0, 0x0, 0x0, 0x0, 0x400⟩,
  -- UPD_DONE
  ⟨0x37010, 1, 4, 1, 4, 0xffff, 0x0, 0x0, 0x0, 0x0, 0x0, 0x0, 0x0⟩,
  -- UPD_LIVE
  ⟨0x37014, 1, 4, 1, 4, 0x3fffff, 0x0, 0x0, 0x0, 0x0, 0x0, 0x0, 0x0⟩,
  -- UPD_REJ
  ⟨0x37018, 1, 4, 1, 4, 0xf0ffffff, 0x0, 0x0, 0x0, 0x0, 0x0, 0x0, 0x0⟩,
  -- UPD_ARB
  ⟨0x3701c, 1, 4, 1, 4, 0xffb, 0x0, 0x0, 0x0, 0x0, 0x0, 0x0, 0xf00⟩,
  -- UPD_CMD
  ⟨0x38000, 1024, 4, 1, 4, 0x0, 0x0, 0xffffffff, 0x0, 0x0, 0x0, 0x0, 0x0⟩]

/-- Register rows of block 0x3 (R562). -/
def regRows3 : List RegRow := regRows3p0 ++ regRows3p1

/-- Register rows of block 0x4, part 0. -/
def regRows4p0 : List RegRow := [
  -- FWD_PROF
  ⟨0x40000, 1, 4, 1, 4, 0xbfbfbfbf, 0x0, 0x0, 0x0, 0x0, 0x0, 0xbfbfbfbf, 0x0⟩,
  -- FWD_PROF2
  ⟨0x40004, 1, 4, 1, 4, 0xbf, 0x0, 0x0, 0x0, 0x0, 0x0, 0xbf, 0x0⟩,
  -- FWD_OVF_TAG
  ⟨0x40008, 1, 4, 1, 4, 0x3ffffff, 0x0, 0x0, 0x0, 0x0, 0x0, 0x3ffffff, 0x0⟩,
  -- FWD_HASH_SEEDn
  ⟨0x40010, 4, 4, 1, 4, 0xffffffff, 0x0, 0x0, 0x0, 0x0, 0x0, 0xffffffff, 0x0⟩,
  -- FWD_AGE_CFG
  ⟨0x40020, 1, 4, 1, 4, 0xfff0000, 0xffff, 0x0, 0x0, 0x0, 0x0, 0xfffffff, 0x0⟩,
  -- FWD_AGE_LIMIT
  ⟨0x40024, 1, 4, 1, 4, 0x0, 0xffff, 0x0, 0x0, 0x0, 0x0, 0xffff, 0x0⟩,
  -- FWD_AGE_NOW
  ⟨0x40028, 1, 4, 1, 4, 0xffff, 0x0, 0x0, 0x0, 0x0, 0x0, 0x0, 0x0⟩,
  -- FWD_AGE_STAT
  ⟨0x4002c, 1, 4, 1, 4, 0x0, 0x0, 0x0, 0xff000001, 0x0, 0x0, 0x0, 0x0⟩,
  -- FWD_STAT
  ⟨0x40030, 1, 4, 1, 4, 0x0, 0x0, 0x0, 0xff00001f, 0x0, 0x0, 0x0, 0x0⟩,
  -- FWD_LEARN_CTL
  ⟨0x40034, 1, 4, 1, 4, 0x0, 0x1, 0x0, 0x0, 0x0, 0x0, 0x0, 0x0⟩,
  -- FWD_PERR
  ⟨0x40038, 1, 4, 1, 4, 0x37ffff, 0x0, 0x0, 0x0, 0x0, 0x0, 0x0, 0x0⟩,
  -- FWD_FAIL0
  ⟨0x40040, 1, 4, 1, 4, 0xffffffff, 0x0, 0x0, 0x0, 0x0, 0x0, 0x0, 0x0⟩,
  -- FWD_FAIL1
  ⟨0x40044, 1, 4, 1, 4, 0xfffffff, 0x0, 0x0, 0x0, 0x0, 0x0, 0x0, 0x0⟩,
  -- FWD_FAIL2
  ⟨0x40048, 1, 4, 1, 4, 0x37fff, 0x0, 0x0, 0x0, 0x0, 0x0, 0x0, 0x0⟩,
  -- FWD_FLUSH_SEL
  ⟨0x40050, 1, 4, 1, 4, 0x0, 0x77ffffff, 0x0, 0x0, 0x0, 0x0, 0x0, 0x0⟩,
  -- FWD_FLUSH_CTL
  ⟨0x40054, 1, 4, 1, 4, 0x2, 0x4, 0x1, 0x0, 0x0, 0x0, 0x0, 0x0⟩,
  -- FWD_LIMIT_STAT
  ⟨0x40060, 1, 4, 1, 4, 0x0, 0x0, 0x0, 0xff0fffff, 0x0, 0x0, 0x0, 0x0⟩,
  -- FWD_DROP_STAT
  ⟨0x40064, 1, 4, 1, 4, 0x0, 0x0, 0x0, 0xff0fffff, 0x0, 0x0, 0x0, 0x0⟩,
  -- FWD_STA_KEY0
  ⟨0x40080, 1, 4, 1, 4, 0x0, 0xffffffff, 0x0, 0x0, 0x0, 0x0, 0x0, 0x0⟩,
  -- FWD_STA_KEY1
  ⟨0x40084, 1, 4, 1, 4, 0x0, 0xfffffff, 0x0, 0x0, 0x0, 0x0, 0x0, 0x0⟩,
  -- FWD_STA_KEY2
  ⟨0x40088, 1, 4, 1, 4, 0x0, 0x3ff, 0x0, 0x0, 0x0, 0x0, 0x0, 0x0⟩,
  -- FWD_STA_DATA
  ⟨0x4008c, 1, 4, 1, 4, 0x0, 0xffff003f, 0x0, 0x0, 0x0, 0x0, 0x0, 0x0⟩,
  -- FWD_STA_LOC
  ⟨0x40090, 1, 4, 1, 4, 0x80000000, 0x3ffff, 0x0, 0x0, 0x0, 0x0, 0x0, 0x0⟩,
  -- FWD_STA_DEST
  ⟨0x40094, 1, 4, 1, 4, 0x0, 0x3ffff, 0x0, 0x0, 0x0, 0x0, 0x0, 0x0⟩]

/-- Register rows of block 0x4, part 1. -/
def regRows4p1 : List RegRow := [
  -- FWD_STA_CMD
  ⟨0x40098, 1, 4, 1, 4, 0x4f000000, 0xf, 0x80000000, 0x0, 0x0, 0x0, 0x0, 0x0⟩,
  -- FWD_STA_HASHn
  ⟨0x400a0, 4, 4, 1, 4, 0xffff, 0x0, 0x0, 0x0, 0x0, 0x0, 0x0, 0x0⟩,
  -- FWD_TBL_CTL
  ⟨0x400c0, 1, 4, 1, 4, 0x40000000, 0x2300ffff, 0x80000000, 0x0, 0x0, 0x0, 0x0, 0x0⟩,
  -- FWD_TBL_LO
  ⟨0x400c4, 1, 4, 1, 4, 0x0, 0xffffffff, 0x0, 0x0, 0x0, 0x0, 0x0, 0x0⟩,
  -- FWD_TBL_HI
  ⟨0x400c8, 1, 4, 1, 4, 0x0, 0xffffffff, 0x0, 0x0, 0x0, 0x0, 0x0, 0x0⟩,
  -- FWD_PORTp_CFG
  ⟨0x40100, 20, 4, 1, 4, 0x0, 0x37fff, 0x0, 0x0, 0x0, 0x0, 0x17fff, 0x0⟩,
  -- FWD_PORTp_LEARN
  ⟨0x40180, 20, 4, 1, 4, 0x0, 0xfffff, 0x0, 0x0, 0x0, 0x0, 0xfffff, 0x0⟩,
  -- FWD_PORTp_COUNT
  ⟨0x40200, 20, 4, 1, 4, 0x3ffff, 0x0, 0x0, 0x0, 0x0, 0x0, 0x0, 0x0⟩]

/-- Register rows of block 0x4 (R562). -/
def regRows4 : List RegRow := regRows4p0 ++ regRows4p1

/-- Register rows of block 0x5, part 0. -/
def regRows5p0 : List RegRow := [
  -- ETH_GRPg_CFG
  ⟨0x50000, 4, 4, 1, 4, 0x1, 0x0, 0x0, 0x0, 0x0, 0x0, 0x1, 0x0⟩,
  -- ETH_PORTp_CFG
  ⟨0x50100, 16, 16, 1, 16, 0x7, 0x1fc0, 0x0, 0x0, 0x0, 0x0, 0x1fc7, 0x0⟩,
  -- ETH_PORTp_LINK
  ⟨0x50104, 16, 16, 1, 16, 0x1f, 0x0, 0x0, 0x0, 0x0, 0x0, 0x0, 0x0⟩,
  -- ETH_PORTp_STAT
  ⟨0x50108, 16, 16, 1, 16, 0x0, 0x0, 0x0, 0xff00007f, 0x0, 0x0, 0x0, 0x0⟩,
  -- ETH_PORTp_DROP
  ⟨0x50200, 20, 4, 1, 4, 0x0, 0x0, 0x0, 0xff00001f, 0x0, 0x0, 0x0, 0x0⟩,
  -- ETH_QLIMq
  ⟨0x50300, 8, 4, 1, 4, 0xffffff, 0x0, 0x0, 0x0, 0x0, 0x0, 0xffffff, 0x0⟩,
  -- STRM_PROF
  ⟨0x58000, 1, 4, 1, 4, 0xbfbf, 0x0, 0x0, 0x0, 0x0, 0x0, 0xbfbf, 0x0⟩,
  -- STRM_PLANE
  ⟨0x58004, 1, 4, 1, 4, 0xbfff3fff, 0x0, 0x0, 0x0, 0x0, 0x0, 0xbfff3fff, 0x0⟩,
  -- STRM_MC_OFS
  ⟨0x58008, 1, 4, 1, 4, 0x0, 0xffffffff, 0x0, 0x0, 0x0, 0x0, 0x0, 0x0⟩,
  -- STRM_MCLK
  ⟨0x5800c, 1, 4, 1, 4, 0xffffffff, 0x0, 0x0, 0x0, 0x0, 0x0, 0x0, 0x0⟩,
  -- STRM_ASRC
  ⟨0x58010, 1, 4, 1, 4, 0x3ff, 0x0, 0x0, 0x0, 0x0, 0x0, 0x0, 0x200⟩,
  -- STRM_RXSTAT
  ⟨0x58020, 1, 4, 1, 4, 0x0, 0x0, 0x0, 0xff00003f, 0x0, 0x0, 0x0, 0x0⟩,
  -- STRM_RXLAST
  ⟨0x58024, 1, 4, 1, 4, 0x70fff, 0x0, 0x0, 0x0, 0x0, 0x0, 0x0, 0x0⟩,
  -- STRM_DESC_CTL
  ⟨0x58040, 1, 4, 1, 4, 0x4f000000, 0x20030fff, 0x80000000, 0x0, 0x0, 0x0, 0x0, 0x0⟩,
  -- STRM_DESC_Dm
  ⟨0x58080, 24, 4, 1, 4, 0x0, 0xffffffff, 0x0, 0x0, 0x0, 0x0, 0x0, 0x0⟩]

/-- Register rows of block 0x5 (R562). -/
def regRows5 : List RegRow := regRows5p0

/-- Register rows of block 0x6, part 0. -/
def regRows6p0 : List RegRow := [
  -- MIX_TIERk_L
  ⟨0x60000, 4, 4, 1, 4, 0xfffff, 0x0, 0x0, 0x0, 0x0, 0x0, 0xfffff, 0x0⟩,
  -- MIX_TIERk_M
  ⟨0x60010, 4, 4, 1, 4, 0xfffff, 0x0, 0x0, 0x0, 0x0, 0x0, 0x0, 0x0⟩,
  -- MIX_INMAP0
  ⟨0x60020, 1, 4, 1, 4, 0xbfff3fff, 0x0, 0x0, 0x0, 0x0, 0x0, 0xbfff3fff, 0x0⟩,
  -- MIX_INMAP1
  ⟨0x60024, 1, 4, 1, 4, 0xbfff3fff, 0x0, 0x0, 0x0, 0x0, 0x0, 0xbfff3fff, 0x0⟩,
  -- MIX_CLSc_WIN
  ⟨0x60040, 16, 4, 1, 4, 0xf, 0x0, 0x0, 0x0, 0x0, 0x0, 0xf, 0x0⟩,
  -- MIX_RAMPn
  ⟨0x60080, 8, 4, 1, 4, 0x3fff, 0x0, 0x0, 0x0, 0x0, 0x0, 0x3fff, 0x0⟩,
  -- MIX_STAT
  ⟨0x60100, 1, 4, 1, 4, 0x0, 0x0, 0x0, 0xff00001f, 0x0, 0x0, 0x0, 0x0⟩,
  -- MIX_PERR
  ⟨0x60104, 1, 4, 1, 4, 0xf3fffff, 0x0, 0x0, 0x0, 0x0, 0x0, 0x0, 0x0⟩,
  -- MIX_CHK_CTL
  ⟨0x60110, 1, 4, 1, 4, 0x60000000, 0x0, 0x80000000, 0x0, 0x0, 0x0, 0x0, 0x0⟩,
  -- MIX_CHK_FIRST
  ⟨0x60114, 1, 4, 1, 4, 0x800fffff, 0x0, 0x0, 0x0, 0x0, 0x0, 0x0, 0x0⟩,
  -- MIX_CHK_TIERk
  ⟨0x60120, 4, 4, 1, 4, 0xfffff, 0x0, 0x0, 0x0, 0x0, 0x0, 0x0, 0x0⟩,
  -- MIX_LIVE_CMD
  ⟨0x60200, 1, 4, 1, 4, 0x0, 0x0, 0xffffffff, 0x0, 0x0, 0x0, 0x0, 0x0⟩,
  -- MIX_LIVE_FLUSH
  ⟨0x60204, 1, 4, 1, 4, 0x0, 0x0, 0x1, 0x0, 0x0, 0x0, 0x0, 0x0⟩,
  -- MIX_LIVE_SEL
  ⟨0x60208, 1, 4, 1, 4, 0x0, 0x3fff, 0x0, 0x0, 0x0, 0x0, 0x0, 0x0⟩,
  -- MIX_LIVE_VAL
  ⟨0x6020c, 1, 4, 1, 4, 0xffffffff, 0x0, 0x0, 0x0, 0x0, 0x0, 0x0, 0x0⟩,
  -- MIX_LIVE_TGT
  ⟨0x60210, 1, 4, 1, 4, 0xffffffff, 0x0, 0x0, 0x0, 0x0, 0x0, 0x0, 0x0⟩]

/-- Register rows of block 0x6 (R562). -/
def regRows6 : List RegRow := regRows6p0

/-- Register rows of block 0x7, part 0. -/
def regRows7p0 : List RegRow := [
  -- STRP_COST
  ⟨0x70000, 1, 4, 1, 4, 0xffffff, 0x0, 0x0, 0x0, 0x0, 0x0, 0xffffff, 0x0⟩,
  -- STRP_MAX
  ⟨0x70004, 1, 4, 1, 4, 0xffffff, 0x0, 0x0, 0x0, 0x0, 0x0, 0xffffff, 0x0⟩,
  -- STRP_METER_CFG
  ⟨0x70008, 1, 4, 1, 4, 0x0, 0xffff00ff, 0x0, 0x0, 0x0, 0x0, 0xffff00ff, 0x0⟩,
  -- STRP_STAT
  ⟨0x70010, 1, 4, 1, 4, 0x0, 0x0, 0x0, 0xff00000f, 0x0, 0x0, 0x0, 0x0⟩,
  -- STRP_LAST
  ⟨0x70014, 1, 4, 1, 4, 0x77fff, 0x0, 0x0, 0x0, 0x0, 0x0, 0x0, 0x0⟩,
  -- STRP_PERR
  ⟨0x70018, 1, 4, 1, 4, 0x73fffff, 0x0, 0x0, 0x0, 0x0, 0x0, 0x0, 0x0⟩,
  -- DLY_POOL
  ⟨0x70100, 1, 4, 1, 4, 0x3ffff, 0x0, 0x0, 0x0, 0x0, 0x0, 0x3ffff, 0x0⟩,
  -- DLY_FREE
  ⟨0x70104, 1, 4, 1, 4, 0x3ffff, 0x0, 0x0, 0x0, 0x0, 0x0, 0x3ffff, 0x0⟩,
  -- DLY_LONG
  ⟨0x70108, 1, 4, 1, 4, 0xffff, 0x0, 0x0, 0x0, 0x0, 0x0, 0xffff, 0x0⟩,
  -- DLY_DAU
  ⟨0x7010c, 1, 4, 1, 4, 0xffffff, 0x0, 0x0, 0x0, 0x0, 0x0, 0xffffff, 0x0⟩]

/-- Register rows of block 0x7 (R562). -/
def regRows7 : List RegRow := regRows7p0

/-- Register rows of block 0x8, part 0. -/
def regRows8p0 : List RegRow := [
  -- SCN_CFG
  ⟨0x80000, 1, 4, 1, 4, 0xfffff, 0x0, 0x0, 0x0, 0x0, 0x0, 0xfffff, 0x0⟩,
  -- SCN_PLANE
  ⟨0x80004, 1, 4, 1, 4, 0x7, 0x0, 0x0, 0x0, 0x0, 0x0, 0x0, 0x0⟩,
  -- SCN_EPOCH
  ⟨0x80008, 1, 4, 1, 4, 0xffff, 0x0, 0x0, 0x0, 0x0, 0x0, 0xffff, 0x0⟩,
  -- SCN_COMMIT
  ⟨0x80010, 1, 4, 1, 4, 0x0, 0xffffffff, 0x0, 0x0, 0x0, 0x0, 0x0, 0x0⟩,
  -- SCN_COMMIT_CTL
  ⟨0x80014, 1, 4, 1, 4, 0x0, 0x4fffffff, 0x80000000, 0x0, 0x0, 0x0, 0x0, 0x0⟩,
  -- SCN_PEND_T
  ⟨0x80018, 1, 4, 1, 4, 0xffffffff, 0x0, 0x0, 0x0, 0x0, 0x0, 0x0, 0x0⟩,
  -- SCN_PEND
  ⟨0x8001c, 1, 4, 1, 4, 0x8003ffff, 0x0, 0x0, 0x0, 0x0, 0x0, 0x0, 0x0⟩,
  -- SCN_STAT
  ⟨0x80020, 1, 4, 1, 4, 0x0, 0x0, 0x0, 0xff00000f, 0x0, 0x0, 0x0, 0x0⟩,
  -- SCN_LATE
  ⟨0x80024, 1, 4, 1, 4, 0xf003ffff, 0x0, 0x0, 0x0, 0x0, 0x0, 0x0, 0x0⟩,
  -- SCN_LATE_T
  ⟨0x80028, 1, 4, 1, 4, 0xffffffff, 0x0, 0x0, 0x0, 0x0, 0x0, 0x0, 0x0⟩,
  -- SCN_DONE_T
  ⟨0x8002c, 1, 4, 1, 4, 0xffffffff, 0x0, 0x0, 0x0, 0x0, 0x0, 0x0, 0x0⟩,
  -- SCN_EMIX
  ⟨0x80030, 1, 4, 1, 4, 0xffff37ff, 0x0, 0x0, 0x0, 0x0, 0x0, 0x0, 0x0⟩]

/-- Register rows of block 0x8 (R562). -/
def regRows8 : List RegRow := regRows8p0

/-- Register rows of block 0x9, part 0. -/
def regRows9p0 : List RegRow := [
  -- PTR_CFG
  ⟨0x90000, 1, 4, 1, 4, 0x1fff, 0x0, 0x0, 0x0, 0x0, 0x0, 0x1fff, 0x0⟩,
  -- PTR_ACTIVE
  ⟨0x90004, 1, 4, 1, 4, 0x1fff, 0x0, 0x0, 0x0, 0x0, 0x0, 0x0, 0x0⟩,
  -- PTR_TWIN
  ⟨0x90008, 1, 4, 1, 4, 0x0, 0xf, 0x0, 0x0, 0x0, 0x0, 0x0, 0x0⟩,
  -- PTR_GSEL0
  ⟨0x9000c, 1, 4, 1, 4, 0x3f3f3f3f, 0x0, 0x0, 0x0, 0x0, 0x0, 0x3f3f3f3f, 0x0⟩,
  -- PTR_GSEL1
  ⟨0x90010, 1, 4, 1, 4, 0x3f3f3f3f, 0x0, 0x0, 0x0, 0x0, 0x0, 0x3f3f3f3f, 0x0⟩,
  -- PTR_STAT
  ⟨0x90020, 1, 4, 1, 4, 0x0, 0x0, 0x0, 0xff00001f, 0x0, 0x0, 0x0, 0x0⟩,
  -- PTR_LAST
  ⟨0x90024, 1, 4, 1, 4, 0x70fff, 0x0, 0x0, 0x0, 0x0, 0x0, 0x0, 0x0⟩,
  -- PTR_EVT
  ⟨0x90028, 1, 4, 1, 4, 0xffff, 0x0, 0x0, 0x0, 0x0, 0x0, 0x0, 0x0⟩,
  -- PTR_EVT_RULE
  ⟨0x9002c, 1, 4, 1, 4, 0xfffff, 0x0, 0x0, 0x0, 0x0, 0x0, 0x0, 0x0⟩,
  -- PTR_PERR
  ⟨0x90030, 1, 4, 1, 4, 0x707ffff, 0x0, 0x0, 0x0, 0x0, 0x0, 0x0, 0x0⟩,
  -- PTR_CHG_SUMk
  ⟨0x90040, 8, 4, 1, 4, 0xffffffff, 0x0, 0x0, 0x0, 0x0, 0x0, 0x0, 0x0⟩,
  -- PTR_ZSEL
  ⟨0x90060, 1, 4, 1, 4, 0x0, 0xfff, 0x0, 0x0, 0x0, 0x0, 0x0, 0x0⟩,
  -- PTR_ZSTAT0
  ⟨0x90064, 1, 4, 1, 4, 0xfffffff, 0x0, 0x0, 0x0, 0x0, 0x0, 0x0, 0x0⟩,
  -- PTR_ZSTAT1
  ⟨0x90068, 1, 4, 1, 4, 0x3fff, 0x0, 0x0, 0x0, 0x0, 0x0, 0x0, 0x1000⟩,
  -- PTR_GRANTn
  ⟨0x91000, 1024, 4, 1, 4, 0x0, 0xffff, 0x0, 0x0, 0x0, 0x0, 0x0, 0x0⟩,
  -- PTR_CHGw
  ⟨0x92000, 256, 4, 1, 4, 0x0, 0x0, 0x0, 0xff00ffff, 0x0, 0x0, 0x0, 0x0⟩]

/-- Register rows of block 0x9 (R562). -/
def regRows9 : List RegRow := regRows9p0

/-- Register rows of block 0xA, part 0. -/
def regRowsAp0 : List RegRow := [
  -- SEQ_CFG
  ⟨0xa0000, 1, 4, 1, 4, 0xff, 0x0, 0x0, 0x0, 0x0, 0x0, 0xff, 0x0⟩,
  -- SEQ_STAT
  ⟨0xa0004, 1, 4, 1, 4, 0x0, 0x0, 0x0, 0xff0003ff, 0x0, 0x0, 0x0, 0x0⟩,
  -- SEQ_LAST
  ⟨0xa0008, 1, 4, 1, 4, 0xf7f, 0x0, 0x0, 0x0, 0x0, 0x0, 0x0, 0x0⟩,
  -- SEQ_GRPg_CNT
  ⟨0xa0020, 8, 4, 1, 4, 0xff, 0x0, 0x0, 0x0, 0x0, 0x0, 0x0, 0x0⟩,
  -- SEQn_CTL
  ⟨0xa1000, 128, 128, 1, 128, 0x20000000, 0x1ffff, 0xc0000000, 0x0, 0x0, 0x0, 0x1ffff, 0x0⟩,
  -- SEQn_STATE
  ⟨0xa1004, 128, 128, 1, 128, 0x1ffff007, 0x0, 0x0, 0x0, 0x0, 0x0, 0x0, 0x0⟩,
  -- SEQn_BASE
  ⟨0xa1008, 128, 128, 1, 128, 0x0, 0x1ffff, 0x0, 0x0, 0x0, 0x0, 0x1ffff, 0x0⟩,
  -- SEQn_LEN
  ⟨0xa100c, 128, 128, 1, 128, 0x0, 0x3ffff, 0x0, 0x0, 0x0, 0x0, 0x3ffff, 0x0⟩,
  -- SEQn_COND
  ⟨0xa1010, 128, 128, 1, 128, 0xffffffff, 0x0, 0x0, 0x0, 0x0, 0x0, 0x0, 0x0⟩,
  -- SEQn_FLAGS
  ⟨0xa1014, 128, 128, 1, 128, 0x0, 0xffffffff, 0x0, 0x0, 0x0, 0x0, 0x0, 0x0⟩,
  -- SEQn_KICK
  ⟨0xa1018, 128, 128, 1, 128, 0x0, 0x0, 0x1, 0x0, 0x0, 0x0, 0x0, 0x0⟩,
  -- SEQn_ZSIG
  ⟨0xa101c, 128, 128, 1, 128, 0xffff, 0x0, 0x0, 0x0, 0x0, 0x0, 0x0, 0x0⟩,
  -- SEQn_CFG
  ⟨0xa1020, 128, 128, 1, 128, 0x3ff10000, 0x7f7f, 0x0, 0x0, 0x0, 0x0, 0x3ff17f7f, 0x0⟩,
  -- SEQn_WAIT
  ⟨0xa1024, 128, 128, 1, 128, 0xffffffff, 0x0, 0x0, 0x0, 0x0, 0x0, 0x0, 0x0⟩,
  -- SEQn_Vk
  ⟨0xa1040, 128, 128, 8, 4, 0x0, 0xffffffff, 0x0, 0x0, 0x0, 0x0, 0x0, 0x0⟩]

/-- Register rows of block 0xA (R562). -/
def regRowsA : List RegRow := regRowsAp0

/-- Register rows of block 0xB, part 0. -/
def regRowsBp0 : List RegRow := [
  -- EDL_CFG
  ⟨0xb0000, 1, 4, 1, 4, 0x10fff, 0x0, 0x0, 0x0, 0x0, 0x0, 0x10fff, 0x0⟩,
  -- EDL_SYSTEM
  ⟨0xb0004, 1, 4, 1, 4, 0xffffffff, 0x0, 0x0, 0x0, 0x0, 0x0, 0xffffffff, 0x0⟩,
  -- EDL_ROOT
  ⟨0xb0008, 1, 4, 1, 4, 0xfff, 0x0, 0x0, 0x0, 0x0, 0x0, 0xfff, 0x0⟩,
  -- EDL_TIME
  ⟨0xb000c, 1, 4, 1, 4, 0x37, 0x0, 0x0, 0x0, 0x0, 0x0, 0x0, 0x0⟩,
  -- EDL_OFFSET
  ⟨0xb0010, 1, 4, 1, 4, 0xffffffff, 0x0, 0x0, 0x0, 0x0, 0x0, 0x0, 0x0⟩,
  -- EDL_TOPO
  ⟨0xb0020, 1, 4, 1, 4, 0xfff00c7, 0x0, 0x0, 0x0, 0x0, 0x0, 0x7, 0xfff0000⟩,
  -- EDL_PEPOCH
  ⟨0xb0024, 1, 4, 1, 4, 0xffff, 0x0, 0x0, 0x0, 0x0, 0x0, 0x0, 0x0⟩,
  -- EDL_PORTn_CTL
  ⟨0xb0100, 4, 64, 1, 64, 0x77f, 0x1800, 0x80000000, 0x0, 0x0, 0x800, 0xf7f, 0x0⟩,
  -- EDL_PORTn_LINK
  ⟨0xb0104, 4, 64, 1, 64, 0x1fff0ff7, 0x0, 0x0, 0x0, 0x0, 0x0, 0x0, 0x0⟩,
  -- EDL_PORTn_STAT
  ⟨0xb0108, 4, 64, 1, 64, 0x0, 0x0, 0x0, 0xff003fff, 0x0, 0x0, 0x0, 0x0⟩,
  -- EDL_PORTn_LOSS
  ⟨0xb010c, 4, 64, 1, 64, 0xffff0007, 0x0, 0x0, 0x0, 0x0, 0x0, 0x0, 0x0⟩,
  -- EDL_PORTn_PART
  ⟨0xb0110, 4, 64, 1, 64, 0x3fffdf, 0x0, 0x0, 0x0, 0x0, 0x0, 0x0, 0x0⟩,
  -- EDL_PORTn_CAP
  ⟨0xb0114, 4, 64, 1, 64, 0xffffffff, 0x0, 0x0, 0x0, 0x0, 0x0, 0x0, 0x0⟩,
  -- EDL_PORTn_MINCAP
  ⟨0xb0118, 4, 64, 1, 64, 0xffffffff, 0x0, 0x0, 0x0, 0x0, 0x0, 0xffffffff, 0x0⟩,
  -- EDL_PORTn_ASYM
  ⟨0xb011c, 4, 64, 1, 64, 0x0, 0xffff, 0x0, 0x0, 0x0, 0x0, 0xffff, 0x0⟩,
  -- EDL_PORTn_DELAY
  ⟨0xb0120, 4, 64, 1, 64, 0xffffffff, 0x0, 0x0, 0x0, 0x0, 0x0, 0x0, 0x0⟩,
  -- EDL_PORTn_MBOX
  ⟨0xb0124, 4, 64, 1, 64, 0x31ff0000, 0x1ff, 0xc0000000, 0x0, 0x0, 0x0, 0x0, 0x0⟩,
  -- EDL_PORTn_TOPO
  ⟨0xb0128, 4, 64, 1, 64, 0x7fffffff, 0x0, 0x0, 0x0, 0x0, 0x0, 0x3fffffff, 0x0⟩,
  -- EDL_PORTn_HEAL
  ⟨0xb012c, 4, 64, 1, 64, 0x0, 0x0, 0x0, 0xff0000ff, 0x0, 0x0, 0x0, 0x0⟩,
  -- EDL_FLOW_CTL
  ⟨0xb0400, 1, 4, 1, 4, 0x4f000000, 0x200103ff, 0x80000000, 0x0, 0x0, 0x0, 0x0, 0x0⟩,
  -- EDL_FLOW_Dm
  ⟨0xb0410, 4, 4, 1, 4, 0x0, 0xffffffff, 0x0, 0x0, 0x0, 0x0, 0x0, 0x0⟩,
  -- TRL_CFG
  ⟨0xb0800, 1, 4, 1, 4, 0xff, 0x0, 0x0, 0x0, 0x0, 0x0, 0xff, 0x0⟩,
  -- TRL_STAT
  ⟨0xb0804, 1, 4, 1, 4, 0x0, 0x0, 0x0, 0xff0000ff, 0x0, 0x0, 0x0, 0x0⟩,
  -- TRL_LAST
  ⟨0xb0808, 1, 4, 1, 4, 0xffff77ff, 0x0, 0x0, 0x0, 0x0, 0x0, 0x0, 0x0⟩]

/-- Register rows of block 0xB, part 1. -/
def regRowsBp1 : List RegRow := [
  -- TRL_MIG_M
  ⟨0xb0810, 1, 4, 1, 4, 0x0, 0xffffffff, 0x0, 0x0, 0x0, 0x0, 0x0, 0x0⟩,
  -- TRL_MIG_DEV
  ⟨0xb0814, 1, 4, 1, 4, 0x0, 0xfff0fff, 0x0, 0x0, 0x0, 0x0, 0x0, 0x0⟩,
  -- TRL_MIG_CTL
  ⟨0xb0818, 1, 4, 1, 4, 0x0, 0x4fff07ff, 0x80000000, 0x0, 0x0, 0x0, 0x0, 0x0⟩,
  -- TRL_BUS_CTL
  ⟨0xb0820, 1, 4, 1, 4, 0x4f000000, 0x200007ff, 0x80000000, 0x0, 0x0, 0x0, 0x0, 0x0⟩,
  -- TRL_BUS_Dm
  ⟨0xb0830, 4, 4, 1, 4, 0x0, 0xffffffff, 0x0, 0x0, 0x0, 0x0, 0x0, 0x0⟩]

/-- Register rows of block 0xB (R562). -/
def regRowsB : List RegRow := regRowsBp0 ++ regRowsBp1

/-- Register rows of block 0xC, part 0. -/
def regRowsCp0 : List RegRow := [
  -- PAIR_CFG
  ⟨0xc0000, 1, 4, 1, 4, 0xfff007f, 0x0, 0x0, 0x0, 0x0, 0xfff007f, 0xfff007f, 0x0⟩,
  -- PAIR_TIMES
  ⟨0xc0004, 1, 4, 1, 4, 0xffffffff, 0x0, 0x0, 0x0, 0x0, 0xffffffff, 0xffffffff, 0x0⟩,
  -- PAIR_STATE
  ⟨0xc0008, 1, 4, 1, 4, 0x3f, 0x0, 0x0, 0x0, 0x0, 0x3f, 0x0, 0x0⟩,
  -- PAIR_EPOCH
  ⟨0xc000c, 1, 4, 1, 4, 0xffffffff, 0x0, 0x0, 0x0, 0x0, 0xffffffff, 0x0, 0x0⟩,
  -- PAIR_ACKED
  ⟨0xc0010, 1, 4, 1, 4, 0xffffffff, 0x0, 0x0, 0x0, 0x0, 0xffffffff, 0x0, 0x0⟩,
  -- PAIR_SEEN
  ⟨0xc0014, 1, 4, 1, 4, 0xffffffff, 0x0, 0x0, 0x0, 0x0, 0xffffffff, 0x0, 0x0⟩,
  -- PAIR_DUE
  ⟨0xc0018, 1, 4, 1, 4, 0xffffffff, 0x0, 0x0, 0x0, 0x0, 0xffffffff, 0x0, 0x0⟩,
  -- PAIR_CTL
  ⟨0xc001c, 1, 4, 1, 4, 0x0, 0x6, 0x1, 0x0, 0x0, 0x7, 0x0, 0x0⟩,
  -- PAIR_STAT
  ⟨0xc0020, 1, 4, 1, 4, 0x0, 0x0, 0x0, 0xff0001ff, 0x0, 0xff0001ff, 0x0, 0x0⟩,
  -- PAIR_DIRn
  ⟨0xc0100, 64, 4, 1, 4, 0x8fff0fff, 0x0, 0x0, 0x0, 0x0, 0x8fff0fff, 0x8fff0fff, 0x0⟩,
  -- PAIR_DIRn_EPOCH
  ⟨0xc0200, 64, 4, 1, 4, 0xffffffff, 0x0, 0x0, 0x0, 0x0, 0xffffffff, 0x0, 0x0⟩]

/-- Register rows of block 0xC (R562). -/
def regRowsC : List RegRow := regRowsCp0

/-- Register rows of block 0xD, part 0. -/
def regRowsDp0 : List RegRow := [
  -- TBn_NS
  ⟨0xd0000, 8, 64, 1, 64, 0xffffffff, 0x0, 0x0, 0x0, 0x0, 0x0, 0x0, 0x0⟩,
  -- TBn_FRAC
  ⟨0xd0004, 8, 64, 1, 64, 0xffffffff, 0x0, 0x0, 0x0, 0x0, 0x0, 0x0, 0x0⟩,
  -- TBn_RATE
  ⟨0xd0008, 8, 64, 1, 64, 0x0, 0xffffffff, 0x0, 0x0, 0x0, 0x0, 0x0, 0x0⟩,
  -- TBn_APPLIED
  ⟨0xd000c, 8, 64, 1, 64, 0xffffffff, 0x0, 0x0, 0x0, 0x0, 0x0, 0x0, 0x0⟩,
  -- TBn_STEP_NS
  ⟨0xd0010, 8, 64, 1, 64, 0x0, 0xffffffff, 0x0, 0x0, 0x0, 0x0, 0x0, 0x0⟩,
  -- TBn_STEP_FRAC
  ⟨0xd0014, 8, 64, 1, 64, 0x0, 0xffffffff, 0x0, 0x0, 0x0, 0x0, 0x0, 0x0⟩,
  -- TBn_CTL
  ⟨0xd0018, 8, 64, 1, 64, 0x0, 0x0, 0x1, 0x0, 0x0, 0x0, 0x0, 0x0⟩,
  -- TBn_STAT
  ⟨0xd001c, 8, 64, 1, 64, 0x0, 0x0, 0x0, 0xff0007fe, 0x0, 0x0, 0x0, 0x0⟩,
  -- TBn_PPER
  ⟨0xd0020, 8, 64, 1, 64, 0x0, 0xffffffff, 0x0, 0x0, 0x0, 0x0, 0xffffffff, 0x0⟩,
  -- TBn_PSTART
  ⟨0xd0024, 8, 64, 1, 64, 0x0, 0xffffffff, 0x0, 0x0, 0x0, 0x0, 0x0, 0x0⟩,
  -- TBn_PCFG
  ⟨0xd0028, 8, 64, 1, 64, 0x3f0000, 0xc000ffff, 0x0, 0x0, 0x0, 0x0, 0x803fffff, 0x0⟩,
  -- TBn_PNEXT
  ⟨0xd002c, 8, 64, 1, 64, 0xffffffff, 0x0, 0x0, 0x0, 0x0, 0x0, 0x0, 0x0⟩,
  -- TB_DISC
  ⟨0xd0200, 1, 4, 1, 4, 0xffff0177, 0x0, 0x0, 0x0, 0x0, 0x0, 0xffff0007, 0x0⟩,
  -- TB_HWDOG
  ⟨0xd0204, 1, 4, 1, 4, 0xffff, 0x0, 0x0, 0x0, 0x0, 0x0, 0xffff, 0x0⟩,
  -- TB_HRATE
  ⟨0xd0208, 1, 4, 1, 4, 0xffffffff, 0x0, 0x0, 0x0, 0x0, 0x0, 0x0, 0x0⟩,
  -- TB_PHASE
  ⟨0xd020c, 1, 4, 1, 4, 0xffffffff, 0x0, 0x0, 0x0, 0x0, 0x0, 0x0, 0x0⟩,
  -- TB_CTL
  ⟨0xd0210, 1, 4, 1, 4, 0x0, 0x0, 0x1, 0x0, 0x0, 0x0, 0x0, 0x0⟩,
  -- TB_TC
  ⟨0xd0214, 1, 4, 1, 4, 0x0, 0x1, 0x0, 0x0, 0x0, 0x0, 0x1, 0x0⟩,
  -- TB_CAPk_CFG
  ⟨0xd0300, 8, 16, 1, 16, 0x3f, 0xb7000000, 0x0, 0x0, 0x0, 0x0, 0xb700003f, 0x0⟩,
  -- TB_CAPk_NS0
  ⟨0xd0304, 8, 16, 1, 16, 0xffffffff, 0x0, 0x0, 0x0, 0x0, 0x0, 0x0, 0x0⟩,
  -- TB_CAPk_NSB
  ⟨0xd0308, 8, 16, 1, 16, 0xffffffff, 0x0, 0x0, 0x0, 0x0, 0x0, 0x0, 0x0⟩,
  -- TB_CAPk_INFO
  ⟨0xd030c, 8, 16, 1, 16, 0xe000ffff, 0x0, 0x0, 0x0, 0x0, 0x0, 0x0, 0x0⟩]

/-- Register rows of block 0xD (R562). -/
def regRowsD : List RegRow := regRowsDp0

/-- Register rows of block 0xE, part 0. -/
def regRowsEp0 : List RegRow := [
  -- DST_ADM
  ⟨0xe0000, 1, 4, 1, 4, 0xffffffff, 0x0, 0x0, 0x0, 0x0, 0x0, 0xffffffff, 0x0⟩,
  -- DST_LAIDr
  ⟨0xe0004, 3, 4, 1, 4, 0xffffffff, 0x0, 0x0, 0x0, 0x0, 0x0, 0xffffffff, 0x0⟩,
  -- DST_STAT
  ⟨0xe0010, 1, 4, 1, 4, 0x0, 0x0, 0x0, 0xff0000ff, 0x0, 0x0, 0x0, 0x0⟩,
  -- DST_ECC_C
  ⟨0xe0014, 1, 4, 1, 4, 0xffffffff, 0x0, 0x0, 0x0, 0x0, 0x0, 0x0, 0x0⟩,
  -- DST_ECC_U
  ⟨0xe0018, 1, 4, 1, 4, 0xffffffff, 0x0, 0x0, 0x0, 0x0, 0x0, 0x0, 0x0⟩,
  -- DST_MISS
  ⟨0xe001c, 1, 4, 1, 4, 0xffff00ff, 0x0, 0x0, 0x0, 0x0, 0x0, 0x0, 0x0⟩,
  -- DST_HTMO
  ⟨0xe0020, 1, 4, 1, 4, 0x0, 0xffff, 0x0, 0x0, 0x0, 0x0, 0xffff, 0x0⟩,
  -- DST_SCRUB_POS
  ⟨0xe0024, 1, 4, 1, 4, 0x9fffffff, 0x0, 0x0, 0x0, 0x0, 0x0, 0x0, 0x0⟩,
  -- DST_MSG
  ⟨0xe0028, 1, 4, 1, 4, 0x1fffffff, 0x0, 0x0, 0x0, 0x0, 0x0, 0x1fffffff, 0x0⟩,
  -- DST_MSGN
  ⟨0xe002c, 1, 4, 1, 4, 0x1ffff, 0x0, 0x0, 0x0, 0x0, 0x0, 0x1ffff, 0x0⟩,
  -- DST_PLAYLAST
  ⟨0xe0030, 1, 4, 1, 4, 0x33f, 0x0, 0x0, 0x0, 0x0, 0x0, 0x0, 0x0⟩,
  -- DST_ARBn
  ⟨0xe0100, 32, 4, 1, 4, 0x3f3f87, 0x0, 0x0, 0x0, 0x0, 0x0, 0x0, 0x3f0000⟩,
  -- DST_PLAYn_CTL
  ⟨0xe1000, 64, 16, 1, 16, 0x0, 0xffff, 0xc0000000, 0x0, 0x0, 0x0, 0x0, 0x0⟩,
  -- DST_PLAYn_STAT
  ⟨0xe1004, 64, 16, 1, 16, 0xffff001b, 0x0, 0x0, 0x0, 0x0, 0x0, 0x0, 0x0⟩,
  -- DST_PLAYn_POS
  ⟨0xe1008, 64, 16, 1, 16, 0xffffffff, 0x0, 0x0, 0x0, 0x0, 0x0, 0x0, 0x0⟩,
  -- DST_CAPk_CFG
  ⟨0xe2000, 8, 32, 1, 32, 0x0, 0xc03f3fff, 0x0, 0x0, 0x0, 0x0, 0xc03f3fff, 0x0⟩,
  -- DST_CAPk_BASE
  ⟨0xe2004, 8, 32, 1, 32, 0x1fffffff, 0x0, 0x0, 0x0, 0x0, 0x0, 0x1fffffff, 0x0⟩,
  -- DST_CAPk_LEN
  ⟨0xe2008, 8, 32, 1, 32, 0x1fffffff, 0x0, 0x0, 0x0, 0x0, 0x0, 0x1fffffff, 0x0⟩,
  -- DST_CAPk_WPTR
  ⟨0xe200c, 8, 32, 1, 32, 0xffffffff, 0x0, 0x0, 0x0, 0x0, 0x0, 0x0, 0x0⟩,
  -- DST_CAPk_SAMP
  ⟨0xe2010, 8, 32, 1, 32, 0xffffffff, 0x0, 0x0, 0x0, 0x0, 0x0, 0x0, 0x0⟩]

/-- Register rows of block 0xE (R562). -/
def regRowsE : List RegRow := regRowsEp0

/-- Register rows of block 0xF, part 0. -/
def regRowsFp0 : List RegRow := [
  -- GPIO_IN0
  ⟨0xf0000, 1, 4, 1, 4, 0xffffffff, 0x0, 0x0, 0x0, 0x0, 0x0, 0x0, 0x0⟩,
  -- GPIO_IN1
  ⟨0xf0004, 1, 4, 1, 4, 0xffffffff, 0x0, 0x0, 0x0, 0x0, 0x0, 0x0, 0x0⟩,
  -- GPIO_OUT0
  ⟨0xf0008, 1, 4, 1, 4, 0x0, 0xffffffff, 0x0, 0x0, 0xffffffff, 0x0, 0x0, 0x0⟩,
  -- GPIO_OUT1
  ⟨0xf000c, 1, 4, 1, 4, 0x0, 0xffffffff, 0x0, 0x0, 0xffffffff, 0x0, 0x0, 0x0⟩,
  -- GPIO_DIR0
  ⟨0xf0010, 1, 4, 1, 4, 0x0, 0xffffffff, 0x0, 0x0, 0xffffffff, 0x0, 0xffffffff, 0x0⟩,
  -- GPIO_DIR1
  ⟨0xf0014, 1, 4, 1, 4, 0x0, 0xffffffff, 0x0, 0x0, 0xffffffff, 0x0, 0xffffffff, 0x0⟩,
  -- GPIO_FNn
  ⟨0xf0100, 64, 4, 1, 4, 0x1f, 0x0, 0x0, 0x0, 0x0, 0x0, 0x1f, 0x0⟩,
  -- DCI_STATE
  ⟨0xf1000, 1, 4, 1, 4, 0xffffffff, 0x0, 0x0, 0x0, 0x0, 0x0, 0x0, 0x0⟩,
  -- DCI_RAW
  ⟨0xf1004, 1, 4, 1, 4, 0xffffffff, 0x0, 0x0, 0x0, 0x0, 0x0, 0x0, 0x0⟩,
  -- DCI_STAT
  ⟨0xf1008, 1, 4, 1, 4, 0x0, 0x0, 0x0, 0xff03ffff, 0x0, 0x0, 0x0, 0x0⟩,
  -- DCI_LAST
  ⟨0xf100c, 1, 4, 1, 4, 0x1f000f, 0x0, 0x0, 0x0, 0x0, 0x0, 0x0, 0x0⟩,
  -- DCI_PAIRn_CFG
  ⟨0xf1100, 16, 16, 1, 16, 0xff0f, 0x0, 0x0, 0x0, 0x0, 0x0, 0xff0f, 0x0⟩,
  -- DCI_PAIRn_TIME
  ⟨0xf1104, 16, 16, 1, 16, 0xffffffff, 0x0, 0x0, 0x0, 0x0, 0x0, 0xffffffff, 0x0⟩,
  -- DCI_PAIRn_CNT
  ⟨0xf1108, 16, 16, 1, 16, 0xffffffff, 0x0, 0x0, 0x0, 0x0, 0x0, 0x0, 0x0⟩,
  -- MGT_TEMPn
  ⟨0xf2000, 8, 4, 1, 4, 0xffff, 0x0, 0x0, 0x0, 0x0, 0x0, 0x0, 0x0⟩,
  -- MGT_TMAX
  ⟨0xf2020, 1, 4, 1, 4, 0x7ffff, 0x0, 0x0, 0x0, 0x0, 0x0, 0x0, 0x0⟩,
  -- MGT_WARN
  ⟨0xf2024, 1, 4, 1, 4, 0x0, 0xffff, 0x0, 0x0, 0x0, 0x0, 0x0, 0x690⟩,
  -- MGT_POWER
  ⟨0xf2028, 1, 4, 1, 4, 0xfffff, 0x0, 0x0, 0x0, 0x0, 0x0, 0x0, 0x0⟩,
  -- MGT_STAT
  ⟨0xf2030, 1, 4, 1, 4, 0x0, 0x0, 0x0, 0xff00003f, 0x0, 0x0, 0x0, 0x0⟩,
  -- MGT_ADDR
  ⟨0xf2034, 1, 4, 1, 4, 0x7, 0x0, 0x0, 0x0, 0x0, 0x0, 0x0, 0x0⟩]

/-- Register rows of block 0xF (R562). -/
def regRowsF : List RegRow := regRowsFp0

/-- The rows of the block a BAR0 offset lies in (R562). -/
def regBlock (off : Nat) : List RegRow :=
  match off / 0x10000 with
  | 0 => regRows0
  | 1 => regRows1
  | 2 => regRows2
  | 3 => regRows3
  | 4 => regRows4
  | 5 => regRows5
  | 6 => regRows6
  | 7 => regRows7
  | 8 => regRows8
  | 9 => regRows9
  | 10 => regRowsA
  | 11 => regRowsB
  | 12 => regRowsC
  | 13 => regRowsD
  | 14 => regRowsE
  | 15 => regRowsF
  | _ => []

/-- The register at a BAR0 offset of the lowest quarter, if there is one; every other location is reserved (R563). -/
def regFind (off : Nat) : Option RegRow := (regBlock off).find? (fun r => r.hit off)

/-- The word a register holds after the rise of `RST_N` where the Reset column gives a number (R16, R564); a mould field
counts as zero there. -/
def regReset (off : Nat) : Word :=
  match regFind off with
  | some r => BitVec.ofNat 32 r.reset
  | none => 0

end Sys2Proof.Machine
end

