-- ==== Sys2Proof/Config.lean ====
section
/-! DEFINITION. What a part fixes once (its fuses) and the values the spec leaves open. Nothing here has a body that a
proof could see. -/

namespace Sys2Proof.Config

/-- The fused PCI vendor identity of `GLB_ID.VENDOR` (R3, R511). [Log 10: DESIGN CHOICE] -/
opaque vendor : BitVec 16

/-- The fused silicon stepping of `GLB_ID.STEP` (R3). [Log 10: DESIGN CHOICE] -/
opaque stepping : BitVec 16

/-- The manufacturer code of the fused identity, in the IDCODE of R594. [Log 10: DESIGN CHOICE] -/
opaque manufacturer : BitVec 11

/-- The values the spec leaves open: the n-th one asked for. The state's counter `free` names the next.
[Log 4: DESIGN CHOICE] -/
opaque freeValue : Nat → Nat

/-- The error with which the device evaluates a ramp, in Q4.27 steps, for shape, start, target, sample and length; R275
bounds it, and `Sys2Proof.Machine.rampValue` holds it within that bound. [Log 58: DESIGN CHOICE] -/
opaque rampError : Nat → Int → Int → Nat → Nat → Int

/-- The 32-bit generator of KIND 2 seeded by SEED, whose algorithm R304 does not give: number n of seed s.
[Log 64: DESIGN CHOICE] -/
opaque whiteNoise : Nat → Nat → Nat

/-- The pink noise of KIND 3, whose algorithm R304 does not give: number n of seed s, as a fraction of 2^31.
[Log 64: DESIGN CHOICE] -/
opaque pinkNoise : Nat → Nat → Int

/-- The impulse response of the rate converters, whose filter R255 does not give: by the stream's and the device's rate code and the
distance from the centre in 2^−32 stream samples, in 2^−30. [Log 52: DESIGN CHOICE] -/
opaque convTap : Nat → Nat → Nat → Int

/-- Where a unit of a long delay line lies in the long-delay region: by the strip, the length of its line and the unit's place in the
line's ring (R305 gives no layout). [Log 136: DESIGN CHOICE] -/
opaque lineUnit : Nat → Nat → Nat → Nat

/-- Where a unit of the felt ring of a stream with LOC = 1 lies in the felt-overflow region: by the stream, its channel and the unit's place
in the ring (R246 gives no layout). [Log 136: DESIGN CHOICE] -/
opaque feltUnit : Nat → Nat → Nat → Nat

end Sys2Proof.Config
end

