-- ==== Sys2Proof/Machine/State.lean ====
section
/-! DEFINITION. The state of the XNA16K as plain data: every register (by BAR0 offset, with the copies of every function),
every memory, queue, counter, mode and pin the spec gives the part, and the queue of commands that wait. -/

namespace Sys2Proof.Machine

/-- One unit of the search array with what is held beside it (R101, R144): cells, shadow word with its 8 parity bits, the
three valid copies, and the associated data with its 2 parity bits. -/
structure SUnit where
  value : Nat
  mask : Nat
  sval : Nat
  smask : Nat
  spar : Nat
  valid : Nat
  ad : Nat
  adpar : Nat
  deriving DecidableEq, Repr

/-- What a beat of the update port writes, or what an automatic invalidation does (R153, R166). -/
inductive ArrOp where
  /-- Cells (value and mask), shadow word (value, mask, parity) and associated data (word, parity) of a unit, each where
  the beat writes it. -/
  | unit (cells : Option (Nat × Nat)) (shadow : Option (Nat × Nat × Nat)) (ad : Option (Nat × Nat))
  /-- The three valid copies at an address. -/
  | valid (v : Nat)
  /-- The scrubber's correction of a minority valid copy (R158 step 1). -/
  | fix (v : Nat)
  /-- The automatic invalidation of a search issued in a cycle, of an entry of w units (R153, R154). -/
  | auto (issue w : Nat)
  /-- A soft error: the bits of an item that flip (R144). -/
  | flip (item : UnitItem) (bits : Nat)
  deriving DecidableEq, Repr

/-- A change of the array that lands in a cycle (R181). -/
structure ArrBeat where
  land : Nat
  addr : Nat
  op : ArrOp
  deriving DecidableEq, Repr

/-- Who asked for a search. -/
inductive Who where
  /-- The diagnostic port (R139). -/
  | diag
  /-- The frame of an ingress FIFO with a number, and which of its profiles. -/
  | frame (id which : Nat)
  /-- The source lookup of a frame (R210). -/
  | learn (id : Nat)
  /-- The learning engine's second lookup of a key (R212). -/
  | engine (key : Nat)
  /-- Nobody any more: HOLD dropped the request that asked (R214). -/
  | lost
  deriving DecidableEq, Repr

/-- A search request that waits for a pipe (R124, R126). -/
structure SReq where
  cls : Nat
  prof : Nat
  key : Nat
  tenant : Nat
  port : Nat
  who : Who
  /-- The event tick from which it may enter a pipe (R139). -/
  ready : Nat
  deriving DecidableEq, Repr

/-- A candidate that failed the watermark check: address, cause, unit, and which candidate (R150, R155). -/
structure WmFail where
  addr : Nat
  cause : Nat
  unit : Nat
  cand : Nat
  deriving DecidableEq, Repr

/-- The record of R129: its four words, and the halves of the associated data that were bad. -/
structure SRec where
  w0 : Word
  w1 : Word
  adLo : Word
  adHi : Word
  badLo : Bool
  badHi : Bool
  deriving DecidableEq, Repr

/-- A search in the path (R127). -/
structure Flight where
  issue : Nat
  pipe : Nat
  who : Who
  width : Nat
  fails : List WmFail
  res : SRec
  deriving DecidableEq, Repr

/-- The search core beside its registers (chapters 04 and 05). -/
structure Srch where
  /-- The array as of the beats that every later search sees; unlisted units are zero (R148). -/
  base : SMap SUnit
  /-- Beats not yet folded into `base`, by landing cycle. -/
  beats : List ArrBeat
  reqs : List SReq
  flights : List Flight
  /-- Delivered results not yet consumed. -/
  done : List (Who × SRec)
  /-- Credit left in this deckle, per class (R123). -/
  credit : SMap Nat
  /-- The port served last, per class (R124). -/
  turn : SMap Nat
  /-- The first cycle in which pipe 0 and pipe 1 are free of a width-4 search's second cycle. -/
  hold0 : Nat
  hold1 : Nat
  /-- A cell rewrite that waits for its grant (R160): the unit, with the shadow value and mask of the read grant (R158). -/
  rewrite : Option (Nat × Nat × Nat)
  /-- Deckles without a scrubber grant (R162). -/
  noGrant : Nat
  /-- The scrubber has received a grant since the last deckle tick (R162). -/
  granted : Bool
  deriving DecidableEq, Repr

/-- An item of the command FIFO (R176, R180). -/
inductive UpdItem where
  /-- A command of a function: its words. -/
  | cmd (fn : Nat) (words : List Word)
  /-- A quire-cell submission: unit address, value and mask. -/
  | cell (fn addr value mask : Nat)
  /-- An associated-data submission: unit address and word. -/
  | adw (fn addr ad : Nat)
  /-- A fetch of a quire-side space by a function: space and word address. -/
  | fetch (fn space addr : Nat)
  deriving DecidableEq, Repr

/-- The update port beside its registers (chapter 06). -/
structure Upd where
  /-- Assembly buffer of each function, with the length of the command once its header has arrived (R176). -/
  asm : SMap (Nat × List Word)
  fifo : List UpdItem
  /-- The first cycle in which the port is free, and the rank of the latest transfer. -/
  free : Nat
  rank : Nat
  deriving DecidableEq, Repr

/-- Where the source lookup of a frame stands (R196 step 4, R210). -/
inductive SrcStep where
  /-- No source lookup is due. -/
  | none
  /-- It waits to be made. -/
  | due
  /-- The class-3 search has been asked for. -/
  | asked
  /-- It is done; the frame is to be flooded for an insertion failure, or dropped at the learning limit (R211, R213). -/
  | done (flood drop : Bool)
  deriving DecidableEq, Repr

/-- A frame in the packet buffer with its descriptor in the ingress FIFO of its port (R193 to R196, R233). -/
structure FrameIn where
  id : Nat
  port : Nat
  /-- The frame without its FCS, and the FCS. -/
  bytes : List Byte
  fcs : List Byte
  vlan : Nat
  pcp : Nat
  tagged : Bool
  tenant : Nat
  l3 : Nat
  l4 : Nat
  l3off : Nat
  l4off : Nat
  own : Bool
  /-- MC at instant 0 of the deckle in which its last byte arrived (R245). -/
  mc : Nat
  /-- The port was blocked when the frame was accepted (R195). -/
  blocked : Bool
  /-- Receive timestamp of a PTP event message: ns and 1/256 ns (R482). -/
  stamp : Option (Nat × Nat)
  /-- Searches asked for: 0 stream, 1 destination overflow, 2 group, 3 route, 4 next-hop overflow. -/
  asked : List Nat
  src : SrcStep
  deriving DecidableEq, Repr

/-- A request in the learning queue (R210 to R212): key (tenant, VLAN, MAC), port, and whether it is a move or a refresh of a
way entry. -/
structure LearnReq where
  tenant : Nat
  vlan : Nat
  mac : Nat
  port : Nat
  kind : Nat
  deriving DecidableEq, Repr

/-- A flush that runs (R220): its selection, whether it takes static entries, the function it acts for, the cycle by which its way entries
are cleared, and the overflow entries still to be invalidated, each as index and key. -/
structure FlushJob where
  sel : Word
  static : Bool
  fn : Nat
  ready : Nat
  left : List (Nat × Nat)
  deriving DecidableEq, Repr

/-- The switch's tables and engines beside their registers (chapter 07). -/
structure Fwd where
  frames : List FrameIn
  nextId : Nat
  /-- Station ways: key 65,536 × way + row, word of R203; unlisted: 0. -/
  sta : SMap Nat
  /-- VLAN, tenant, stream-handle and port-mask tables: key 65,536 × TABLE + index, word with its parity bits above bit 63
  (bit 31 for port masks); unlisted: 0. -/
  tbl : SMap Nat
  queue : List LearnReq
  /-- The first cycle in which the learning engine may present again (R212). -/
  learnFrom : Nat
  /-- The first cycle in which the aging engine may present again (R217). -/
  ageFrom : Nat
  /-- Refreshes of overflow entries not yet written: index to stamp, and the entry's key above it (R216). -/
  image : SMap Nat
  /-- Expired entries the sweep has marked: location (a way location, or 2^18 + overflow index) to key, and the stamp found above it
  (R215, R218). -/
  marks : SMap Nat
  sweep : Bool
  /-- A tick came during the sweep (R217). -/
  lagged : Bool
  /-- Flushes that run, oldest first (R220). -/
  flushes : List FlushJob
  /-- The first cycle in which the station RAM's write port is free (R218). -/
  staFree : Nat
  /-- The learning engine's second lookup of its head request has been asked for (R212). -/
  relook : Bool
  deriving DecidableEq, Repr

/-- A frame in an egress queue (R234 to R238). -/
structure EgFrame where
  port : Nat
  queue : Nat
  bytes : List Byte
  /-- TB0 launch time (R235). -/
  launch : Option Nat
  /-- The deckle at whose opening instant a frame of the deckle's own is launched (R252). -/
  deckle : Option Nat
  /-- Ingress timestamp of a forwarded PTP event message, for the transparent clock (R483). -/
  ingress : Option (Nat × Nat)
  /-- DMA channel and word 7 of the completion of a host frame that asks for its transmit timestamp (R534). -/
  host : Option (Nat × Nat)
  /-- A packet-buffer word of the frame has bad parity (R238). -/
  bad : Bool
  /-- The transmit stream whose packet it is (R259). -/
  stream : Option Nat := none
  deriving DecidableEq, Repr

/-- Ethernet ports beside their registers (chapter 08). -/
structure Eth where
  egress : List EgFrame
  /-- The first cycle in which a port is idle again. -/
  idle : SMap Nat
  /-- Host-port frames that the switch has decided and no channel has taken: bytes, reason, ingress descriptor fields. -/
  toHost : List (FrameIn × Nat)
  /-- Writes of JUMBO within the longest frame's time, oldest first: port, cycle, and the setting before (R227). -/
  jumboLog : List (Nat × Nat × Bool)
  deriving DecidableEq, Repr

/-- The gap and ramp state of one receive stream (R247 to R249). -/
structure RxState where
  inGap : Bool
  /-- Samples since the gap began, at most 32. -/
  gapK : Nat
  /-- Samples since the gap ended; 32 with no exit ramp running. -/
  exitK : Nat
  /-- Last sample heard before the gap, per channel. -/
  last : List Int
  /-- Samples that have passed since a packet was accepted; large when none was. -/
  since : Nat
  /-- Port by which the stream's packets are identified. -/
  port : Nat
  /-- Converter: the media index and output instant of its placing, once placed (R256). -/
  placed : Option (Nat × Nat)
  /-- Converter: input position in 2^−32 samples of the stream, signed, from the placing. -/
  pos : Int
  /-- Converter: placed, and no sample taken since. -/
  fresh : Bool
  /-- Converter: newest media index written, as samples from the placing. -/
  newest : Int
  /-- Converter: samples of the resync ramp still to run: 32 to 1 downward, 0 none. -/
  resync : Nat
  /-- Converter: samples taken within the filter's reach, newest first (R255). -/
  hist : List (List Int)
  /-- Converter: the output of the last instant, from which a resync ramps down (R257). -/
  prev : List Int
  deriving DecidableEq, Repr

/-- One transmit stream that is enabled (R251). -/
structure TxState where
  /-- Samples gathered for the packet being built, oldest first, each with its channels. -/
  acc : List (List Int)
  /-- MC of the first sample gathered. -/
  mc0 : Nat
  seq : Nat
  active : Bool
  /-- A packet has begun. -/
  begun : Bool
  deriving DecidableEq, Repr

/-- Media streams beside their registers (chapter 08). -/
structure Strm where
  rx : SMap (List Word)
  tx : SMap (List Word)
  tmpl : SMap (List Word)
  /-- Accepted descriptor writes that wait for the next boundary: table, index, words (R258). -/
  pend : List (Nat × Nat × List Word)
  /-- Felt slots present: key 65,536 × stream + slot, one sample per channel in Q4.27 (R245, R247). -/
  ring : SMap (List Int)
  /-- What a slot of a stream with LOC = 1 held in the deep store before it was last written (R498). -/
  was : SMap (List Int)
  rxs : SMap RxState
  txs : SMap TxState
  /-- Streams disabled whose channels still ramp to zero: stream, PLANE, channels and state (R258). -/
  fading : List (Nat × Nat × RxState)
  /-- `STRM_MC_OFS` in force (R241). -/
  mcOfs : Nat
  deriving DecidableEq, Repr

/-- A ramp of R275: from a to b under a shape over len samples; k counts the samples that have passed at sample 0 of the block
now mixed. -/
structure Ramp where
  a : Int
  b : Int
  shape : Nat
  len : Nat
  k : Nat
  deriving DecidableEq, Repr

/-- The mix engine beside its registers (chapter 09). -/
structure Mix where
  /-- Words of the crosspoint-plane space: plane p at p × 0x100_0000 (R263); unlisted: 0. -/
  words : SMap Word
  /-- Plane words whose parity is bad (R288). -/
  bad : List Nat
  /-- First word of the live command a function assembles (R280). -/
  asm : SMap Word
  /-- Live commands that have landed in this deckle: slot to profile and target (R281). -/
  pend : SMap (Nat × Int)
  /-- The live table: present ramp of each slot with the profile of its last command; unlisted: 0. -/
  live : SMap (Ramp × Nat)
  /-- The live table as of the block mixed before this deckle's (R283). -/
  livePrev : SMap (Ramp × Nat)
  /-- The first block mixed from the active plane since its carry-out (R320); none since the entry into LAID. -/
  carry : Option Nat
  /-- Plane words with bad parity at that block (R323). -/
  badAt : List Nat
  /-- The live table as of sample 0 of that block (R323). -/
  liveAt : SMap (Ramp × Nat)
  /-- Destinations whose sums saturated in the block now mixed (R278). -/
  overs : List Nat
  /-- The couch was written while a check runs (R285). -/
  dirty : Bool
  /-- The cycle in which the walk of the running couch check begins, and the couch writes since: the cycle from which the walk sees the
  write, the word address, and the word before it (R285). -/
  chkAt : Nat
  chkLog : List (Nat × Nat × Word)
  deriving DecidableEq, Repr

/-- Scenes beside their registers (chapter 11). -/
structure Scn where
  /-- The pending commit: T, E and its source (R319). -/
  pend : Option (Nat × Nat × Nat)
  /-- The deckle at whose boundary the running hold ends (R314). -/
  holdEnd : Option Nat
  /-- The scene epoch under which stage B mixed the block now in stage C (R329). -/
  mixEpoch : Nat
  deriving DecidableEq, Repr

/-- The six device states of R69, in code order. -/
inductive DevState where
  | bare | laying | checking | laid | lifting | refused
  deriving DecidableEq, Repr

/-- The progress of DRAM initialisation (R92 step 5, R94). -/
inductive DramState where
  | busy | ready | failed
  deriving DecidableEq, Repr

/-- Power, reset and start-up progress (R92 to R96, R510), and the PCI Express configuration the spec names. -/
structure Pwr where
  /-- `PWR_OK` high. -/
  pwrOk : Bool
  /-- `RST_N` high. -/
  rstn : Bool
  /-- `PERST_N` high. -/
  perstn : Bool
  /-- The fabric PLL is locked. -/
  pll : Bool
  /-- The PLL did not lock in time (R95), or lost lock (R593): the device stays in reset. -/
  held : Bool
  dram : DramState
  /-- Data link layer up. -/
  link : Bool
  /-- BARE has been entered since the rise of `RST_N`: BAR0 accesses are accepted (R93). -/
  bare : Bool
  /-- Level of the CMPT strap at the rise of `RST_N` (R8). -/
  cmpt : Bool
  /-- Level of the MGT_ADDR straps at the rise of `RST_N`. -/
  mgtAddr : Nat
  /-- `ETH_REFCLK` runs (R590). -/
  ethRef : Bool
  /-- `EDL_REFCLK` runs (R590). -/
  edlRef : Bool
  deriving DecidableEq, Repr

/-- What one strip holds beside its descriptor (R301, R302, R305, R306). -/
structure StripSt where
  peak : Int
  pfall : Int
  rms : Int
  /-- The smoothed mean square (R301). -/
  ms : Rat
  /-- Blocks for which OVER stays 1. -/
  overLeft : Nat
  act : Bool
  /-- Consecutive blocks below ACT_OFF. -/
  below : Nat
  /-- The delay line, newest sample first. -/
  line : List Int
  /-- The tap in use. -/
  tap : Nat
  /-- A tap that waits for the running fade, or to which the fade runs, with the sample the fade has reached (R306). -/
  fade : Option (Nat × Nat)
  /-- A D written while a fade runs. -/
  next : Option Nat
  /-- The index s of the sample that follows the newest one in the line (R307). -/
  upTo : Nat
  /-- The units of a long line in the read-ahead: number and samples, oldest first (R307). -/
  ahead : List (Nat × List Int)
  deriving DecidableEq, Repr

/-- What one detector holds (R299). -/
structure DetSt where
  m : Rat
  gs : Rat
  deriving DecidableEq, Repr

/-- What one generator holds (R304). -/
structure GenSt where
  phase : Nat
  index : Nat
  deriving DecidableEq, Repr

/-- The strip engine beside its registers (chapter 10). -/
structure Strp where
  /-- Strip descriptors, 8 words. -/
  desc : SMap (List Word)
  /-- CSET of section slots. -/
  slots : SMap Nat
  /-- Coefficient sets, 5 words. -/
  csets : SMap (List Word)
  dets : SMap (List Word)
  gens : SMap (List Word)
  /-- Entries that passed their checks and wait for the next boundary: kind (0 descriptor, 1 slot, 2 coefficient set,
  3 detector, 4 generator), index, words (R310). -/
  pend : List (Nat × Nat × List Word)
  strips : SMap StripSt
  /-- s1 and s2 of the section slots (R296). -/
  secs : SMap (Int × Int)
  detSt : SMap DetSt
  genSt : SMap GenSt
  /-- Strips whose mix output saturated in the block that stage C works on (R278, R301). -/
  mixOver : List Nat
  /-- The tenants' activity vectors as of the latest boundary (R303). -/
  acts : SMap Nat
  /-- The strip whose meter record a function read last, and word 1 of that record (R310). -/
  latch : SMap (Nat × Word)
  /-- Descriptors, coefficient sets and detectors whose stored words have bad parity until they are written again (R311). -/
  bad : List StripUpset
  deriving DecidableEq, Repr

/-- The mould loader (R70 to R100): the image being copied, and the items in force. -/
structure Mld where
  /-- The bytes of the image the loader has read. -/
  image : List Byte
  /-- A load waits for the end of a lift (R72). -/
  pendLoad : Bool
  /-- A lift command waits for the next boundary (R70). -/
  liftReq : Bool
  /-- Declared and share items in force: KEY to VALUE (R607, R608). -/
  items : SMap Word
  /-- The deckle that the boundary opened at which the lift began (R99). -/
  liftAt : Nat
  /-- `MLD_SRC` and `MLD_LEN` as they stood when LAYING began (R72, R100). -/
  src : Nat
  /-- Its length. -/
  len : Nat
  deriving DecidableEq, Repr

/-- Fabric cycles, event ticks and the deckle counter (R36 to R68). -/
structure Dkl where
  /-- Fabric cycles since the rise of `RST_N`: the first cycle of the present event tick. -/
  cyc : Nat
  /-- The cycle of the latest deckle tick. -/
  tickCyc : Nat
  /-- Event ticks since the deckle tick (R53). -/
  evt : Nat
  /-- The free-running count of event ticks of R549. -/
  free : Nat
  /-- The 48-bit number of the current deckle (R41). -/
  num : Nat
  /-- A deckle tick has fallen since the entry into LAID. -/
  started : Bool
  /-- A marker's number waits for the next boundary (R40). -/
  jump : Option Nat
  /-- The number that the first boundary takes (R37, R38). -/
  first : Nat
  /-- The TB0 instant of the next boundary, in units of 1/(256 fs) ns, modulo 2^40 fs (R36 to R38). -/
  next : Nat
  deriving DecidableEq, Repr

/-- The firing a pending source carries (R549). -/
structure Firing where
  kind : Nat
  tenant : Nat
  deckle : Nat
  tick : Nat
  detail : Word
  /-- More than one firing (COAL). -/
  coal : Bool
  /-- A delivery of it has already failed (R551). -/
  waited : Bool
  deriving DecidableEq, Repr

/-- The detail word of a condition's record: the newly set bits (R519), with a mark (R260) or the number of a capture input (R488)
added, with a number added in a record that every setting sends, its bit standing or not (R467), or a word of its own. -/
inductive Detail where
  | newBits
  | marked (m : Nat)
  | capture (k : Nat)
  | every (add : Nat)
  | word (w : Word)
  deriving DecidableEq, Repr

/-- A hardware happening held as a request until the event tick takes it (R53, R54). -/
inductive HwReq where
  /-- Conditions of the SC register at an offset and the source they fire, the registers to write with them, and the tenant and detail of the
  record. -/
  | cond (reg src : Nat) (bits : Word) (lasts : List (Nat × Word)) (tenant : Nat) (detail : Detail)
  /-- A pulse firing of a source. -/
  | fire (src tenant : Nat) (detail : Word)
  /-- A doorbell write (R546). -/
  | bell (src : Nat) (detail : Word)
  /-- Conditions of the SC register at an offset whose happening is a new setting although their bits stand (R330, R443). -/
  | again (reg : Nat) (bits : Word)
  deriving DecidableEq, Repr

/-- A happening whose effect waits for the event tick in which it arose: it lands in step 3, after the register writes of the tick, in
ascending source number (R53, R55). -/
inductive HwAct where
  /-- The commit that `SCN_COMMIT_CTL.GO` submits, taken after the writes of its event tick (R316). -/
  | hostCommit
  /-- The diagnostic search that `SRCH_DIAG_CTL.GO` asks for, its key taken after the writes of its event tick (R139): profile and tenant. -/
  | diagGo (prof tenant : Nat)
  /-- A COMMIT frame (R398): target and epoch; a generation-1 frame (R331). -/
  | frameCommit (gen1 : Bool) (target epoch : Nat)
  /-- FLAGS of a sequencer (R364): its word and the value of Vs. -/
  | flags (n : Nat) (w v : Word)
  /-- COMMIT of a sequencer (R366): whether it is sent on, to which device, and T. -/
  | commit (n : Nat) (fwd : Bool) (dev target : Nat)
  /-- LIVE of a sequencer (R367): the two words of the command. -/
  | live (n : Nat) (w0 w1 : Word)
  /-- PLAY of a sequencer (R368): the player, and the message that it starts, or none for a stop. -/
  | play (n player : Nat) (msg : Option Nat)
  /-- The migration that `TRL_MIG_CTL.GO` submits, taken after the writes of its event tick (R437). -/
  | hostMigrate
  /-- HALT of a sequencer at a word (R372). -/
  | halt (n pc : Nat)
  /-- SIG of a sequencer: the sequencer signalled and the bit (R365). -/
  | sig (target bits : Nat)
  deriving DecidableEq, Repr

/-- The event controller beside its registers (R540 to R561). -/
structure Ev where
  /-- Hardware happenings of the present event tick, in order of arrival. -/
  reqs : List HwReq
  /-- Sources set pending by software in the present event tick (R545). -/
  setp : List Nat
  /-- Targets and priorities popped in the present event tick (R554). -/
  pops : List (Nat × Nat)
  /-- Sources whose SENSE was written in the present event tick are compared under the new mode (R542): nothing to hold;
  the firing carried by every pending source. -/
  firings : SMap Firing
  /-- Sampled level inputs: bit n for source n (R540). -/
  level : Nat
  /-- The level inputs of the previous event tick. -/
  prevLevel : Nat
  /-- Record sequence of ring 16 t + p (R549). -/
  rseq : SMap Nat
  /-- Functions whose MSI-X and bus mastering are enabled (R556). -/
  msixOn : List Nat
  /-- Unmasked MSI-X entries, 8 × function + entry. -/
  msixOpen : List Nat
  /-- Pending-bit array, 8 × function + entry. -/
  msixPend : List Nat
  /-- Addresses and words of the MSI-X entries, by 8 × function + entry (R512). -/
  msixTab : SMap (Nat × Word)
  /-- Happenings of the present event tick that land in its step 3, each with its source number (R55). -/
  acts : List (Nat × HwAct)
  /-- Findings of the search core of the present event tick, each with its place by cycle and pipe (R155). -/
  finds : List (Nat × HwReq)
  deriving DecidableEq, Repr

/-- What one cue sequencer holds beside its registers (R355 to R373). -/
structure SeqSt where
  /-- The deckle at which a WAITD ends, or a WAITE by its timeout. -/
  until_ : Option Nat
  /-- The target of a WAITU, and whether it lay in the past when WAITU executed. -/
  target : Nat
  passed : Bool
  /-- ALL, CLR and MASK of a WAITE. -/
  all : Bool
  clr : Bool
  mask : Nat
  /-- Instructions executed in this deckle, and whether the slot has yielded. -/
  count : Nat
  yielded : Bool
  /-- A START whose check passed, and a STOP, that wait for step 5. -/
  start : Bool
  stop : Bool
  deriving DecidableEq, Repr

/-- The cue sequencers beside their registers (chapter 13). -/
structure Seq where
  /-- The instruction store; unlisted: 0. -/
  store : SMap Word
  seqs : SMap SeqSt
  /-- Condition bits posted for step 5 of the next boundary by SIG and KICK. -/
  posted : SMap Nat
  deriving DecidableEq, Repr

/-- The four forms of a BAR0 write: the base quarter, or the set, clear or toggle alias (R514). -/
inductive Quarter where
  | base | set | clear | toggle
  deriving DecidableEq, Repr

/-- An access of the indirect port that waits (R524): a read of `IND_DATA`, or a write of one of its registers in a form. -/
inductive IndAcc where
  | read
  | write (off : Nat) (q : Quarter) (v : Word)
  deriving DecidableEq, Repr

/-- The indirect port of one function beside its registers (R523, R524). -/
structure IndPort where
  /-- The word fetched last. -/
  data : Word
  /-- The fetch under way, if any: its space and word address. -/
  pend : Option (Nat × Nat)
  /-- The fetch under way lies in the command FIFO (R180). -/
  queued : Bool
  /-- The word fetched last stands for a refused fetch (R523): the read of it does not advance. -/
  zero : Bool
  /-- `IND_CTL.REFUSED`. -/
  refused : Bool
  /-- The accesses that wait for the end of the fetch, in the order of their arrival: a read of `IND_DATA`, and what comes behind it (R524). -/
  waiting : List IndAcc
  deriving DecidableEq, Repr

/-- The host port beside its registers (R510 to R539). -/
structure HostPort where
  /-- Function bound to each tenant, copy 0; unlisted: 0 (R518). -/
  tpart : SMap Nat
  /-- Rewrites of the partition waiting for the next boundary, oldest first. -/
  tpartPend : List (Nat × Nat)
  /-- Tenants that a disagreement of three holds bound to PF0 alone, until the next lift (R530). -/
  tpartHeld : List Nat
  /-- The three copies of the voted fields, each held as the exclusive-or with the field's stored value: key
  4096 × FIELD + 4 × index + copy (R530); unlisted: 0. -/
  voteDiff : SMap Nat
  ind : SMap IndPort
  /-- Words of a submission staged by a function for an indirect space: key as the unit chapters give. -/
  staged : SMap Word
  /-- `GLB_OUTEN` and mute as in force at the latest boundary, per egress port: bit p set, port p is heard (R531). -/
  heard : Nat
  /-- `heard` at the boundary before: the ramp of R531 runs from it. -/
  heardPrev : Nat
  /-- Words 0 and 4 of the SerDes lanes, and of word 5 the bit PERR as it was last seen, by word address in space 0x0A (R526); unlisted: 0. -/
  serdes : SMap Word
  /-- Copy descriptors in progress, by DMA channel: words moved, and whether an uncorrectable word was met (R533, R536). -/
  copying : SMap (Nat × Bool)
  /-- NumVFs: the virtual functions that the host has enabled (R511). -/
  vfs : Nat
  /-- `MGT_WARN` was written since the latest sample of the sensors (R602). -/
  warnSet : Bool
  deriving DecidableEq, Repr

/-- The class-gain ramps of one zone (R348): gains at the start and at the end, by class; a missing gain is 1.0. -/
structure ZoneRamp where
  start : List Int
  target : List Int
  shape : Nat
  len : Nat
  k : Nat
  deriving DecidableEq, Repr

/-- The selection of one zone (R341 to R344, R351). -/
structure ZoneSt where
  /-- Selected override set. -/
  set : Option Nat
  /-- The selection came from a miss. -/
  missed : Bool
  /-- Rule index: the entry address of the accepted hit. -/
  rule : Option Nat
  /-- RAMP and PRIO of the governing rule. -/
  ramp : Nat
  prio : Nat
  /-- A miss holds the selection; the last result was data-bad; its search had a failed candidate. -/
  held : Bool
  dbad : Bool
  wmf : Bool
  deriving DecidableEq, Repr

/-- A zone search on its way (R122, R349): its place in the order of the window, its zone, the candidates that failed and its result. -/
structure ZoneFlight where
  idx : Nat
  zone : Nat
  fails : List WmFail
  res : SRec
  deriving DecidableEq, Repr

/-- The parterre beside its registers (chapter 12). -/
structure Ptr where
  /-- Zone descriptors, words 0 and 1. -/
  desc : SMap (List Word)
  /-- Accepted descriptors that wait for the next boundary. -/
  pend : List (Nat × List Word)
  /-- Override sets, 64 gains; unlisted: zeros. -/
  sets : SMap (List Word)
  /-- Accepted set submissions that wait for the next boundary (R346). -/
  setPend : List (Nat × List Word)
  /-- Class-gain words with bad parity: 64 × set + class (R347). -/
  bad : List Nat
  zones : SMap ZoneSt
  /-- The class-gain ramp of every zone that has one; unlisted: 1.0 in every class. -/
  ramps : SMap ZoneRamp
  /-- The key fields as of the end of the boundary actions (R27): grants by tenant, time window, GPIO, flags by sequencer. -/
  grants : SMap Nat
  twin : Nat
  gpio : Nat
  flags : SMap Nat
  /-- Signals posted for step 5 of the next boundary: sequencer to PRIO and zone (R353). -/
  signals : SMap (Nat × Nat)
  /-- `PTR_ZSTAT1` as latched by a function. -/
  latch : SMap Word
  /-- The window of this deckle has been opened, and how many of its zone searches have entered their pipes (R122). -/
  opened : Bool
  issued : Nat
  /-- Zone searches whose result has not arrived, oldest first. -/
  flights : List ZoneFlight
  /-- Every zone of this deckle's window has its selection (R349). -/
  done : Bool
  /-- The key fields as of the end of the boundary actions (R27): taken values of the dual-channel inputs, and the scene's EPAR. -/
  dci : Nat
  epar : Nat
  deriving DecidableEq, Repr

/-- An Edarlink frame (R389, R410): the fields of its header and its payload bytes. A TSUM frame has its first bus in `dst`, an
ETH frame its byte count in `block`; a generation-1 frame has no epoch fields. -/
structure EdlFrame where
  type : Nat
  len : Nat
  src : Nat
  dst : Nat
  block : Nat
  epoch : Nat
  lepoch : Nat
  hops : Nat
  emix : Bool
  late : Bool
  sub : Nat
  payload : List Byte
  deriving DecidableEq, Repr

/-- An ordered set that waits at a port (R387): a whole set; a MARKER without its CRC, with the offset of T1 and its DECKLE; an ECHO without
its CRC, with T1 and T2 of its exchange (R402 to R404). -/
inductive EdlSet where
  | plain (bytes : List Byte)
  | marker (body : List Byte) (off deckle : Nat)
  | echo (body : List Byte) (t1 t2 : Nat)
  deriving DecidableEq, Repr

/-- A frame that waits at an Edarlink port (R392): its class, whether it is in transit, whether it is the transmit mailbox's, its granules, and
whether ABORT ends it. -/
structure EdlWait where
  cls : Nat
  transit : Bool
  box : Bool
  gran : List (List Byte)
  cut : Bool
  deriving DecidableEq, Repr

/-- What one Edarlink port sends (R378, R380, R388, R392). -/
structure EdlTx where
  /-- Time since the start of the present codeword, in 1/17,952 of 25 ps, a unit that divides the symbols of every mode; negative before its
  start. -/
  phase : Int
  /-- The slots of the present codeword so far: control slot, and its 16 bytes. -/
  slots : List (Bool × List Byte)
  /-- CWSEQ of the present codeword. -/
  cwseq : Nat
  /-- Ordered sets that wait, and the slots still to come of the set that is being sent. -/
  sets : List EdlSet
  part : List (List Byte)
  /-- Frames that wait, in order of arrival. -/
  frames : List EdlWait
  /-- The granules still to come of the frame that is being sent, whether ABORT ends it, and whether it is the transmit mailbox's. -/
  now : List (List Byte)
  abort : Bool
  box : Bool
  /-- Fabric cycles since the latest page or PNP at the parley rate (R380). -/
  page : Nat
  deriving DecidableEq, Repr

/-- One Edarlink port beside its registers (R380 to R408). -/
structure EdlPort where
  /-- Bytes 0 to 59 of the partner's page, LANE and ACK left out, and how often it came in a row (R382). -/
  page : List Byte
  equal : Nat
  /-- The partner's page is accepted: ACK = 1 is sent; a page with ACK = 1 has come. -/
  accepted : Bool
  gotAck : Bool
  /-- A page with ACK = 1 has been sent since the acceptance (R382). -/
  ackSent : Bool
  /-- Lanes on which good pages arrive, by bit. -/
  lanes : Nat
  /-- Modes that failed training, bit m − 1, and the mode last trained (R384, R385). -/
  failed : Nat
  tried : Nat
  /-- A good MARKER has come with no PNP since (R386). -/
  marker : Bool
  /-- A good MARKER came in this deckle, and in the one before; boundaries in a row at which the port was eligible (R426). -/
  gotNow : Bool
  gotPrev : Bool
  eligible : Nat
  /-- FLAGS, ROOTHOPS, ROOT and PEPOCH of the last MARKER, and boundaries in a row at which PEPOCH differed (R402, R440). -/
  mFlags : Nat
  mHops : Nat
  mRoot : Nat
  mPep : Nat
  pepDiff : Nat
  /-- Number and T1 of the MARKER sent last (R404), in 1/256 ns. -/
  sent : Option (Nat × Nat)
  /-- T1, T2 and T3 of the MARKER answered last. -/
  answered : Option (Nat × Nat × Nat)
  /-- T3 and T4 of the partner's last ECHO, for the next MARKER. -/
  echo : Option (Nat × Nat)
  /-- The tunnelled frame being joined: FSEQ and bytes (R400); the FSEQ of the next one sent. -/
  join : Option (Nat × List Byte)
  fseq : Nat
  /-- Transmit and receive mailboxes, by word (R401). -/
  txBox : SMap Word
  rxBox : SMap Word
  deriving DecidableEq, Repr

/-- The Edarlink ports and flows beside their registers (chapter 14). -/
structure Edl where
  ports : SMap EdlPort
  /-- Transmit and receive flow descriptors in force, and accepted writes that wait: table, flow, words (R396). -/
  tx : SMap (List Word)
  rx : SMap (List Word)
  pend : List (Nat × Nat × List Word)
  /-- Blocks held by receive flows: key 2^48 × flow + source block; by sample, one value per channel (R395). -/
  felt : SMap (List (List Int))
  rxs : SMap RxState
  /-- Flows disabled whose channels still ramp to zero. -/
  fading : List (Nat × Nat × RxState)
  /-- AUDIO and TSUM frames built for the next boundary, by port (R392, R394, R429). -/
  launch : List (Nat × EdlFrame)
  /-- What waits to be sent, by port (R392). -/
  egress : SMap EdlTx
  deriving DecidableEq, Repr

/-- A migration that has landed (R437, R438): M, old and new device; late ones take effect at the next boundary. -/
structure Migration where
  m : Nat
  old : Nat
  new : Nat
  late : Bool
  deriving DecidableEq, Repr

/-- A sum that has arrived at a tail (R435): samples in Q8.39, LATE, EMIX and the port it came by. -/
structure TailSum where
  sum : List Int
  late : Bool
  emix : Bool
  port : Nat
  /-- The epoch field of the frame (R329). -/
  epoch : Nat
  deriving DecidableEq, Repr

/-- The trellis buses beside their registers (chapter 15). -/
structure Trl where
  /-- Bus entries in force, words 0 to 2, and accepted writes that wait (R442). -/
  bus : SMap (List Word)
  pend : List (Nat × List Word)
  /-- Contributions held: key 2^49 × bus + 2 × block + ring, samples in Q8.39 (R430). -/
  held : SMap (List Int)
  /-- Sums kept by tails: key 2^49 × bus + 2 × block (R435). -/
  arrived : SMap TailSum
  /-- Copies that have reached the device, and substitutes it has originated: bus, block and ring (R434). -/
  passed : List (Nat × Nat × Nat)
  substs : List (Nat × Nat × Nat)
  migs : SMap Migration
  /-- Blocks from which on a bus is no longer owned, where a late migration takes it away at the next boundary (R439). -/
  ownTo : SMap Nat
  /-- Scene epochs of the last blocks mixed (R329). -/
  epochs : List (Nat × Nat)
  /-- Sums placed for the block of the present stage A, by input-plane index (R433). -/
  placed : SMap (List Int)
  deriving DecidableEq, Repr

/-- How the blocks launched by a pair member leave (R457, R458): at full level; fenced at the boundary that opened a deckle;
silent; taken over at the boundary that opened a deckle. -/
inductive PairOut where
  | normal
  | fenced (f : Nat)
  | silent
  | taken (t : Nat)
  deriving DecidableEq, Repr

/-- A LEASE or LEASE_ACK that waits for step 1 of the next boundary (R450); an acknowledgement arms the active unless it was disarmed after it
came (R451). -/
inductive PairMsg where
  | renewal (r : Nat)
  | newer (e r : Nat)
  | conflict
  | ack (e r : Nat) (arms : Bool)
  deriving DecidableEq, Repr

/-- A record of a mirror set (R463): address, data, kind, `IND_SEL` code and function. -/
structure MirrorRec where
  addr : Nat
  data : Word
  kind : Nat
  sel : Nat
  fn : Nat
  deriving DecidableEq, Repr

/-- A mirror set being collected (R463, R464): its records in order, and whether END has come, with the deckle it came in. -/
structure MirrorSet where
  recs : List MirrorRec
  done : Option Nat
  deriving DecidableEq, Repr

/-- The pair beside its registers (chapter 16). -/
structure Pair where
  /-- a, s and the first renewal sent in the present epoch, 48 bits (R449, R450). -/
  a : Nat
  seen : Nat
  firstSent : Nat
  msgs : List PairMsg
  yield_ : Bool
  out : PairOut
  /-- Mirror sets by deckle, and the next set to be applied (R464). -/
  sets : SMap MirrorSet
  nextSet : Option Nat
  /-- Mirrored writes of the active held under MSYNC, by the deckle in which they landed (R464). -/
  heldWrites : List (Nat × MirrorRec)
  /-- Records of the set now open at the active. -/
  openCount : Nat
  deriving DecidableEq, Repr

/-- One time base (R468): its count in units of 2^−43 ns, modulo 2^75, at the first cycle of the present event tick; and
its pulse pin's next falling instant, while the pin is high (R484). -/
structure TBase where
  t : Nat
  fall : Option Nat
  /-- A write of PSTART has armed the pulse generator (R484). -/
  armed : Bool
  /-- The steps of the present event tick, by the cycle in which they landed, in units of 2^−43 ns (R474). -/
  steps : List (Nat × Int)
  deriving DecidableEq, Repr

/-- One capture input (R486, R487). -/
structure Capture where
  valid : Bool
  ns0 : Nat
  nsb : Nat
  info : Nat
  /-- The held capture is the one latched by the last read of NS0. -/
  seen : Bool
  /-- A read of NS0 has latched a capture whose INFO has not been read yet. -/
  latched : Bool
  /-- The cycle of the last captured edge. -/
  last : Option Nat
  deriving DecidableEq, Repr

/-- Time bases, the disciplines of TB0 and the capture inputs (chapter 17). -/
structure Tb where
  base : SMap TBase
  cap : SMap Capture
  /-- Applied rates of TB0 at the last boundaries, latest first, at most 65 (R480). -/
  hist : List Int
  /-- The carried fraction of the slew limit, 2^−16 units (R478). -/
  slewFrac : Nat
  /-- The host watchdog has run out since the last write of `TB0_RATE` (R477). -/
  hostLost : Bool
  /-- The word clock is lost (R479). -/
  wckLost : Bool
  /-- The instant of the last rising edge of `WCK_IN`, or of the entry into LAID, on TB0 in 1/256 ns; whether it is an edge's; and the
  consecutive edges whose period was out of range, at most 4 (R479). -/
  wckFrom : Nat
  wckSeen : Bool
  wckBad : Nat
  /-- Consecutive boundaries with the discipline's error within, and beyond, ±5 ns (R476). -/
  good : Nat
  bad : Nat
  /-- Bases stepped since the last boundary, as bits (R473, R257). -/
  stepped : Nat
  deriving DecidableEq, Repr

/-- A message as a player holds it (R502). -/
structure Message where
  num : Nat
  start : Nat
  len : Nat
  loop : Bool
  gain : Int
  /-- Its start landed after the STOP that runs: it begins without ramp when its block comes (R503, R504). -/
  clear : Bool
  deriving DecidableEq, Repr

/-- A start that has landed and whose directory entry is not fetched yet (R503): the deckle in which it landed, MSG, and whether it came after the
STOP that runs. -/
structure PlayCmd where
  at_ : Nat
  msg : Nat
  clear : Bool
  deriving DecidableEq, Repr

/-- One message player (R502 to R505). -/
structure Player where
  /-- The message in play and the index of its next sample. -/
  now : Option (Message × Nat)
  /-- Starts that have landed, oldest first. -/
  cmds : List PlayCmd
  /-- The messages that starts have fetched, each with the block at which it begins, oldest first. -/
  next : List (Message × Nat)
  /-- The sequencer that issued the last start, if one did (R505). -/
  issuer : Option Nat
  /-- A stop: the block at which its fade begins, and the samples faded. -/
  stop : Option (Nat × Nat)
  err : Bool
  /-- Message in play or last played, and whether it loops. -/
  last : Nat
  lastLoop : Bool
  deriving DecidableEq, Repr

/-- One capture engine that is enabled (R506, R507). -/
structure Capture8 where
  cfg : Word
  /-- Samples of the group being gathered, each with its channels. -/
  acc : List (List Int)
  /-- Groups since the enable, and those written. -/
  group : Nat
  written : Nat
  /-- Units staged on chip that no arbiter has granted yet, oldest first: the unit, its bytes, and whether it is the last of its group (R507). -/
  stage : List (Nat × List Byte × Bool)
  deriving DecidableEq, Repr

/-- The deep store beside its bytes and registers (chapter 18). -/
structure DstE where
  players : SMap Player
  caps : SMap Capture8
  /-- Host writes queued: unit, and the bytes each writes by offset (R508). -/
  queue : List (Nat × List (Nat × Byte))
  /-- The units that the scrubber is to write back, oldest first (R501). -/
  writeBack : List Nat
  /-- Deckles without a scrub grant (R501). -/
  noGrant : Nat
  /-- Players and the unit that each hears as silence: its read was abandoned, or it is uncorrectable (R498, R499). -/
  missed : List (Nat × Nat)
  /-- Sequencers whose player ended, for step 5 of the next boundary (R505). -/
  pdone : List Nat
  /-- The scrubber has had a grant in this deckle (R501). -/
  granted : Bool
  /-- Pseudo-channels that moved a transfer in the present event tick, by bit (`DST_ARBn.BUSY`). -/
  busy : Nat
  deriving DecidableEq, Repr

/-- The samples on their way through the deckle pipeline (R19 to R24): the two halves of the input plane, the two blocks of
the destination store and the outputs of stage C, each by index, N samples in Q4.27; unlisted: silence. -/
structure Aud where
  /-- Input-plane half that stage A writes. -/
  inW : SMap (List Int)
  /-- Input-plane half that stage B reads. -/
  inR : SMap (List Int)
  /-- Destination block that stage B writes. -/
  dstW : SMap (List Int)
  /-- Destination block that stage C reads. -/
  dstR : SMap (List Int)
  /-- Destinations after their output strips, as the packetiser takes them. -/
  outC : SMap (List Int)
  /-- Stage A, stage C and the packetiser have finished in this deckle. -/
  doneA : Bool
  doneC : Bool
  packed : Bool
  /-- The streams, buses and Edarlink ports as they stood before the packetiser ran in this deckle: a thermal trip packs the
  block again, ramped (R601). -/
  undo : Option (Strm × Trl × Edl)
  /-- Tiers of this deckle whose barrier is passed, by bit. -/
  tiers : Nat
  /-- Stage A and stage C have run in this deckle, whether or not they finished every strip (R50). -/
  ranA : Bool
  /-- As `ranA`, for stage C. -/
  ranC : Bool
  deriving DecidableEq, Repr

/-- Pins and what follows them (R54, R567, R576 to R578). -/
structure Inp where
  /-- Levels applied to the 64 GPIO pins from outside: bit n for pin n. -/
  ext : Nat
  /-- Levels the device drives, and the pins it drives, as taken at the end of the last event tick. -/
  drvOut : Nat
  drvEn : Nat
  /-- First and second stage of the synchroniser. -/
  st1 : Nat
  st2 : Nat
  /-- The synchronised levels as they stood in the latest event tick, which a boundary samples (R64, R578). -/
  lvl : Nat
  /-- The GPIO sample of the latest boundary and of the one before (R578, R361). -/
  samp : Nat
  sampPrev : Nat
  /-- Levels of the dual-channel pins: A in bits 0 to 15, B in bits 16 to 31. -/
  dciPin : Nat
  /-- The same as the clock of the present event tick finds them (R54): a late change is not among them. -/
  dciSeen : Nat
  /-- The filter outputs, in the same layout (`DCI_RAW`). -/
  dciRaw : Nat
  /-- The taken values of the boundary before. -/
  takenPrev : Nat
  /-- First and second stage of the synchronisers of the dual-channel pins (R54, R567). -/
  dciSt1 : Nat
  /-- Its second stage. -/
  dciSt2 : Nat
  /-- Event ticks for which a channel's synchronised level has held against its filter output (R567); unlisted: 0. -/
  dciHeld : SMap Nat
  /-- The filter outputs as they stood in the latest event tick, which a boundary samples (R64, R568). -/
  dciLvl : Nat
  deriving DecidableEq, Repr

/-- Temperature sensors, the management port's reports and the test access port (R593 to R604). -/
structure Mgt where
  /-- Samples taken in the present millisecond: `MGT_TEMPn` changes once in 50 (R599). -/
  count : Nat
  /-- Sensors that read 120 °C or more at the latest sample: bit n. -/
  hot : Nat
  /-- The hottest working sensor stood at or above `MGT_WARN` at the latest sample. -/
  above : Bool
  /-- It stood 2 °C or more below `MGT_WARN`. -/
  cool : Bool
  /-- Sensor 7 stood at 105 °C or more. -/
  stk : Bool
  /-- A working sensor has read 120 °C or more at two consecutive samples: a trip is due (R601). -/
  tripDue : Bool
  /-- A trip has happened: the next launch is ramped to silence and the reset hold follows (R601). -/
  tripping : Bool
  /-- The ramped block of the trip has been launched: nothing more is (R601). -/
  tripSent : Bool
  /-- `HALT_N` is low (R593). -/
  halt : Bool
  /-- The instruction in force on the test access port (R594). -/
  tap : TapIns
  deriving DecidableEq, Repr

/-- Something the device hands to its surroundings: the outside world is not modelled, so what it receives is a list. -/
inductive Output where
  /-- Words posted to the memory of a function at an address (R12, R550). -/
  | hostWrite (fn addr : Nat) (words : List Word)
  /-- Bytes posted to the memory of a function at an address (R535). -/
  | hostBytes (fn addr : Nat) (bytes : List Byte)
  /-- The MSI-X message of entry t of a function's table, with its address and data word (R512, R556). -/
  | msix (fn t addr : Nat) (data : Word)
  /-- Words read through the management port (R604). -/
  | mgt (words : List Word)
  /-- The word the test access port shifts out (R594). -/
  | tap (w : Word)
  /-- A frame that an Ethernet port sends, FCS included (R235). -/
  | frame (port : Nat) (bytes : List Byte)
  /-- A page, or PNP, that a lane of an Edarlink port sends at the parley rate (R97, R380). -/
  | edlParley (port lane : Nat) (bytes : List Byte)
  /-- The message of a codeword that an Edarlink port sends: for each lane of its mode, its 10-bit symbols (R378). -/
  | edlCodeword (port : Nat) (lanes : List (List Nat))
  deriving DecidableEq, Repr

/-- The whole state of the device. -/
structure State where
  /-- Every register by BAR0 offset, function fn's own copy at fn × 0x40_0000 + offset (R517); unlisted: the reset value. -/
  regs : SMap Word
  /-- Power, reset and start-up. -/
  pwr : Pwr
  /-- `MLD_STATE.STATE` (R69). -/
  dev : DevState
  /-- The mould loader. -/
  mld : Mld
  /-- Cycles, event ticks and deckles. -/
  dkl : Dkl
  /-- The event controller. -/
  ev : Ev
  /-- The host port. -/
  hp : HostPort
  /-- Pins. -/
  inp : Inp
  /-- Time bases. -/
  tb : Tb
  /-- The search core. -/
  srch : Srch
  /-- The update port. -/
  upd : Upd
  /-- The switch. -/
  fwd : Fwd
  /-- Ethernet ports. -/
  eth : Eth
  /-- Media streams. -/
  strm : Strm
  /-- Samples in the deckle pipeline. -/
  aud : Aud
  /-- The mix engine. -/
  mix : Mix
  /-- The strip engine. -/
  strp : Strp
  /-- The deep store. -/
  dste : DstE
  /-- The cue sequencers. -/
  seq : Seq
  /-- The Edarlink ports. -/
  edl : Edl
  /-- The trellis buses. -/
  trl : Trl
  /-- The pair. -/
  pair : Pair
  /-- Scenes. -/
  scn : Scn
  /-- The parterre. -/
  ptr : Ptr
  /-- Sensors, management port and test access port. -/
  mgt : Mgt
  /-- The deep store by byte (R490): unlisted bytes read zero. -/
  dst : List Host.Cell
  /-- The word the last read returned to the host (the model's own field). -/
  ans : Word
  /-- What the device has handed to its surroundings, oldest first (the model's own field). -/
  out : List Output
  /-- The number of the next free value (the model's own field). -/
  free : Nat
  /-- The commands that wait, first in first out (the model's own field). -/
  pending : List Instr
  deriving DecidableEq, Repr

/-- The reasons a step can stop with a fault. No rule of the spec stops the part: there is one constructor, raised by
nobody, so that the type is not empty (safe). -/
inductive Fault where
  /-- Raised by no meaning (safe). -/
  | none
  deriving DecidableEq, Repr

/-- The reasons a step is refused. -/
inductive Refusal where
  /-- Raised by an arm of `exec` whose command has no meaning yet (safe). -/
  | notModelled (mnemonic : String)
  /-- Raised by TAP_INSTRUCTION for a standard instruction of IEEE 1149.1 or 1149.6 other than IDCODE, whose effect the
  spec leaves to those standards and to a BSDL file outside it (safe: it stops where the hardware goes on). -/
  | boundaryScan
  deriving DecidableEq, Repr

/-- The state with its field `regs` replaced. -/
def State.setRegs (s : State) (v : SMap Word) : State := { s with regs := v }

/-- The state with its field `pwr` replaced. -/
def State.setPwr (s : State) (v : Pwr) : State := { s with pwr := v }

/-- The state with its field `dev` replaced. -/
def State.setDev (s : State) (v : DevState) : State := { s with dev := v }

/-- The state with its field `mld` replaced. -/
def State.setMld (s : State) (v : Mld) : State := { s with mld := v }

/-- The state with its field `dkl` replaced. -/
def State.setDkl (s : State) (v : Dkl) : State := { s with dkl := v }

/-- The state with its field `ev` replaced. -/
def State.setEv (s : State) (v : Ev) : State := { s with ev := v }

/-- The state with its field `hp` replaced. -/
def State.setHp (s : State) (v : HostPort) : State := { s with hp := v }

/-- The state with its field `inp` replaced. -/
def State.setInp (s : State) (v : Inp) : State := { s with inp := v }

/-- The state with its field `tb` replaced. -/
def State.setTb (s : State) (v : Tb) : State := { s with tb := v }

/-- The state with its field `srch` replaced. -/
def State.setSrch (s : State) (v : Srch) : State := { s with srch := v }

/-- The state with its field `upd` replaced. -/
def State.setUpd (s : State) (v : Upd) : State := { s with upd := v }

/-- The state with its field `fwd` replaced. -/
def State.setFwd (s : State) (v : Fwd) : State := { s with fwd := v }

/-- The state with its field `eth` replaced. -/
def State.setEth (s : State) (v : Eth) : State := { s with eth := v }

/-- The state with its field `strm` replaced. -/
def State.setStrm (s : State) (v : Strm) : State := { s with strm := v }

/-- The state with its field `aud` replaced. -/
def State.setAud (s : State) (v : Aud) : State := { s with aud := v }

/-- The state with its field `mix` replaced. -/
def State.setMix (s : State) (v : Mix) : State := { s with mix := v }

/-- The state with its field `strp` replaced. -/
def State.setStrp (s : State) (v : Strp) : State := { s with strp := v }

/-- The state with its field `dste` replaced. -/
def State.setDste (s : State) (v : DstE) : State := { s with dste := v }

/-- The state with its field `seq` replaced. -/
def State.setSeq (s : State) (v : Seq) : State := { s with seq := v }

/-- The state with its field `edl` replaced. -/
def State.setEdl (s : State) (v : Edl) : State := { s with edl := v }

/-- The state with its field `trl` replaced. -/
def State.setTrl (s : State) (v : Trl) : State := { s with trl := v }

/-- The state with its field `pair` replaced. -/
def State.setPair (s : State) (v : Pair) : State := { s with pair := v }

/-- The state with its field `scn` replaced. -/
def State.setScn (s : State) (v : Scn) : State := { s with scn := v }

/-- The state with its field `ptr` replaced. -/
def State.setPtr (s : State) (v : Ptr) : State := { s with ptr := v }

/-- The state with its field `mgt` replaced. -/
def State.setMgt (s : State) (v : Mgt) : State := { s with mgt := v }

/-- The state with its field `dst` replaced. -/
def State.setDst (s : State) (v : List Host.Cell) : State := { s with dst := v }

/-- The state with its field `ans` replaced. -/
def State.setAns (s : State) (v : Word) : State := { s with ans := v }

/-- The state with its field `out` replaced. -/
def State.setOut (s : State) (v : List Output) : State := { s with out := v }

/-- The state with its field `free` replaced. -/
def State.setFree (s : State) (v : Nat) : State := { s with free := v }

/-- The state with its field `pending` replaced. -/
def State.setPending (s : State) (v : List Instr) : State := { s with pending := v }

/-- The machine right after the rise of `RST_N` (R16, R92): no PLL lock yet, every register at the value its Reset column
gives, nothing listed in any store. -/
def State.reset : State :=
  { regs := [],
    pwr := { pwrOk := true, rstn := true, perstn := false, pll := false, held := false, dram := .busy, link := false, bare := false, cmpt := false, mgtAddr := 0, ethRef := true, edlRef := true },
    dev := .bare,
    mld := { image := [], pendLoad := false, liftReq := false, items := [], liftAt := 0, src := 0, len := 0 },
    dkl := { cyc := 0, tickCyc := 0, evt := 0, free := 0, num := 0, started := false, jump := none, first := 0, next := 0 },
    ev := { reqs := [], setp := [], pops := [], firings := [], level := 0, prevLevel := 0, rseq := [], msixOn := [], msixOpen := [], msixPend := [], msixTab := [], acts := [], finds := [] },
    hp := { tpart := [], tpartPend := [], tpartHeld := [], voteDiff := [], ind := [], staged := [], heard := 0, heardPrev := 0, serdes := [], copying := [], vfs := 0, warnSet := false },
    inp := { ext := 0, drvOut := 0, drvEn := 0, st1 := 0, st2 := 0, lvl := 0, samp := 0, sampPrev := 0, dciPin := 0, dciSeen := 0, dciRaw := 0, takenPrev := 0, dciSt1 := 0, dciSt2 := 0, dciHeld := [], dciLvl := 0 },
    tb := { base := [], cap := [], hist := [], slewFrac := 0, hostLost := false, wckLost := false, wckFrom := 0, wckSeen := false, wckBad := 0, good := 0, bad := 0, stepped := 0 },
    srch := { base := [], beats := [], reqs := [], flights := [], done := [], credit := [], turn := [], hold0 := 0, hold1 := 0, rewrite := none, noGrant := 0, granted := false },
    upd := { asm := [], fifo := [], free := 0, rank := 0 },
    fwd := { frames := [], nextId := 0, sta := [], tbl := [], queue := [], learnFrom := 0, ageFrom := 0, image := [], marks := [], sweep := false, lagged := false, flushes := [], staFree := 0, relook := false },
    eth := { egress := [], idle := [], toHost := [], jumboLog := [] },
    strm := { rx := [], tx := [], tmpl := [], pend := [], ring := [], was := [], rxs := [], txs := [], fading := [], mcOfs := 0 },
    aud := { inW := [], inR := [], dstW := [], dstR := [], outC := [], doneA := false, doneC := false, packed := false, undo := none, tiers := 0, ranA := false, ranC := false },
    mix := { words := [], bad := [], asm := [], pend := [], live := [], livePrev := [], carry := none, badAt := [], liveAt := [], overs := [], dirty := false, chkAt := 0, chkLog := [] },
    strp := { desc := [], slots := [], csets := [], dets := [], gens := [], pend := [], strips := [], secs := [], detSt := [], genSt := [], mixOver := [], acts := [], latch := [], bad := [] },
    dste := { players := [], caps := [], queue := [], writeBack := [], noGrant := 0, missed := [], pdone := [], granted := false, busy := 0 },
    seq := { store := [], seqs := [], posted := [] },
    edl := { ports := [], tx := [], rx := [], pend := [], felt := [], rxs := [], fading := [], launch := [], egress := [] },
    trl := { bus := [], pend := [], held := [], arrived := [], passed := [], substs := [], migs := [], ownTo := [], epochs := [], placed := [] },
    pair := { a := 0, seen := 0, firstSent := 0, msgs := [], yield_ := false, out := .normal, sets := [], nextSet := none, heldWrites := [], openCount := 0 },
    scn := { pend := none, holdEnd := none, mixEpoch := 0 },
    ptr := { desc := [], pend := [], sets := [], setPend := [], bad := [], zones := [], ramps := [], grants := [], twin := 0, gpio := 0, flags := [], signals := [], latch := [], opened := false, issued := 0, flights := [], done := false, dci := 0, epar := 0 },
    mgt := { count := 0, hot := 0, above := false, cool := true, stk := false, tripDue := false, tripping := false, tripSent := false, halt := false, tap := .idcode },
    dst := [],
    ans := 0,
    out := [],
    free := 0,
    pending := [] }

end Sys2Proof.Machine
end

