-- ==== Sys2Proof/Machine/Ops.lean ====
section
/-! DEFINITION. The named operations over the sparse stores, the registers, the deep store's bytes, the output list and
the free values. -/

namespace Sys2Proof.Machine

/-- The entry of a sparse store at a key. -/
def SMap.get {α : Type} : SMap α → Nat → Option α
  | [], _ => none
  | (k, v) :: m, i => if i = k then some v else SMap.get m i

/-- The entry at a key, or a default. -/
def SMap.getD {α : Type} (m : SMap α) (i : Nat) (d : α) : α := (SMap.get m i).getD d

/-- A store with the entry at a key removed. -/
def SMap.del {α : Type} : SMap α → Nat → SMap α
  | [], _ => []
  | (k, v) :: m, i => if i = k then m else if i < k then (k, v) :: m else (k, v) :: SMap.del m i

/-- A store with the entry at a key set; keys stay strictly rising. -/
def SMap.put {α : Type} : SMap α → Nat → α → SMap α
  | [], i, a => [(i, a)]
  | (k, v) :: m, i, a =>
    if i = k then (k, a) :: m else if i < k then (i, a) :: (k, v) :: m else (k, v) :: SMap.put m i a

/-- A store with the entry at a key set, the default value being held by no entry. -/
def SMap.putD {α : Type} [DecidableEq α] (d : α) (m : SMap α) (i : Nat) (a : α) : SMap α :=
  if a = d then SMap.del m i else SMap.put m i a

/-- The entry at a key changed by a function, an absent one counting as the default. -/
def SMap.upd {α : Type} (m : SMap α) (i : Nat) (d : α) (f : α → α) : SMap α := SMap.put m i (f (SMap.getD m i d))

/-- Keys strictly rising. -/
def SMap.sorted {α : Type} : SMap α → Bool
  | [] => true
  | [_] => true
  | (k, _) :: (k', v') :: m => decide (k < k') && SMap.sorted ((k', v') :: m)

/-- The register copy of function fn at a BAR0 offset (R517): PF0's copy lies at the offset itself. -/
def regKey (fn off : Nat) : Nat := fn * 0x400000 + off

/-- The stored word of a register (R564). -/
def rd (s : State) (off : Nat) : Word := SMap.getD s.regs off (regReset (off % 0x400000))

/-- The state with the stored word of a register replaced. -/
def wr (s : State) (off : Nat) (w : Word) : State :=
  s.setRegs (SMap.putD (regReset (off % 0x400000)) s.regs off w)

/-- Field [hi:lo] of a stored register. -/
def rdF (s : State) (off hi lo : Nat) : Nat := fld (rd s off) hi lo

/-- The state with field [hi:lo] of a stored register replaced. -/
def wrF (s : State) (off hi lo v : Nat) : State := wr s off (setFld (rd s off) hi lo v)

/-- Bit i of a stored register. -/
def rdB (s : State) (off i : Nat) : Bool := bit (rd s off) i

/-- A list of register words stored in turn. -/
def wrAll (s : State) (l : List (Nat × Word)) : State := l.foldl (fun t p => wr t p.1 p.2) s

/-- A happening handed outside the device (a record, a message, a frame, an ordered set). [Log 117: DEDUCED] -/
def emit (s : State) (o : Output) : State := s.setOut (s.out ++ [o])

/-- A fresh free value of w bits: the value the spec leaves open, and the state with the counter advanced.
[Log 4: DESIGN CHOICE] -/
def freeNat (s : State) (w : Nat) : Nat × State := (Config.freeValue s.free % 2 ^ w, s.setFree (s.free + 1))

/-- One byte of the deep store; an address nothing has written reads zero (R490). [Log 101: DESIGN CHOICE] -/
def dstByte (m : List Host.Cell) (a : Nat) : BitVec 8 := SMap.getD m a 0

/-- The deep store with one byte written; zero is held by no entry. -/
def dstPut (m : List Host.Cell) (a : Nat) (b : BitVec 8) : List Host.Cell := SMap.putD 0 m a b

/-- The canonical form of the deep store: addresses strictly rising, and no entry equal to what an unlisted address
reads as. -/
def Memory.wf (m : List Host.Cell) : Bool := SMap.sorted m && m.all (fun c => decide (c.2 ≠ 0))

/-- The canonical form of the stored registers: keys strictly rising, and no entry equal to its register's reset value. -/
def Registers.wf (m : SMap Word) : Bool :=
  SMap.sorted m && m.all (fun e => decide (e.2 ≠ regReset (e.1 % 0x400000)))

/-- Consecutive bytes written to the deep store. -/
def dstPutBytes : List Host.Cell → Nat → List Byte → List Host.Cell
  | m, _, [] => m
  | m, a, b :: bs => dstPutBytes (dstPut m a b) (a + 1) bs

/-- n consecutive bytes of the deep store. -/
def dstBytes (m : List Host.Cell) (a : Nat) : Nat → List Byte
  | 0 => []
  | n + 1 => dstByte m a :: dstBytes m (a + 1) n

/-- The device runs its deckle: LAID or LIFTING (R42). -/
def running (s : State) : Bool := decide (s.dev = .laid ∨ s.dev = .lifting)

/-- The device accepts BAR0 accesses: it has entered BARE since the rise of `RST_N` (R93), and
the link is up. [Log 141: DESIGN CHOICE] -/
def barUp (s : State) : Bool := s.pwr.bare && s.pwr.rstn && s.pwr.link

/-- Fabric cycles since the deckle tick, or of the free-running event ticks without one (R53). -/
def evTick (s : State) : Nat := s.dkl.evt

end Sys2Proof.Machine
end

