-- ==== Sys2Proof/Machine/Flags.lean ====
section
/-! DEFINITION. Conditions and event requests: the status registers cleared by sequence (R519, R520) and the hardware
happenings that wait for their event tick (R53, R54). -/

namespace Sys2Proof.Machine

/-- A hardware happening handed to the event tick in whose cycles it arises (R53). -/
def request (s : State) (q : HwReq) : State := s.setEv { s.ev with reqs := s.ev.reqs ++ [q] }

/-- The setting of condition bits of an SC register, whose record carries the newly set bits (R519). -/
def setCond (s : State) (reg src bits : Nat) : State :=
  request s (.cond reg src (BitVec.ofNat 32 bits) [] 0 .newBits)

/-- The setting of condition bits of an SC register with the registers written beside it and the record's tenant and
detail (R519, R549). -/
def setCondWith (s : State) (reg src bits : Nat) (lasts : List (Nat × Word)) (tenant : Nat) (detail : Detail) : State :=
  request s (.cond reg src (BitVec.ofNat 32 bits) lasts tenant detail)

/-- The setting of conditions that each happening sets anew, their bits standing or not (R330, R443). -/
def setCondAgain (s : State) (reg src bits : Nat) (lasts : List (Nat × Word)) (tenant : Nat) : State :=
  request (setCondWith s reg src bits lasts tenant .newBits) (.again reg (BitVec.ofNat 32 bits))

/-- A happening lands in step 3 of the present event tick, under a source number (R53, R55). -/
def later (s : State) (src : Nat) (a : HwAct) : State := s.setEv { s.ev with acts := s.ev.acts ++ [(src, a)] }

/-- A pulse firing of a source (R540). -/
def fireSrc (s : State) (src tenant : Nat) (detail : Word) : State := request s (.fire src tenant detail)

/-- The detail words of the firings of a source among the requests of an event tick, joined (R163). -/
def joinedDetail (src : Nat) : List HwReq → Word
  | [] => 0
  | .fire n _ d :: l => if n = src then d ||| joinedDetail src l else joinedDetail src l
  | _ :: l => joinedDetail src l

/-- The requests of an event tick with a further firing of a source that yields one record for all its findings of the tick: the record
carries the last firing, whose detail word joins those before it (R163, R549). [Log 14: DEDUCED] -/
def joinFire (src tenant : Nat) (detail : Word) (l : List HwReq) : List HwReq := l ++ [.fire src tenant (detail ||| joinedDetail src l)]

/-- A firing joined with those of its source in the same event tick (R163). -/
def fireJoined (s : State) (src tenant : Nat) (detail : Word) : State :=
  s.setEv { s.ev with reqs := joinFire src tenant detail s.ev.reqs }

/-- A finding of the search core in a cycle, with its place among those of the cycle (R155). [Log 45: DEDUCED] -/
def noteFind (s : State) (c ord : Nat) (q : HwReq) : State := s.setEv { s.ev with finds := s.ev.finds ++ [(4 * c + ord, q)] }

/-- Insertion of a finding by its place, after those of the same place. -/
def placeFind (e : Nat × HwReq) : List (Nat × HwReq) → List (Nat × HwReq)
  | [] => [e]
  | x :: l => if e.1 < x.1 then e :: x :: l else x :: placeFind e l

/-- A finding joins the hardware happenings of its event tick (R155, R163). -/
def takeFind (s : State) (q : HwReq) : State :=
  match q with
  | .fire src t d => if src = 66 then fireJoined s src t d else request s q
  | _ => request s q

/-- The findings of an event tick, in the order of their cycles and pipes (R155 to R157, R164). [Log 45: DEDUCED] -/
def settleFinds (s : State) : State :=
  (s.ev.finds.foldl (fun l e => placeFind e l) []).foldl (fun t e => takeFind t e.2) (s.setEv { s.ev with finds := [] })

/-- Conditions of `MLD_STAT` with the mould event (R74, R89), which each happening raises, a condition that stands included.
[Log 40: DEDUCED] -/
def mldCond (s : State) (bits : Nat) (lasts : List (Nat × Word)) : State :=
  let s1 := setCondWith s R.MLD_STAT 0 bits lasts 0 .newBits
  if fld (rd s R.MLD_STAT) 23 0 &&& bits = 0 then s1 else fireSrc s1 0 0 (BitVec.ofNat 32 bits)

/-- The condition bits of an SC register: [23:0] (R13). -/
def scConds (w : Word) : Nat := fld w 23 0

/-- The sequence number of an SC register: [31:24] (R13). -/
def scSeq (w : Word) : Nat := fld w 31 24

/-- A clear by sequence (R519): the conditions written as 1 are cleared only where the written SEQ equals SEQ. -/
def scClear (cur written : Word) : Word :=
  if fld written 31 24 = fld cur 31 24 then setFld cur 23 0 (scConds cur &&& (0xFFFFFF ^^^ scConds written)) else cur

/-- A new setting of condition bits (R519): SEQ rises by one where some bit turns from 0 to 1, or is one of those (`again`) that a
happening sets anew (R330, R443). -/
def scSet (cur : Word) (bits again : Nat) : Word :=
  if scConds cur ||| bits = scConds cur ∧ again &&& bits = 0 then cur
  else setFld (setFld cur 23 0 (scConds cur ||| bits)) 31 24 (scSeq cur + 1)

end Sys2Proof.Machine
end

