-- ==== Sys2Proof/Machine/Framing.lean ====
section
/-! DEFINITION. What an Edarlink port puts on its lanes (R378, R387 to R389, R410): codewords, frame headers of both generations, ordered
sets, and what waits at a port to be sent (R392). -/

namespace Sys2Proof.Machine

/-- The generation-2 header granule of a frame, as a number of 128 bits (R389). -/
def header2 (f : EdlFrame) : Nat :=
  f.type % 16 + f.len % 512 * 2 ^ 4 + f.src % 4096 * 2 ^ 13 + f.dst % 4096 * 2 ^ 25 + f.block % 2 ^ 32 * 2 ^ 37 + f.epoch % 65536 * 2 ^ 69 +
    f.lepoch % 65536 * 2 ^ 85 + f.hops % 4096 * 2 ^ 101 + b2n f.emix * 2 ^ 113 + b2n f.late * 2 ^ 114 + f.sub % 512 * 2 ^ 115

/-- The generation-1 header granule of a frame (R410). -/
def header1 (f : EdlFrame) : Nat :=
  f.type % 16 + f.len % 512 * 2 ^ 4 + f.src % 512 * 2 ^ 13 + f.dst % 512 * 2 ^ 22 + f.block % 2 ^ 32 * 2 ^ 31 + f.hops % 4096 * 2 ^ 63 +
    f.sub % 512 * 2 ^ 75

/-- The fields of a generation-2 header (R389); the reserved bits are ignored. -/
def frame2 (h : Nat) (payload : List Byte) : EdlFrame :=
  { type := bits h 3 0, len := bits h 12 4, src := bits h 24 13, dst := bits h 36 25, block := bits h 68 37, epoch := bits h 84 69
    lepoch := bits h 100 85, hops := bits h 112 101, emix := h.testBit 113, late := h.testBit 114, sub := bits h 123 115, payload := payload }

/-- The fields of a generation-1 header (R410): it carries no epoch fields. -/
def frame1 (h : Nat) (payload : List Byte) : EdlFrame :=
  { type := bits h 3 0, len := bits h 12 4, src := bits h 21 13, dst := bits h 30 22, block := bits h 62 31, epoch := 0, lepoch := 0
    hops := bits h 74 63, emix := false, late := false, sub := bits h 83 75, payload := payload }

/-- The granules of a frame as they are sent: the header, then the payload; multi-byte fields are little-endian (R379, R388). -/
def frameBytes (gen1 : Bool) (f : EdlFrame) : List Byte := leBytes 16 (if gen1 then header1 f else header2 f) ++ f.payload

/-- The frame that granules hold (R388, R389, R410). -/
def frameOf (gen1 : Bool) (bs : List Byte) : EdlFrame :=
  let h := leNat (bs.take 16)
  if gen1 then frame1 h (bs.drop 16) else frame2 h (bs.drop 16)

/-- A byte string cut into slots or granules of 16 bytes (R379). -/
def granules (bs : List Byte) : List (List Byte) := (List.range (ceilDiv bs.length 16)).map (fun i => slice bs (16 * i) 16)

/-- The 5,140 message bits of a codeword (R378): TAG, CWSEQ, the reserved bits, and 39 slots, each a control slot or a granule. -/
def codeword (cwseq : Nat) (slots : List (Bool × List Byte)) : Nat :=
  let tag := (List.range 39).foldl (fun v i => v + b2n ((slots[i]?).elim false Prod.fst) * 2 ^ i) 0
  (List.range 39).foldl (fun v i => v + leNat ((slots[i]?).elim [] Prod.snd) % 2 ^ 128 * 2 ^ (148 + 128 * i))
    (tag + cwseq % 65536 * 2 ^ 39)

/-- The product of two symbols in GF(2^10), whose polynomial is x^10 + x^3 + 1 (R377). [Log 148: PRESUMED] -/
def gfMul (a b : Nat) : Nat :=
  (List.range 10).foldl (fun r i =>
    let d := 2 * r
    let m := if 1024 ≤ d then d ^^^ 0x409 else d
    if b.testBit (9 - i) then m ^^^ a else m) 0

/-- The coefficients of the generator polynomial with roots α^0 to α^(t − 1), highest first, the leading 1 left out.
[Log 148: PRESUMED] -/
def rsGenerator (t : Nat) : List Nat :=
  ((List.range t).foldl (fun (a : List Nat × Nat) _ =>
    (((a.1 ++ [0]).zip ((1 :: a.1).map (gfMul a.2))).map (fun (e : Nat × Nat) => e.1 ^^^ e.2), gfMul a.2 2)) ([], 1)).1

/-- The t parity symbols of a message, in the order in which they are sent: the remainder of the message, first symbol highest, by the
generator polynomial (R377). [Log 148: PRESUMED] -/
def rsParity (t : Nat) (msg : List Nat) : List Nat :=
  let g := rsGenerator t
  msg.foldl (fun r m =>
    let f := m ^^^ (r.head?).getD 0
    ((r.drop 1 ++ [0]).zip (g.map (gfMul f))).map (fun (e : Nat × Nat) => e.1 ^^^ e.2)) (List.replicate t 0)

/-- The parity symbols of a mode's code (R377): RS(528,514) at 25.78125 Gb/s, RS(544,514) at 53.125 Gb/s. -/
def modeParity (m : Nat) : Nat := if m = 3 ∨ m = 5 ∨ m = 6 then 30 else 14

/-- The 10-bit symbols of a codeword that each of w lanes sends (R377, R378): the 514 message symbols, then t parity symbols; symbol j is sent on
lane j mod w. -/
def laneSymbols (w t cw : Nat) : List (List Nat) :=
  let msg := (List.range 514).map (fun j => bits cw (10 * j + 9) (10 * j))
  let all := (List.range (514 + t)).zip (msg ++ rsParity t msg)
  (List.range w).map (fun l => (all.filter (fun e => e.1 % w == l)).map Prod.snd)

/-- An ordered set with its CRC-32C appended. -/
def withCrc (bs : List Byte) : List Byte := bs ++ leBytes 4 (crc32c bs)

/-- The five bytes of a stamp: ns, then 1/256 ns (R402). -/
def stampBytes (t : Nat) : List Byte := leBytes 4 (t / 256) ++ leBytes 1 t

/-- A body with the five bytes at an offset replaced by a stamp: the transmitter writes it while the set is sent (R404). -/
def putStamp (body : List Byte) (off t : Nat) : List Byte := body.take off ++ stampBytes t ++ body.drop (off + 5)

/-- The bytes of an ordered set whose first symbol leaves at the stamp t (R387, R402 to R404). -/
def setBytes (x : EdlSet) (t : Nat) : List Byte :=
  match x with
  | .plain bs => bs
  | .marker body off _ => withCrc (putStamp body off t)
  | .echo body _ _ => withCrc (putStamp body 16 t)

/-- The ABORT set (R387). -/
def abortSet : EdlSet := .plain (withCrc (leBytes 12 5))

/-- A port that has nothing to send. -/
def edlTx0 : EdlTx := { phase := 0, slots := [], cwseq := 0, sets := [], part := [], frames := [], now := [], abort := false, box := false, page := 0 }

/-- What waits to be sent at Edarlink port n. -/
def edlTx (s : State) (n : Nat) : EdlTx := SMap.getD s.edl.egress n edlTx0

/-- The state with what waits at port n replaced. -/
def setEdlTx (s : State) (n : Nat) (x : EdlTx) : State := s.setEdl { s.edl with egress := SMap.put s.edl.egress n x }

/-- An ordered set waits at a port: a MARKER goes before all others (R392). -/
def pushSet (s : State) (n : Nat) (x : EdlSet) : State :=
  let t := edlTx s n
  setEdlTx s n { t with sets := match x with
    | .marker _ _ _ => x :: t.sets
    | _ => t.sets ++ [x] }

/-- A port uses generation-1 framing (R410). -/
def edlGen1 (s : State) (n : Nat) : Bool := s.pwr.cmpt || rdB s (R.EDL_PORTn_CTL n) 11

/-- The class of a frame in the order of R392: 2 CTRL, 3 in transit, 4 local AUDIO and TSUM, 5 MAINT, 6 ETH. -/
def frameClass (transit : Bool) (f : EdlFrame) : Nat :=
  match f.type with
  | 3 => 2
  | 4 => 6
  | 5 => 5
  | _ => if transit then 3 else 4

/-- A frame waits at a port (R392); one cut off while it is forwarded ends after its header with ABORT (R391). -/
def pushFrame (s : State) (n : Nat) (transit cut : Bool) (f : EdlFrame) : State :=
  let t := edlTx s n
  let g := granules (frameBytes (edlGen1 s n) f)
  setEdlTx s n { t with frames := t.frames ++
    [{ cls := frameClass transit f, transit := transit, box := f.type == 5 && f.sub == 3, gran := if cut then g.take 1 else g, cut := cut }] }

end Sys2Proof.Machine
end

