-- ==== Sys2Proof/Machine/Vote.lean ====
section
/-! DEFINITION. The fields held in three copies, and what a read of one returns (R530). -/

namespace Sys2Proof.Machine

/-- Bits of a voted field. -/
def voteBits (field : Nat) : Nat :=
  match field with
  | 1 => 6
  | 2 => 3
  | 4 => 20
  | 5 => 1
  | 6 => 16
  | _ => 32

/-- The stored value of a voted field. -/
def voteStored (s : State) (field i : Nat) : Nat :=
  match field with
  | 1 => SMap.getD s.hp.tpart i 0
  | 2 => rdF s R.PAIR_STATE 2 0
  | 3 => (rd s R.PAIR_EPOCH).toNat
  | 4 => rdF s R.GLB_OUTEN 19 0
  | 5 => rdF s R.GLB_MUTE 0 0
  | 6 => rdF s R.SCN_EPOCH 15 0
  | _ => (rd s R.MLD_DIGEST).toNat

/-- A voted field stored. -/
def voteStore (s : State) (field i v : Nat) : State :=
  match field with
  | 1 => s.setHp { s.hp with tpart := SMap.putD 0 s.hp.tpart i v }
  | 2 => wrF s R.PAIR_STATE 2 0 v
  | 3 => wrF s R.PAIR_EPOCH 31 0 v
  | 4 => wrF s R.GLB_OUTEN 19 0 v
  | 5 => wrF s R.GLB_MUTE 0 0 v
  | 6 => wrF s R.SCN_EPOCH 15 0 v
  | _ => wrF s R.MLD_DIGEST 31 0 v

/-- Key of a copy of a voted field. -/
def voteKey (field i copy : Nat) : Nat := 4096 * field + 4 * (i % 1024) + copy % 4

/-- The copies of a field agree again: the field was written. -/
def voteClean (s : State) (field i : Nat) : State :=
  s.setHp { s.hp with voteDiff := (List.range 3).foldl (fun m c => SMap.del m (voteKey field i c)) s.hp.voteDiff }

/-- What a vote finds: the copies agree, copy c was corrected to a value, or the three disagree. -/
inductive Vote where
  | agree (v : Nat)
  | fixed (copy v : Nat)
  | triple (a b c : Nat)
  deriving DecidableEq, Repr

/-- The vote over three copies; a single bit that differs counts as a disagreement of three. -/
def voteOf (field a b c : Nat) : Vote :=
  if a = b ∧ b = c then .agree a
  else if field = 5 then .triple a b c
  else if b = c then .fixed 0 b
  else if a = c then .fixed 1 a
  else if a = b then .fixed 2 a
  else .triple a b c

/-- The value that the copies become in a disagreement of three. -/
def tripleValue (field a b c : Nat) : Nat :=
  match field with
  | 1 => 0
  | 2 => 2
  | 3 => max a (max b c)
  | 4 => a &&& b &&& c
  | 5 => 1
  | _ => (a &&& b) ||| (a &&& c) ||| (b &&& c)

/-- The vote of a field as its copies stand. -/
def voteNow (s : State) (field i : Nat) : Vote :=
  let v := voteStored s field i
  let cp := fun k => v ^^^ (SMap.getD s.hp.voteDiff (voteKey field i k) 0 % 2 ^ voteBits field)
  voteOf field (cp 0) (cp 1) (cp 2)

/-- What the copies of a field become in a disagreement of three: a device with EN = 0 is SOLO whatever its copies (R445).
[Log 13: DESIGN CHOICE] -/
def tripleNow (s : State) (field a b c : Nat) : Nat := if field = 2 ∧ rdB s R.PAIR_CFG 0 = false then 0 else tripleValue field a b c

/-- The value a vote returns. -/
def voteValue (s : State) (field i : Nat) : Nat :=
  match voteNow s field i with
  | .agree v => v
  | .fixed _ v => v
  | .triple a b c => tripleNow s field a b c

/-- STATE of `PAIR_STATE` (R445), the lease epoch and the scene epoch, as the device reads them (R530). -/
def pairState (s : State) : Nat := voteValue s 2 0
def pairEpoch (s : State) : Nat := voteValue s 3 0
def sceneEpoch (s : State) : Nat := voteValue s 6 0

/-- Words with STATE, the lease epoch and the scene epoch written: the copies agree. -/
def putPairState (s : State) (w : Word) : State := voteClean (wr s R.PAIR_STATE w) 2 0
def putPairEpoch (s : State) (e : Nat) : State := voteClean (wr s R.PAIR_EPOCH (BitVec.ofNat 32 e)) 3 0
def putSceneEpoch (s : State) (e : Nat) : State := voteClean (wrF s R.SCN_EPOCH 15 0 e) 6 0

end Sys2Proof.Machine
end

