-- ==== Sys2Proof/Machine/Operands.lean ====
section
/-! DEFINITION. The operand forms of a BAR0 access: which bits of a register a write reaches by its access types (R13,
R14, R16, R528), the alias quarters (R514) and the tenant window of a virtual function (R516). -/

namespace Sys2Proof.Machine

/-- The quarter an address lies in, for a quarter size of `q` bytes (R514, R516). -/
def quarterOf (q addr : Nat) : Quarter :=
  match addr / q % 4 with
  | 0 => .base
  | 1 => .set
  | 2 => .clear
  | _ => .toggle

/-- Registers whose copy exists once for every function (R517): the indirect port, the assembly buffers, the staged
descriptors, the selects and what they latch. -/
def perFn (off : Nat) : Bool :=
  decide (0x20100 ≤ off ∧ off < 0x20110) || off == R.UPD_FLUSH || off == R.UPD_DONE ||
  decide (0x58040 ≤ off ∧ off < 0x58100) || decide (0x60200 ≤ off ∧ off < 0x60214) ||
  decide (0x90060 ≤ off ∧ off < 0x9006C) || decide (0xB0400 ≤ off ∧ off < 0xB0500) ||
  decide (0xB0820 ≤ off ∧ off < 0xB0900)

/-- The key under which function fn finds the register at a BAR0 offset (R517). -/
def keyFor (fn off : Nat) : Nat := if perFn off then regKey fn off else off

/-- The LOCK bit of the block an offset lies in (R527, R562). -/
def locked (s : State) (off : Nat) : Bool := rdB s (R.GLB_LOCK) (off / 0x10000)

/-- Bits of a register that read zero and ignore writes in the present device state: its mould fields outside LAID and
LIFTING (R16). -/
def mouldHidden (s : State) (r : RegRow) : Nat := if running s then 0 else r.mould

/-- The RW bits a write reaches: not those a lock holds (R528), nor mould fields outside LAID and LIFTING (R16). -/
def writable (s : State) (r : RegRow) (off : Nat) : Nat :=
  let w := r.rw - (r.rw &&& mouldHidden s r)
  if locked s off then w - (w &&& r.lk) else w

/-- The word a register holds after a write of `v` in one of the four forms reaches its RW bits `m` (R514). -/
def applyForm (q : Quarter) (m : Nat) (cur v : Word) : Word :=
  let mw := BitVec.ofNat 32 m
  match q with
  | .base => (cur &&& ~~~mw) ||| (v &&& mw)
  | .set => cur ||| (v &&& mw)
  | .clear => cur &&& ~~~(v &&& mw)
  | .toggle => cur ^^^ (v &&& mw)

/-- A refused write of a locked field fires the lock-violation source, with the offset and the function in its detail
(R528, R539). -/
def lockViolation (s : State) (fn off : Nat) : State :=
  fireSrc s 18 0 (BitVec.ofNat 32 (off % 0x400000 + fn % 64 * 2 ^ 24))

/-- A write of a register by its access types alone (R513, R514, R519): RW bits, and the clear by sequence of an SC
register in the base quarter. -/
def plainWrite (s : State) (fn off : Nat) (q : Quarter) (v : Word) : State :=
  match regFind off with
  | none => s
  | some r =>
    let k := keyFor fn off
    let s1 := if locked s off && decide (r.lk ≠ 0) then lockViolation s fn off else s
    let cur := rd s1 k
    let new := applyForm q (writable s r off) cur v
    let new := if q = .base ∧ r.sc ≠ 0 then scClear new v else new
    wr s1 k new

/-- The word a read of a register returns from its stored word: mould fields read zero outside LAID and LIFTING (R16),
WO bits read zero (R13). -/
def plainRead (s : State) (fn off : Nat) : Word :=
  match regFind off with
  | none => 0
  | some r => rd s (keyFor fn off) &&& ~~~(BitVec.ofNat 32 (mouldHidden s r)) &&& ~~~(BitVec.ofNat 32 r.wo)

/-- The value of a declared or share item of the mould in force (R607): zero where no item lays it. -/
def item (s : State) (key : Nat) : Nat := (SMap.getD s.mld.items key 0).toNat

/-- KEY of a declared item: code and index (R607, R608). -/
def declKey (code index : Nat) : Nat := 2 ^ 28 + index % 4096 * 2 ^ 16 + code

/-- KEY of a share item: tenant, index and code (R607, R608). -/
def shareKey (code tenant index : Nat) : Nat := 2 * 2 ^ 28 + tenant % 1024 * 2 ^ 18 + index % 32 * 2 ^ 8 + code

/-- A tenant's share of a budget, if TENANTS lays one (R85). -/
def share (s : State) (code tenant index : Nat) : Option Nat :=
  (SMap.get s.mld.items (shareKey code tenant index)).map BitVec.toNat

/-- The function bound to a tenant, by the binding in force (R518). [Log 116: DEDUCED] -/
def tenantFn (s : State) (t : Nat) : Nat := voteValue s 1 t

/-- Whether function fn reaches tenant t: PF0 reaches every tenant (R518). [Log 71: DEDUCED, 116: DEDUCED] -/
def reachesTenant (s : State) (fn t : Nat) : Bool := fn == 0 || tenantFn s t == fn

/-- The first of the tenants below n that owns object `obj` by a range item of the given code (R608: 0x12 to 0x18). -/
def ownerIn (s : State) (code obj : Nat) : Nat → Option Nat
  | 0 => none
  | n + 1 =>
    match ownerIn s code obj n with
    | some t => some t
    | none =>
      if (List.range 4).any (fun r =>
          match SMap.get s.mld.items (declKey code (r * 1024 + n)) with
          | some v => decide (fld v 15 0 ≤ obj ∧ obj ≤ fld v 31 16)
          | none => false)
      then some n else none

/-- The tenant that owns an object of one of the kinds of R608, codes 0x12 to 0x18. -/
def owner (s : State) (code obj : Nat) : Option Nat := ownerIn s code obj (item s (declKey 0x10 0))

/-- Whether function fn reaches such an object: one that no range holds is PF0's alone (R608). -/
def reachesObj (s : State) (fn code obj : Nat) : Bool :=
  fn == 0 || (match owner s code obj with
    | some t => tenantFn s t == fn
    | none => false)

/-- EN and FN of an event target (R547). -/
def tgtBind (s : State) (t : Nat) : Bool × Nat :=
  let w := rd s (if t < 4 then R.EVC_TGTBIND0 else R.EVC_TGTBIND1)
  (bit w (8 * (t % 4) + 7), fld w (8 * (t % 4) + 5) (8 * (t % 4)))

/-- A target is bound to a function only while its EN bit is 1 and its FN names it (R547). -/
def tgtBoundTo (s : State) (t fn : Nat) : Bool := (tgtBind s t).1 && (tgtBind s t).2 == fn

/-- The ranges of a tenant window: first offset, length in bytes, BAR0 offset of the first (R516, R547). -/
def windowRanges : List (Nat × Nat × Nat) :=
  [(0x0000, 0x10, 0x20100), (0x0100, 0x100, 0x37000), (0x0200, 0x100, 0x40000), (0x0400, 0x100, 0x58000),
    (0x0600, 0x100, 0x60200), (0x0700, 0x100, 0x90000), (0x0800, 0x100, 0xB0400), (0x0900, 0x100, 0xB0800),
    (0x0A00, 0x400, 0xE1000), (0x0E00, 0x200, 0x21000), (0x1000, 0x1000, 0x38000), (0x2000, 0x1000, 0x91000),
    (0x3000, 0x4000, 0xA1000), (0xF000, 0x1000, 0x18000)]

/-- The BAR0 offset that an offset in the base quarter of a function's BAR0 stands for (R514, R516): in a virtual function, that of
its tenant window, none outside the ranges. -/
def barOffset (fn a : Nat) : Option Nat :=
  if fn = 0 then some a
  else (windowRanges.find? (fun r => decide (r.1 ≤ a ∧ a < r.1 + r.2.1))).map (fun r => a - r.1 + r.2.2)

/-- The doorbell register of a target (R546). -/
def tgtDoorbell (off : Nat) : Bool := (List.range 8).any (fun t => R.EVC_TGTt_DB t == off)

/-- Whether function fn reaches the register at a BAR0 offset: PF0 reaches all; a virtual function reaches its window's
registers (R516), of objects bound to it (R517), once the device is LAID (R97), and a doorbell bound to it in every state (R543). -/
def reach (s : State) (fn off : Nat) : Bool :=
  fn == 0 || (tgtDoorbell off && tgtBoundTo s ((off - 0x18000) / 0x200) fn) ||
  (running s && (
    decide (0x20100 ≤ off ∧ off < 0x20110) ||
    decide (off = R.UPD_FLUSH ∨ off = R.UPD_FREE ∨ off = R.UPD_DONE) ||
    decide (0x40050 ≤ off ∧ off < 0x40058) || decide (0x40080 ≤ off ∧ off < 0x400C0) ||
    decide (0x58040 ≤ off ∧ off < 0x58100) ||
    decide (0x60200 ≤ off ∧ off < 0x60214) || decide (0x90060 ≤ off ∧ off < 0x9006C) ||
    decide (0xB0400 ≤ off ∧ off < 0xB0500) || decide (0xB0820 ≤ off ∧ off < 0xB0900) ||
    (decide (0xE1000 ≤ off ∧ off < 0xE1400) && reachesObj s fn 0x18 ((off - 0xE1000) / 16)) ||
    (decide (0x21000 ≤ off ∧ off < 0x21200) && decide (off % 0x40 ≠ 0) &&
      rdF s (R.HOST_DMAc_CFG ((off - 0x21000) / 0x40)) 13 8 == fn) ||
    decide (0x38000 ≤ off ∧ off < 0x39000) ||
    (decide (0x91000 ≤ off ∧ off < 0x92000) && tenantFn s ((off - 0x91000) / 4) == fn) ||
    (decide (0xA1000 ≤ off ∧ off < 0xA5000) &&
      tenantFn s (rdF s (R.SEQn_CFG ((off - 0xA1000) / 0x80)) 29 20) == fn) ||
    (decide (0x18000 ≤ off ∧ off < 0x19000) && tgtBoundTo s ((off - 0x18000) / 0x200) fn)))

/-- A BAR0 access of function fn to a register takes place: the device has reached BARE (R93), and the function reaches
the register. [Log 141: DESIGN CHOICE] -/
def accessOk (s : State) (fn off : Nat) : Bool := barUp s && reach s fn off

/-- The blocks whose BAR0 writes an active pair member mirrors (R462): not SC registers, commits or migrations. -/
def mirrorBar0 (off : Nat) : Bool :=
  let o := off % 0x400000
  let b := o / 0x10000
  (b == 4 || (b == 5 && !etgCfg o) || b == 6 || b == 7 || b == 9 || b == 0xA ||
    (decide (0xB0800 ≤ o) && decide (o < 0xB0900)) || (decide (0xB0400 ≤ o) && decide (o < 0xB0500)) ||
    o == R.UPD_CTL || o == R.UPD_FLUSH || (decide (0x38000 ≤ o) && decide (o < 0x39000))) &&
    !(o == R.TRL_MIG_M || o == R.TRL_MIG_DEV || o == R.TRL_MIG_CTL) &&
    (match regFind o with | some r => r.sc == 0 | none => true)
where etgCfg (o : Nat) : Bool := (List.range 16).any (fun p => R.ETH_PORTp_CFG p == o)

/-- The bytes of a MIRROR payload (R463). [Log 100: DEDUCED] -/
def mirrorBytes (recs : List MirrorRec) (fin : Bool) : List Byte :=
  leBytes 2 recs.length ++ leBytes 1 (b2n fin) ++ List.replicate 13 0 ++
    (recs.map (fun r => leBytes 4 r.addr ++ leBytes 4 r.data.toNat ++ leBytes 1 r.kind ++ leBytes 1 r.sel ++ leBytes 2 r.fn ++
      List.replicate 4 0)).flatten

/-- A MIRROR frame of set e leaves on the pair port, where that is UP (R463). [Log 100: DEDUCED] -/
def mirrorSend (s : State) (e : Nat) (recs : List MirrorRec) (fin : Bool) : State :=
  let n := rdF s R.PAIR_CFG 2 1
  if rdF s (R.EDL_PORTn_LINK n) 2 0 = 4 then
    pushFrame s n false false
      { type := 5, len := recs.length + 1, src := rdF s R.EDL_CFG 11 0, dst := rdF s R.PAIR_CFG 27 16, block := e % 2 ^ 32
        epoch := sceneEpoch s, lepoch := pairEpoch s % 65536, hops := 0, emix := false, late := false, sub := 4
        payload := mirrorBytes recs fin }
  else s

/-- A host write that an active pair member mirrors (R462, R464): under MSYNC it is held, else it takes place at once. -/
def mirrored (s : State) (r : MirrorRec) (go : State → State) : State :=
  if rdB s R.PAIR_CFG 0 && pairState s == 1 then
    let s1 := mirrorSend s s.dkl.num [r] false
    if rdB s R.PAIR_CFG 4 then s1.setPair { s1.pair with heldWrites := s1.pair.heldWrites ++ [(s.dkl.num, r)] } else go s1
  else go s

/-- A write of v by function fn to a BAR0 register, base quarter: what it does is `go`. -/
def hostWriteAs (s : State) (fn off : Nat) (v : Word) (go : State → State) : State :=
  if !accessOk s fn off then s
  else if mirrorBar0 off then mirrored s { addr := off, data := v, kind := 0, sel := 0, fn := fn } go
  else go s

/-- A write of v by function fn to a word of an indirect space (R462, R525). -/
def indWriteAs (s : State) (fn sel a : Nat) (v : Word) (go : State → State) : State :=
  if sel = 8 ∨ sel = 10 then go s else mirrored s { addr := a, data := v, kind := 2, sel := sel, fn := fn } go

end Sys2Proof.Machine
end

