-- ==== Sys2Proof/Machine/Events.lean ====
section
/-! DEFINITION. The event controller of chapter 20: sources, rings, delivery, the running-priority stack, and the register
writes of its block. -/

namespace Sys2Proof.Machine

/-- Priority of a source (`EVC_SRCn_CFG.PRIO`). -/
def srcPrio (s : State) (n : Nat) : Nat := rdF s (R.EVC_SRCn_CFG n) 7 4

/-- Target of a source (`EVC_SRCn_CFG.TARGET`). -/
def srcTarget (s : State) (n : Nat) : Nat := rdF s (R.EVC_SRCn_CFG n) 10 8

/-- Sense mode of a source (`EVC_SRCn_CFG.SENSE`). -/
def srcSense (s : State) (n : Nat) : Nat := rdF s (R.EVC_SRCn_CFG n) 2 0

/-- The level sources: the dual-channel pairs (R580) and the GPIO pins (R540). -/
def levelSource (n : Nat) : Bool := decide (227 ≤ n ∧ n ≤ 242) || decide (384 ≤ n ∧ n ≤ 447)

/-- The level sources in ascending order. -/
def levelSources : List Nat := (List.range 16).map (· + 227) ++ (List.range 64).map (· + 384)

/-- A sense mode that source n allows (R541). -/
def senseAllowed (n m : Nat) : Bool := m == 0 || m == 2 || (levelSource n && decide (m = 1 ∨ m = 3 ∨ m = 4))

/-- A source is pending while it carries a firing (R544). -/
def srcPending (s : State) (n : Nat) : Bool := (SMap.get s.ev.firings n).isSome

/-- Mask bit of a source (R544). -/
def srcMasked (s : State) (n : Nat) : Bool := rdB s (R.EVC_MASKw (n / 32)) (n % 32)

/-- Active bit of a source (R544). -/
def srcActive (s : State) (n : Nat) : Bool := rdB s (R.EVC_ACTw (n / 32)) (n % 32)

/-- The state with the active bit of a source written. -/
def setActive (s : State) (n : Nat) (b : Bool) : State := wrF s (R.EVC_ACTw (n / 32)) (n % 32) (n % 32) (b2n b)

/-- The event-tick number that a record carries: the number in the deckle, or the free count without a deckle tick
(R549). -/
def recTick (s : State) : Nat := if running s then s.dkl.evt else s.dkl.free % 65536

/-- The deckle number that a record carries (R549). -/
def recDeckle (s : State) : Nat := if running s then s.dkl.num % 2 ^ 32 else 0

/-- A firing of a source (R544, R549): it becomes pending, or its firing folds into the pending one. -/
def fireNow (s : State) (n kind tenant : Nat) (detail : Word) : State :=
  let old := SMap.get s.ev.firings n
  let f : Firing :=
    { kind := kind, tenant := tenant, deckle := recDeckle s, tick := recTick s, detail := detail,
      coal := old.isSome, waited := (old.map Firing.waited).getD false }
  s.setEv { s.ev with firings := SMap.put s.ev.firings n f }

/-- A firing by hardware: sources 32 to 511 fire only in LAID and LIFTING (R543). [Log 14: DEDUCED] -/
def fireHw (s : State) (n kind tenant : Nat) (detail : Word) : State :=
  if n < 32 ∨ running s = true then fireNow s n kind tenant detail else s

/-- Detail word of a level source (R580). -/
def levelDetail (s : State) (n : Nat) : Word :=
  if 384 ≤ n then BitVec.ofNat 32 (n - 384 + b2n (s.ev.level.testBit n) * 256)
  else BitVec.ofNat 32 (n - 227 + b2n (s.ev.level.testBit n) * 256
    + b2n (rdB s R.DCI_STATE (16 + (n - 227))) * 512)

/-- A level-sensed source is at its firing level (R541). -/
def atLevel (s : State) (n : Nat) : Bool :=
  (srcSense s n == 3 && s.ev.level.testBit n) || (srcSense s n == 4 && !s.ev.level.testBit n)

/-- Whether a source was named by a pop of this event tick (R554). -/
def popped (s : State) (n : Nat) : Bool := s.ev.pops.any (fun p => p.1 == srcTarget s n && p.2 == srcPrio s n)

/-- What a level source does in step 3 of an event tick: it is queued again after a pop (KIND 2, R554), or fires by its
sense mode (KIND 1 by level, 0 by edge: R541, R549). -/
def levelFire (s : State) (n : Nat) : State :=
  let now := s.ev.level.testBit n
  let before := s.ev.prevLevel.testBit n
  let d := levelDetail s n
  if popped s n && atLevel s n then fireHw s n 2 0 d
  else match srcSense s n with
    | 0 => if now && !before then fireHw s n 0 0 d else s
    | 1 => if !now && before then fireHw s n 0 0 d else s
    | 2 => if now != before then fireHw s n 0 0 d else s
    | 3 => if now && !srcPending s n && !srcActive s n then fireHw s n 1 0 d else s
    | 4 => if !now && !srcPending s n && !srcActive s n then fireHw s n 1 0 d else s
    | _ => s

/-- A firing that step 3 takes: source, kind, tenant and detail. -/
abbrev Fire := Nat × Nat × Nat × Word

/-- Insertion into a list of firings in ascending source number, after those of the same source (R55). -/
def insFire (f : Fire) : List Fire → List Fire
  | [] => [f]
  | g :: l => if f.1 < g.1 then f :: g :: l else g :: insFire f l

/-- The condition requests of one SC register: bits, source, tenant and detail of each. -/
def condsOf (reg : Nat) : List HwReq → List (Nat × Nat × Nat × Detail)
  | [] => []
  | .cond r src b _ t d :: l => if r = reg then (b.toNat, src, t, d) :: condsOf reg l else condsOf reg l
  | _ :: l => condsOf reg l

/-- The conditions of one SC register that are set anew in this event tick, standing or not (R330, R443). -/
def againOf (reg : Nat) : List HwReq → Nat
  | [] => 0
  | .again r b :: l => if r = reg then b.toNat ||| againOf reg l else againOf reg l
  | _ :: l => againOf reg l

/-- The last firing of each source among the requests of one register: one new setting raises one firing (R519). -/
def lastPerSrc : List Fire → List Fire
  | [] => []
  | f :: l => if l.any (fun g => g.1 == f.1) then lastPerSrc l else f :: lastPerSrc l

/-- The detail word of a new setting (R519). -/
def detailWord (new cap : Nat) : Detail → Word
  | .newBits | .capture _ => BitVec.ofNat 32 (new + cap % 8 * 2 ^ 24)
  | .marked add | .every add => BitVec.ofNat 32 (new + add)
  | .word w => w

/-- The capture input that the conditions of one new setting name, the last of them (R488). -/
def captureOf (new : Nat) (rs : List (Nat × Nat × Nat × Detail)) : Nat :=
  ((rs.filterMap (fun r => match r.2.2.2 with
    | .capture k => if (r.1 &&& new) ≠ 0 then some k else none
    | _ => none)).getLast?).getD 0

/-- A request of a condition fires its source: with a bit newly set, or at every setting (R467, R519). -/
def settingFires (new : Nat) (r : Nat × Nat × Nat × Detail) : Bool :=
  decide (r.2.1 < 512) && (decide ((r.1 &&& new) ≠ 0) || (match r.2.2.2 with | .every _ => true | _ => false))

/-- The tenant of a record of an SC register: that of the setting, but in `TRL_STAT` that of the latest one, whose bus `TRL_LAST` names
(R443). -/
def settingTenant (reg : Nat) (rs : List (Nat × Nat × Nat × Detail)) (t : Nat) : Nat :=
  if reg = R.TRL_STAT then (rs.getLast?).elim t (fun r => r.2.2.1) else t

/-- The new setting of one SC register in this event tick (R519): the register set, and the firings it raises (a condition
whose unit fires its source by itself names source 512). -/
def settleCond (s : State) (reg : Nat) : State × List Fire :=
  let rs := condsOf reg s.ev.reqs
  let cur := rd s reg
  let all : Nat := rs.foldl (fun a r => a ||| r.1) 0
  let again := againOf reg s.ev.reqs
  let new := (all - (all &&& scConds cur)) ||| (all &&& again)
  let fires : List Fire := rs.filterMap (fun (r : Nat × Nat × Nat × Detail) =>
    if settingFires new r then
      some (r.2.1, 0, settingTenant reg rs r.2.2.1, detailWord (if new &&& r.1 = 0 then new ||| r.1 else new) (captureOf new rs) r.2.2.2)
    else none)
  (wr s reg (scSet cur all again), lastPerSrc fires)

/-- The SC registers named by the requests, each once, in order of first request. -/
def condRegs : List HwReq → List Nat
  | [] => []
  | .cond r .. :: l => r :: (condRegs l).filter (· ≠ r)
  | _ :: l => condRegs l

/-- The registers that requests write with their settings (the LAST registers of the units). -/
def applyLasts (s : State) : List HwReq → State
  | [] => s
  | .cond _ _ _ ls _ _ :: l => applyLasts (wrAll s ls) l
  | _ :: l => applyLasts s l

/-- The pulse and doorbell firings among the requests, in order of arrival (R540, R546). -/
def pulseFires : List HwReq → List Fire
  | [] => []
  | .fire n t d :: l => (n, 0, t, d) :: pulseFires l
  | .bell n d :: l => (n, 4, 0, d) :: pulseFires l
  | _ :: l => pulseFires l

/-- Settling of every SC register that the event tick touches. [Log 14: DEDUCED] -/
def settleAll (s : State) : List Nat → State × List Fire
  | [] => (s, [])
  | r :: l =>
    let p := settleCond s r
    let q := settleAll p.1 l
    (q.1, p.2 ++ q.2)

/-- One firing of step 3. [Log 14: DEDUCED] -/
def applyFire (s : State) (f : Fire) : State := fireHw s f.1 f.2.1 f.2.2.1 f.2.2.2

/-- Step 3 of an event tick: hardware events in ascending source number (R55). Doorbells work in every state (R543). -/
def hwEvents (s : State) : State :=
  let s0 := applyLasts s s.ev.reqs
  let p := settleAll s0 (condRegs s.ev.reqs)
  let fires := (p.2 ++ pulseFires s.ev.reqs).foldl (fun l f => insFire f l) []
  let low := fires.filter (fun f => decide (f.1 < 227))
  let mid := fires.filter (fun f => decide (227 ≤ f.1 ∧ f.1 < 384))
  let high := fires.filter (fun f => decide (384 ≤ f.1))
  let s1 := low.foldl applyFire p.1
  let s2 := ((List.range 16).map (· + 227)).foldl levelFire s1
  let s3 := mid.foldl applyFire s2
  let s4 := ((List.range 64).map (· + 384)).foldl levelFire s3
  let s5 := high.foldl (fun t f => if 448 ≤ f.1 then fireNow t f.1 f.2.1 f.2.2.1 f.2.2.2 else t) s4
  s5.setEv { s5.ev with reqs := [], pops := [], prevLevel := s5.ev.level }

/-- Step 4 of an event tick: software set-pendings (R55, R545). -/
def setPendings (s : State) : State :=
  let s1 := s.ev.setp.foldl (fun t n => fireNow t n 3 0 0) s
  s1.setEv { s1.ev with setp := [] }

/-- Size of ring p of target t in records (R548). -/
def ringSize (s : State) (t p : Nat) : Nat := 2 ^ (6 + rdF s (R.EVC_TGTt_RINGp_BASE_LO t p) 3 0)

/-- A ring is armed (R548). -/
def ringArmed (s : State) (t p : Nat) : Bool := rdB s (R.EVC_TGTt_RINGp_BASE_LO t p) 9

/-- Records a ring holds: PROD − CONS (R548). -/
def ringCount (s : State) (t p : Nat) : Nat :=
  (rd s (R.EVC_TGTt_RINGp_PROD t p) - rd s (R.EVC_TGTt_RINGp_CONS t p)).toNat

/-- The levels on the running-priority stack of a target, as the bits of `EVC_TGTt_RUN.LEVELS`. -/
def stackLevels (s : State) (t : Nat) : Nat := rdF s (R.EVC_TGTt_RUN t) 15 0

/-- The state with the running-priority stack of a target replaced. -/
def setStack (s : State) (t levels : Nat) : State :=
  wr s (R.EVC_TGTt_RUN t)
    (BitVec.ofNat 32 (levels + popCount 16 levels * 65536 + (if levels = 0 then 2 ^ 31 else 0)))

/-- A ring is eligible: armed, not empty, and its priority above the running priority (R552). -/
def ringEligible (s : State) (t p : Nat) : Bool :=
  ringArmed s t p && ringCount s t p != 0 &&
    (match highestBit 16 (stackLevels s t) with
     | none => true
     | some rp => decide (rp < p))

/-- The highest eligible ring of a target among priorities below n. -/
def bestRing (s : State) (t : Nat) : Nat → Option Nat
  | 0 => none
  | n + 1 => if ringEligible s t n then some n else bestRing s t n

/-- The message of entry t of a function's table (R512, R556). -/
def msixMsg (s : State) (fn t : Nat) : Output :=
  let e := SMap.getD s.ev.msixTab (8 * fn + t) (0, 0)
  .msix fn t e.1 e.2

/-- Word w of entry t of the MSI-X table in BAR4 of a function (R512): address, data, and the mask bit. [Log 16: PRESUMED] -/
def msixWord (s : State) (fn t w : Nat) : Word :=
  let e := SMap.getD s.ev.msixTab (8 * fn + t) (0, 0)
  match w with
  | 0 => BitVec.ofNat 32 e.1
  | 1 => BitVec.ofNat 32 (e.1 / 2 ^ 32)
  | 2 => e.2
  | _ => BitVec.ofNat 32 (b2n (!s.ev.msixOpen.contains (8 * fn + t)))

/-- The pending-bit array in BAR4 of a function (R512, R556). [Log 16: PRESUMED] -/
def msixPba (s : State) (fn : Nat) : Nat := (List.range 8).foldl (fun v t => v + b2n (s.ev.msixPend.contains (8 * fn + t)) * 2 ^ t) 0

/-- The message of a target (R556): sent through an unmasked entry, held by a masked one, dropped while MSI-X or bus
mastering of the function is disabled. [Log 15: DEDUCED] -/
def sendMsi (s : State) (t : Nat) : State :=
  let fn := (tgtBind s t).2
  if s.ev.msixOn.contains fn && decide (fn ≤ s.hp.vfs) then
    if s.ev.msixOpen.contains (8 * fn + t) then emit s (msixMsg s fn t)
    else s.setEv { s.ev with msixPend := if s.ev.msixPend.contains (8 * fn + t) then s.ev.msixPend else s.ev.msixPend ++ [8 * fn + t] }
  else s

/-- The four words of a record (R549). -/
def recordWords (n p rseq : Nat) (f : Firing) : List Word :=
  [BitVec.ofNat 32 (n + p * 2 ^ 9 + f.kind * 2 ^ 13 + f.tenant % 1024 * 2 ^ 16 + b2n f.coal * 2 ^ 26),
   BitVec.ofNat 32 f.deckle,
   BitVec.ofNat 32 (f.tick % 65536 + rseq % 65536 * 65536),
   f.detail]

/-- Delivery of one pending source (R550), or its first failed attempt (R551); that of source 19 itself sets nothing while WAIT stands
(R561). -/
def deliverOne (s : State) (n : Nat) : State :=
  match SMap.get s.ev.firings n with
  | none => s
  | some f =>
    if srcMasked s n then s else
    let t := srcTarget s n
    let p := srcPrio s n
    let cnt := ringCount s t p
    if (tgtBind s t).1 && ringArmed s t p && decide (cnt < ringSize s t p) then
      let prod := rd s (R.EVC_TGTt_RINGp_PROD t p)
      let base := (rd s (R.EVC_TGTt_RINGp_BASE_LO t p)).toNat / 1024 * 1024
        + (rd s (R.EVC_TGTt_RINGp_BASE_HI t p)).toNat * 2 ^ 32
      let rs := SMap.getD s.ev.rseq (16 * t + p) 0
      let s1 := emit s (.hostWrite (tgtBind s t).2 (base + 16 * (prod.toNat % ringSize s t p)) (recordWords n p rs f))
      let s2 := wr s1 (R.EVC_TGTt_RINGp_PROD t p) (prod + 1)
      let s3 := setActive (s2.setEv { s2.ev with
        firings := SMap.del s2.ev.firings n, rseq := SMap.put s2.ev.rseq (16 * t + p) ((rs + 1) % 65536) }) n true
      if cnt = 0 && ringEligible s3 t p then sendMsi s3 t else s3
    else if f.waited || (n == 19 && rdB s R.EVC_STAT 0) then s
    else
      let s1 := s.setEv { s.ev with firings := SMap.put s.ev.firings n { f with waited := true } }
      setCondWith s1 R.EVC_STAT 19 1
        [(R.EVC_LAST, BitVec.ofNat 32 (t * 2 ^ 24 + p * 2 ^ 16 + n))] 0 .newBits

/-- Delivery after step 4: every pending source in ascending number (R550). [Log 15: DEDUCED] -/
def deliverAll (s : State) : State := (s.ev.firings.map Prod.fst).foldl deliverOne s

/-- The messages of targets popped in this event tick that still have an eligible ring (R556). [Log 15: DEDUCED] -/
def popMessages (s : State) (pops : List (Nat × Nat)) : State :=
  (List.range 8).foldl (fun u t =>
    if pops.any (fun p => p.1 == t) && (bestRing u t 16).isSome then sendMsi u t else u) s

/-- Steps 3 and 4 of an event tick, and its deliveries (R55, R550, R556). -/
def eventTickCore (s : State) : State := popMessages (deliverAll (setPendings (hwEvents s))) s.ev.pops

/-- The conditions of `EVC_STAT` with `EVC_LAST` (R548, R553, R561). [Log 17: DESIGN CHOICE] -/
def evcCond (s : State) (cond t p n : Nat) : State :=
  setCondWith s R.EVC_STAT 19 (2 ^ cond)
    [(R.EVC_LAST, BitVec.ofNat 32 (cond * 2 ^ 30 + t * 2 ^ 24 + p * 2 ^ 16 + n))] 0 .newBits

/-- A new word of `EVC_SRCn_CFG` (R541, R542): ignored as a whole where its SENSE is not allowed; a change clears the
active bit. [Log 17: DESIGN CHOICE] -/
def writeSrcCfg (s : State) (n : Nat) (w : Word) : State :=
  if senseAllowed n (fld w 2 0) then
    if w = rd s (R.EVC_SRCn_CFG n) then s else setActive (wr s (R.EVC_SRCn_CFG n) w) n false
  else evcCond s 3 (srcTarget s n) (srcPrio s n) n

/-- Disarming of the 16 rings of a target, and the emptying of its stack (R547, R558). -/
def resetTarget (s : State) (t : Nat) : State :=
  setStack ((List.range 16).foldl (fun u p => wrF u (R.EVC_TGTt_RINGp_BASE_LO t p) 9 9 0) s) t 0

/-- A new word of `EVC_TGTBIND0` or `EVC_TGTBIND1` (R547): each target whose FN or EN changes is disarmed.
[Log 17: DESIGN CHOICE] -/
def writeTgtBind (s : State) (hi : Bool) (w : Word) : State :=
  let off := if hi then R.EVC_TGTBIND1 else R.EVC_TGTBIND0
  let old := rd s off
  (List.range 4).foldl (fun u k =>
    if bit old (8 * k + 7) = bit w (8 * k + 7) ∧ fld old (8 * k + 5) (8 * k) = fld w (8 * k + 5) (8 * k) then u
    else resetTarget u (k + if hi then 4 else 0)) (wr s off w)

/-- A new word of `_BASE_LO` (R548): it arms or disarms the ring, or is ignored with CFGERR. [Log 17: DESIGN CHOICE] -/
def writeRingBase (s : State) (t p : Nat) (w : Word) : State :=
  if 10 < fld w 3 0 then evcCond s 3 t p 0
  else
    let s1 := wr s (R.EVC_TGTt_RINGp_BASE_LO t p) w
    if bit w 9 then
      let s2 := wr (wr s1 (R.EVC_TGTt_RINGp_PROD t p) 0) (R.EVC_TGTt_RINGp_CONS t p) 0
      s2.setEv { s2.ev with rseq := SMap.del s2.ev.rseq (16 * t + p) }
    else s1

/-- A new word of `_CONS` (R548): ignored with CONSERR where PROD − CONS would exceed the size. -/
def writeCons (s : State) (t p : Nat) (w : Word) : State :=
  if ringSize s t p < (rd s (R.EVC_TGTt_RINGp_PROD t p) - w).toNat then evcCond s 2 t p 0
  else wr s (R.EVC_TGTt_RINGp_CONS t p) w

/-- Sources 32 w + j of the bits written as 1 in word w. -/
def wordSources (w : Nat) (v : Word) : List Nat := ((List.range 32).filter (fun j => bit v j)).map (· + 32 * w)

/-- A write of `EVC_PCLRw` (R544). -/
def clearPending (s : State) (w : Nat) (v : Word) : State :=
  (wordSources w v).foldl (fun u n => u.setEv { u.ev with firings := SMap.del u.ev.firings n }) s

/-- A write of `EVC_SETPw`: it takes effect in step 4 (R545, R57). -/
def writeSetp (s : State) (w : Nat) (v : Word) : State :=
  s.setEv { s.ev with setp := s.ev.setp ++ wordSources w v }

/-- A doorbell write (R546): accepted only from the function to which the target is bound. -/
def writeDoorbell (s : State) (fn t : Nat) (v : Word) : State :=
  if tgtBoundTo s t fn then
    request s (.bell (448 + fld v 5 0) (BitVec.ofNat 32 (fld v 31 8 + fn % 64 * 2 ^ 24)))
  else s

/-- The word a read of `EVC_TGTt_ACK` returns, and the priority it pushes (R552). -/
def ackWord (s : State) (t : Nat) : Word × Option Nat :=
  match bestRing s t 16 with
  | some p => (BitVec.ofNat 32 (2 ^ 31 + p * 2 ^ 20 + ringCount s t p % 2 ^ 17), some p)
  | none => (0, none)

/-- A read of `EVC_TGTt_ACK` (R552). -/
def readAck (s : State) (t : Nat) : State :=
  match ackWord s t with
  | (w, some p) => (setStack s t (stackLevels s t ||| 2 ^ p)).setAns w
  | (w, none) => s.setAns w

/-- A write of `EVC_TGTt_EOI` (R553, R554). -/
def writeEoi (s : State) (t : Nat) : State :=
  match highestBit 16 (stackLevels s t) with
  | none => evcCond s 1 t 0 0
  | some p =>
    let s1 := setStack s t (stackLevels s t - 2 ^ p)
    let s2 := (List.range 512).foldl (fun u n =>
      if srcActive u n && srcTarget u n == t && srcPrio u n == p then setActive u n false else u) s1
    s2.setEv { s2.ev with pops := s2.ev.pops ++ [(t, p)] }

/-- `EVC_TGTt_RINGS` (R556). -/
def ringsWord (s : State) (t : Nat) : Word :=
  BitVec.ofNat 32 ((List.range 16).foldl (fun a p =>
    a + b2n (ringArmed s t p) * 2 ^ (16 + p) + b2n (ringCount s t p != 0) * 2 ^ p) 0)

/-- Word w of a 512-bit set of sources. -/
def sourceWord (f : Nat → Bool) (w : Nat) : Word :=
  BitVec.ofNat 32 ((List.range 32).foldl (fun a j => a + b2n (f (32 * w + j)) * 2 ^ j) 0)

/-- The registers of the block whose value is that of the moment of the read: none for every other offset. -/
def evcLive (s : State) (off : Nat) : Option Word :=
  if 0x10100 ≤ off ∧ off < 0x10140 then some (sourceWord (srcPending s) ((off - 0x10100) / 4))
  else if 0x10240 ≤ off ∧ off < 0x10280 then
    some (sourceWord (fun n => levelSource n && s.ev.level.testBit n) ((off - 0x10240) / 4))
  else if 0x18000 ≤ off ∧ off < 0x19000 ∧ off % 0x200 = 0 then some (ackWord s ((off - 0x18000) / 0x200)).1
  else if 0x18000 ≤ off ∧ off < 0x19000 ∧ off % 0x200 = 0x10 then some (ringsWord s ((off - 0x18000) / 0x200))
  else none

/-- A write of a register of the block (R513), by the word that its access types give (`w`) and the word written (`v`);
`q` is the form of the write. Answers none for a register without an effect of its own. -/
def evcWrite (s : State) (fn off : Nat) (q : Quarter) (w v : Word) : Option State :=
  if off = R.EVC_TGTBIND0 then some (writeTgtBind s false w)
  else if off = R.EVC_TGTBIND1 then some (writeTgtBind s true w)
  else if 0x10140 ≤ off ∧ off < 0x10180 then some (if q = .base then clearPending s ((off - 0x10140) / 4) v else s)
  else if 0x10180 ≤ off ∧ off < 0x101C0 then some (if q = .base then writeSetp s ((off - 0x10180) / 4) v else s)
  else if 0x11000 ≤ off ∧ off < 0x11800 then some (writeSrcCfg s ((off - 0x11000) / 4) w)
  else if 0x18000 ≤ off ∧ off < 0x19000 then
    let t := (off - 0x18000) / 0x200
    let o := off % 0x200
    if o = 4 then some (if q = .base then writeEoi s t else s)
    else if o = 0xC then some (if q = .base then writeDoorbell s fn t v else s)
    else if 0x100 ≤ o ∧ o % 16 = 0 then some (writeRingBase s t ((o - 0x100) / 16) w)
    else if 0x100 ≤ o ∧ o % 16 = 0xC then some (writeCons s t ((o - 0x100) / 16) w)
    else none
  else none

/-- The word a register would hold after a write, by its access types alone (R13, R514, R528). -/
def newWord (s : State) (fn off : Nat) (q : Quarter) (v : Word) : Word :=
  match regFind off with
  | none => 0
  | some r => applyForm q (writable s r off) (rd s (keyFor fn off)) v

/-- PCLR (R544): a write of 1 clears pending bits; the register lies outside the tenant windows. -/
def execPclr (fn : BitVec 6) (w : BitVec 4) (v : Word) (s : State) : Host.Outcome State Fault Refusal :=
  .next (if accessOk s fn.toNat (R.EVC_PCLRw w.toNat) then clearPending s w.toNat v else s)

/-- SET_PENDING (R545). -/
def execSetPending (fn : BitVec 6) (w : BitVec 4) (v : Word) (s : State) : Host.Outcome State Fault Refusal :=
  .next (if accessOk s fn.toNat (R.EVC_SETPw w.toNat) then writeSetp s w.toNat v else s)

/-- DOORBELL (R546). -/
def execDoorbell (fn : BitVec 6) (t : BitVec 3) (v : Word) (s : State) : Host.Outcome State Fault Refusal :=
  .next (if accessOk s fn.toNat (R.EVC_TGTt_DB t.toNat) then writeDoorbell s fn.toNat t.toNat v else s)

/-- ACK (R552). A function that does not reach the target reads zero (R517). -/
def execAck (fn : BitVec 6) (t : BitVec 3) (s : State) : Host.Outcome State Fault Refusal :=
  .next (if accessOk s fn.toNat (R.EVC_TGTt_ACK t.toNat) then readAck s t.toNat else s.setAns 0)

/-- EOI (R553, R554). -/
def execEoi (fn : BitVec 6) (t : BitVec 3) (s : State) : Host.Outcome State Fault Refusal :=
  .next (if accessOk s fn.toNat (R.EVC_TGTt_EOI t.toNat) then writeEoi s t.toNat else s)

/-- RING_BASE_WRITE (R548). -/
def execRingBaseWrite (fn : BitVec 6) (t : BitVec 3) (p : BitVec 4) (v : Word) (s : State) :
    Host.Outcome State Fault Refusal :=
  let off := R.EVC_TGTt_RINGp_BASE_LO t.toNat p.toNat
  .next (if accessOk s fn.toNat off then writeRingBase s t.toNat p.toNat (newWord s fn.toNat off .base v) else s)

/-- CONS_WRITE (R548). -/
def execConsWrite (fn : BitVec 6) (t : BitVec 3) (p : BitVec 4) (v : Word) (s : State) :
    Host.Outcome State Fault Refusal :=
  .next (if accessOk s fn.toNat (R.EVC_TGTt_RINGp_CONS t.toNat p.toNat) then writeCons s t.toNat p.toNat v else s)

/-- SOURCE_CONFIG_WRITE (R541, R542); the LK fields of a locked block are not written (R528). -/
def execSourceConfigWrite (fn : BitVec 6) (n : BitVec 9) (v : Word) (s : State) : Host.Outcome State Fault Refusal :=
  let off := R.EVC_SRCn_CFG n.toNat
  .next (if accessOk s fn.toNat off then
      if locked s off then lockViolation s fn.toNat off
      else writeSrcCfg s n.toNat (newWord s fn.toNat off .base v)
    else s)

/-- TARGET_BIND_WRITE (R547); the LK fields of a locked block are not written (R528). -/
def execTargetBindWrite (fn : BitVec 6) (hi : Bool) (v : Word) (s : State) : Host.Outcome State Fault Refusal :=
  let off := if hi then R.EVC_TGTBIND1 else R.EVC_TGTBIND0
  .next (if accessOk s fn.toNat off then
      if locked s off then lockViolation s fn.toNat off
      else writeTgtBind s hi (newWord s fn.toNat off .base v)
    else s)

/-- MSIX_VECTOR_UNMASK (R511, R512, R556): the host writes entry t of a function's table, and with PF0's the number of enabled virtual
functions; an unmasked entry sends the message it holds. While MSI-X or bus mastering is disabled no message is sent and none is held.
[Log 16: PRESUMED, 152: DEDUCED] -/
def execMsixVectorUnmask (fn : BitVec 6) (t : BitVec 3) (w : MsixWrite) (s : State) : Host.Outcome State Fault Refusal :=
  let f := fn.toNat
  let k := 8 * f + t.toNat
  let ev := { s.ev with
    msixOn := if w.on then (if s.ev.msixOn.contains f then s.ev.msixOn else s.ev.msixOn ++ [f]) else s.ev.msixOn.filter (· ≠ f)
    msixOpen := if w.mask then s.ev.msixOpen.filter (· ≠ k) else if s.ev.msixOpen.contains k then s.ev.msixOpen else s.ev.msixOpen ++ [k]
    msixPend := if w.on && w.mask then s.ev.msixPend else s.ev.msixPend.filter (· ≠ k)
    msixTab := SMap.put s.ev.msixTab k (w.addr.toNat, w.data) }
  let s1 := (s.setEv ev).setHp { s.hp with vfs := if f = 0 then w.vfs.toNat else s.hp.vfs }
  .next (if w.on && !w.mask && decide (f ≤ s1.hp.vfs) && s.ev.msixPend.contains k then emit s1 (msixMsg s1 f t.toNat) else s1)

end Sys2Proof.Machine
end

