-- ==== Sys2Proof/Machine/TimeBase.lean ====
section
/-! DEFINITION. The eight time bases, the disciplines of TB0, pulses and captures (chapter 17). -/

namespace Sys2Proof.Machine

/-- The record of a base that nothing has written. -/
def tbase0 : TBase := { t := 0, fall := none, armed := false, steps := [] }

/-- Time base n. -/
def tbase (s : State) (n : Nat) : TBase := SMap.getD s.tb.base n tbase0

/-- The state with time base n replaced. -/
def setTbase (s : State) (n : Nat) (b : TBase) : State := s.setTb { s.tb with base := SMap.put s.tb.base n b }

/-- The applied rate of a base, signed, in units of 2^−40 (R468). -/
def tbApplied (s : State) (n : Nat) : Int := (rd s (R.TBn_APPLIED n)).toInt

/-- `TB_DISC.DISC` (R475). -/
def tbDisc (s : State) : Nat := if running s then rdF s R.TB_DISC 2 0 else 0

/-- `TB_DISC.DSTATE` (R476). -/
def tbDstate (s : State) : Nat := rdF s R.TB_DISC 6 4

/-- TB0 is stopped for acquisition (R476, R477). -/
def tbAcquiring (s : State) : Bool := tbDstate s == 1

/-- The advance of a base in one fabric cycle, in units of 2^−43 ns: 0.625 × (1 + A × 2^−40) ns (R468). -/
def tbInc (s : State) (n : Nat) : Int :=
  if n = 0 ∧ tbAcquiring s = true then 0 else 2684354560 * 2048 + 5 * tbApplied s n

/-- The steps of a base that a look at it c cycles into the event tick does not see yet: those of that cycle and later ones (R474). -/
def stepsAfter (s : State) (n c : Nat) : Int :=
  ((tbase s n).steps.filter (fun x => decide (s.dkl.cyc + c ≤ x.1))).foldl (fun v x => v + x.2) 0

/-- The count of a base after c cycles from the first cycle of the event tick, in units of 2^−43 ns. -/
def tbAt (s : State) (n c : Nat) : Nat :=
  ((((tbase s n).t : Int) + (c : Int) * tbInc s n - stepsAfter s n c) % (2 ^ 75 : Nat)).toNat

/-- The nanosecond count of a base at cycle c of the event tick. -/
def tbNs (s : State) (n c : Nat) : Nat := tbAt s n c / 2 ^ 43

/-- The 32-bit fraction of a base at cycle c of the event tick. -/
def tbFrac (s : State) (n c : Nat) : Nat := tbAt s n c / 2 ^ 11 % 2 ^ 32

/-- The base whose count TB0's timestamps and captures take: TB1 during acquisition (R477). -/
def stampBase (s : State) : Nat := if tbAcquiring s then 1 else 0

/-- The base whose count a capture of base b takes. -/
def captureBase (s : State) (b : Nat) : Nat := if b = 0 then stampBase s else b

/-- A ns target lies in the past (R470). -/
def nsPast (t now : Nat) : Bool := inPast 32 t now

/-- The signed difference of two ns values (R470). -/
def nsDiff (a b : Nat) : Int := sext 32 (a + 2 ^ 32 - b % 2 ^ 32)

/-- Conditions of `TBn_STAT`, source 32 + 2n (R488). -/
def tbCond (s : State) (n bitNo : Nat) : State := setCond s (R.TBn_STAT n) (32 + 2 * n) (2 ^ bitNo)

/-- The state with the applied rate of a base changed from the cycle after cycle c on. -/
def setApplied (s : State) (n c : Nat) (a : Int) : State :=
  let old := tbInc s n
  let s1 := wr s (R.TBn_APPLIED n) (BitVec.ofInt 32 a)
  let new := tbInc s1 n
  let t := (((tbase s n).t : Int) + ((c : Int) + 1) * (old - new)) % (2 ^ 75 : Nat)
  setTbase s1 n { tbase s n with t := t.toNat }

/-- Nominal sample rate of a code of `DKL_CFG.RATE`, in Hz (R34). -/
def rateHz (code : Nat) : Nat :=
  match code with
  | 0 => 44100 | 1 => 48000 | 2 => 88200 | 3 => 96000 | 4 => 176400 | _ => 192000

/-- The laid sample rate, in Hz. -/
def fsHz (s : State) : Nat := rateHz (rdF s R.DKL_CFG 2 0)

/-- The laid deckle length N in samples (R34). -/
def nSamples (s : State) : Nat := 2 ^ rdF s R.DKL_CFG 6 4

/-- The slew limit for one deckle in units of 2^−56: ΔA of R478 with 16 further bits. -/
def slewStep (s : State) : Nat :=
  rdF s R.TB_DISC 31 16 * 2 ^ 56 * nSamples s / (fsHz s * 10 ^ 9)

/-- A request lies further from the applied rate than ΔA (R478). -/
def beyondSlew (s : State) (req : Int) : Bool :=
  decide (rdF s R.TB_DISC 31 16 * 2 ^ 40 * nSamples s < (req - tbApplied s 0).natAbs * (fsHz s * 10 ^ 9))

/-- The largest rate request (R472). -/
def rateMax : Int := 219902325

/-- A write of `TBn_RATE` (R472, R478, R480, R481) at cycle c of the event tick. -/
def writeRate (s : State) (n c : Nat) (w : Word) : State :=
  let req := clampInt (-rateMax) rateMax w.toInt
  let out := decide (req ≠ w.toInt)
  if n ≠ 0 ∨ running s = false then
    let s1 := setApplied (wr s (R.TBn_RATE n) (BitVec.ofInt 32 req)) n c req
    if out then tbCond s1 n 1 else s1
  else if 2 ≤ tbDisc s ∧ tbDstate s = 3 then tbCond s 0 9
  else
    let s1 := wr s (R.TBn_RATE 0) (BitVec.ofInt 32 req)
    let s2 := s1.setTb { s1.tb with hostLost := false }
    if out || (decide (tbDisc s ≤ 1) && beyondSlew s req) then tbCond s2 0 1 else s2

/-- The first instant that is not in the past, reached from `t` by whole periods (R484). -/
def advanceInstant (t per now : Nat) : Nat :=
  if per = 0 then t
  else if nsPast t now then (t + ceilDiv (modDist 32 now t) per * per) % 2 ^ 32 else t

/-- The next pulse instant of an armed base n moved out of the past, with PLATE, whether its pulses run or not (R484).
[Log 21: DEDUCED] -/
def pulseCatchUp (s : State) (n c : Nat) : State :=
  let next := (rd s (R.TBn_PNEXT n)).toNat
  if (tbase s n).armed && nsPast next (tbNs s n c) then
    tbCond (wr s (R.TBn_PNEXT n)
      (BitVec.ofNat 32 (advanceInstant next (rd s (R.TBn_PPER n)).toNat (tbNs s n c)))) n 3
  else s

/-- A base's pulses run: in LAID and LIFTING while EN is 1 (R484). -/
def pulsesRun (s : State) (n : Nat) : Bool := running s && rdB s (R.TBn_PCFG n) 31

/-- A write of `TBn_PSTART` (R484): it arms the generator. -/
def writePstart (s : State) (n c : Nat) (w : Word) : State :=
  pulseCatchUp (setTbase (wr (wr s (R.TBn_PSTART n) w) (R.TBn_PNEXT n) w) n { tbase s n with armed := true }) n c

/-- A write of `TBn_PPER`: outside its range it is ignored (R484). [Log 21: DEDUCED] -/
def writePper (s : State) (n : Nat) (w : Word) : State :=
  if 1000000 ≤ w.toNat ∧ w.toNat ≤ 4000000000 then wr s (R.TBn_PPER n) w else s

/-- A write of 1 to `TBn_CTL.STEP` (R473, R474, R257). -/
def tbStep (s : State) (n c : Nat) : State :=
  if n = 0 ∧ running s = true then tbCond s 0 2
  else
    let st : Int := (rd s (R.TBn_STEP_NS n)).toInt * (2 ^ 43 : Nat) + ((rd s (R.TBn_STEP_FRAC n)).toNat * 2 ^ 11 : Nat)
    let t := (((tbase s n).t : Int) + st) % (2 ^ 75 : Nat)
    let s1 := setTbase s n { tbase s n with t := t.toNat, steps := (tbase s n).steps ++ [(s.dkl.cyc + c, st)] }
    pulseCatchUp (s1.setTb { s1.tb with stepped := s1.tb.stepped ||| 2 ^ n }) n (c + 1)

/-- k of the first boundary at or after cycle c of the event tick (R38): boundaries lie at `DKL_ALIGN + k × N / fs`. -/
def firstK (s : State) (c : Nat) : Int :=
  let d : Int := nsDiff (tbNs s 0 c) (rd s R.DKL_ALIGN).toNat * (2 ^ 43 : Nat) + (tbAt s 0 c % 2 ^ 43 : Nat)
  Int.neg (Int.neg (d * (fsHz s : Int)) / ((nSamples s * 10 ^ 9 * 2 ^ 43 : Nat) : Int))

/-- The number of the first boundary at or after cycle c under R38: `DKL_START + k`. -/
def firstNumber (s : State) (c : Nat) : Nat :=
  let start : Nat := (rd s R.DKL_START_LO).toNat + rdF s R.DKL_START_HI 15 0 * 2 ^ 32
  (((start : Int) + firstK s c) % (2 ^ 48 : Nat)).toNat

/-- One deckle in units of 1/(256 fs) ns. -/
def deckleUnits (s : State) : Nat := nSamples s * 10 ^ 9 * 256

/-- The instant of the first boundary at or after cycle c under R38, in units of 1/(256 fs) ns. -/
def firstInstant (s : State) (c : Nat) : Nat :=
  ((((rd s R.DKL_ALIGN).toNat * 256 * fsHz s : Nat) + firstK s c * (deckleUnits s : Int)) % (2 ^ 40 * fsHz s : Nat)).toNat

/-- The first boundary at or after cycle c takes its instant and its number from `DKL_ALIGN` and `DKL_START` (R38, R67). -/
def placeBoundaries (s : State) (c : Nat) : State :=
  s.setDkl { s.dkl with first := firstNumber s c, next := firstInstant s c }

/-- The instant of the next boundary moves on by one deckle, without rounding (R36). -/
def nextBoundary (s : State) : State := s.setDkl { s.dkl with next := (s.dkl.next + deckleUnits s) % (2 ^ 40 * fsHz s) }

/-- The circle on which TB0's time is compared with boundary instants: 2^32 ns in units of 2^−43/fs ns. -/
def instantRing (s : State) : Nat := 2 ^ 75 * fsHz s

/-- How far the next boundary instant lies ahead of TB0 at the first cycle of the event tick, in units of 2^−43/fs ns, modulo 2^32 ns. -/
def untilBoundary (s : State) : Nat :=
  (s.dkl.next * 2 ^ 35 + instantRing s - tbAt s 0 0 * fsHz s % instantRing s) % instantRing s

/-- The generator runs: LAID or LIFTING, TB0 not stopped (R36, R42, R476). -/
def ticking (s : State) : Bool := running s && !tbAcquiring s

/-- TB0 has reached the next boundary instant: its deckle tick is due (R36, R470). [Log 140: DESIGN CHOICE] -/
def boundaryDue (s : State) : Bool := ticking s && (untilBoundary s == 0 || decide (instantRing s ≤ 2 * untilBoundary s))

/-- Cycles until TB0 reaches the next boundary instant at its applied rate; 0 where it is reached (R36, R43). -/
def cyclesLeft (s : State) : Nat := if boundaryDue s then 0 else ceilDiv (untilBoundary s) ((tbInc s 0).toNat * fsHz s)

/-- The cycles of the event tick that begins now: 16, or fewer up to the deckle tick (R53). -/
def tickCycles (s : State) : Nat := if ticking s then min 16 (cyclesLeft s) else 16

/-- The level of `WCK_OUT` (R97, R479): high from each sample instant of TB0 for half a sample, in LAID and LIFTING. -/
def wckOut (s : State) : Bool :=
  let r := untilBoundary s % (10 ^ 9 * 2 ^ 43)
  ticking s && (r == 0 || decide (10 ^ 9 * 2 ^ 43 ≤ 2 * r))

/-- The state with DSTATE written; entries into TRACKING and HOLDOVER set their conditions (R476). -/
def setDstate (s : State) (d : Nat) : State :=
  let s1 := wrF s R.TB_DISC 6 4 d
  let s2 := if d = 2 then s1 else wrF s1 R.TB_DISC 8 8 0
  if d = 2 then tbCond s2 0 8 else if d = 3 then tbCond s2 0 7 else s2

/-- What the entry into LAID does to TB0 (R405, R406, R476, R477): it is stopped under disciplines 1 and 3, and not locked. -/
def tbEnterLaid (s : State) : State :=
  let s1 := s.setTb { s.tb with
    hist := [], slewFrac := 0, hostLost := false, wckLost := false, wckFrom := tbAt s 0 0 / 2 ^ 35, wckSeen := false, wckBad := 0
    good := 0, bad := 0, stepped := 0 }
  let s2 := wr (wrF s1 R.TB_DISC 8 8 0) R.EDL_TIME (if rdF s R.TB_DISC 2 0 = 3 then 16 else 0)
  match rdF s R.TB_DISC 2 0 with
  | 0 => wrF s2 R.TB_DISC 6 4 0
  | 2 => setDstate s2 2
  | _ => wrF s2 R.TB_DISC 6 4 1

/-- A write of 1 to `TB_CTL.ACQ` (R477) at cycle c. [Log 22: DEDUCED] -/
def tbAcq (s : State) (c : Nat) : State :=
  if s.dev = .laid ∧ tbDisc s = 1 ∧ tbAcquiring s = true then
    let a := tbApplied s 1
    let now := tbAt s 1 c
    let s1 := setDstate (wr s (R.TBn_APPLIED 0) (BitVec.ofInt 32 a)) 2
    let t := ((now : Int) - (c : Int) * tbInc s1 0) % (2 ^ 75 : Nat)
    let s2 := setTbase s1 0 { tbase s 0 with t := t.toNat, steps := [] }
    placeBoundaries s2 c
  else tbCond s 0 10

/-- The mean of a list of rates, to the nearest unit, halves upward (R480). [Log 19: DEDUCED] -/
def meanRate (l : List Int) : Int :=
  let n : Int := l.length
  if n = 0 then 0 else (2 * l.foldl (· + ·) 0 + n) / (2 * n)

/-- The holdover rate (R480): the mean of the applied rates at the 64 boundaries before the last good one. [Log 19: DEDUCED] -/
def holdoverRate (s : State) : Int :=
  match s.tb.hist.drop 1 with
  | [] => tbApplied s 0
  | l => meanRate (l.take 64)

/-- The move of TB0's applied rate towards a request, by at most ΔA (R478). [Log 18: DESIGN CHOICE] -/
def slewTo (s : State) (req : Int) : State :=
  let allowed := slewStep s + s.tb.slewFrac
  let whole : Int := (allowed / 65536 : Nat)
  let cur := tbApplied s 0
  let s1 := s.setTb { s.tb with slewFrac := allowed % 65536 }
  wr s1 (R.TBn_APPLIED 0) (BitVec.ofInt 32 (cur + clampInt (-whole) whole (req - cur)))

/-- The hardware servo's rate: the spec gives no law for it (R479, R405), so it is a free value within ±200 ppm.
[Log 18: DESIGN CHOICE] -/
def servoRate (s : State) : Int × State :=
  let p := freeNat s 29
  (clampInt (-rateMax) rateMax (sext 29 p.1), p.2)

/-- The whole part of the square root of n, below 2^40. -/
def rootOf (n : Nat) : Nat := (List.range 40).foldl (fun r i => if (r + 2 ^ (39 - i)) * (r + 2 ^ (39 - i)) ≤ n then r + 2 ^ (39 - i) else r) 0

/-- The discipline's error at a boundary in 1/256 ns, signed (R476). -/
def discError (s : State) : Int :=
  if tbDisc s = 3 then (rd s R.EDL_OFFSET).toInt else (rd s R.TB_PHASE).toInt

/-- The rate that the servo demands in RECOVERING (R481): it is off the source's rate, which no register holds and which is a free value, by
v = sqrt(2 × s × abs(e)) against the error e, s being the slew limit; in units of 2^−40. [Log 18: DESIGN CHOICE] -/
def recoverRate (s : State) : Int × State :=
  let p := servoRate s
  let e := discError s
  let v : Int := rootOf (2 ^ 81 * rdF s R.TB_DISC 31 16 * e.natAbs / (256 * 10 ^ 18))
  (clampInt (-rateMax) rateMax (p.1 - e.sign * v), p.2)

/-- LOCKED counting of one boundary (R476): 16 consecutive errors within ±5 ns set it, 4 beyond clear it. -/
def countLock (s : State) : State :=
  let e := (discError s).natAbs
  let g := if e ≤ 5 * 256 then s.tb.good + 1 else 0
  let b := if e ≤ 5 * 256 then 0 else s.tb.bad + 1
  let s1 := s.setTb { s.tb with good := min g 16, bad := min b 4 }
  if tbDstate s = 2 ∧ 16 ≤ g then wrF s1 R.TB_DISC 8 8 1
  else if 4 ≤ b then wrF s1 R.TB_DISC 8 8 0 else s1

/-- Entry into HOLDOVER at a rate (R480, R481). -/
def enterHoldover (s : State) (a : Int) : State :=
  let s1 := wr (wr s (R.TBn_APPLIED 0) (BitVec.ofInt 32 a)) R.TB_HRATE (BitVec.ofInt 32 a)
  setDstate (s1.setTb { s1.tb with good := 0, bad := 0 }) 3

/-- The phase error of an edge of the word clock in 1/256 ns, signed (R479): from the nearest sample instant to the edge, both on TB0, so that
it is positive where TB0 runs ahead. [Log 150: DEDUCED] -/
def wckPhase (s : State) (edge : Nat) : Int :=
  let one := 10 ^ 9 * 256
  let ring := 2 ^ 40 * fsHz s
  let d := (edge % 2 ^ 40 * fsHz s + ring - s.dkl.next % ring) % ring
  let near : Int := if 2 * d < ring then d else (d : Int) - ring
  let r := near % (one : Nat)
  (2 * (if 2 * r < one then r else r - one) + fsHz s) / (2 * fsHz s)

/-- An edge of the word clock: its phase, and whether its period lies within 200 ppm of nominal (R479). [Log 150: DEDUCED] -/
def wckTake (s : State) (edge : Nat) : State :=
  let d : Int := ((edge + 2 ^ 40 - s.tb.wckFrom % 2 ^ 40) % 2 ^ 40 * fsHz s : Nat)
  let one : Int := 10 ^ 9 * 256
  let good := !s.tb.wckSeen || decide ((d - one).natAbs * 5000 ≤ one.natAbs)
  (wr s R.TB_PHASE (BitVec.ofInt 32 (wckPhase s edge))).setTb { s.tb with
    wckFrom := edge % 2 ^ 40, wckSeen := true, wckBad := if good then 0 else min 4 (s.tb.wckBad + 1), wckLost := false }

/-- Sample periods since the last edge of the word clock, in halves. -/
def wckHalves (s : State) : Nat := 2 * ((tbAt s 0 0 / 2 ^ 35 + 2 ^ 40 - s.tb.wckFrom % 2 ^ 40) % 2 ^ 40 * fsHz s) / (10 ^ 9 * 256)

/-- The word clock at a boundary (R479): it is lost where 1.5 periods passed at each of 4 expected edges without one, or 4 edges in a row were
off in their periods; without an edge it stays lost. [Log 150: DEDUCED] -/
def wckJudge (s : State) (edges : List Nat) : State :=
  let t := edges.foldl wckTake s
  t.setTb { t.tb with wckLost := t.tb.wckLost || decide (4 ≤ t.tb.wckBad) || decide (9 ≤ wckHalves t) }

/-- Evaluation of the discipline at a boundary, in step 1 (R476 to R481). `wck` holds the edges of the word clock since the boundary before;
`eligible` tells whether a timing port is eligible (R427). [Log 18: DESIGN CHOICE] -/
def tbBoundary (s : State) (wck : List Nat) (eligible : Bool) : State :=
  let disc := tbDisc s
  let s0 := if disc = 2 then wckJudge s wck else s
  let ok := match disc with
    | 0 => true
    | 1 => !s0.tb.hostLost
    | 2 => !s0.tb.wckLost
    | _ => eligible
  let s1 := match tbDstate s0 with
    | 2 =>
      if ok then
        if disc ≤ 1 then slewTo s0 (rd s0 (R.TBn_RATE 0)).toInt
        else
          let p := servoRate s0
          countLock (wr p.2 (R.TBn_APPLIED 0) (BitVec.ofInt 32 p.1))
      else enterHoldover s0 (holdoverRate s0)
    | 3 =>
      if ok then
        if disc = 1 then setDstate s0 2
        else setDstate (s0.setTb { s0.tb with good := 0, bad := 0 }) 4
      else s0
    | 4 =>
      if ok then
        let p := recoverRate s0
        let s2 := countLock (slewTo p.2 p.1)
        if 16 ≤ s2.tb.good then wrF (setDstate s2 2) R.TB_DISC 8 8 1 else s2
      else enterHoldover s0 (rd s0 R.TB_HRATE).toInt
    | 0 => slewTo s0 (rd s0 (R.TBn_RATE 0)).toInt
    | _ => s0
  s1.setTb { s1.tb with hist := (tbApplied s1 0 :: s1.tb.hist).take 65 }

/-- A pulse of base n (R484, R485): the instant of an armed generator has come by cycle c of the event tick; one that came earlier, while no
pulses ran, is moved out of the past. [Log 21: DEDUCED] -/
def pulse (s : State) (n c : Nat) : State :=
  let inst := (rd s (R.TBn_PNEXT n)).toNat
  if !(pulsesRun s n && (tbase s n).armed) then s
  else if nsPast inst (tbNs s n 0) then pulseCatchUp s n c
  else if !(decide (inst ≠ tbNs s n c) && nsPast (tbNs s n c) inst) then
    let per := (rd s (R.TBn_PPER n)).toNat
    let width := min (rdF s (R.TBn_PCFG n) 15 0 * 1000) (per / 2)
    let s1 := setTbase s n { tbase s n with fall := some ((inst + width) % 2 ^ 32) }
    let s2 := wr s1 (R.TBn_PNEXT n) (BitVec.ofNat 32 ((inst + per) % 2 ^ 32))
    if rdB s (R.TBn_PCFG n) 30 then fireSrc s2 (33 + 2 * n) 0 (BitVec.ofNat 32 inst) else s2
  else s

/-- The pulse pins that have reached their falling instant, or whose pulses no longer run, fall (R484). -/
def pulseFalls (s : State) : State :=
  (List.range 8).foldl (fun u n =>
    match (tbase u n).fall with
    | none => u
    | some f =>
      if pulsesRun u n && nsPast (tbNs u n 0) f then u
      else setTbase u n { tbase u n with fall := none }) s

/-- The record of a capture input that nothing has reached. -/
def capture0 : Capture := { valid := false, ns0 := 0, nsb := 0, info := 0, seen := false, latched := false, last := none }

/-- An edge on capture input k at cycle c (R486). [Log 20: DEDUCED] -/
def captureEdge (s : State) (k c : Nat) (falling : Bool) : State :=
  let cfg := rd s (R.TB_CAPk_CFG k)
  let b := fld cfg 26 24
  let edge := fld cfg 29 28
  let now := s.dkl.cyc + c
  let old := SMap.getD s.tb.cap k capture0
  if running s && bit cfg 31 && (edge == 2 || edge == b2n falling) then
    if match old.last with | some l => decide (now - l < 160) | none => false then
      setCondWith s (R.TBn_STAT b) (32 + 2 * b) 64 [] 0 (.capture k)
    else
      let z := stampBase s
      let y := captureBase s b
      let info := 2 ^ 31 + b2n falling * 2 ^ 30 + b2n (tbAcquiring s) * 2 ^ 29
        + tbFrac s y c / 2 ^ 24 * 256 + tbFrac s z c / 2 ^ 24
      let cap : Capture := { old with valid := true, ns0 := tbNs s z c, nsb := tbNs s y c, info := info, seen := false, last := some now }
      let s1 := s.setTb { s.tb with cap := SMap.put s.tb.cap k cap }
      setCondWith s1 (R.TBn_STAT b) (32 + 2 * b) (16 + (if old.valid then 32 else 0)) [] 0 (.capture k)
  else s

/-- A read of `TB_CAPk_NS0`: it latches NSB and INFO (R487). -/
def readCapNs0 (s : State) (k : Nat) : State :=
  let c := SMap.getD s.tb.cap k capture0
  let s1 := wr (wr (wr s (R.TB_CAPk_NS0 k) (BitVec.ofNat 32 c.ns0)) (R.TB_CAPk_NSB k) (BitVec.ofNat 32 c.nsb))
    (R.TB_CAPk_INFO k) (BitVec.ofNat 32 (if c.valid then c.info else c.info - 2 ^ 31))
  (s1.setTb { s1.tb with cap := SMap.put s1.tb.cap k { c with seen := true, latched := true } }).setAns (BitVec.ofNat 32 c.ns0)

/-- A read of `TB_CAPk_INFO`: it clears VALID, but not that of a capture that landed after the read of NS0 that this read goes with (R487). -/
def readCapInfo (s : State) (k : Nat) : State :=
  let c := SMap.getD s.tb.cap k capture0
  let w := rd s (R.TB_CAPk_INFO k)
  let s1 := (wrF s (R.TB_CAPk_INFO k) 31 31 0).setAns w
  s1.setTb { s1.tb with cap := SMap.put s1.tb.cap k { c with valid := c.valid && c.latched && !c.seen, latched := false } }

/-- The advance of every base over the cycles of one event tick (R468), and of the cycle count. -/
def tbAdvance (s : State) (c : Nat) : State :=
  let s1 := (List.range 8).foldl (fun u n => setTbase u n { tbase u n with t := tbAt s n c, steps := [] }) s
  s1.setDkl { s1.dkl with cyc := s1.dkl.cyc + c }

/-- The registers of the block whose value is that of the moment of the read. -/
def tbLive (s : State) (off c : Nat) : Option Word :=
  if 0xD0000 ≤ off ∧ off < 0xD0200 ∧ off % 0x40 = 0 then some (BitVec.ofNat 32 (tbNs s ((off - 0xD0000) / 0x40) c))
  else if 0xD0300 ≤ off ∧ off < 0xD0380 ∧ off % 16 = 4 then
    some (BitVec.ofNat 32 (SMap.getD s.tb.cap ((off - 0xD0300) / 16) capture0).ns0)
  else none

/-- A write of a register of the block with an effect of its own. -/
def tbWrite (s : State) (off c : Nat) (q : Quarter) (w v : Word) : Option State :=
  if 0xD0000 ≤ off ∧ off < 0xD0200 then
    let n := (off - 0xD0000) / 0x40
    match off % 0x40 with
    | 0x08 => some (writeRate s n c w)
    | 0x18 => some (if q = .base ∧ bit v 0 = true then tbStep s n c else s)
    | 0x20 => some (writePper s n w)
    | 0x24 => some (writePstart s n c w)
    | _ => none
  else if off = R.TB_CTL then some (if q = .base ∧ bit v 0 = true then tbAcq s c else s)
  else none

/-- TB_RATE_WRITE (R472). -/
def execTbRateWrite (fn : BitVec 6) (n : BitVec 3) (v : Word) (cyc : BitVec 4) (s : State) :
    Host.Outcome State Fault Refusal :=
  .next (if accessOk s fn.toNat (R.TBn_RATE n.toNat) then writeRate s n.toNat cyc.toNat v else s)

/-- TB_STEP (R473): a write of `TBn_CTL`. -/
def execTbStep (fn : BitVec 6) (n : BitVec 3) (v : Word) (cyc : BitVec 4) (s : State) :
    Host.Outcome State Fault Refusal :=
  .next (if accessOk s fn.toNat (R.TBn_CTL n.toNat) && bit v 0 then tbStep s n.toNat cyc.toNat else s)

/-- TB_NS_READ (R469): the count of the cycle, and its fraction latched. -/
def execTbNsRead (fn : BitVec 6) (n : BitVec 3) (cyc : BitVec 4) (s : State) : Host.Outcome State Fault Refusal :=
  .next (if accessOk s fn.toNat (R.TBn_NS n.toNat) then
      (wr s (R.TBn_FRAC n.toNat) (BitVec.ofNat 32 (tbFrac s n.toNat cyc.toNat))).setAns
        (BitVec.ofNat 32 (tbNs s n.toNat cyc.toNat))
    else s.setAns 0)

/-- ACQ (R477): a write of `TB_CTL`. -/
def execAcq (fn : BitVec 6) (v : Word) (cyc : BitVec 4) (s : State) : Host.Outcome State Fault Refusal :=
  .next (if accessOk s fn.toNat R.TB_CTL && bit v 0 then tbAcq s cyc.toNat else s)

/-- HOST_WATCHDOG_EXPIRY (R477): the host discipline counts as lost at the next boundary. [Log 8: DESIGN CHOICE] -/
def execHostWatchdogExpiry (s : State) : Host.Outcome State Fault Refusal :=
  .next (if tbDisc s = 1 then s.setTb { s.tb with hostLost := true } else s)

/-- WORD_CLOCK_LOSS (R479): edges were missing or off in their periods at 4 consecutive edges, as far as those since the last boundary can have
been. [Log 150: DEDUCED] -/
def execWordClockLoss (s : State) : Host.Outcome State Fault Refusal :=
  .next (if tbDisc s = 2 ∧ 8 ≤ 2 * s.tb.wckBad + wckHalves s + 2 then s.setTb { s.tb with wckLost := true } else s)

/-- PULSE (R484, R485). -/
def execPulse (n : BitVec 3) (cyc : BitVec 4) (s : State) : Host.Outcome State Fault Refusal :=
  .next (pulse s n.toNat cyc.toNat)

/-- PSTART_WRITE (R484). -/
def execPstartWrite (fn : BitVec 6) (n : BitVec 3) (v : Word) (cyc : BitVec 4) (s : State) :
    Host.Outcome State Fault Refusal :=
  .next (if accessOk s fn.toNat (R.TBn_PSTART n.toNat) then writePstart s n.toNat cyc.toNat v else s)

/-- CAPTURE (R486). [Log 20: DEDUCED] -/
def execCapture (k : BitVec 3) (falling : Bool) (cyc : BitVec 4) (s : State) : Host.Outcome State Fault Refusal :=
  .next (captureEdge s k.toNat cyc.toNat falling)

/-- CAPTURE_NS0_READ (R487). -/
def execCaptureNs0Read (fn : BitVec 6) (k : BitVec 3) (s : State) : Host.Outcome State Fault Refusal :=
  .next (if accessOk s fn.toNat (R.TB_CAPk_NS0 k.toNat) then readCapNs0 s k.toNat else s.setAns 0)

/-- CAPTURE_INFO_READ (R487). -/
def execCaptureInfoRead (fn : BitVec 6) (k : BitVec 3) (s : State) : Host.Outcome State Fault Refusal :=
  .next (if accessOk s fn.toNat (R.TB_CAPk_INFO k.toNat) then readCapInfo s k.toNat else s.setAns 0)

end Sys2Proof.Machine
end

