-- ==== Sys2Proof/Machine/Search.lean ====
section
/-! DEFINITION. Quires, profiles, pipes and the search path (chapter 04), and the watermark check, automatic invalidation
and the scrubber (chapter 05). -/

namespace Sys2Proof.Machine

/-- A unit that nothing has written since the entry into LAYING (R148). -/
def sunit0 : SUnit := { value := 0, mask := 0, sval := 0, smask := 0, spar := 0, valid := 0, ad := 0, adpar := 0 }

/-- Width code of a quire (R102). -/
def quireCode (s : State) (q : Nat) : Nat :=
  if running s then rdF s (R.SRCH_QWIDTHn (q / 16)) (2 * (q % 16) + 1) (2 * (q % 16)) else 3

/-- Units of an entry for a width code: 1, 2 or 4; 0 for a quire laid off (R102). -/
def widthUnits (code : Nat) : Nat :=
  match code with
  | 0 => 1 | 1 => 2 | 2 => 4 | _ => 0

/-- The entry address of a unit: its index rounded down to a multiple of the quire's width (R104, R159). -/
def entryOf (w addr : Nat) : Nat := addr / 16384 * 16384 + addr % 16384 / w * w

/-- Exclusive-or of n bits. -/
def parity (n v : Nat) : Nat := popCount n v % 2

/-- The 8 parity bits of a shadow word (R145). -/
def shadowParity (value mask : Nat) : Nat :=
  let x := value + mask * 2 ^ 96
  (List.range 8).foldl (fun a j => a + parity 24 (x / 2 ^ (24 * j)) * 2 ^ j) 0

/-- The 2 parity bits of an associated-data word (R147). -/
def adParity (ad : Nat) : Nat := parity 32 ad + 2 * parity 32 (ad / 2 ^ 32)

/-- The majority of three copies (R146). -/
def majority3 (v : Nat) : Bool := decide (2 ≤ popCount 3 v)

/-- A beat of the update port writes the cells of a unit of the entry, or the valid copies at its address (R154).
[Log 42: DEDUCED] -/
def touches (e w : Nat) (b : ArrBeat) : Bool :=
  match b.op with
  | .unit (some _) _ _ => decide (e ≤ b.addr ∧ b.addr < e + w)
  | .valid _ => b.addr == e
  | _ => false

/-- An automatic invalidation is discarded by a beat that landed after cycle 3 and up to cycle 22 of its search (R154).
[Log 42: DEDUCED] -/
def autoDiscarded (beats : List ArrBeat) (e w issue : Nat) : Bool :=
  beats.any (fun b => decide (issue + 3 < b.land ∧ b.land ≤ issue + 22) && touches e w b)

/-- A unit after some bits of an item flipped (R144). -/
def flipItem (u : SUnit) (x : UnitItem) (v : Nat) : SUnit :=
  match x with
  | .value => { u with value := u.value ^^^ v }
  | .mask => { u with mask := u.mask ^^^ v }
  | .shadowValue => { u with sval := u.sval ^^^ v }
  | .shadowMask => { u with smask := u.smask ^^^ v }
  | .shadowParity => { u with spar := u.spar ^^^ v }
  | .valid => { u with valid := u.valid ^^^ v }
  | .ad => { u with ad := u.ad ^^^ v }
  | .adParity => { u with adpar := u.adpar ^^^ v }

/-- A unit after one change of the array. -/
def applyArr (beats : List ArrBeat) (u : SUnit) (b : ArrBeat) : SUnit :=
  match b.op with
  | .unit c sh ad =>
    let u1 := match c with | some (v, m) => { u with value := v, mask := m } | none => u
    let u2 := match sh with | some (v, m, p) => { u1 with sval := v, smask := m, spar := p } | none => u1
    match ad with | some (a, p) => { u2 with ad := a, adpar := p } | none => u2
  | .valid v => { u with valid := v }
  | .fix v => { u with valid := v }
  | .auto i w => if autoDiscarded beats b.addr w i then u else { u with valid := 0 }
  | .flip x v => flipItem u x v

/-- A unit as of the beats that have landed by a cycle (R181). -/
def unitAt (s : State) (addr land : Nat) : SUnit :=
  s.srch.beats.foldl (fun u b => if b.addr = addr ∧ b.land ≤ land then applyArr s.srch.beats u b else u)
    (SMap.getD s.srch.base addr sunit0)

/-- The scrubber's correction and an automatic invalidation of the same cycle: the invalidation stands (R154). -/
def fixFirst (b c : ArrBeat) : Bool :=
  match b.op, c.op with
  | .fix _, .auto _ _ => b.land == c.land
  | _, _ => false

/-- Insertion of a beat by landing cycle, after those of the same cycle, but for a correction that meets an invalidation (R154). -/
def insBeat (b : ArrBeat) : List ArrBeat → List ArrBeat
  | [] => [b]
  | c :: l => if b.land < c.land ∨ fixFirst b c = true then b :: c :: l else c :: insBeat b l

/-- The state with a change of the array that lands in a cycle. -/
def landBeat (s : State) (land addr : Nat) (op : ArrOp) : State :=
  s.setSrch { s.srch with beats := insBeat { land := land, addr := addr, op := op } s.srch.beats }

/-- An automatic invalidation that a beat of the list discards (R154): it changes nothing. -/
def autoVoid (beats : List ArrBeat) (b : ArrBeat) : Bool :=
  match b.op with
  | .auto i w => autoDiscarded beats b.addr w i
  | _ => false

/-- A unit as a beat of the update port reads it in a cycle: an automatic invalidation of that cycle comes after it (R154).
[Log 42: DEDUCED] -/
def unitPort (s : State) (addr c : Nat) : SUnit :=
  s.srch.beats.foldl (fun u b =>
    if b.addr = addr ∧ (b.land < c ∨ (b.land = c ∧ (match b.op with | .auto _ _ => false | _ => true) = true)) then applyArr s.srch.beats u b else u)
    (SMap.getD s.srch.base addr sunit0)

/-- The cycle before which every search has evaluated and every report has been made: no later than the present event tick, the
oldest search whose result is still awaited, and the parterre's window while it runs. -/
def foldLimit (s : State) : Nat :=
  let c := if running s && s.dkl.started && !s.ptr.done then min s.dkl.cyc (s.dkl.tickCyc + 510) else s.dkl.cyc
  s.srch.flights.foldl (fun m f => min m f.issue) c

/-- Folding of the beats that landed long enough ago for every search, and every discard test, to be past them. An invalidation found
discarded leaves the list before the beat that discards it does. [Log 42: DEDUCED] -/
def foldBeats (s : State) : State :=
  let lim := foldLimit s
  let old := s.srch.beats.filter (fun b => decide (b.land + 64 < lim))
  let new := s.srch.beats.filter (fun b => !decide (b.land + 64 < lim) && !autoVoid s.srch.beats b)
  let base := old.foldl (fun m b =>
    SMap.putD sunit0 m b.addr (applyArr s.srch.beats (SMap.getD m b.addr sunit0) b)) s.srch.base
  s.setSrch { s.srch with base := base, beats := new }

/-- Insertion into a strictly rising list of addresses. -/
def insAddr (a : Nat) : List Nat → List Nat
  | [] => [a]
  | b :: l => if a = b then b :: l else if a < b then a :: b :: l else b :: insAddr a l

/-- The unit addresses that may hold a valid entry, in priority order: lower quire, then lower index (R110).
[Log 42: DEDUCED] -/
def arrAddrs (s : State) : List Nat :=
  s.srch.beats.foldl (fun l b => insAddr b.addr l) (s.srch.base.map Prod.fst)

/-- Key bits of unit u (R105). -/
def keyPart (key u : Nat) : Nat := key / 2 ^ (96 * u) % 2 ^ 96

/-- 96 ternary cells match a key part (R107). -/
def cellsMatch (value mask kp : Nat) : Bool := ((value ^^^ kp) &&& mask) == 0

/-- Whether a profile's quire-select mask selects a quire (R113). -/
def profSelects (s : State) (p q : Nat) : Bool :=
  rdB s (if q < 32 then R.SRCH_PROFn_QSEL_LO p else R.SRCH_PROFn_QSEL_HI p) (q % 32)

/-- Width code of a profile. -/
def profWidth (s : State) (p : Nat) : Nat := rdF s (R.SRCH_PROFn_CTL p) 4 3

/-- Slot class of a profile. -/
def profClass (s : State) (p : Nat) : Nat := rdF s (R.SRCH_PROFn_CTL p) 2 0

/-- A profile is defined. -/
def profDef (s : State) (p : Nat) : Bool := rdB s (R.SRCH_PROFn_CTL p) 31

/-- Quires that a profile selects (R133). -/
def profQuires (s : State) (p : Nat) : Nat :=
  popCount 32 (rd s (R.SRCH_PROFn_QSEL_LO p)).toNat + popCount 32 (rd s (R.SRCH_PROFn_QSEL_HI p)).toNat

/-- The entry at an address matches a key, by the cells and valid copies that have landed (R106, R107). -/
def entryMatches (s : State) (land w addr key : Nat) : Bool :=
  decide (addr % 16384 % w = 0) && majority3 (unitAt s addr land).valid &&
    (List.range w).all (fun u =>
      let x := unitAt s (addr + u) land
      cellsMatch x.value x.mask (keyPart key u))

/-- The first two matching entries of the selected quires in priority order (R110, R111). -/
def candidates (s : State) (land p key : Nat) : List Nat :=
  let w := widthUnits (profWidth s p)
  ((arrAddrs s).filter (fun a => profSelects s p (a / 16384) && entryMatches s land w a key)).take 2

/-- The watermark check of one candidate (R149, R150): none where it passes, otherwise the cause (1 PARITY, 2 MISMATCH) and
the failing unit. -/
def verify (s : State) (land w addr key : Nat) : Option (Nat × Nat) :=
  let units := List.range w
  match units.find? (fun u =>
      let x := unitAt s (addr + u) land
      x.spar != shadowParity x.sval x.smask) with
  | some u => some (1, u)
  | none =>
    match units.find? (fun u =>
        let x := unitAt s (addr + u) land
        !cellsMatch x.sval x.smask (keyPart key u)) with
    | some u => some (2, u)
    | none => none

/-- The halves of an associated-data word that are bad (R147): low, high. -/
def adBad (u : SUnit) : Bool × Bool :=
  let p := adParity u.ad ^^^ u.adpar
  (p.testBit 0, p.testBit 1)

/-- The result of a search that entered its pipe in cycle c (R127 to R131, R149): its record and the candidates that
failed. -/
def runSearch (s : State) (p key tenant c : Nat) : SRec × List WmFail :=
  let land := c - 2
  let w := widthUnits (profWidth s p)
  let ctl := rd s (R.SRCH_PROFn_CTL p)
  let cands := candidates s land p key
  let checks := cands.map (fun a => (a, verify s land w a key))
  let fails := (checks.zip (List.range 2)).filterMap (fun x =>
    match x.1.2 with
    | some (cause, u) => some { addr := x.1.1, cause := cause, unit := u, cand := x.2 : WmFail }
    | none => none)
  let winner := (checks.zip (List.range 2)).find? (fun x => x.1.2 == none)
  let common := b2n (!fails.isEmpty) * 2 ^ 22 + fld ctl 4 3 * 2 ^ 24 + p * 2 ^ 26
  let w1 := BitVec.ofNat 32 (if bit ctl 6 then tenant % 1024 else 0)
  match winner with
  | none => ({ w0 := BitVec.ofNat 32 common, w1 := w1, adLo := 0, adHi := 0, badLo := false, badHi := false }, fails)
  | some x =>
    let u := unitAt s x.1.1 land
    let fetch := bit ctl 5
    let bad := adBad u
    let dbad := fetch && (bad.1 || bad.2)
    ({ w0 := BitVec.ofNat 32 (x.1.1 + 2 ^ 20 + x.2 * 2 ^ 21 + common + b2n dbad * 2 ^ 23)
       w1 := w1
       adLo := if fetch then BitVec.ofNat 32 u.ad else 0
       adHi := if fetch then BitVec.ofNat 32 (u.ad / 2 ^ 32) else 0
       badLo := fetch && bad.1
       badHi := fetch && bad.2 }, fails)

/-- The automatic invalidations that a search issued in cycle c requests (R153). [Log 42: DEDUCED] -/
def autoInvalidate (s : State) (c w : Nat) (fails : List WmFail) : State :=
  fails.foldl (fun u f => landBeat u (c + 22) f.addr (.auto c w)) s

/-- HIT of a result record. -/
def recHit (r : SRec) : Bool := bit r.w0 20

/-- A result that consumers act on: a data-bad result counts as a miss (R132). -/
def recUsable (r : SRec) : Bool := bit r.w0 20 && !bit r.w0 23

/-- Entry address of a result record. -/
def recAddr (r : SRec) : Nat := fld r.w0 19 0

/-- The first region that holds a unit address (R108), counted from the highest index down. -/
def regionOf (s : State) (addr : Nat) : Nat → Option Nat
  | 0 => none
  | n + 1 =>
    match regionOf s addr n with
    | some r => some r
    | none =>
      let a := rd s (R.SRCH_REGn_A n)
      let b := rd s (R.SRCH_REGn_B n)
      if fld b 19 16 ≠ 0 ∧ fld a 5 0 = addr / 16384 ∧ fld a 19 6 ≤ addr % 16384 ∧
          addr % 16384 < fld a 19 6 + fld b 14 0 then some n else none

/-- Tenant that owns the region of an address; 0 where no region holds it (R156, R163, R188). -/
def regionTenant (s : State) (addr : Nat) : Nat :=
  match regionOf s addr 256 with
  | some n => rdF s (R.SRCH_REGn_A n) 29 20
  | none => 0

/-- KIND of the region of an address; 0 where no region holds it. -/
def regionKind (s : State) (addr : Nat) : Nat :=
  match regionOf s addr 256 with
  | some n => rdF s (R.SRCH_REGn_B n) 19 16
  | none => 0

/-- The report of one candidate failure (R155, R156): FAIL and source 65 at every failure. [Log 45: DEDUCED] -/
def reportFail (s : State) (pipe issue w : Nat) (f : WmFail) : State :=
  let disc := autoDiscarded s.srch.beats f.addr w issue
  let word : Word := BitVec.ofNat 32 (f.addr + f.cause * 2 ^ 20 + f.unit * 2 ^ 22 + f.cand * 2 ^ 24
    + b2n disc * 2 ^ 25 + pipe * 2 ^ 26)
  let s1 := noteFind s (issue + 28) (2 * pipe + f.cand) (.cond R.WMK_STAT 512 1 [(R.WMK_FAIL, word)] 0 .newBits)
  noteFind s1 (issue + 28) (2 * pipe + f.cand) (.fire 65 (regionTenant s f.addr) word)

/-- A finding of `WMK_STAT` other than FAIL in cycle c fires source 66, one record for the findings of one event tick (R163).
[Log 45: DEDUCED] -/
def wmkFinding (s : State) (c ord bits : Nat) (lasts : List (Nat × Word)) (tenant : Nat) : State :=
  noteFind (noteFind s c ord (.cond R.WMK_STAT 512 (BitVec.ofNat 32 bits) lasts 0 .newBits)) c ord (.fire 66 tenant (BitVec.ofNat 32 bits))

/-- Key bits [DEST + LEN − 1:DEST] taken from a source held as a number by bit (R116, second way). -/
def extractLow (src off len : Nat) : Nat := src / 2 ^ off % 2 ^ len

/-- Bits in network order: the source as a byte string read from its first byte's most significant bit, zero beyond its
end (R116, R120). -/
def extractNet (bytes : List Byte) (off len : Nat) : Nat :=
  let first := off / 8
  let n := (off + len + 7) / 8 - first
  let part := (List.range n).foldl (fun a i => a * 256 + ((bytes[first + i]?).getD 0).toNat) 0
  part / 2 ^ (8 * n - (off - 8 * first) - len) % 2 ^ len

/-- The sources of the key builder (R117). -/
structure KeySrc where
  l2 : List Byte
  info : Nat
  l3 : List Byte
  l4 : List Byte
  strm : Nat
  zone : Nat
  deriving DecidableEq, Repr

/-- The key of a profile (R115 to R117). -/
def buildKey (s : State) (p : Nat) (k : KeySrc) (tenant : Nat) : Nat :=
  let base := (List.range 12).foldl (fun key m =>
    let fx := rd s (R.SRCH_PROFn_FXm p m)
    let off := fld fx 27 16
    let len := fld fx 15 9
    let v := match fld fx 31 28 with
      | 1 => extractNet (k.l2.take 256) off len
      | 2 => extractLow k.info off len
      | 3 => extractNet (k.l3.take 256) off len
      | 4 => extractNet (k.l4.take 128) off len
      | 5 => extractLow k.strm off len
      | 6 => extractLow k.zone off len
      | 7 => extractLow (rd s (R.SRCH_PROFn_TAG p)).toNat off len
      | _ => 0
    key ||| (v * 2 ^ fld fx 8 0)) 0
  let ctl := rd s (R.SRCH_PROFn_CTL p)
  if bit ctl 6 then base ||| (tenant % 1024 * 2 ^ fld ctl 15 7) else base

/-- A key source with nothing in it. -/
def keySrc0 : KeySrc := { l2 := [], info := 0, l3 := [], l4 := [], strm := 0, zone := 0 }

/-- MC of sample instant i of deckle d (R241). -/
def mcOf (s : State) (d i : Nat) : Nat := (d * nSamples s + i + s.strm.mcOfs) % 2 ^ 32

/-- Fabric cycle within the deckle of a cycle (R45). -/
def deckleCycle (s : State) (c : Nat) : Nat := c - s.dkl.tickCyc

/-- A cycle lies in the parterre window (R45, R122). -/
def inWindow (s : State) (c : Nat) : Bool :=
  running s && s.dkl.started && decide (512 ≤ deckleCycle s c ∧ deckleCycle s c ≤ 2559)

/-- Slot-cycles of a search with a profile (R123). -/
def slotCost (s : State) (p : Nat) : Nat := if profWidth s p = 2 then 2 else 1

/-- Classes in the order in which the pipes serve them outside the window (R121). -/
def classOrder : List Nat := [0, 1, 3, 4]

/-- The requests of a class that may enter a pipe now. -/
def classReqs (s : State) (cls : Nat) : List SReq := s.srch.reqs.filter (fun r => r.cls == cls && decide (r.ready ≤ s.dkl.free))

/-- The next request of a class: classes 0 and 1 by round robin of ports, the requests of one port in order of arrival; the
others in order of arrival (R124). [Log 43: DEDUCED] -/
def nextReq (s : State) (cls : Nat) : Option SReq :=
  let l := classReqs s cls
  if cls ≤ 1 then
    let t := SMap.getD s.srch.turn cls 0
    ((List.range 20).map (fun i => (t + 1 + i) % 20)).findSome? (fun p => l.find? (fun r => r.port == p))
  else l.head?

/-- Whether a request may start in cycle c: its class has the credit, and a width-4 search does not start in cycle 511
(R122, R123). [Log 43: DEDUCED] -/
def mayStart (s : State) (c : Nat) (r : SReq) : Bool :=
  decide (slotCost s r.prof ≤ SMap.getD s.srch.credit r.cls 0) &&
    !(decide (slotCost s r.prof = 2) && running s && s.dkl.started && decide (deckleCycle s c = 511))

/-- Removal of the first occurrence of a request. -/
def dropReq (r : SReq) : List SReq → List SReq
  | [] => []
  | x :: l => if x = r then l else x :: dropReq r l

/-- A request enters a pipe in cycle c (R123, R127). -/
def startSearch (s : State) (pipe c : Nat) (r : SReq) : State :=
  let out := runSearch s r.prof r.key r.tenant c
  let w := widthUnits (profWidth s r.prof)
  let cost := slotCost s r.prof
  let f : Flight := { issue := c, pipe := pipe, who := r.who, width := w, fails := out.2, res := out.1 }
  let s1 := s.setSrch { s.srch with
    reqs := dropReq r s.srch.reqs
    flights := s.srch.flights ++ [f]
    credit := SMap.put s.srch.credit r.cls (SMap.getD s.srch.credit r.cls 0 - cost)
    turn := if r.cls ≤ 1 then SMap.put s.srch.turn r.cls r.port else s.srch.turn
    hold0 := if pipe = 0 ∧ cost = 2 then c + 2 else s.srch.hold0
    hold1 := if pipe = 1 ∧ cost = 2 then c + 2 else s.srch.hold1 }
  autoInvalidate s1 c w out.2

/-- One pipe chooses in one cycle (R124). [Log 125: DESIGN CHOICE] -/
def pipeChoose (s : State) (pipe c : Nat) : State :=
  if inWindow s c ∨ c < (if pipe = 0 then s.srch.hold0 else s.srch.hold1) then s
  else
    match classOrder.findSome? (fun cls => (nextReq s cls).filter (mayStart s c)) with
    | some r => startSearch s pipe c r
    | none => s

/-- SEARCH_ISSUE (R124): one cycle of both pipes; pipe 1 chooses from what pipe 0 left. -/
def execSearchIssue (cyc : BitVec 4) (s : State) : Host.Outcome State Fault Refusal :=
  let c := s.dkl.cyc + cyc.toNat
  .next (pipeChoose (pipeChoose s 0 c) 1 c)

/-- A diagnostic result is written in one event (R140). -/
def diagDone (s : State) (r : SRec) : State :=
  let s1 := wrAll s [(R.SRCH_DIAG_RESm 0, r.w0), (R.SRCH_DIAG_RESm 1, r.w1), (R.SRCH_DIAG_RESm 2, r.adLo),
    (R.SRCH_DIAG_RESm 3, r.adHi), (R.SRCH_DIAG_STAT, 2)]
  setCond s1 R.SRCH_STAT 64 1

/-- The report of a data-bad hit of a search of a pipe (R157). -/
def reportDbad (s : State) (pipe issue : Nat) (r : SRec) : State :=
  if bit r.w0 23 then
    wmkFinding s (issue + 28) (2 * pipe) 2 [(R.WMK_DBAD, BitVec.ofNat 32 (recAddr r + b2n r.badLo * 2 ^ 20 + b2n r.badHi * 2 ^ 21))]
      (regionTenant s (recAddr r))
  else s

/-- The reports and the delivery of one search (R127, R155, R157): one that nobody awaits any more still reports. -/
def deliverFlight (s : State) (f : Flight) : State :=
  let s1 := f.fails.foldl (fun u x => reportFail u f.pipe f.issue f.width x) s
  let s2 := reportDbad s1 f.pipe f.issue f.res
  match f.who with
  | .diag => diagDone s2 f.res
  | .lost => s2
  | w => s2.setSrch { s2.srch with done := s2.srch.done ++ [(w, f.res)] }

/-- SEARCH_RESULT (R127): the oldest search in a pipe's path delivers its result. [Log 45: DEDUCED] -/
def execSearchResult (pipe : BitVec 1) (s : State) : Host.Outcome State Fault Refusal :=
  .next (match s.srch.flights.find? (fun f => f.pipe == pipe.toNat) with
    | none => s
    | some f => deliverFlight (s.setSrch { s.srch with flights := s.srch.flights.erase f }) f)

/-- Key bits of the diagnostic port (R139). -/
def diagKey (s : State) : Nat :=
  (List.range 12).foldl (fun a m => a + (rd s (R.SRCH_DIAG_KEYm m)).toNat * 2 ^ (32 * m)) 0

/-- A key with the tenant field of a profile written (R115, R139). -/
def withTenant (s : State) (p key tenant : Nat) : Nat :=
  let ctl := rd s (R.SRCH_PROFn_CTL p)
  if bit ctl 6 then
    let t := fld ctl 15 7
    key - bits key (t + 9) t * 2 ^ t + tenant % 1024 * 2 ^ t
  else key

/-- GO of the diagnostic port (R139 to R141): the search waits for the writes of its event tick. -/
def diagGo (s : State) : State :=
  let p := rdF s R.SRCH_DIAG_CTL 5 0
  if rdB s R.SRCH_DIAG_STAT 0 ∨ profDef s p = false ∨ profClass s p ≠ 4 ∨ s.dev ≠ .laid then setCond s R.SRCH_STAT 64 2
  else wr (later s 0 (.diagGo p (rdF s R.SRCH_DIAG_CTL 25 16))) R.SRCH_DIAG_STAT 1

/-- The request of a GO (R139), its key as it stands after the writes of the event tick: it may enter a pipe from the next event tick on. -/
def diagRequest (s : State) (p t : Nat) : State :=
  let key := withTenant s p (diagKey s) t
  let r : SReq :=
    { cls := 4, prof := p, key := key % 2 ^ (96 * widthUnits (profWidth s p)), tenant := t, port := 0,
      who := .diag, ready := s.dkl.free + 1 }
  if running s then s.setSrch { s.srch with reqs := s.srch.reqs ++ [r] } else wr s R.SRCH_DIAG_STAT 0

/-- DIAG_GO (R139): a write of `SRCH_DIAG_CTL`, whose RW fields are stored first. -/
def execDiagGo (fn : BitVec 6) (v : Word) (s : State) : Host.Outcome State Fault Refusal :=
  .next (if accessOk s fn.toNat R.SRCH_DIAG_CTL then
      let s1 := plainWrite s fn.toNat R.SRCH_DIAG_CTL .base v
      if bit v 31 then diagGo s1 else s1
    else s)

/-- A diagnostic request that still waits when a lift ends is discarded (R141), and so is one in the path of a pipe.
[Log 124: DESIGN CHOICE] -/
def diagLiftEnd (s : State) : State :=
  if s.srch.reqs.any (fun r => r.who == .diag) || s.srch.flights.any (fun f => f.who == .diag) then
    wr (s.setSrch { s.srch with
      reqs := s.srch.reqs.filter (fun r => r.who != .diag)
      flights := s.srch.flights.filter (fun f => f.who != .diag) }) R.SRCH_DIAG_STAT 0
  else s

/-- Reload of the class credits at a deckle tick, with WAITc for a class whose next request found its credit spent (R123,
R126). -/
def creditReload (s : State) : State :=
  classOrder.foldl (fun u c =>
    let waits := match nextReq u c with
      | some r => decide (SMap.getD u.srch.credit c 0 < slotCost u r.prof)
      | none => false
    let u1 := if waits then setCond u R.SRCH_STAT 64 (2 ^ (4 + c)) else u
    u1.setSrch { u1.srch with credit := SMap.put u1.srch.credit c (rdF u1 (R.SRCH_CLASSc_CREDIT c) 20 0) }) s

/-- The lowest quire at or after q that is not laid off, with its distance, among n quires. -/
def nextQuire (s : State) (q : Nat) : Nat → Option Nat
  | 0 => none
  | n + 1 => if q ≥ 64 then none else if quireCode s q ≠ 3 then some q else nextQuire s (q + 1) n

/-- The first unit address that the scrubber visits (R158). -/
def scrubFirst (s : State) : Nat :=
  match nextQuire s 0 64 with
  | some q => q * 16384
  | none => 0

/-- The scrubber moves to the next unit (R158), with the report at the end of a pass (R162). -/
def scrubAdvance (s : State) : State :=
  let pos := rdF s R.WMK_SCRUB_POS 19 0
  let s0 := s.setSrch { s.srch with rewrite := none }
  if pos % 16384 < 16383 then wrF s0 R.WMK_SCRUB_POS 19 0 (pos + 1)
  else match nextQuire s (pos / 16384 + 1) 64 with
    | some q => wrF s0 R.WMK_SCRUB_POS 19 0 (q * 16384)
    | none =>
      let s1 := wrF (wrF s0 R.WMK_SCRUB_POS 19 0 (scrubFirst s)) R.WMK_SCRUB_POS 31 31
        (1 - rdF s R.WMK_SCRUB_POS 31 31)
      wmkFinding s1 s.dkl.cyc 0 0x80 [] 0

/-- Word of `WMK_SCRUB`. -/
def scrubWord (action addr : Nat) : Word := BitVec.ofNat 32 (action * 2 ^ 20 + addr)

/-- Step 5 of a visit: bad associated data is reported (R158). -/
def scrubAd (s : State) (c addr : Nat) (u : SUnit) : State :=
  let b := adBad u
  if b.1 || b.2 then
    wmkFinding s c 0 0x20 [(R.WMK_DBAD, BitVec.ofNat 32 (addr + b2n b.1 * 2 ^ 20 + b2n b.2 * 2 ^ 21 + 2 ^ 22))]
      (regionTenant s addr)
  else s

/-- The scrubber has a unit to visit: its pointer stands in a quire that is not laid off (R158). -/
def scrubHas (s : State) : Bool := quireCode s (rdF s R.WMK_SCRUB_POS 19 0 / 16384) != 3

/-- One visit of the scrubber, its read grant in cycle c (R158, R159). [Log 44: DESIGN CHOICE] -/
def scrubVisit (s : State) (c : Nat) : State :=
  let addr := rdF s R.WMK_SCRUB_POS 19 0
  let w := widthUnits (quireCode s (addr / 16384))
  let u := unitPort s addr c
  let maj := majority3 u.valid
  let s1 := if u.valid ≠ 0 ∧ u.valid ≠ 7 then
      wmkFinding (landBeat s c addr (.fix (if maj then 7 else 0))) c 0 8 [(R.WMK_SCRUB, scrubWord 1 addr)] (regionTenant s addr)
    else s
  let e := entryOf w addr
  let entryValid := majority3 (unitPort s e c).valid
  if !entryValid then scrubAdvance s1
  else if u.spar ≠ shadowParity u.sval u.smask then
    scrubAdvance (wmkFinding (landBeat s1 c e (.valid 0)) c 0 0x10 [(R.WMK_SCRUB, scrubWord 3 addr)] (regionTenant s addr))
  else
    let s3 := scrubAd s1 c addr u
    if u.value ≠ u.sval ∨ u.mask ≠ u.smask then s3.setSrch { s3.srch with rewrite := some (addr, u.sval, u.smask) }
    else scrubAdvance s3

/-- The scrubber's cell rewrite in cycle c, from the shadow word of its read grant (R158 step 4, R160).
[Log 44: DESIGN CHOICE] -/
def scrubRewrite (s : State) (x : Nat × Nat × Nat) (c : Nat) : State :=
  let addr := x.1
  scrubAdvance (wmkFinding (landBeat s c addr (.unit (some x.2) none none)) c 0 4
    [(R.WMK_SCRUB, scrubWord 2 addr)] (regionTenant s addr))

/-- SCRUB_STALL (R162): 4,096 consecutive deckles have passed without a grant. -/
def execScrubStall (s : State) : Host.Outcome State Fault Refusal :=
  .next (if 4096 ≤ s.srch.noGrant then
      wmkFinding (s.setSrch { s.srch with noGrant := s.srch.noGrant - 4096 }) s.dkl.cyc 0 0x40 [] 0
    else s)

end Sys2Proof.Machine
end

