-- ==== Sys2Proof/Machine/Update.lean ====
section
/-! DEFINITION. The update port of chapter 06: the command FIFO, the checks at its head, and the beats of every command. -/

namespace Sys2Proof.Machine

/-- Width in units of the quire of a unit address; 1 where the quire is laid off (R173, R176). -/
def quireUnits (s : State) (addr : Nat) : Nat :=
  match quireCode s (addr / 16384 % 64) with
  | 0 => 1 | 1 => 2 | 2 => 4 | _ => 1

/-- Length in words of the command that a header word 0 opens (R173, R176). -/
def cmdLen (s : State) (w0 : Word) : Nat :=
  match fld w0 31 28 with
  | 1 => 2 + 8 * (fld w0 25 24 + 1)
  | 2 => 4
  | 5 => 2 + 8 * quireUnits s (fld w0 19 0)
  | _ => 2

/-- Words that an item takes in the FIFO (R176, R180). -/
def itemWords : UpdItem → Nat
  | .cmd _ ws => ws.length
  | .cell .. => 10
  | .adw .. => 4
  | .fetch .. => 2

/-- Free words of the command FIFO (`UPD_FREE`, R176). -/
def updFree (s : State) : Nat := 1024 - s.upd.fifo.foldl (fun a i => a + itemWords i) 0

/-- Word of `UPD_REJ`. -/
def rejWord (op reason addr : Nat) : Word := BitVec.ofNat 32 (addr % 2 ^ 20 + reason * 2 ^ 20 + op * 2 ^ 28)

/-- A discarded command: REJECT, or SKIP for a conditional REPLACE, with `UPD_REJ` (R174 to R178, R188). -/
def updReject (s : State) (bitNo op reason addr : Nat) : State :=
  setCondWith s R.UPD_STAT 67 (2 ^ bitNo) [(R.UPD_REJ, rejWord op reason addr)] (regionTenant s addr) .newBits

/-- A unit lies in a region that the issuer may write: PF0 may write every unit of a quire not laid off, a tenant function
those of regions of tenants bound to it (R179). -/
def unitReach (s : State) (fn addr : Nat) : Bool :=
  fn == 0 ||
    (match regionOf s addr 256 with
     | some n => tenantFn s (rdF s (R.SRCH_REGn_A n) 29 20) == fn
     | none => false)

/-- Every unit of a run may be written by the issuer. -/
def runReach (s : State) (fn addr n : Nat) : Bool := (List.range n).all (fun k => unitReach s fn (addr + k))

/-- Index of a unit address is a multiple of the quire's width. -/
def aligned (s : State) (addr : Nat) : Bool := addr % 16384 % quireUnits s addr == 0

/-- A quire is laid off (R103). -/
def quireOff (s : State) (addr : Nat) : Bool := quireCode s (addr / 16384 % 64) == 3

/-- The REASON of R178 for a command at the head of the FIFO; none where it passes every check.
[Log 126: DEDUCED, 145: DESIGN CHOICE] -/
def cmdFault (s : State) (fn : Nat) (ws : List Word) : Option Nat :=
  let w0 := ws.headD 0
  let op := fld w0 31 28
  let addr := fld w0 19 0
  let dst := fld ((ws[1]?).getD 0) 19 0
  let w := quireUnits s addr
  let cnt := fld w0 25 24
  if op = 0 ∨ 8 ≤ op then some 1
  else if op = 7 then none
  else if (op = 3 ∨ op = 4 ∨ op = 5 ∨ op = 6) ∧ quireOff s addr = false ∧ aligned s addr = false then some 2
  else if op = 6 ∧ quireOff s dst = false ∧ aligned s dst = false then some 2
  else if quireOff s addr then some 3
  else if op = 1 ∧ 16384 ≤ addr % 16384 + cnt then some 3
  else if op = 6 ∧ (quireOff s dst ∨ quireUnits s dst ≠ w ∨ (addr < dst + w ∧ dst < addr + w)) then some 3
  else
    let n := if op = 1 then cnt + 1 else if op = 5 ∨ op = 6 then w else 1
    if runReach s fn addr n && (op != 6 || runReach s fn dst n) then none else some 4

/-- The check of an item at the head of the FIFO: for a submission of the indirect port, the quire and the regions (R179). -/
def itemFault (s : State) : UpdItem → Option Nat
  | .cmd fn ws => cmdFault s fn ws
  | .cell fn addr .. => if quireOff s addr then some 3 else if unitReach s fn addr then none else some 4
  | .adw fn addr _ => if quireOff s addr then some 3 else if unitReach s fn addr then none else some 4
  | .fetch .. => none

/-- OP and ADDR of an item, for `UPD_REJ`: a submission counts as the WRITE or WRITE_AD that it is. -/
def itemOpAddr : UpdItem → Nat × Nat
  | .cmd _ ws => (fld (ws.headD 0) 31 28, fld (ws.headD 0) 19 0)
  | .cell _ addr .. => (1, addr)
  | .adw _ addr _ => (2, addr)
  | .fetch .. => (0, 0)

/-- The commands at the head of the FIFO that fail a check are discarded, with no beat spent (R178). -/
def settleHead (s : State) : List UpdItem → State
  | [] => s.setUpd { s.upd with fifo := [] }
  | i :: l =>
    match itemFault s i with
    | none => s.setUpd { s.upd with fifo := i :: l }
    | some r => settleHead (updReject s 2 (itemOpAddr i).1 r (itemOpAddr i).2) l

/-- An item joins the FIFO: none where too few words are free (R176, R180). -/
def fifoPush (s : State) (i : UpdItem) : Option State :=
  if itemWords i ≤ updFree s then
    if s.upd.fifo.isEmpty then some (settleHead s [i])
    else some (s.setUpd { s.upd with fifo := s.upd.fifo ++ [i] })
  else none

/-- One word written to the `UPD_CMD` window (R176): the length of the command is fixed with the second word of its header. -/
def cmdWord (s : State) (fn : Nat) (v : Word) : State :=
  let old := SMap.getD s.upd.asm fn (0, [])
  let buf := old.2 ++ [v]
  let need := if buf.length = 2 then cmdLen s (buf.headD 0) else old.1
  if 2 ≤ buf.length ∧ need ≤ buf.length then
    let op := fld (buf.headD 0) 31 28
    let addr := fld (buf.headD 0) 19 0
    let s1 := s.setUpd { s.upd with asm := SMap.del s.upd.asm fn }
    if s.dev ≠ .laid then updReject s1 2 op 7 addr
    else match fifoPush s1 (.cmd fn buf) with
      | some s2 => s2
      | none => updReject s1 2 op 5 addr
  else s.setUpd { s.upd with asm := SMap.put s.upd.asm fn (need, buf) }

/-- `WMK_INJ` alters the next rank-0 beat that writes a unit or an associated-data word, and clears itself (R165): the change
that the beat makes, and the state with the register cleared. [Log 11: DESIGN CHOICE] -/
def inject (s : State) (addr c : Nat) (op : ArrOp) : ArrOp × State :=
  let inj := rd s R.WMK_INJ
  if inj = 0 then (op, s)
  else
    match op with
    | .unit cells sh ad =>
      let u := unitAt s addr c
      let sh0 := sh.getD (u.sval, u.smask, u.spar)
      let ad0 := ad.getD (u.ad, u.adpar)
      (.unit (if bit inj 10 then none else cells) (some (sh0.1, sh0.2.1, sh0.2.2 ^^^ fld inj 7 0))
        (some (ad0.1, ad0.2 ^^^ fld inj 9 8)), wr s R.WMK_INJ 0)
    | o => (o, s)

/-- A host or engine write of a unit cancels a waiting rewrite of it (R160). [Log 44: DESIGN CHOICE] -/
def cancelRewrite (s : State) (addr : Nat) : State :=
  if (s.srch.rewrite.map Prod.fst) = some addr then scrubAdvance s else s

/-- The overflow region of the station table: its first unit address (R192). -/
def ovfBase (s : State) : Option Nat :=
  ((List.range 256).find? (fun n => rdF s (R.SRCH_REGn_B n) 19 16 == 1)).map (fun n =>
    rdF s (R.SRCH_REGn_A n) 5 0 * 16384 + rdF s (R.SRCH_REGn_A n) 19 6)

/-- A host write of an overflow entry takes the place of a refresh of it that waits (R216). -/
def dropImage (s : State) (addr : Nat) : State :=
  match ovfBase s with
  | some b => if b ≤ addr ∧ addr < b + 4096 then s.setFwd { s.fwd with image := SMap.del s.fwd.image (addr - b) } else s
  | none => s

/-- A word of `WMK_INJ` written while a rank-0 transfer goes on alters the first unit beat that comes after the cycle of the write (R165).
[Log 11: DESIGN CHOICE] -/
def injectLate (s : State) : State :=
  let now := s.dkl.cyc + tickCycles s - 1
  if s.upd.rank ≠ 0 then s
  else
    match s.srch.beats.find? (fun b => decide (now < b.land) && (match b.op with | .unit .. => true | _ => false)) with
    | some b =>
      let p := inject (s.setSrch { s.srch with beats := s.srch.beats.erase b }) b.addr b.land b.op
      landBeat p.2 b.land b.addr p.1
    | none => s

/-- A unit beat of rank 0 in cycle c. [Log 44: DESIGN CHOICE] -/
def hostBeat (s : State) (addr c : Nat) (op : ArrOp) : State :=
  let p := inject s addr c op
  cancelRewrite (dropImage (landBeat p.2 c addr p.1) addr) addr

/-- A unit beat of an engine in cycle c: never altered by `WMK_INJ` (R165). -/
def engineBeat (s : State) (addr c : Nat) (op : ArrOp) : State := cancelRewrite (landBeat s c addr op) addr

/-- The change that writes a whole unit: cells, shadow word and associated data (R166). -/
def unitOp (value mask ad : Nat) : ArrOp :=
  .unit (some (value, mask)) (some (value, mask, shadowParity value mask)) (some (ad, adParity ad))

/-- Unit body k of a command: value, mask and associated data (R172). -/
def unitBody (ws : List Word) (k : Nat) : Nat × Nat × Nat :=
  let g := fun i => ((ws[2 + 8 * k + i]?).getD 0).toNat
  (g 0 + g 1 * 2 ^ 32 + g 2 * 2 ^ 64, g 3 + g 4 * 2 ^ 32 + g 5 * 2 ^ 64, g 6 + g 7 * 2 ^ 32)

/-- Units written from command bodies, body k in cycle c + k. -/
def writeBodies (s : State) (ws : List Word) (addr c : Nat) : List Nat → State
  | [] => s
  | k :: l =>
    let b := unitBody ws k
    writeBodies (hostBeat s (addr + k) (c + k) (unitOp b.1 b.2.1 b.2.2)) ws addr c l

/-- The voted valid bit at an entry address as the port reads it in cycle c. -/
def portValid (s : State) (addr c : Nat) : Bool := majority3 (unitPort s addr c).valid

/-- The end of a rank-0 transfer: the head leaves the FIFO, the port is free from cycle c on, and the next head is checked.
[Log 127: DESIGN CHOICE] -/
def endTransfer (s : State) (c : Nat) : State :=
  let s1 := s.setUpd { s.upd with free := c, rank := 0 }
  settleHead s1 (s1.upd.fifo.drop 1)

/-- WRITE from cycle c (R173, R184, R185). -/
def doWrite (s : State) (ws : List Word) (c : Nat) : State :=
  let addr := fld (ws.headD 0) 19 0
  let n := fld (ws.headD 0) 25 24 + 1
  let w := quireUnits s addr
  let e := entryOf w addr
  let s1 := if w ≠ 1 ∧ portValid s e c = true then
      setCondWith s R.UPD_STAT 67 2
        [(R.UPD_LIVE, BitVec.ofNat 32 (e + quireCode s (addr / 16384) * 2 ^ 20))] (regionTenant s e) .newBits
    else s
  endTransfer (writeBodies s1 ws addr c (List.range n)) (c + n)

/-- WRITE_AD of a word at a unit in cycle c (R173, R186). -/
def doWriteAd (s : State) (addr ad c : Nat) : State :=
  endTransfer (hostBeat s addr c (.unit none none (some (ad, adParity ad)))) (c + 1)

/-- INVALIDATE (v = 0) or VALIDATE (v = 7) of an entry address in cycle c (R173). -/
def doValid (s : State) (addr v c : Nat) : State := endTransfer (landBeat s c addr (.valid v)) (c + 1)

/-- REPLACE from cycle c (R173, R174). -/
def doReplace (s : State) (ws : List Word) (c : Nat) : State :=
  let w0 := ws.headD 0
  let addr := fld w0 19 0
  let w := quireUnits s addr
  if bit w0 27 && portValid s addr c then endTransfer (updReject s 3 5 8 addr) (c + 1)
  else
    let s1 := landBeat s (c + 1) addr (.valid 0)
    let s2 := writeBodies s1 ws addr (c + 2) (List.range w)
    endTransfer (landBeat s2 (c + w + 2) addr (.valid 7)) (c + w + 3)

/-- The units of a MOVE, read from the shadow words and associated data of the source (R173). -/
def moveUnits (s : State) (src dst c rc : Nat) : List Nat → State
  | [] => s
  | k :: l =>
    let u := unitPort s (src + k) rc
    moveUnits (hostBeat s (dst + k) (c + k) (unitOp u.sval u.smask u.ad)) src dst c rc l

/-- MOVE from cycle c (R173, R175): the destination takes the valid bit that beat 0 read; a source shadow word of bad parity
ends it after its read beats. -/
def doMove (s : State) (ws : List Word) (c : Nat) : State :=
  let addr := fld (ws.headD 0) 19 0
  let dst := fld ((ws[1]?).getD 0) 19 0
  let w := quireUnits s addr
  let bad := (List.range w).any (fun k =>
    let u := unitPort s (addr + k) c
    u.spar != shadowParity u.sval u.smask)
  if bad then endTransfer (updReject s 2 6 6 addr) (c + w)
  else
    let v := portValid s addr c
    let s1 := landBeat s (c + w + 1) dst (.valid 0)
    let s2 := moveUnits s1 addr dst (c + w + 2) c (List.range w)
    endTransfer (landBeat s2 (c + 2 * w + 2) dst (.valid (if v then 7 else 0))) (c + 2 * w + 3)

/-- MARK in cycle c (R173). -/
def doMark (s : State) (fn : Nat) (ws : List Word) (c : Nat) : State :=
  let s1 := wr s (regKey fn R.UPD_DONE) (BitVec.ofNat 32 (fld ((ws[1]?).getD 0) 15 0))
  endTransfer (setCond s1 R.UPD_STAT 67 1) (c + 1)

/-- The cells and shadow word of a unit written for the indirect port in cycle c (R166, R180). -/
def doCell (s : State) (addr value mask c : Nat) : State :=
  endTransfer (hostBeat s addr c (.unit (some (value, mask)) (some (value, mask, shadowParity value mask)) none)) (c + 1)

/-- Beats of an item (R173, R187). -/
def itemBeats (s : State) : UpdItem → Nat
  | .cmd _ ws =>
    let w := quireUnits s (fld (ws.headD 0) 19 0)
    match fld (ws.headD 0) 31 28 with
    | 1 => fld (ws.headD 0) 25 24 + 1
    | 5 => 3 + w
    | 6 => 3 + 2 * w
    | _ => 1
  | _ => 1

/-- An item writes a unit of a region of KIND 6 (R187). -/
def itemZone (s : State) : UpdItem → Bool
  | .cmd _ ws =>
    let op := fld (ws.headD 0) 31 28
    let addr := if op = 6 then fld ((ws[1]?).getD 0) 19 0 else fld (ws.headD 0) 19 0
    let n := if op = 1 then fld (ws.headD 0) 25 24 + 1 else if op = 5 ∨ op = 6 then quireUnits s addr else 1
    op != 7 && (List.range n).any (fun k => regionKind s (addr + k) == 6)
  | .cell _ addr .. => regionKind s addr == 6
  | .adw _ addr _ => regionKind s addr == 6
  | .fetch .. => false

/-- ZHOLD keeps a transfer from starting in cycle c (R187). -/
def zheld (s : State) (i : UpdItem) (c : Nat) : Bool :=
  rdB s R.UPD_CTL 0 && itemZone s i && s.dkl.started &&
    decide (deckleCycle s c ≤ 2557 ∧ 511 ≤ deckleCycle s c + itemBeats s i - 1)

/-- The sideband of rank 0 is asserted: `PERST_N` is low, or the device is not LAID (R167, R177). -/
def hostMasked (s : State) : Bool := !s.pwr.perstn || decide (s.dev ≠ .laid)

/-- The item that rank 0 may start no earlier than cycle c, with the cycle of its first beat (R168). [Log 43: DEDUCED] -/
def hostGrant (s : State) (c : Nat) : Option (UpdItem × Nat) :=
  let c0 := max c s.upd.free
  match s.upd.fifo.head? with
  | some i => if hostMasked s || zheld s i c0 then none else some (i, c0)
  | none => none

/-- Rank 0 asks for the port in cycle c and is not held: lower ranks wait (R168). -/
def hostWants (s : State) (c : Nat) : Bool := (hostGrant s c).isSome

/-- `UPD_ARB` (R167, R168): masks of the ranks given by the engines. [Log 43: DEDUCED] -/
def updArb (s : State) (mask1 mask2 req1 req2 : Bool) : Word :=
  let m := b2n (hostMasked s) + 2 * b2n mask1 + 4 * b2n mask2 + 8 * b2n (decide (s.dev ≠ .laid))
  let r := b2n (!s.upd.fifo.isEmpty) + 2 * b2n req1 + 4 * b2n req2 + 8 * b2n (decide (s.dev = .laid))
  BitVec.ofNat 32 (m * 256 + r * 16 + b2n (decide (s.dkl.cyc < s.upd.free)) * 8 + s.upd.rank % 4)

/-- The FIFO and every assembly buffer are discarded (R177). -/
def updDiscard (s : State) : State := s.setUpd { s.upd with asm := [], fifo := [] }

/-- UPD_CMD_WORD (R176): a write to any address of the window. -/
def execUpdCmdWord (fn : BitVec 6) (v : Word) (s : State) : Host.Outcome State Fault Refusal :=
  .next (hostWriteAs s fn.toNat (R.UPD_CMD 0) v (fun t => cmdWord t fn.toNat v))

/-- UPD_FLUSH (R176). -/
def execUpdFlush (fn : BitVec 6) (v : Word) (s : State) : Host.Outcome State Fault Refusal :=
  .next (hostWriteAs s fn.toNat R.UPD_FLUSH v (fun t =>
    if bit v 0 then t.setUpd { t.upd with asm := SMap.del t.upd.asm fn.toNat } else t))

/-- The head of the FIFO served in cycle c or later, if it is a command of an operation. -/
def serveCmd (s : State) (op c : Nat) (f : State → Nat → List Word → Nat → State) : State :=
  match hostGrant s c with
  | some (.cmd fn ws, c0) => if fld (ws.headD 0) 31 28 = op then f s fn ws c0 else s
  | _ => s

/-- WRITE (R173): the head of the FIFO, its first beat in cycle cyc of the event tick or when the port is free. -/
def execWrite (cyc : BitVec 4) (s : State) : Host.Outcome State Fault Refusal :=
  .next (serveCmd s 1 (s.dkl.cyc + cyc.toNat) (fun s _ ws c => doWrite s ws c))

/-- INVALIDATE (R173). -/
def execInvalidate (cyc : BitVec 4) (s : State) : Host.Outcome State Fault Refusal :=
  .next (serveCmd s 3 (s.dkl.cyc + cyc.toNat) (fun s _ ws c => doValid s (fld (ws.headD 0) 19 0) 0 c))

/-- VALIDATE (R173). -/
def execValidate (cyc : BitVec 4) (s : State) : Host.Outcome State Fault Refusal :=
  .next (serveCmd s 4 (s.dkl.cyc + cyc.toNat) (fun s _ ws c => doValid s (fld (ws.headD 0) 19 0) 7 c))

/-- REPLACE (R173, R174). -/
def execReplace (cyc : BitVec 4) (s : State) : Host.Outcome State Fault Refusal :=
  .next (serveCmd s 5 (s.dkl.cyc + cyc.toNat) (fun s _ ws c => doReplace s ws c))

/-- MOVE (R173, R175). -/
def execMove (cyc : BitVec 4) (s : State) : Host.Outcome State Fault Refusal :=
  .next (serveCmd s 6 (s.dkl.cyc + cyc.toNat) (fun s _ ws c => doMove s ws c))

/-- MARK (R173). -/
def execMark (cyc : BitVec 4) (s : State) : Host.Outcome State Fault Refusal :=
  .next (serveCmd s 7 (s.dkl.cyc + cyc.toNat) (fun s fn ws c => doMark s fn ws c))

/-- QUIRE_CELL_WRITE (R180): a quire-cell submission at the head of the FIFO. -/
def execQuireCellWrite (cyc : BitVec 4) (s : State) : Host.Outcome State Fault Refusal :=
  .next (match hostGrant s (s.dkl.cyc + cyc.toNat) with
    | some (.cell _ addr value mask, c0) => doCell s addr value mask c0
    | _ => s)

end Sys2Proof.Machine
end

