-- ==== Sys2Proof/Machine/Forward.lean ====
section
/-! DEFINITION. The switch of chapter 07: classification, lookups, the destination decision, learning, aging, flushes and
the host's access to its tables. -/

namespace Sys2Proof.Machine

/-- Byte i of a frame; a byte beyond its end reads 0 (R120). [Log 132: DEDUCED] -/
def fbyte (bs : List Byte) (i : Nat) : Nat := ((bs[i]?).getD 0).toNat

/-- A big-endian field of a frame. -/
def fbe (bs : List Byte) (off len : Nat) : Nat := (List.range len).foldl (fun a i => a * 256 + fbyte bs (off + i)) 0

/-- Destination MAC address, first octet in [47:40]. -/
def dmac (bs : List Byte) : Nat := fbe bs 0 6

/-- Source MAC address. -/
def smac (bs : List Byte) : Nat := fbe bs 6 6

/-- Multicast bit of a MAC address. -/
def macMulti (m : Nat) : Bool := (m / 2 ^ 40).testBit 0

/-- The broadcast MAC address. -/
def macBcast : Nat := 2 ^ 48 - 1

/-- Offset of the EtherType after at most n VLAN tags, from an offset. [Log 46: PRESUMED] -/
def tagsEnd (bs : List Byte) : Nat → Nat → Nat
  | 0, o => o
  | n + 1, o => if fbe bs o 2 = 0x8100 then tagsEnd bs n (o + 4) else o

/-- Offset of the EtherType of a frame after any VLAN tags (R117): a frame holds fewer tags than a quarter of its bytes. -/
def etherOff (bs : List Byte) : Nat := tagsEnd bs (bs.length / 4 + 1) 12

/-- L3 code of R118 for an EtherType: a value below 0x0600 is a length, not a type. [Log 46: PRESUMED] -/
def l3Code (et : Nat) : Nat := if et = 0x0800 then 1 else if et = 0x86DD then 2 else if et < 0x0600 then 0 else 3

/-- L4 code of R118 for an IP protocol number, the number 59 (no next header) among the others. [Log 128: DEDUCED] -/
def l4Code (proto : Nat) : Nat :=
  match proto with
  | 17 => 1 | 6 => 2 | 1 => 3 | 58 => 3 | _ => 4

/-- Protocol and offset of the layer-4 header behind IPv6 extension headers: a packet holds fewer of them than an eighth of its bytes.
[Log 46: PRESUMED] -/
def ip6Next (bs : List Byte) : Nat → Nat → Nat → Nat × Nat
  | 0, p, o => (p, o)
  | n + 1, p, o =>
    if p = 0 ∨ p = 43 ∨ p = 60 then ip6Next bs n (fbyte bs o) (o + 8 * (fbyte bs (o + 1) + 1))
    else if p = 44 then ip6Next bs n (fbyte bs o) (o + 8)
    else if p = 51 then ip6Next bs n (fbyte bs o) (o + 4 * (fbyte bs (o + 1) + 2))
    else (p, o)

/-- Protocol and layer-4 offset of a frame with an L3 code and offset. [Log 46: PRESUMED] -/
def l4Find (bs : List Byte) (l3 o : Nat) : Nat × Nat :=
  match l3 with
  | 1 => (l4Code (fbyte bs (o + 9)), o + 4 * (fbyte bs o % 16))
  | 2 => let p := ip6Next bs (bs.length / 8 + 1) (fbyte bs (o + 6)) (o + 40); (l4Code p.1, p.2)
  | _ => (0, 0)

/-- DSCP of a frame; 0 where L3 is neither IPv4 nor IPv6 (R118). -/
def dscpOf (bs : List Byte) (l3 o : Nat) : Nat :=
  match l3 with
  | 1 => fbyte bs (o + 1) / 4
  | 2 => (fbyte bs o % 16 * 16 + fbyte bs (o + 1) / 16) / 4
  | _ => 0

/-- A direct table word without its parity bits, and whether its parity is good (R190). -/
def tblRead (s : State) (t i : Nat) : Nat × Bool :=
  let x := SMap.getD s.fwd.tbl (t * 65536 + i) 0
  if t = 3 then (x % 2 ^ 32, x / 2 ^ 32 == parity 32 x) else (x % 2 ^ 64, x / 2 ^ 64 == adParity x)

/-- The state with a direct table word written, parity computed by the device (R190, R223). -/
def tblWrite (s : State) (t i v : Nat) : State :=
  let x := if t = 3 then v % 2 ^ 32 + parity 32 v * 2 ^ 32 else v % 2 ^ 64 + adParity v * 2 ^ 64
  s.setFwd { s.fwd with tbl := SMap.putD 0 s.fwd.tbl (t * 65536 + i) x }

/-- Entries of a direct table (R190). -/
def tblSize (t : Nat) : Nat :=
  match t with
  | 0 => 4096 | 1 => 1024 | 2 => 65536 | _ => 16384

/-- Conditions of `FWD_STAT` (R224). -/
def fwdCond (s : State) (b : Nat) : State := setCond s R.FWD_STAT 68 (2 ^ b)

/-- PERR with `FWD_PERR` (R206, R223). -/
def fwdPerr (s : State) (table way index : Nat) : State :=
  setCondWith s R.FWD_STAT 68 16 [(R.FWD_PERR, BitVec.ofNat 32 (index + table * 65536 + way * 2 ^ 20))] 0 .newBits

/-- A drop by the switch (R202). -/
def fwdDrop (s : State) (p : Nat) : State := setCond s R.FWD_DROP_STAT 70 (2 ^ p)

/-- A field of a VLAN or tenant entry; a word of bad parity has no entry (R223). -/
def tblField (s : State) (t i hi lo : Nat) : Nat :=
  let w := tblRead s t i
  if w.2 then bits w.1 hi lo else 0

/-- The parity bits of a station word (R203). -/
def staPar (x : Nat) : Nat := (List.range 8).foldl (fun a j => a + parity 15 (x / 2 ^ (15 * j)) * 2 ^ j) 0

/-- Station word at a way location (R203). -/
def staWord (s : State) (loc : Nat) : Nat := SMap.getD s.fwd.sta loc 0

/-- A station word with good parity and VALID. -/
def staLive (x : Nat) : Bool := x.testBit 76 && x / 2 ^ 120 == staPar x

/-- A station word whose parity is bad (R206). -/
def staBad (x : Nat) : Bool := x / 2 ^ 120 != staPar x

/-- Key of a station word: TENANT, VLAN and MAC in [69:0] (R203). -/
def staKey (x : Nat) : Nat := x % 2 ^ 70

/-- Key of {tenant, VLAN, MAC} in the layout of R203. -/
def mkKey (tenant vlan mac : Nat) : Nat := mac % 2 ^ 48 + vlan % 4096 * 2 ^ 48 + tenant % 1024 * 2 ^ 60

/-- A station word with its parity computed (R190). -/
def mkSta (key port : Nat) (static : Bool) (stamp : Nat) : Nat :=
  let x := key % 2 ^ 70 + port % 32 * 2 ^ 70 + b2n static * 2 ^ 75 + 2 ^ 76 + stamp % 65536 * 2 ^ 80
  x + staPar x * 2 ^ 120

/-- A station word with its VALID cleared and its parity computed (R190, R206, R217). -/
def staClear (x : Nat) : Nat :=
  let y := x % 2 ^ 120 - b2n (x.testBit 76) * 2 ^ 76
  y + staPar y * 2 ^ 120

/-- The state with a station word written; 0 is held by no entry. -/
def staSet (s : State) (loc x : Nat) : State := s.setFwd { s.fwd with sta := SMap.putD 0 s.fwd.sta loc x }

/-- A soft error in a stored word lands in a cycle (R144, R190, R203). [Log 11: DESIGN CHOICE] -/
def flipRam (land : Nat) (s : State) (f : RamFlip) : State :=
  match f with
  | .unit a x v => landBeat s land a.toNat (.flip x v)
  | .station loc v => staSet s loc.toNat (staWord s loc.toNat ^^^ v)
  | .table t i v =>
    let k := t.toNat * 65536 + i.toNat
    s.setFwd { s.fwd with tbl := SMap.putD 0 s.fwd.tbl k (SMap.getD s.fwd.tbl k 0 ^^^ v) }

/-- The 10-byte string K of a key (R204). -/
def hashBytes (key : Nat) : List Byte :=
  let vlan := bits key 59 48
  let tenant := bits key 69 60
  beBytes 6 (key % 2 ^ 48) ++
    [BitVec.ofNat 8 (vlan / 16), BitVec.ofNat 8 (vlan % 16 * 16 + tenant / 64), BitVec.ofNat 8 (tenant % 64 * 4), 0]

/-- The row h_i of a key (R204). -/
def staHash (s : State) (i key : Nat) : Nat :=
  (((hashBytes key).foldl (fun c b => crcByte 0x82F63B78 c b.toNat) (rd s (R.FWD_HASH_SEEDn i)).toNat) ^^^ 0xFFFFFFFF) % 65536

/-- The location of a key in way i. -/
def staLoc (s : State) (i key : Nat) : Nat := i * 65536 + staHash s i key

/-- The way that holds a key, if any (R206). -/
def wayOf (s : State) (key : Nat) : Option Nat :=
  (List.range 4).find? (fun i =>
    let x := staWord s (staLoc s i key)
    staLive x && staKey x == key)

/-- The lowest way whose row is free for a key: VALID 0, or bad parity (R206). -/
def freeWay (s : State) (key : Nat) : Option Nat :=
  (List.range 4).find? (fun i => !staLive (staWord s (staLoc s i key)))

/-- The write port of the station RAM is taken for one cycle, the first that is free from cycle c on (R218). -/
def ramTake (s : State) (c : Nat) : State := s.setFwd { s.fwd with staFree := max s.fwd.staFree c + 1 }

/-- The write of a host command, which goes before the engines' writes of the same cycle (R218). [Log 107: DEDUCED] -/
def hostRam (s : State) : State := ramTake s (s.dkl.cyc + tickCycles s)

/-- A row that is met with bad parity loses its VALID, with PERR (R206). -/
def clearBad (s : State) (loc : Nat) : State :=
  if staBad (staWord s loc) then
    ramTake (fwdPerr (staSet s loc (staClear (staWord s loc))) 0 (loc / 65536) (loc % 65536)) s.dkl.cyc
  else s

/-- The rows of a key with bad parity lose their VALID, with PERR (R206). -/
def clearBadRows (s : State) (key : Nat) : State := (List.range 4).foldl (fun u i => clearBad u (staLoc u i key)) s

/-- The overflow unit of an index as of a landing cycle. -/
def ovfUnit (s : State) (base i c : Nat) : SUnit := unitAt s (base + i) c

/-- The lowest free overflow index: the engine's free map follows every landed write (R212, R221). -/
def freeOvf (s : State) (base c : Nat) : Option Nat :=
  (List.range 4096).find? (fun i => !majority3 (ovfUnit s base i c).valid)

/-- Overflow indexes that hold a valid entry, ascending. -/
def liveOvf (s : State) (c : Nat) : List Nat :=
  match ovfBase s with
  | none => []
  | some b => ((arrAddrs s).filter (fun a => decide (b ≤ a ∧ a < b + 4096) && majority3 (unitAt s a c).valid)).map (· - b)

/-- The key of an overflow entry's unit (R205). -/
def ovfKey (u : SUnit) : Nat := u.sval % 2 ^ 70

/-- Key cells of an overflow entry (R205). -/
def ovfValue (s : State) (key : Nat) : Nat := key % 2 ^ 70 + rdF s R.FWD_OVF_TAG 25 0 * 2 ^ 70

/-- Associated data of an overflow entry (R205). -/
def ovfAd (port : Nat) (static : Bool) (stamp : Nat) : Nat := port % 32 + b2n static * 32 + stamp % 65536 * 65536

/-- The stamp of a refresh of an overflow entry that waits: the entry is valid and still holds the key refreshed (R216). -/
def ovfFresh (s : State) (i : Nat) (u : SUnit) : Option Nat :=
  match SMap.get s.fwd.image i with
  | some x => if majority3 u.valid && ovfKey u == x / 65536 then some (x % 65536) else none
  | none => none

/-- Stamp of an overflow entry: the image's where a refresh waits (R216). -/
def ovfStamp (s : State) (i : Nat) (u : SUnit) : Nat := (ovfFresh s i u).getD (bits u.ad 31 16)

/-- Present number of dynamic entries with PORT = p (`FWD_PORTp_COUNT`, R211). -/
def portCount (s : State) (p : Nat) : Nat :=
  let ways := (s.fwd.sta.filter (fun e => staLive e.2 && !e.2.testBit 75 && bits e.2 74 70 == p)).length
  let ovf := match ovfBase s with
    | none => 0
    | some b => ((liveOvf s s.dkl.cyc).filter (fun i =>
        let ad := (ovfUnit s b i s.dkl.cyc).ad
        !ad.testBit 5 && ad % 32 == p)).length
  ways + ovf

/-- Frame metadata of R118. -/
def frameMeta (f : FrameIn) : Nat :=
  let d := dmac f.bytes
  f.port + f.vlan * 2 ^ 5 + f.pcp * 2 ^ 17 + f.tenant * 2 ^ 20 + b2n f.tagged * 2 ^ 30 + f.l3 * 2 ^ 32 + f.l4 * 2 ^ 35
    + b2n (macMulti d) * 2 ^ 38 + b2n (d == macBcast) * 2 ^ 39 + b2n f.own * 2 ^ 40 + dscpOf f.bytes f.l3 f.l3off * 2 ^ 41

/-- The key sources of a frame, which ends with its FCS (R117, R229). -/
def frameSrc (f : FrameIn) : KeySrc :=
  { keySrc0 with
    l2 := f.bytes ++ f.fcs, info := frameMeta f
    l3 := if f.l3 = 1 ∨ f.l3 = 2 then (f.bytes ++ f.fcs).drop f.l3off else []
    l4 := if f.l4 ≠ 0 then (f.bytes ++ f.fcs).drop f.l4off else [] }

/-- The stream word of a receive search (R119): the port and the tenant of the frame; the handle is what the search is to find, and
its bits are free. [Log 130: DESIGN CHOICE] -/
def strmWord (f : FrameIn) (handle : Nat) : Nat := handle % 65536 + f.tenant % 1024 * 2 ^ 16 + f.port % 32 * 2 ^ 27

/-- A search asked for on behalf of a frame. -/
def askFrame (s : State) (f : FrameIn) (which cls prof : Nat) (src : KeySrc) : State :=
  let r : SReq :=
    { cls := cls, prof := prof, key := buildKey s prof src f.tenant, tenant := f.tenant, port := f.port,
      who := .frame f.id which, ready := s.dkl.free }
  s.setSrch { s.srch with reqs := s.srch.reqs ++ [r] }

/-- The state with a waiting frame replaced. -/
def putFrame (s : State) (f : FrameIn) : State :=
  s.setFwd { s.fwd with frames := s.fwd.frames.map (fun g => if g.id = f.id then f else g) }

/-- The head frame of a port's ingress FIFO. -/
def headFrame (s : State) (p : Nat) : Option FrameIn := s.fwd.frames.find? (fun f => f.port == p)

/-- A delivered search result of a frame. -/
def frameResult (s : State) (f : FrameIn) (which : Nat) : Option SRec :=
  (s.srch.done.find? (fun d => d.1 == .frame f.id which)).map Prod.snd

/-- The frame leaves its FIFO, and the results that were its own are consumed. -/
def retireFrame (s : State) (f : FrameIn) : State :=
  let s1 := s.setFwd { s.fwd with frames := s.fwd.frames.filter (fun g => g.id != f.id) }
  s1.setSrch { s1.srch with done := s1.srch.done.filter (fun d =>
    match d.1 with | .frame i _ => i != f.id | .learn i => i != f.id | _ => true) }

/-- The destination of a frame is an IP unicast address. [Log 129: DEDUCED] -/
def ipUnicast (f : FrameIn) : Bool :=
  match f.l3 with
  | 1 => fbyte f.bytes (f.l3off + 16) < 224
  | 2 => fbyte f.bytes (f.l3off + 24) != 255
  | _ => false

/-- The frame is to be routed (R197 row 4). -/
def wantsRoute (s : State) (f : FrameIn) : Bool :=
  f.own && tblField s 1 f.tenant 49 49 == 1 && tblField s 0 f.vlan 52 52 == 1 && decide (f.l3 = 1 ∨ f.l3 = 2) && ipUnicast f

/-- A routed frame goes to the host without a search: TTL or hop limit 0 or 1, or IPv4 options (R199). -/
def routeToHost (f : FrameIn) : Bool :=
  match f.l3 with
  | 1 => decide (fbyte f.bytes (f.l3off + 8) ≤ 1) || fbyte f.bytes f.l3off % 16 != 5
  | _ => decide (fbyte f.bytes (f.l3off + 7) ≤ 1)

/-- The ingress VLAN, PCP and TAGGED of a frame; none where R193 drops it. -/
def ingressTag (s : State) (p : Nat) (bs : List Byte) : Option (Nat × Nat × Bool) :=
  let cfg := rd s (R.FWD_PORTp_CFG p)
  if fbe bs 12 2 = 0x8100 then
    let tci := fbe bs 14 2
    let vid := tci % 4096
    if vid = 4095 then none
    else if vid = 0 then (if bit cfg 16 then none else some (fld cfg 11 0, tci / 8192, true))
    else some (vid, tci / 8192, true)
  else if bit cfg 16 then none
  else some (fld cfg 11 0, fld cfg 14 12, false)

/-- A blocked port (R195). -/
def portBlocked (s : State) (p : Nat) : Bool :=
  rdB s (R.FWD_PORTp_CFG p) 17 ||
    (rdB s R.PAIR_CFG 0 && rdB s R.PAIR_CFG 5 && decide (1 < pairState s) && decide (p < 20))

/-- The stream search of a UDP frame (R119, R196 step 3). -/
def askStream (s : State) (f : FrameIn) : State :=
  let h := freeNat s 16
  askFrame h.2 f 0 1 (if f.l3 = 1 then rdF s R.STRM_PROF 5 0 else rdF s R.STRM_PROF 13 8) { frameSrc f with strm := strmWord f h.1 }

/-- Classification of an accepted frame, and the searches it asks for (R193 to R196, R210); a frame that fails is dropped.
[Log 131: DEDUCED, 132: DEDUCED] -/
def classify (s : State) (p : Nat) (bs fcs : List Byte) (stamp : Option (Nat × Nat)) : State :=
  match ingressTag s p bs with
  | none => fwdDrop s p
  | some (vlan, pcp, tagged) =>
    let vw := tblRead s 0 vlan
    let s := if vw.2 then s else fwdPerr s 1 0 vlan
    if !(vw.2 && vw.1.testBit 50 && vw.1.testBit p) then fwdDrop s p
    else
      let tenant := bits vw.1 49 40
      let tw := tblRead s 1 tenant
      let s := if tw.2 then s else fwdPerr s 2 0 tenant
      if !(tw.2 && tw.1.testBit 48) then fwdDrop s p
      else
        let eo := etherOff bs
        let l3 := l3Code (fbe bs eo 2)
        let l4 := l4Find bs l3 (eo + 2)
        let own := dmac bs == bits tw.1 47 0
        let blocked := portBlocked s p
        let sm := smac bs
        let learn := !blocked && !macMulti sm && sm != 0 && vw.1.testBit 51 && tw.1.testBit 50 && !rdB s R.FWD_LEARN_CTL 0
        let f : FrameIn :=
          { id := s.fwd.nextId, port := p, bytes := bs, fcs := fcs, vlan := vlan, pcp := pcp, tagged := tagged, tenant := tenant,
            l3 := l3, l4 := l4.1, l3off := eo + 2, l4off := l4.2, own := own, mc := mcOf s s.dkl.num 0, blocked := blocked, stamp := stamp, asked := [],
            src := if learn then .due else .none }
        let src := frameSrc f
        let d := dmac bs
        let strm := !blocked && l4.1 == 1 && ((l3 == 1 && rdB s R.STRM_PROF 7) || (l3 == 2 && rdB s R.STRM_PROF 15))
        let route := !blocked && d != macBcast && wantsRoute s f && !routeToHost f &&
          (if l3 = 1 then rdB s R.FWD_PROF 31 else rdB s R.FWD_PROF2 7)
        let group := !blocked && d != macBcast && !own && macMulti d && rdB s R.FWD_PROF 23
        let dest := !blocked && !own && !macMulti d && rdB s R.FWD_PROF 7
        let s1 := if strm then askStream s f else s
        let s2 := if dest then askFrame s1 f 1 0 (rdF s R.FWD_PROF 5 0) src else s1
        let s3 := if group then askFrame s2 f 2 0 (rdF s R.FWD_PROF 21 16) src else s2
        let s4 := if route then askFrame s3 f 3 0 (if l3 = 1 then rdF s R.FWD_PROF 29 24 else rdF s R.FWD_PROF2 5 0) src else s3
        let asked := (if strm then [0] else []) ++ (if dest then [1] else []) ++ (if group then [2] else [])
          ++ (if route then [3] else [])
        s4.setFwd { s4.fwd with frames := s4.fwd.frames ++ [{ f with asked := asked }], nextId := s4.fwd.nextId + 1 }

/-- Requests for a port that wait in the learning queue and would add to its count (R211). -/
def pendingFor (s : State) (p : Nat) : Nat := (s.fwd.queue.filter (fun r => r.port == p && r.kind != 2)).length

/-- The learning limit of a port is met (R211). -/
def limitMet (s : State) (p : Nat) : Bool := decide (rdF s (R.FWD_PORTp_LEARN p) 17 0 ≤ portCount s p + pendingFor s p)

/-- An insertion failure (R213): the registers and the rehash source. [Log 49: DEDUCED] -/
def insertionFailure (s : State) (key port cause : Nat) : State :=
  let tenant := bits key 69 60
  let s1 := wrAll s [(R.FWD_FAIL0, BitVec.ofNat 32 key),
    (R.FWD_FAIL1, BitVec.ofNat 32 (bits key 47 32 + bits key 59 48 * 65536)),
    (R.FWD_FAIL2, BitVec.ofNat 32 (tenant + port * 1024 + cause * 65536))]
  fireSrc s1 69 tenant 0

/-- A request joins the learning queue; one for the same key absorbs it, and a full queue discards it (R210, R214). -/
def learnPush (s : State) (r : LearnReq) : State :=
  if s.fwd.queue.any (fun x => x.mac == r.mac && x.vlan == r.vlan && x.tenant == r.tenant) then s
  else if 64 ≤ s.fwd.queue.length then fwdCond s 0
  else s.setFwd { s.fwd with queue := s.fwd.queue ++ [r] }

/-- The entry of a key as a source lookup sees it: PORT and STATIC, with its location (R205, R206). -/
def stationEntry (s : State) (key : Nat) (ovf : Option SRec) : Option (Nat × Bool × Nat) :=
  match wayOf s key with
  | some i =>
    let loc := staLoc s i key
    let x := staWord s loc
    some (bits x 74 70, x.testBit 75, loc)
  | none =>
    match ovf with
    | some r =>
      if recUsable r then
        some (fld r.adLo 4 0, bit r.adLo 5, 2 ^ 18 + (recAddr r - (ovfBase s).getD 0))
      else none
    | none => none

/-- The frame's source key. -/
def sourceKey (f : FrameIn) : Nat := mkKey f.tenant f.vlan (smac f.bytes)

/-- The learning limit meets a frame (R211): the flag, and a drop in MODE 0. -/
def meetLimit (s : State) (f : FrameIn) : State :=
  let s1 := setCond s R.FWD_LIMIT_STAT 70 (2 ^ f.port)
  putFrame s1 { f with src := .done false (!rdB s (R.FWD_PORTp_LEARN f.port) 18) }

/-- The outcome of a source lookup with the overflow result it had (R210). [Log 143: DESIGN CHOICE] -/
def sourceOutcome (s : State) (f : FrameIn) (ovf : Option SRec) : State :=
  let key := sourceKey f
  let fin := putFrame s { f with src := .done false false }
  let req := fun kind => ({ tenant := f.tenant, vlan := f.vlan, mac := smac f.bytes, port := f.port, kind := kind } : LearnReq)
  let now := rdF s R.FWD_AGE_NOW 15 0
  match stationEntry s key ovf with
  | some (port, static, loc) =>
    if static then fin
    else if port = f.port then
      if loc < 2 ^ 18 then (if bits (staWord s loc) 95 80 = now then fin else learnPush fin (req 2))
      else fin.setFwd { fin.fwd with
        image := SMap.put fin.fwd.image (loc - 2 ^ 18) (now + key % 2 ^ 70 * 65536)
        marks := SMap.del fin.fwd.marks loc }
    else if limitMet s f.port then meetLimit s f
    else learnPush fin (req 1)
  | none =>
    if s.fwd.queue.any (fun x => x.mac == smac f.bytes && x.vlan == f.vlan && x.tenant == f.tenant) then fin
    else
      let place := (freeWay s key).isSome ||
        (match ovfBase s with | some b => (freeOvf s b s.dkl.cyc).isSome | none => false)
      if place then (if limitMet s f.port then meetLimit s f else learnPush fin (req 0))
      else
        putFrame (insertionFailure s key f.port (if (ovfBase s).isSome then 1 else 3)) { f with src := .done true false }

/-- The source lookup of a frame at the head of its FIFO (R210). The first step asks for the class-3 search where no way holds the key;
with its result the outcome is decided. -/
def lookupFrame (s : State) (f : FrameIn) : State :=
    let s := match f.src with | .due => clearBadRows s (sourceKey f) | _ => s
    match f.src with
    | .due =>
      if (wayOf s (sourceKey f)).isSome ∨ rdB s R.FWD_PROF 15 = false ∨ (ovfBase s).isNone then sourceOutcome s f none
      else
        let prof := rdF s R.FWD_PROF 13 8
        let r : SReq :=
          { cls := 3, prof := prof, key := buildKey s prof (frameSrc f) f.tenant, tenant := f.tenant, port := f.port,
            who := .learn f.id, ready := s.dkl.free }
        putFrame (s.setSrch { s.srch with reqs := s.srch.reqs ++ [r] }) { f with src := .asked }
    | .asked =>
      match s.srch.done.find? (fun d => d.1 == .learn f.id) with
      | some d => sourceOutcome s f (some d.2)
      | none => s
    | _ => s

/-- SOURCE_LOOKUP (R210): the head frame of a port; while HOLD is 1, or the port is blocked (R195), the frame has no lookup.
[Log 142: DESIGN CHOICE] -/
def sourceLookup (s : State) (p : Nat) : State :=
  match headFrame s p with
  | none => s
  | some f =>
    if rdB s R.FWD_LEARN_CTL 0 || portBlocked s p then
      (match f.src with
       | .due => putFrame s { f with src := .none }
       | .asked => putFrame s { f with src := .none }
       | _ => s)
    else lookupFrame s f

/-- SOURCE_LOOKUP (R210). -/
def execSourceLookup (port : BitVec 5) (s : State) : Host.Outcome State Fault Refusal :=
  .next (if running s then sourceLookup s port.toNat else s)

/-- The learning engine is held: `FWD_LEARN_CTL.HOLD`, or the device is not LAID (R167, R214). -/
def learnHeld (s : State) : Bool := rdB s R.FWD_LEARN_CTL 0 || decide (s.dev ≠ .laid)

/-- Rank 1 may start a transfer in cycle c: rank 0 does not want the port and the port is free (R168). -/
def rank1Free (s : State) (c : Nat) : Bool := !hostWants s c && decide (s.upd.free ≤ c)

/-- An overflow entry written by the learning engine: the beats of a width-1 REPLACE from cycle c (R173, R212).
[Log 49: DEDUCED] -/
def learnReplace (s : State) (addr c : Nat) (value ad : Nat) : State :=
  let s1 := landBeat s (c + 1) addr (.valid 0)
  let s2 := engineBeat s1 addr (c + 2) (unitOp value (2 ^ 96 - 1) ad)
  let s3 := landBeat s2 (c + 3) addr (.valid 7)
  s3.setUpd { s3.upd with free := c + 4, rank := 1 }

/-- The request at the head of the learning queue leaves it. -/
def learnPop (s : State) : State :=
  let s1 := s.setSrch { s.srch with done := s.srch.done.filter (fun d => match d.1 with | .engine _ => false | _ => true) }
  s1.setFwd { s1.fwd with queue := s1.fwd.queue.drop 1, relook := false }

/-- The key of a request. -/
def reqKey (r : LearnReq) : Nat := mkKey r.tenant r.vlan r.mac

/-- What the learning engine does next with the request at the head of its queue (R212, R213, R218). -/
inductive LearnPlan where
  /-- It waits for the result of its lookup. -/
  | wait
  /-- It asks for the class-3 lookup of the key. -/
  | look
  /-- The request falls away. -/
  | drop
  /-- A word is written to the station RAM, the entry a new one or not. -/
  | way (loc word : Nat) (fresh : Bool)
  /-- An overflow entry is written by REPLACE. -/
  | over (i ad : Nat)
  /-- An insertion failure. -/
  | fail (cause : Nat)
  deriving DecidableEq, Repr

/-- The overflow index that holds a key in cycle c. -/
def ovfHolds (s : State) (key c : Nat) : Option Nat :=
  match ovfBase s with
  | some b => (List.range 4096).find? (fun i =>
      majority3 (ovfUnit s b i c).valid && (ovfUnit s b i c).sval == ovfValue s key)
  | none => none

/-- The overflow entry that the engine's lookup of a key found: none while its result is awaited (R212). Without an SRC_OVF profile no
search is asked, and the entry that holds the key keeps its place (R206). [Log 142: DESIGN CHOICE] -/
def engineFound (s : State) (key c : Nat) : Option (Option Nat) :=
  if rdB s R.FWD_PROF 15 = false ∨ (ovfBase s).isNone = true then some (ovfHolds s key c)
  else (s.srch.done.find? (fun d => d.1 == .engine key)).map (fun d =>
    if recUsable d.2 then some (recAddr d.2 - (ovfBase s).getD 0) else none)

/-- The place of a new entry (R212, R213): the lowest free way, else the lowest free overflow index. [Log 49: DEDUCED] -/
def planNew (s : State) (r : LearnReq) (c : Nat) : LearnPlan :=
  let key := reqKey r
  let now := rdF s R.FWD_AGE_NOW 15 0
  match freeWay s key with
  | some i => .way (staLoc s i key) (mkSta key r.port false now) true
  | none =>
    match ovfBase s with
    | none => .fail 3
    | some b =>
      match freeOvf s b c with
      | none => .fail 1
      | some i => .over i (ovfAd r.port false now)

/-- The plan for the request at the head of the queue in cycle c: the key is looked up again (R212). [Log 143: DESIGN CHOICE] -/
def learnPlan (s : State) (r : LearnReq) (c : Nat) : LearnPlan :=
  let key := reqKey r
  let now := rdF s R.FWD_AGE_NOW 15 0
  match wayOf s key with
  | some i =>
    let loc := staLoc s i key
    let x := staWord s loc
    if x.testBit 75 then .drop else .way loc (mkSta key (if r.kind = 2 then bits x 74 70 else r.port) false now) false
  | none =>
    if r.kind = 2 then .drop
    else match engineFound s key c with
      | none => if s.fwd.relook then .wait else .look
      | some none => planNew s r c
      | some (some i) =>
        let ad := (ovfUnit s ((ovfBase s).getD 0) i c).ad
        if ad.testBit 5 ∨ ad % 32 = r.port then .drop else .over i (ovfAd r.port false now)

/-- The engine asks for the class-3 lookup of a key (R121, R205, R212). -/
def engineLook (s : State) (r : LearnReq) : State :=
  let q : SReq :=
    { cls := 3, prof := rdF s R.FWD_PROF 13 8, key := ovfValue s (reqKey r), tenant := r.tenant, port := r.port
      who := .engine (reqKey r), ready := s.dkl.free }
  (s.setSrch { s.srch with reqs := s.srch.reqs ++ [q] }).setFwd { s.fwd with relook := true }

/-- The engine presents its next new entry or command 1,600 cycles later (R212). -/
def learnPace (s : State) (c : Nat) : State := s.setFwd { s.fwd with learnFrom := c + 1600 }

/-- An entry's mark and waiting refresh fall away (R215, R216). -/
def unmark (s : State) (loc : Nat) : State :=
  s.setFwd { s.fwd with marks := SMap.del s.fwd.marks loc
                        image := if loc < 2 ^ 18 then s.fwd.image else SMap.del s.fwd.image (loc - 2 ^ 18) }

/-- A word written to the station RAM by an engine in cycle c (R218): its write port takes one write in a cycle. -/
def ramWrite (s : State) (loc x c : Nat) : State :=
  let s1 := staSet s loc x
  s1.setFwd { s1.fwd with staFree := c + 1 }

/-- Whether a flush takes an entry of a key and port (R220). -/
def flushTakes (sel : Word) (static : Bool) (key port : Nat) (isStatic : Bool) : Bool :=
  (!isStatic || static) && (!bit sel 28 || port == fld sel 4 0) && (!bit sel 29 || bits key 59 48 == fld sel 16 5) &&
    (!bit sel 30 || bits key 69 60 == fld sel 26 17)

/-- The overflow entry that a flush invalidates next (R220): entries that have changed since are passed over. -/
def flushNext (s : State) (j : FlushJob) (c : Nat) : Option (Nat × List (Nat × Nat)) :=
  match ovfBase s with
  | none => none
  | some b =>
    let live := fun (e : Nat × Nat) =>
      let u := ovfUnit s b e.1 c
      majority3 u.valid && ovfKey u == e.2 && flushTakes j.sel j.static (ovfKey u) (u.ad % 32) (u.ad.testBit 5)
    match j.left.dropWhile (fun e => !live e) with
    | e :: l => some (b + e.1, l)
    | [] => none

/-- The command that the learning engine would present to the update port in cycle c is complete (R167, R168): a flush's INVALIDATE, or the
REPLACE of the request at the head of its queue. -/
def learnWants (s : State) (c : Nat) : Bool :=
  !learnHeld s && decide (s.fwd.learnFrom ≤ c) &&
    (s.fwd.flushes.any (fun j => (flushNext s j c).isSome) ||
      (match s.fwd.queue.head? with
       | some r => (match learnPlan s r c with | .over .. => true | _ => false)
       | none => false))

/-- The INVALIDATE of the oldest flush with an entry left, at rank 1 in cycle c (R212, R220). [Log 51: DESIGN CHOICE] -/
def flushStep (s : State) (c : Nat) : List FlushJob → Option State
  | [] => none
  | j :: l =>
    match flushNext s j c with
    | some (addr, rest) =>
      let s1 := unmark (landBeat s c addr (.valid 0)) (2 ^ 18 + (addr - (ovfBase s).getD 0))
      let s2 := s1.setUpd { s1.upd with free := c + 1, rank := 1 }
      some (learnPace (s2.setFwd { s2.fwd with flushes := s2.fwd.flushes.map (fun k => if k = j then { k with left := rest } else k) }) c)
    | none => flushStep s c l

/-- The next request of the learning engine is carried out in cycle c (R212, R213, R218). [Log 51: DESIGN CHOICE] -/
def learnStep (s : State) (c : Nat) : State :=
  match s.fwd.queue.head? with
  | none => s
  | some r =>
    let s0 := clearBadRows s (reqKey r)
    match learnPlan s0 r c with
    | .wait => s0
    | .look => engineLook s0 r
    | .drop => learnPop s0
    | .fail cause => learnPop (insertionFailure s0 (reqKey r) r.port cause)
    | .way loc x fresh =>
      if c < s0.fwd.staFree ∨ (fresh = true ∧ c < s0.fwd.learnFrom) then s0
      else
        let s1 := learnPop (unmark (ramWrite s0 loc x c) loc)
        if fresh then learnPace s1 c else s1
    | .over i ad =>
      if c < s0.fwd.learnFrom ∨ rank1Free s0 c = false then s0
      else learnPop (learnPace (unmark (learnReplace s0 ((ovfBase s0).getD 0 + i) c (ovfValue s0 (reqKey r)) ad) (2 ^ 18 + i)) c)

/-- One turn of the learning engine in cycle c: a flush goes before the queue (R212, R220). [Log 51: DESIGN CHOICE] -/
def learnTurn (s : State) (c : Nat) : State :=
  if s.fwd.learnFrom ≤ c ∧ rank1Free s c = true then (flushStep s c s.fwd.flushes).getD (learnStep s c) else learnStep s c

/-- LEARNING_REQUEST (R212): a turn of the learning engine, in cycle cyc of the event tick. -/
def execLearningRequest (cyc : BitVec 4) (s : State) : Host.Outcome State Fault Refusal :=
  .next (if learnHeld s then s else learnTurn s (s.dkl.cyc + cyc.toNat))

/-- A new word of `FWD_LEARN_CTL`: setting HOLD discards the queue, and the result of a second lookup in the path has no taker (R214). -/
def writeLearnCtl (s : State) (w : Word) : State :=
  let s1 := wr s R.FWD_LEARN_CTL w
  if bit w 0 then
    let s2 := s1.setFwd { s1.fwd with queue := [], relook := false }
    s2.setSrch { s2.srch with
      reqs := s2.srch.reqs.filter (fun r => match r.who with | .engine _ => false | _ => true)
      flights := s2.srch.flights.map (fun r => match r.who with | .engine _ => { r with who := .lost } | _ => r)
      done := s2.srch.done.filter (fun d => match d.1 with | .engine _ => false | _ => true) }
  else s1

/-- HOLD (R214): a write of `FWD_LEARN_CTL`. -/
def execHold (fn : BitVec 6) (v : Word) (s : State) : Host.Outcome State Fault Refusal :=
  .next (hostWriteAs s fn.toNat R.FWD_LEARN_CTL v (fun t => writeLearnCtl t (newWord t fn.toNat R.FWD_LEARN_CTL .base v)))

/-- A dynamic entry with a stamp is expired (R215). -/
def expired (s : State) (stamp : Nat) : Bool :=
  let lim := rdF s R.FWD_AGE_LIMIT 15 0
  decide (lim < modDist 16 (rdF s R.FWD_AGE_NOW 15 0) stamp) && lim != 65535

/-- A mark: the key of an expired entry with the stamp found (R215, R218). -/
def markWord (key stamp : Nat) : Nat := key % 2 ^ 70 + stamp % 65536 * 2 ^ 70

/-- The marks of a sweep: every expired dynamic entry, with its key and stamp (R215). Marks already set stay. -/
def sweepMarks (s : State) : SMap Nat :=
  let m1 := s.fwd.sta.foldl (fun m e =>
    if staLive e.2 && !e.2.testBit 75 && expired s (bits e.2 95 80) then SMap.put m e.1 (markWord (staKey e.2) (bits e.2 95 80)) else m) s.fwd.marks
  match ovfBase s with
  | none => m1
  | some b => (liveOvf s s.dkl.cyc).foldl (fun m i =>
      let u := ovfUnit s b i s.dkl.cyc
      if !u.ad.testBit 5 && expired s (ovfStamp s i u) then SMap.put m (2 ^ 18 + i) (markWord (ovfKey u) (ovfStamp s i u)) else m) m1

/-- A sweep starts (R215, R217); a row that it meets with bad parity loses its VALID (R206). -/
def startSweep (s : State) : State :=
  let s1 := s.fwd.sta.foldl (fun u e => clearBad u e.1) s
  s1.setFwd { s1.fwd with sweep := true, lagged := false, marks := sweepMarks s1 }

/-- AGING_TICK (R215, R217). -/
def execAgingTick (s : State) : Host.Outcome State Fault Refusal :=
  .next (if running s && rdF s R.FWD_AGE_CFG 15 0 != 0 then
      let s1 := wrF s R.FWD_AGE_NOW 15 0 (rdF s R.FWD_AGE_NOW 15 0 + 1)
      if s.fwd.sweep then setCond (s1.setFwd { s1.fwd with lagged := true }) R.FWD_AGE_STAT 71 1 else startSweep s1
    else s)

/-- The overflow entry of a mark as it stands in cycle c, where it is still the one marked (R217, R218): its unit address. -/
def markedOvf (s : State) (loc mark c : Nat) : Option Nat :=
  match ovfBase s with
  | none => none
  | some b =>
    let u := ovfUnit s b (loc - 2 ^ 18) c
    if majority3 u.valid && !u.ad.testBit 5 && markWord (ovfKey u) (ovfStamp s (loc - 2 ^ 18) u) == mark then some (b + (loc - 2 ^ 18)) else none

/-- Rank 2 may start a transfer in cycle c (R168): neither rank 0 nor rank 1 wants the port, and it is free. -/
def rank2Free (s : State) (c : Nat) : Bool := rank1Free s c && !learnWants s c

/-- The learning engine would write the station RAM in cycle c (R218). -/
def learnRam (s : State) (c : Nat) : Bool :=
  !learnHeld s && (match s.fwd.queue.head? with
    | some r => (match learnPlan s r c with | .way _ _ fresh => !fresh || decide (s.fwd.learnFrom ≤ c) | _ => false)
    | none => false)

/-- The removal of the entry a sweep marked first (R217, R218), in cycle c: a mark whose entry has changed drops itself.
[Log 51: DESIGN CHOICE] -/
def agingStep (s : State) (c : Nat) : State :=
  match s.fwd.marks.head? with
  | none => s
  | some (loc, mark) =>
    if loc < 2 ^ 18 then
      let x := staWord s loc
      if !(staLive x && !x.testBit 75 && markWord (staKey x) (bits x 95 80) == mark) then unmark (clearBad s loc) loc
      else if c < s.fwd.staFree ∨ learnRam s c = true then s
      else unmark (ramWrite s loc (staClear x) c) loc
    else
      match markedOvf s loc mark c with
      | none => s.setFwd { s.fwd with marks := SMap.del s.fwd.marks loc }
      | some addr =>
        if c < s.fwd.ageFrom ∨ rank2Free s c = false then s
        else
          let s1 := unmark (landBeat s c addr (.valid 0)) loc
          (s1.setUpd { s1.upd with free := c + 1, rank := 2 }).setFwd { s1.fwd with ageFrom := c + rdF s R.FWD_AGE_CFG 27 16 }

/-- The aging engine's sideband is not asserted: LAID, and its tick on (R167). -/
def agingOn (s : State) : Bool := decide (s.dev = .laid) && decide (rdF s R.FWD_AGE_CFG 15 0 ≠ 0)

/-- The refresh of an overflow entry that waits first, if the entry is still the one refreshed: its index, unit and stamp (R216). -/
def refreshNext (s : State) (c : Nat) : Option (Nat × SUnit × Nat) :=
  match s.fwd.image.head?, ovfBase s with
  | some (i, _), some b =>
    let u := ovfUnit s b i c
    (ovfFresh s i u).map (fun t => (i, u, t))
  | _, _ => none

/-- The command that the aging engine would present to the update port in cycle c is complete (R167, R217). -/
def agingWants (s : State) (c : Nat) : Bool :=
  agingOn s && decide (s.fwd.ageFrom ≤ c) && ((refreshNext s c).isSome ||
    (match s.fwd.marks.head? with
     | some (loc, mark) => decide (2 ^ 18 ≤ loc) && (markedOvf s loc mark c).isSome
     | none => false))

/-- AGING_REMOVAL (R217): the aging engine, while its tick is on (R167). -/
def execAgingRemoval (cyc : BitVec 4) (s : State) : Host.Outcome State Fault Refusal :=
  .next (if agingOn s then agingStep s (s.dkl.cyc + cyc.toNat) else s)

/-- AGING_SWEEP_END (R217): a sweep with nothing left to remove ends, and one that a tick deferred starts; a TICK of 0 stops the engine
(R215). -/
def execAgingSweepEnd (s : State) : Host.Outcome State Fault Refusal :=
  .next (if agingOn s && s.fwd.sweep && s.fwd.marks.isEmpty then
      if s.fwd.lagged then startSweep s else s.setFwd { s.fwd with sweep := false }
    else s)

/-- The aging engine's WRITE_AD of a refresh, at rank 2 in cycle c (R216, R217); a refresh whose entry is gone is lost. -/
def agingWriteAd (s : State) (c : Nat) : State :=
  if !agingOn s then s
  else match refreshNext s c with
    | none => s.setFwd { s.fwd with image := s.fwd.image.drop 1 }
    | some (i, u, stamp) =>
      if c < s.fwd.ageFrom ∨ rank2Free s c = false then s
      else
        let ad := ovfAd (u.ad % 32) (u.ad.testBit 5) stamp
        let s1 := engineBeat s ((ovfBase s).getD 0 + i) c (.unit none none (some (ad, adParity ad)))
        (s1.setUpd { s1.upd with free := c + 1, rank := 2 }).setFwd
          { s1.fwd with image := SMap.del s1.fwd.image i, ageFrom := c + rdF s R.FWD_AGE_CFG 27 16 }

/-- WRITE_AD (R173), as a command, as an associated-data submission of the indirect port (R180), or as the aging engine's
write of a refresh (R216). -/
def execWriteAd (cyc : BitVec 4) (s : State) : Host.Outcome State Fault Refusal :=
  let c := s.dkl.cyc + cyc.toNat
  .next (match hostGrant s c with
    | some (.adw _ addr ad, c0) => doWriteAd s addr ad c0
    | some _ => serveCmd s 2 c (fun s _ ws c =>
        doWriteAd s (fld (ws.headD 0) 19 0) (((ws[2]?).getD 0).toNat + ((ws[3]?).getD 0).toNat * 2 ^ 32) c)
    | none => agingWriteAd s c)

/-- A flush starts (R220): way entries are cleared at one in each cycle, overflow entries wait for the learning engine; only tenants that
the function reaches are touched. [Log 51: DESIGN CHOICE] -/
def flush (s : State) (sel : Word) (static : Bool) (fn : Nat) : State :=
  let ok := fun (key port : Nat) (st : Bool) => flushTakes sel static key port st && reachesTenant s fn (bits key 69 60)
  let c := s.dkl.cyc
  let gone := s.fwd.sta.filter (fun e => staLive e.2 && ok (staKey e.2) (bits e.2 74 70) (e.2.testBit 75))
  let s1 := gone.foldl (fun t e => unmark (staSet t e.1 (staClear e.2)) e.1) s
  let left := match ovfBase s with
    | none => []
    | some b => ((liveOvf s c).filter (fun i =>
        let u := ovfUnit s b i c
        ok (ovfKey u) (u.ad % 32) (u.ad.testBit 5))).map (fun i => (i, ovfKey (ovfUnit s b i c)))
  let ready := max c s.fwd.staFree + gone.length
  wrF (s1.setFwd { s1.fwd with
    staFree := ready
    flushes := s1.fwd.flushes ++ [{ sel := sel, static := static, fn := fn, ready := ready, left := left }] }) R.FWD_FLUSH_CTL 1 1 1

/-- GO of `FWD_FLUSH_CTL` (R220, R222). -/
def flushGo (s : State) (fn : Nat) : State :=
  if rdB s R.FWD_FLUSH_CTL 1 then s else flush s (rd s R.FWD_FLUSH_SEL) (rdB s R.FWD_FLUSH_CTL 2) fn

/-- A flush that has nothing left to clear in cycle c (R220). -/
def flushOver (s : State) (c : Nat) (j : FlushJob) : Bool := decide (j.ready ≤ c) && (flushNext s j c).isNone

/-- The oldest flush that is over ends (R220). -/
def flushEnd (s : State) (j : FlushJob) : State :=
  let s1 := s.setFwd { s.fwd with flushes := s.fwd.flushes.erase j }
  fwdCond (wrF s1 R.FWD_FLUSH_CTL 1 1 (b2n (!s1.fwd.flushes.isEmpty))) 3

/-- FLUSH_GO (R220): a write of `FWD_FLUSH_CTL`. -/
def execFlushGo (fn : BitVec 6) (v : Word) (s : State) : Host.Outcome State Fault Refusal :=
  .next (hostWriteAs s fn.toNat R.FWD_FLUSH_CTL v (fun t =>
    let s1 := plainWrite t fn.toNat R.FWD_FLUSH_CTL .base v
    if bit v 0 then flushGo s1 fn.toNat else s1))

/-- FLUSH_DONE (R220): a running flush has cleared its last entry. -/
def execFlushDone (s : State) : Host.Outcome State Fault Refusal :=
  .next (match s.fwd.flushes.find? (flushOver s s.dkl.cyc) with
    | some j => flushEnd s j
    | none => s)

/-- The flush of a port that lost its link (R220). -/
def linkLossFlush (s : State) (p : Nat) : State :=
  if rdB s (R.FWD_PORTp_LEARN p) 19 then flush s (BitVec.ofNat 32 (p + 2 ^ 28)) false 0 else s

/-- Key of the station registers (R221). -/
def staRegKey (s : State) : Nat :=
  mkKey (rdF s R.FWD_STA_KEY2 9 0) (rdF s R.FWD_STA_KEY1 27 16)
    ((rd s R.FWD_STA_KEY0).toNat + rdF s R.FWD_STA_KEY1 15 0 * 2 ^ 32)

/-- A station command ends: RESULT and CMD_DONE or CMD_REJECT (R221). [Log 107: DEDUCED] -/
def staEnd (s : State) (result : Nat) : State := fwdCond (wrF s R.FWD_STA_CMD 27 24 result) (if result = 0 then 1 else 2)

/-- Word of `FWD_STA_DATA` for a station word. -/
def staDataWord (x : Nat) : Word := BitVec.ofNat 32 (bits x 74 70 + bits x 75 75 * 32 + bits x 95 80 * 65536)

/-- The tenant that a station command concerns is bound to the function (R222). -/
def staTenantOk (s : State) (fn tenant : Nat) : Bool := reachesTenant s fn tenant

/-- LOOKUP (R221). -/
def staLookup (s : State) (fn : Nat) : State :=
  let key := staRegKey s
  if !staTenantOk s fn (bits key 69 60) then staEnd s 4
  else
    let s := clearBadRows s key
    match wayOf s key with
    | some i =>
      let loc := staLoc s i key
      staEnd (wr (wr s R.FWD_STA_LOC (BitVec.ofNat 32 (2 ^ 31 + loc))) R.FWD_STA_DATA (staDataWord (staWord s loc))) 0
    | none => staEnd (wrF s R.FWD_STA_LOC 31 31 0) 1

/-- READ (R221). [Log 144: DESIGN CHOICE] -/
def staRead (s : State) (fn : Nat) : State :=
  let loc := rdF s R.FWD_STA_LOC 17 0
  let x := staWord s loc
  if staBad x then staEnd (clearBad s loc) 5
  else if !staTenantOk s fn (bits x 69 60) then staEnd s 4
  else
    let s1 := wrAll s [(R.FWD_STA_KEY0, BitVec.ofNat 32 x),
      (R.FWD_STA_KEY1, BitVec.ofNat 32 (bits x 47 32 + bits x 59 48 * 65536)),
      (R.FWD_STA_KEY2, BitVec.ofNat 32 (bits x 69 60)), (R.FWD_STA_DATA, staDataWord x)]
    staEnd s1 (if x.testBit 76 then 0 else 1)

/-- WRITE (R221): the row must be free or hold the same key, and no other way may hold the key. -/
def staWrite (s : State) (fn : Nat) : State :=
  let key := staRegKey s
  let loc := rdF s R.FWD_STA_LOC 17 0
  let x := staWord s loc
  if !staTenantOk s fn (bits key 69 60) then staEnd s 4
  else if staLive x && staKey x != key then staEnd s 2
  else if (List.range 4).any (fun i => staLoc s i key != loc &&
      (let y := staWord s (staLoc s i key); staLive y && staKey y == key)) then staEnd s 3
  else
    let s := clearBad (clearBadRows s key) loc
    let d := rd s R.FWD_STA_DATA
    let s1 := hostRam (staSet s loc (mkSta key (fld d 4 0) (bit d 5) (fld d 31 16)))
    staEnd (s1.setFwd { s1.fwd with marks := SMap.del s1.fwd.marks loc }) 0

/-- DELETE (R221). -/
def staDelete (s : State) (fn : Nat) : State :=
  let key := staRegKey s
  if !staTenantOk s fn (bits key 69 60) then staEnd s 4
  else
    let s := clearBadRows s key
    match wayOf s key with
    | some i => staEnd (unmark (hostRam (staSet s (staLoc s i key) (staClear (staWord s (staLoc s i key))))) (staLoc s i key)) 0
    | none => staEnd s 1

/-- A mark moves with its entry (R215). -/
def moveMark (s : State) (src dst : Nat) : State :=
  let m := SMap.del s.fwd.marks src
  s.setFwd { s.fwd with marks := match SMap.get s.fwd.marks src with
    | some k => SMap.put m dst k
    | none => SMap.del m dst }

/-- MOVE (R221): the destination is written and the source cleared in one cycle. -/
def staMove (s : State) (fn : Nat) : State :=
  let src := rdF s R.FWD_STA_LOC 17 0
  let dst := rdF s R.FWD_STA_DEST 17 0
  let x := staWord s src
  if staBad x then staEnd (clearBad s src) 5
  else if !x.testBit 76 then staEnd s 1
  else if !staTenantOk s fn (bits x 69 60) then staEnd s 4
  else if staLive (staWord s dst) then staEnd s 2
  else staEnd (moveMark (hostRam (staSet (staSet (clearBad s dst) src (staClear x)) dst x)) src dst) 0

/-- HASH (R221, R222). -/
def staHashCmd (s : State) (fn : Nat) : State :=
  let key := staRegKey s
  if !staTenantOk s fn (bits key 69 60) then staEnd s 4
  else staEnd (wrAll s ((List.range 4).map (fun i => (R.FWD_STA_HASHn i, BitVec.ofNat 32 (staHash s i key))))) 0

/-- GO of `FWD_STA_CMD` with its OP (R221); 0 and 7 to 15 are rejected with RESULT 1. -/
def staGo (s : State) (fn : Nat) : State :=
  match rdF s R.FWD_STA_CMD 3 0 with
  | 1 => staLookup s fn
  | 2 => staRead s fn
  | 3 => staWrite s fn
  | 4 => staDelete s fn
  | 5 => staMove s fn
  | 6 => staHashCmd s fn
  | _ => staEnd s 1

/-- A write of `FWD_STA_CMD` with GO = 1 and an OP: the command completes within the step. -/
def staCmdRow (s : State) (fn op : Nat) (f : State → State) : State :=
  hostWriteAs s fn R.FWD_STA_CMD (BitVec.ofNat 32 (2 ^ 31 + op)) (fun t => f (wrF t R.FWD_STA_CMD 3 0 op))

/-- STA_LOOKUP (R221). -/
def execStaLookup (fn : BitVec 6) (s : State) : Host.Outcome State Fault Refusal :=
  .next (staCmdRow s fn.toNat 1 (fun t => staLookup t fn.toNat))

/-- STA_READ (R221). -/
def execStaRead (fn : BitVec 6) (s : State) : Host.Outcome State Fault Refusal :=
  .next (staCmdRow s fn.toNat 2 (fun t => staRead t fn.toNat))

/-- STA_WRITE (R221). -/
def execStaWrite (fn : BitVec 6) (s : State) : Host.Outcome State Fault Refusal :=
  .next (staCmdRow s fn.toNat 3 (fun t => staWrite t fn.toNat))

/-- STA_DELETE (R221). -/
def execStaDelete (fn : BitVec 6) (s : State) : Host.Outcome State Fault Refusal :=
  .next (staCmdRow s fn.toNat 4 (fun t => staDelete t fn.toNat))

/-- STA_MOVE (R221). -/
def execStaMove (fn : BitVec 6) (s : State) : Host.Outcome State Fault Refusal :=
  .next (staCmdRow s fn.toNat 5 (fun t => staMove t fn.toNat))

/-- STA_HASH (R221). -/
def execStaHash (fn : BitVec 6) (s : State) : Host.Outcome State Fault Refusal :=
  .next (staCmdRow s fn.toNat 6 (fun t => staHashCmd t fn.toNat))

/-- GO of `FWD_TBL_CTL` (R223). An index beyond the table reads zero and writes nothing. [Log 107: DEDUCED] -/
def tblGo (s : State) : State :=
  let ctl := rd s R.FWD_TBL_CTL
  let t := fld ctl 25 24
  let i := fld ctl 15 0
  if bit ctl 29 then
    if i < tblSize t then tblWrite s t i ((rd s R.FWD_TBL_LO).toNat + (rd s R.FWD_TBL_HI).toNat * 2 ^ 32) else s
  else
    let w := if i < tblSize t then tblRead s t i else (0, true)
    let s1 := wr (wr s R.FWD_TBL_LO (BitVec.ofNat 32 w.1)) R.FWD_TBL_HI (BitVec.ofNat 32 (w.1 / 2 ^ 32))
    if w.2 then s1 else fwdPerr s1 (t + 1) 0 i

/-- A write of `FWD_TBL_CTL` that names a table and an index, with GO = 1. -/
def tblRow (s : State) (fn : Nat) (write : Bool) (t i : Nat) : State :=
  let w := i + t * 2 ^ 24 + b2n write * 2 ^ 29
  hostWriteAs s fn R.FWD_TBL_CTL (BitVec.ofNat 32 (2 ^ 31 + w)) (fun u => tblGo (wr u R.FWD_TBL_CTL (BitVec.ofNat 32 w)))

/-- TABLE_READ (R223). -/
def execTableRead (fn : BitVec 6) (table : BitVec 2) (index : BitVec 16) (s : State) : Host.Outcome State Fault Refusal :=
  .next (tblRow s fn.toNat false table.toNat index.toNat)

/-- TABLE_WRITE (R223). -/
def execTableWrite (fn : BitVec 6) (table : BitVec 2) (index : BitVec 16) (s : State) : Host.Outcome State Fault Refusal :=
  .next (tblRow s fn.toNat true table.toNat index.toNat)

/-- A write of a register of the block with an effect of its own. -/
def fwdWrite (s : State) (fn off : Nat) (q : Quarter) (w v : Word) : Option State :=
  if off = R.FWD_LEARN_CTL then some (writeLearnCtl s w)
  else if off = R.FWD_FLUSH_CTL then
    let s1 := wr s off w
    some (if q = .base ∧ bit v 0 = true then flushGo s1 fn else s1)
  else if off = R.FWD_STA_CMD then
    let s1 := wr s off w
    some (if q = .base ∧ bit v 31 = true then staGo s1 fn else s1)
  else if off = R.FWD_TBL_CTL then
    let s1 := wr s off w
    some (if q = .base ∧ bit v 31 = true then tblGo s1 else s1)
  else none

/-- The registers of the block whose value is that of the moment of the read. -/
def fwdLive (s : State) (off : Nat) : Option Word :=
  if 0x40200 ≤ off ∧ off < 0x40250 then some (BitVec.ofNat 32 (portCount s ((off - 0x40200) / 4))) else none

end Sys2Proof.Machine
end

