-- ==== Sys2Proof/Machine/Budget.lean ====
section
/-! DEFINITION. Runtime additions (R89): the refusal record, and the check against a declared budget and a tenant's share of
it. -/

namespace Sys2Proof.Machine

/-- A runtime addition is refused (R89): `MLD_RTREF`, `MLD_RTNEED`, `MLD_RTHAVE` and the mould event. -/
def rtRefuse (s : State) (unit tenant code need have_ : Nat) : State :=
  mldCond s 4
    [(R.MLD_RTREF, BitVec.ofNat 32 (code % 256 + unit % 16 * 256 + tenant % 1024 * 65536)),
      (R.MLD_RTNEED, BitVec.ofNat 32 need), (R.MLD_RTHAVE, BitVec.ofNat 32 have_)]

/-- The refusal of an addition that needs more than a total or than its tenant's share of it (R85, R89); none where it fits.
[Log 56: DEDUCED] -/
def roomFor (s : State) (unit tenant code shareCode idx needAll needTenant total : Nat) : Option State :=
  if total < needAll then some (rtRefuse s unit tenant code needAll total)
  else match share s shareCode tenant idx with
    | some q => if q < needTenant then some (rtRefuse s unit tenant code needTenant q) else none
    | none => none

/-- The first refusal of a list of checks. [Log 56: DEDUCED] -/
def firstRefusal : List (Option State) → Option State
  | [] => none
  | some s :: _ => some s
  | none :: l => firstRefusal l

/-- The sum of a list of numbers. -/
def total (l : List Nat) : Nat := l.foldl (· + ·) 0

/-- Word i of a descriptor. -/
def dw (ws : List Word) (i : Nat) : Word := ws[i]?.getD 0

/-- The value of an entry once the pending writes are in force. -/
def entryNow (m : SMap (List Word)) (pend : List (Nat × List Word)) (i : Nat) : List Word :=
  match (pend.filter (fun e => e.1 == i)).getLast? with
  | some e => e.2
  | none => SMap.getD m i []

/-- The enabled entries of a table once the pending writes are in force, with their indices. -/
def entriesOn (m : SMap (List Word)) (pend : List (Nat × List Word)) : List (Nat × List Word) :=
  (((m.map Prod.fst) ++ pend.map Prod.fst).eraseDups).filterMap (fun i =>
    let ws := entryNow m pend i
    if bit (dw ws 0) 0 then some (i, ws) else none)

/-- The enabled flows of a table, 0 transmit and 1 receive (R396). -/
def flowsOn (s : State) (table : Nat) : List (Nat × List Word) :=
  entriesOn (if table = 0 then s.edl.tx else s.edl.rx) ((s.edl.pend.filter (fun e => e.1 == table)).map Prod.snd)

/-- The enabled bus entries (R442). -/
def busesOn (s : State) : List (Nat × List Word) := entriesOn s.trl.bus s.trl.pend

/-- CH of a flow (R396). -/
def flowCh (ws : List Word) : Nat := fld (dw ws 0) 10 1 + 1

/-- Felt bytes of a receive flow: CH × N × LAG words (R395). -/
def flowFelt (s : State) (ws : List Word) : Nat := flowCh ws * nSamples s * fld (dw ws 0) 23 16 * 4

/-- Felt bytes of a bus entry (R436). -/
def busFelt (s : State) (ws : List Word) : Nat :=
  let one := 6 * nSamples s * (rdF s R.TRL_CFG 7 0 - 2)
  (if bit (dw ws 0) 3 then one else 0) +
    (if bit (dw ws 0) 2 then (if rdF s R.EDL_TOPO 2 0 = 3 then 2 * one else one) else 0)

/-- Tenants of a receive flow, a transmit flow and a bus. -/
def rxFlowTenant (ws : List Word) : Nat := fld (dw ws 2) 25 16
def txFlowTenant (ws : List Word) : Nat := fld (dw ws 1) 25 16
def busTenant (ws : List Word) : Nat := fld (dw ws 0) 25 16

/-- Felt bytes of receive flows and buses, of one tenant or of all. -/
def linkFelt (s : State) (flows buses : List (Nat × List Word)) (t : Option Nat) : Nat :=
  let keep := fun (x : Nat) => match t with | none => true | some y => x == y
  total ((flows.filter (fun e => keep (rxFlowTenant e.2))).map (fun e => flowFelt s e.2)) +
    total ((buses.filter (fun e => keep (busTenant e.2))).map (fun e => busFelt s e.2))

/-- Bytes of an AUDIO frame of a flow with its header (R394, R413). -/
def flowBytes (s : State) (ws : List Word) : Nat := 16 * (1 + ceilDiv (flowCh ws * nSamples s) 4)

/-- A bus entry sends over Edarlink port n (R431, R436). -/
def busOn (s : State) (ws : List Word) (n : Nat) : Bool :=
  let kind := rdF s R.EDL_TOPO 2 0
  if kind = 1 then !bit (dw ws 0) 2 && fld (dw ws 2) 21 20 == n
  else !(bit (dw ws 0) 2 && !bit (dw ws 0) 1) && rdF s (R.EDL_PORTn_TOPO n) 2 0 == 3

/-- The most buses of one frame (R429). -/
def busMax (s : State) : Nat := min 512 (4096 / (6 * nSamples s))

/-- Bus entries in order of their numbers, in runs that share frames: consecutive, of one TAILDEV, one place at the head and in KIND 1 one OUT,
at most B_max of them (R429). -/
def busRuns (s : State) (l : List (Nat × List Word)) : List (List (Nat × List Word)) :=
  let shares := fun (run : List (Nat × List Word)) (e : Nat × List Word) =>
    match run.getLast? with
    | some p => decide (p.1 + 1 = e.1) && fld (dw p.2 2) 11 0 == fld (dw e.2 2) 11 0 && bit (dw p.2 0) 1 == bit (dw e.2 0) 1 &&
        (rdF s R.EDL_TOPO 2 0 != 1 || fld (dw p.2 2) 21 20 == fld (dw e.2 2) 21 20) && decide (run.length < busMax s)
    | none => false
  let step := fun (acc : List (List (Nat × List Word))) (e : Nat × List Word) =>
    match acc with
    | [] => [[e]]
    | run :: rest => if shares run e then (run ++ [e]) :: rest else [e] :: run :: rest
  ((l.foldl (fun (m : SMap (List Word)) e => SMap.put m e.1 e.2) []).foldl step []).reverse

/-- Bytes of the TSUM frames of the entries that cross a port in a deckle (R429, R436). [Log 149: DEDUCED] -/
def busBytes (s : State) (l : List (Nat × List Word)) : Nat :=
  total ((busRuns s l).map (fun run => 16 * (1 + ceilDiv (6 * nSamples s * run.length) 16)))

/-- Bytes per deckle of transmit flows and buses on Edarlink port n, of one tenant or of all (R413). -/
def linkBytes (s : State) (flows buses : List (Nat × List Word)) (n : Nat) (t : Option Nat) : Nat :=
  let keep := fun (x : Nat) => match t with | none => true | some y => x == y
  total ((flows.filter (fun e => bit (dw e.2 0) (11 + n) && keep (txFlowTenant e.2))).map (fun e => flowBytes s e.2)) +
    busBytes s (buses.filter (fun e => busOn s e.2 n && keep (busTenant e.2)))

/-- Mode code of an Ethernet port. -/
def portSpeed (s : State) (p : Nat) : Nat := if running s then rdF s (R.ETH_PORTp_CFG p) 2 0 else 0

/-- ROLE of a port, as it reads (R16, R376). -/
def edlRole (s : State) (n : Nat) : Nat := if running s then rdF s (R.EDL_PORTn_CTL n) 1 0 else 0

/-- Lanes of a mode (R377). -/
def modeLanes (m : Nat) : Nat :=
  match m with | 1 => 1 | 2 => 2 | 3 => 1 | 4 => 4 | 5 => 2 | _ => 4

/-- A count per deckle times a figure in 10^−15 J, in whole milliwatts rounded up (R87). [Log 37: DEDUCED] -/
def powerTerm (s : State) (count fj : Nat) : Nat := ceilDiv (count * fsHz s * 10002 * fj) (nSamples s * 10000 * 10 ^ 12)

/-- The estimate of R87 in mW. [Log 37: DEDUCED] -/
def powerEstimate (s : State) : Nat :=
  let recs := 320 * total ((List.range 4).map (fun k => rdF s (R.MIX_TIERk_L k) 19 0)) * nSamples s
  let eth := total ((List.range 16).map (fun p =>
    if rdB s (R.ETH_PORTp_CFG p) 10 && portSpeed s p != 0 then (if rdB s (R.ETH_GRPg_CFG (p / 4)) 0 then (if p % 4 = 0 then 4 else 0) else 1) else 0))
  let edl := total ((List.range 4).map (fun n =>
    let c := rd s (R.EDL_PORTn_CTL n)
    if edlRole s n = 0 then 0
    else (List.range 7).foldl (fun x m => if 1 ≤ m ∧ fld c 10 8 ≤ m ∧ m ≤ fld c 6 4 then max x (modeLanes m) else x) 0))
  24000 + powerTerm s recs 40000 + powerTerm s (item s (declKey 0x21 0)) 120000 + powerTerm s (rd s R.SRCH_CMP_BUDGET).toNat 550000 +
    550 * eth + 850 * edl + powerTerm s (total ((List.range 3).map (fun r => item s (declKey 0x22 r)))) 300000

/-- The limit of the power class in force, in mW (R87, R88). -/
def powerLimit (s : State) : Nat := match rdF s R.MLD_PCLASS 1 0 with | 0 => 110000 | 1 => 75000 | _ => 40000

/-- The refusal of a runtime change that takes the power estimate of `t` above the class limit (R88); none where it fits or adds none. -/
def powerRefusal (s t : State) (unit tenant : Nat) : Option State :=
  if powerLimit s < powerEstimate t ∧ powerEstimate s < powerEstimate t then
    some (rtRefuse s unit tenant 0x0E (powerEstimate t) (powerLimit s))
  else none

end Sys2Proof.Machine
end

