-- ==== Sys2Proof/Machine/Arbiter.lean ====
section
/-! DEFINITION. What every requester of the deep store shares (chapter 18): its conditions, the findings of its reads, the grants of its
arbiters, and what a write of a unit does to a pending write-back. -/

namespace Sys2Proof.Machine

/-- A condition of `DST_STAT` (R509). -/
def dstCond (s : State) (b : Nat) (lasts : List (Nat × Word)) : State := setCondWith s R.DST_STAT 195 (2 ^ b) lasts 0 .newBits

/-- The deep store serves requests: initialisation is done and has not failed (R490). -/
def dstServes (s : State) : Bool := decide (s.pwr.dram = .ready) && !rdB s R.MLD_STAT 3

/-- The findings of the reads of a stage: the unit, its corrected and its uncorrectable words. -/
abbrev Ecc := List (BitVec 29 × BitVec 4 × BitVec 4)

/-- A unit has an uncorrectable word. -/
def unitLost (ecc : Ecc) (u : Nat) : Bool := ecc.any (fun e => e.1.toNat == u && e.2.2 != 0)

/-- The reports of the findings in a unit read by a rank (R499): its corrected and its uncorrectable 64-bit words, by bit. -/
def eccReports (s : State) (rank unit corr unc : Nat) : State :=
  let w := BitVec.ofNat 32 (unit + rank * 2 ^ 29)
  let s1 := if corr % 16 = 0 then s else dstCond s 0 [(R.DST_ECC_C, w)]
  if unc % 16 = 0 then s1 else dstCond s1 1 [(R.DST_ECC_U, w)]

/-- The pseudo-channel of a unit (R489). -/
def pseudo (unit : Nat) : Nat := unit / 8 % 32

/-- The arbiter of a unit's pseudo-channel grants a transfer of a rank (R493): it shows as busy for the rest of the event tick.
[Log 121: DEDUCED] -/
def granted (s : State) (unit rank : Nat) : State :=
  let s1 := wrF s (R.DST_ARBn (pseudo unit)) 2 0 rank
  s1.setDste { s1.dste with busy := s1.dste.busy ||| 2 ^ pseudo unit }

/-- Units read by a rank, with their findings (R493, R499). -/
def unitsRead (ecc : Ecc) (rank : Nat) (us : List Nat) (s : State) : State :=
  us.foldl (fun t u =>
    (ecc.filter (fun e => e.1.toNat == u)).foldl (fun a e => eccReports a rank u e.2.1.toNat e.2.2.toNat) (granted t u rank)) s

/-- A write of a unit was granted: a write-back of the scrubber is discarded (R501). -/
def unitWritten (s : State) (unit : Nat) : State :=
  s.setDste { s.dste with writeBack := s.dste.writeBack.filter (fun u => u != unit) }

/-- Samples as a unit holds them, little-endian (R502). -/
def unitBytes (l : List Int) : List Byte := (l.map (fun x => leBytes 4 (wrapBits 32 x))).flatten

/-- Sample k of a unit of the deep store. -/
def unitSample (s : State) (unit k : Nat) : Int := sext 32 (leNat (dstBytes s.dst (32 * unit + 4 * k) 4))

/-- A transfer of a whole unit to the stack at a rank (R493, R501). -/
def writeUnit (s : State) (unit rank : Nat) (bytes : List Byte) : State :=
  granted (unitWritten (s.setDst (dstPutBytes s.dst (32 * unit) bytes)) unit) unit rank

end Sys2Proof.Machine
end

