-- ==== Sys2Proof/Machine/Streams.lean ====
section
/-! DEFINITION. Media streams (chapter 08): descriptors, felt rings, gaps, rate converters and the building of transmit
packets. -/

namespace Sys2Proof.Machine

/-- The receive descriptor in force (R259). -/
def rxDesc (s : State) (n : Nat) : List Word := SMap.getD s.strm.rx n []

/-- The transmit descriptor in force (R259). -/
def txDesc (s : State) (n : Nat) : List Word := SMap.getD s.strm.tx n []

/-- Channels of a receive or transmit descriptor. -/
def chOf (ws : List Word) : Nat := fld (dw ws 0) 9 4 + 1

/-- Bytes of one sample: 2 for L16, 3 for L24 (R244). -/
def sampleBytes (ws : List Word) : Nat := if fld (dw ws 0) 3 2 = 0 then 2 else 3

/-- S, the samples per packet of a packet-time code at a rate code (R240). -/
def packetSamples (pt rate : Nat) : Nat :=
  let m := if rate < 2 then 1 else if rate < 4 then 2 else 4
  match pt with
  | 0 => 6 * m | 1 => 12 * m | 2 => 16 * m | 3 => 48 * m | _ => 192 * m

/-- S of a receive descriptor, at its own nominal rate. -/
def rxS (ws : List Word) : Nat := packetSamples (fld (dw ws 0) 12 10) (fld (dw ws 0) 18 16)

/-- S of a transmit descriptor, at the device rate (R239). -/
def txS (s : State) (ws : List Word) : Nat := packetSamples (fld (dw ws 0) 12 10) (rdF s R.DKL_CFG 2 0)

/-- Tenant of a receive descriptor. -/
def rxTenant (ws : List Word) : Nat := fld (dw ws 0) 28 19

/-- Tenant of a transmit descriptor. -/
def txTenant (ws : List Word) : Nat := fld (dw ws 0) 30 21

/-- A received sample in Q4.27 (R242). -/
def toQ (ws : List Word) (v : Nat) : Int := if fld (dw ws 0) 3 2 = 0 then sext 16 v * 2 ^ 12 else sext 24 v * 2 ^ 4

/-- A Q4.27 sample in the format of a stream (R242). -/
def fromQ (ws : List Word) (v : Int) : Nat :=
  if fld (dw ws 0) 3 2 = 0 then wrapBits 16 (clampInt (-(2 ^ 15)) (2 ^ 15 - 1) ((v + 2 ^ 11) / 2 ^ 12))
  else wrapBits 24 (clampInt (-(2 ^ 23)) (2 ^ 23 - 1) ((v + 2 ^ 3) / 2 ^ 4))

/-- The state of a receive stream just enabled. -/
def rx0 : RxState :=
  { inGap := false, gapK := 0, exitK := 32, last := [], since := 2 ^ 32, port := 0, placed := none, pos := 0, fresh := false
    newest := 0, resync := 0, hist := [], prev := [] }

/-- The state of a receive stream. -/
def rxState (s : State) (n : Nat) : RxState := SMap.getD s.strm.rxs n rx0

/-- The state with the state of a receive stream replaced. -/
def setRx (s : State) (n : Nat) (x : RxState) : State := s.setStrm { s.strm with rxs := SMap.put s.strm.rxs n x }

/-- A condition of `STRM_RXSTAT` by a stream identified on a port (R249, R260). -/
def strmCond (s : State) (n port b : Nat) : State :=
  let last := BitVec.ofNat 32 (n + b * 65536)
  if port < 16 then
    setCondWith s R.STRM_RXSTAT (129 + 2 * port) (2 ^ b) [(R.STRM_RXLAST, last)] (rxTenant (rxDesc s n)) (.word last)
  else
    setCondWith s R.STRM_RXSTAT (165 + 8 * (port - 16)) (2 ^ b) [(R.STRM_RXLAST, last)] (rxTenant (rxDesc s n)) .newBits

/-- The samples of a packet, oldest first, one value per channel (R244). -/
def packetSampleList (ws : List Word) (payload : List Byte) : List (List Int) :=
  let b := sampleBytes ws
  let ch := chOf ws
  (List.range (rxS ws)).map (fun j => (List.range ch).map (fun c => toQ ws (fbe payload ((j * ch + c) * b) b)))

/-- Consecutive samples written into the ring of a stream from an index, modulo its length. [Log 68: DEDUCED] -/
def ringWrite (m : SMap (List Int)) (n len : Nat) : Nat → List (List Int) → SMap (List Int)
  | _, [] => m
  | t, x :: xs => ringWrite (SMap.put m (n * 65536 + t % len) x) n len (t + 1) xs

/-- A receive stream whose ring lies in the deep store (R246). -/
def feltDeep (ws : List Word) : Bool := bit (dw ws 1) 14

/-- The unit of the deep store that holds place q of the ring of a channel of stream n (R246, R491). [Log 136: DESIGN CHOICE] -/
def feltUnit (s : State) (n c q : Nat) : Nat :=
  let r := item s (declKey 3 1)
  bits r 13 0 * 32768 + Config.feltUnit n c q % max 1 (bits r 29 16 * 32768)

/-- A slot of the ring of a stream with LOC = 1 as the deep store holds it: one sample per channel. -/
def feltSlot (s : State) (n ch slot : Nat) : List Int := (List.range ch).map (fun c => unitSample s (feltUnit s n c (slot / 8)) (slot % 8))

/-- A slot of the ring of a stream with LOC = 1 written to the deep store at rank 1; what it held is kept, in case the write is abandoned
(R246, R498). -/
def feltPut (s : State) (n ch slot : Nat) (x : List Int) : State :=
  let s1 := s.setStrm { s.strm with was := SMap.put s.strm.was (n * 65536 + slot) (feltSlot s n ch slot) }
  (List.range ch).foldl (fun t c =>
    let u := feltUnit t n c (slot / 8)
    granted (unitWritten (t.setDst (dstPutBytes t.dst (32 * u + 4 * (slot % 8)) (unitBytes [(x[c]?).getD 0]))) u) u 1) s1

/-- Consecutive samples of a packet written into the ring of stream n from an index (R245, R246). -/
def ringTake (s : State) (n t : Nat) (ws : List Word) (xs : List (List Int)) : State :=
  let len := 2 ^ fld (dw ws 1) 19 16
  let s1 := if feltDeep ws then
      (List.range xs.length).foldl (fun a i => feltPut a n (chOf ws) ((t + i) % len) ((xs[i]?).getD [])) s
    else s
  s1.setStrm { s1.strm with ring := ringWrite s1.strm.ring n len t xs }

/-- One channel of the slots present in unit q of the ring of stream n replaced, by slot. -/
def ringChannel (s : State) (n c q : Nat) (v : Nat → Int) : State :=
  (List.range 8).foldl (fun t i =>
    let key := n * 65536 + 8 * q + i
    match SMap.get t.strm.ring key with
    | some x => t.setStrm { t.strm with ring := SMap.put t.strm.ring key (x.set c (v i)) }
    | none => t) s

/-- A unit of the deep store has been written from outside: where it holds a unit of the ring of stream n, the ring holds what it now
holds (R508). -/
def ringRewritten (unit : Nat) (s : State) (n : Nat) : State :=
  let ws := rxDesc s n
  if bit (dw ws 0) 0 && feltDeep ws then
    (List.range (chOf ws)).foldl (fun a c =>
      (List.range (ceilDiv (2 ^ fld (dw ws 1) 19 16) 8)).foldl (fun t q =>
        if feltUnit s n c q = unit then ringChannel t n c q (unitSample t unit) else t) a) s
  else s

/-- The ring of a stream emptied. -/
def ringClear (m : SMap (List Int)) (n : Nat) : SMap (List Int) := m.filter (fun e => e.1 / 65536 != n)

/-- The ratio of a converter, in 2^−32 stream samples per device sample: the two bases as they run (R255). -/
def convRatio (s : State) (ws : List Word) : Int :=
  (rateHz (fld (dw ws 0) 18 16) : Int) * tbInc s (fld (dw ws 0) 15 13) * 2 ^ 32 / ((fsHz s : Int) * tbInc s 0)

/-- P at the stream's rate: the converter's centre (R256, R257). -/
def convCentre (s : State) (ws : List Word) : Nat := ceilDiv (fld (dw ws 3) 15 0 * rateHz (fld (dw ws 0) 18 16)) (fsHz s)

/-- N at the stream's rate (R256). -/
def convN (s : State) (ws : List Word) : Nat := ceilDiv (nSamples s * rateHz (fld (dw ws 0) 18 16)) (fsHz s)

/-- A packet of a stream without converter: late, early, a second copy, or written (R245, R247). -/
def rxPlain (s : State) (n port mc ts : Nat) (ws : List Word) (xs : List (List Int)) : State :=
  let len := 2 ^ fld (dw ws 1) 19 16
  let t := (ts + 2 ^ 32 - (dw ws 2).toNat + fld (dw ws 3) 15 0) % 2 ^ 32
  if 2 ^ 31 ≤ (t + 2 ^ 32 - mc) % 2 ^ 32 then strmCond s n port 2
  else if len - nSamples s < (t + xs.length + 2 ^ 32 - mc) % 2 ^ 32 then strmCond s n port 3
  else if (SMap.get s.strm.ring (n * 65536 + t % len)).isSome then s
  else
    setRx (ringTake s n t ws xs) n { rxState s n with since := 0, port := port }

/-- Slot of a stream's ring for a sample counted from the placing. -/
def convSlot (ws : List Word) (n : Nat) (k : Int) : Nat := n * 65536 + (k % (2 ^ fld (dw ws 1) 19 16 : Nat)).toNat

/-- A packet of a stream with converter (R256): the first one is placed at output instant MC_cur + P. [Log 52: DESIGN CHOICE] -/
def rxConvert (s : State) (n port mc ts : Nat) (ws : List Word) (xs : List (List Int)) : State :=
  let len := 2 ^ fld (dw ws 1) 19 16
  let m0 := (ts + 2 ^ 32 - (dw ws 2).toNat) % 2 ^ 32
  let st := rxState s n
  let put := fun (k : Int) (x : RxState) =>
    setRx (ringTake s n (k % (len : Int)).toNat ws xs) n
      { x with since := 0, port := port, newest := max x.newest (k + xs.length - 1) }
  match st.placed with
  | none =>
    put 0 { st with placed := some (m0, (mc + fld (dw ws 3) 15 0) % 2 ^ 32), pos := 0, fresh := true, newest := -1 }
  | some (m, _) =>
    let k := sext 32 (m0 + 2 ^ 32 - m)
    let pos := if st.fresh then -(convCentre s ws : Int) else st.pos / 2 ^ 32
    if k < pos then strmCond s n port 2
    else if (len : Int) - convN s ws < k + xs.length - pos then strmCond s n port 3
    else if (SMap.get s.strm.ring (convSlot ws n k)).isSome then s
    else put k st

/-- A frame consumed by receive stream n (R244 to R247); l4 is the offset of its UDP header, mc MC at instant 0 of the deckle in which its
last byte arrived. -/
def rxPacket (s : State) (n port mc : Nat) (bs : List Byte) (l4 : Nat) : State :=
  let ws := rxDesc s n
  if !bit (dw ws 0) 0 then s
  else
    let payload := slice bs (l4 + 20) (fbe bs (l4 + 4) 2 - 20)
    if fbyte bs (l4 + 8) ≠ 0x80 ∨ fbyte bs (l4 + 9) % 128 ≠ fld (dw ws 3) 22 16 ∨ fbe bs (l4 + 4) 2 < 20 ∨
        payload.length ≠ chOf ws * rxS ws * sampleBytes ws then strmCond s n port 4
    else
      let xs := packetSampleList ws payload
      if bit (dw ws 0) 1 then rxConvert s n port mc (fbe bs (l4 + 12) 4) ws xs
      else rxPlain s n port mc (fbe bs (l4 + 12) 4) ws xs

/-- One sample of a stream as the conversion to the input plane hears it (R248): present or absent, with the new state and
whether a gap started or ended. [Log 53: DEDUCED] -/
def gapStep (st : RxState) (ch : Nat) (x : Option (List Int)) : List Int × RxState × Bool × Bool :=
  match x with
  | some v =>
    let k := if st.inGap then 0 else st.exitK
    let y := if k < 32 then v.map (fun a => a * ((k : Int) + 1) / 32) else v
    (y, { st with inGap := false, exitK := min 32 (k + 1), last := v, gapK := 0 }, false, st.inGap)
  | none =>
    let k := if st.inGap then st.gapK else 0
    let y := if k < 32 then st.last.map (fun a => a * (31 - (k : Int)) / 32) else []
    (y ++ List.replicate (ch - y.length) 0, { st with inGap := true, gapK := min 32 (k + 1) }, !st.inGap, false)

/-- What a stream delivers for one block: its samples, oldest first, with the states and happenings on the way. -/
structure RxBlock where
  s : State
  st : RxState
  out : List (List Int)
  /-- Gaps that started (0) and ended (1), in order (R249). -/
  gaps : List Nat

/-- The happenings of a sample instant: a gap started, or ended. -/
def gapEvents (e : Bool × Bool) : List Nat := (if e.1 then [0] else []) ++ (if e.2 then [1] else [])

/-- One sample instant of a stream without converter (R247, R248). -/
def rxTakePlain (n : Nat) (ws : List Word) (b : RxBlock) (mc : Nat) : RxBlock :=
  let key := n * 65536 + mc % 2 ^ fld (dw ws 1) 19 16
  let g := gapStep b.st (chOf ws) (SMap.get b.s.strm.ring key)
  { s := b.s.setStrm { b.s.strm with ring := SMap.del b.s.strm.ring key }
    st := { g.2.1 with since := b.st.since + 1 }
    out := b.out ++ [g.1], gaps := b.gaps ++ gapEvents g.2.2 }

/-- How far the converters' filter reaches to each side of its centre, in stream samples: 48 device samples (R255). -/
def convReach (s : State) (ws : List Word) : Nat := ceilDiv (48 * rateHz (fld (dw ws 0) 18 16)) (fsHz s) + 1

/-- Sample j of a converter's input, counted from the placing, at position k: one already taken, or one of the ring; an absent one counts
as zero in the filter. [Log 52: DESIGN CHOICE] -/
def convInput (s : State) (n : Nat) (ws : List Word) (st : RxState) (k j : Int) : List Int :=
  if j < k then (st.hist[(k - 1 - j).toNat]?).getD [] else SMap.getD s.strm.ring (convSlot ws n j) []

/-- The converter's output at position `pos` of its input, in 2^−32 stream samples (R255): a linear filter whose response is even about its
centre, so that its group delay, which DEPTH includes (R256), is the same at every frequency; rounded half up and saturated.
[Log 52: DESIGN CHOICE] -/
def convOut (s : State) (n : Nat) (ws : List Word) (st : RxState) (pos : Int) : List Int :=
  let k := pos / 2 ^ 32
  let w := convReach s ws
  let terms := (List.range (2 * w + 1)).map (fun (i : Nat) =>
    let j := k + (i : Int) - w
    (Config.convTap (fld (dw ws 0) 18 16) (rdF s R.DKL_CFG 2 0) (pos - j * 2 ^ 32).natAbs, convInput s n ws st k j))
  (List.range (chOf ws)).map (fun c =>
    clampInt (-(2 ^ 31)) (2 ^ 31 - 1)
      ((terms.foldl (fun a e => a + e.1 * (e.2[c]?).getD 0) 0 + 2 ^ 29) / 2 ^ 30))

/-- The converter's position moves on by its ratio: the samples it passes leave the ring for the filter's history (R247, R255). -/
def convMove (n : Nat) (ws : List Word) (s : State) (st : RxState) (pos ratio : Int) : State × RxState :=
  let k := pos / 2 ^ 32
  let passed := (List.range ((pos + ratio) / 2 ^ 32 - k).toNat).map (fun (i : Nat) => convSlot ws n (k + i))
  let hist := passed.foldl (fun h e => SMap.getD s.strm.ring e [] :: h) st.hist
  (s.setStrm { s.strm with ring := passed.foldl SMap.del s.strm.ring },
    { st with pos := pos + ratio, fresh := false, hist := hist.take (convReach s ws) })

/-- One sample instant of a stream with converter (R255 to R257). [Log 52: DESIGN CHOICE] -/
def rxTakeConv (n : Nat) (ws : List Word) (b : RxBlock) (mc : Nat) : RxBlock :=
  let ch := chOf ws
  let silent := List.replicate ch (0 : Int)
  let st : RxState := { b.st with since := b.st.since + 1 }
  if st.resync ≠ 0 then
    let y := st.prev.map (fun a => a * ((st.resync : Int) - 1) / 32)
    if st.resync = 1 then
      { b with
        s := b.s.setStrm { b.s.strm with ring := ringClear b.s.strm.ring n }
        st := { st with resync := 0, placed := none, exitK := 0, inGap := false, last := [], hist := [], prev := [] }
        out := b.out ++ [silent] }
    else { b with st := { st with resync := st.resync - 1 }, out := b.out ++ [y ++ List.replicate (ch - y.length) 0] }
  else match st.placed with
    | none => { b with st := st, out := b.out ++ [silent] }
    | some (_, at_) =>
      let ratio := convRatio b.s ws
      let pos := if st.fresh then sext 32 (mc + 2 ^ 32 - at_) * ratio else st.pos
      let present := (SMap.get b.s.strm.ring (convSlot ws n (pos / 2 ^ 32))).isSome
      if pos < 0 ∧ present = false ∧ st.last = [] then
        let m := convMove n ws b.s st pos ratio
        { b with s := m.1, st := m.2, out := b.out ++ [silent] }
      else
        let g := gapStep st ch (if present then some (convOut b.s n ws st pos) else none)
        let m := convMove n ws b.s g.2.1 pos ratio
        { s := m.1, st := { m.2 with prev := g.1 }, out := b.out ++ [g.1], gaps := b.gaps ++ gapEvents g.2.2 }

/-- A converter resyncs at a deckle (R257): its fill departs from the centre by more than half of it, or its base stepped.
[Log 52: DESIGN CHOICE] -/
def convResync (s : State) (n : Nat) : State :=
  let ws := rxDesc s n
  let st := rxState s n
  if bit (dw ws 0) 0 && bit (dw ws 0) 1 && st.placed.isSome && decide (st.resync = 0) then
    let centre : Int := convCentre s ws
    let fill := st.newest + 1 - (if st.fresh then -centre else st.pos / 2 ^ 32)
    let tb := fld (dw ws 0) 15 13
    if decide (centre < 2 * (fill - centre).natAbs) || (tb != 0 && s.tb.stepped.testBit tb) then
      strmCond (setRx s n { st with resync := 32 }) n st.port 5
    else s
  else s

/-- Channels of a block laid into the input-plane half that stage A writes, from an index. -/
def putPlane (m : SMap (List Int)) (plane ch : Nat) (out : List (List Int)) : SMap (List Int) :=
  (List.range ch).foldl (fun (a : SMap (List Int)) c => SMap.put a (plane + c) (out.map (fun x => (x[c]?).getD 0))) m

/-- Stage A of one receive stream for block d (R247 to R249). -/
def rxBlock (s : State) (d n : Nat) : State :=
  let ws := rxDesc s n
  if !bit (dw ws 0) 0 then s
  else
    let conv := bit (dw ws 0) 1
    let b := (List.range (nSamples s)).foldl (fun b i =>
        let mc := mcOf s d i
        if conv then rxTakeConv n ws b mc else rxTakePlain n ws b mc)
      ({ s := s, st := rxState s n, out := [], gaps := [] } : RxBlock)
    let s1 := setRx b.s n b.st
    let s2 := s1.setAud { s1.aud with inW := putPlane s1.aud.inW (fld (dw ws 1) 13 0) (chOf ws) b.out }
    (b.gaps.reverse.eraseDups.reverse).foldl (fun u e => strmCond u n b.st.port e) s2

/-- Stage A of a disabled stream whose channels still ramp (R258). [Log 53: DEDUCED] -/
def fadeBlock (s : State) (e : Nat × Nat × RxState) : State × Option (Nat × Nat × RxState) :=
  let ch := e.2.2.last.length
  let r := (List.range (nSamples s)).foldl (fun (a : List (List Int) × RxState) _ =>
      let g := gapStep a.2 ch none
      (a.1 ++ [g.1], g.2.1)) ([], e.2.2)
  let s1 := s.setAud { s.aud with inW := putPlane s.aud.inW e.2.1 ch r.1 }
  (s1, if r.2.gapK < 32 then some (e.1, e.2.1, r.2) else none)

/-- The units of the ring of stream n that stage A reads for block d, each with its channel and place (R246, R492). -/
def feltReads (s : State) (d n : Nat) : List (Nat × Nat) :=
  let ws := rxDesc s n
  if bit (dw ws 0) 0 && feltDeep ws then
    let slots := if bit (dw ws 0) 1 then
        let st := rxState s n
        if st.placed.isSome && !st.fresh then (List.range (convN s ws)).map (fun (i : Nat) => convSlot ws n (st.pos / 2 ^ 32 + i) % 65536) else []
      else (List.range (nSamples s)).map (fun i => mcOf s d i % 2 ^ fld (dw ws 1) 19 16)
    (((slots.map (· / 8)).eraseDups).map (fun q => (List.range (chOf ws)).map (fun c => (c, q)))).flatten
  else []

/-- The units that stage A reads for the ring of stream n, with their findings: an uncorrectable one is silent in its channel
(R493, R499). -/
def feltFindings (ecc : Ecc) (d : Nat) (s : State) (n : Nat) : State :=
  (feltReads s d n).foldl (fun t e =>
    let u := feltUnit t n e.1 e.2
    let t1 := unitsRead ecc 1 [u] t
    if unitLost ecc u then ringChannel t1 n e.1 e.2 (fun _ => 0) else t1) s

/-- Stage A of all streams for block d: the fading channels, then every enabled stream in ascending order. -/
def streamsStageA (s0 : State) (d : Nat) (ecc : Ecc) : State :=
  let s := s0.strm.rx.foldl (fun t e => feltFindings ecc d t e.1) s0
  let f := s.strm.fading.foldl (fun (a : State × List (Nat × Nat × RxState)) e =>
      let r := fadeBlock a.1 e
      (r.1, a.2 ++ r.2.toList)) (s, [])
  let s1 := f.1.setStrm { f.1.strm with fading := f.2 }
  s1.strm.rx.foldl (fun t e => rxBlock t d e.1) s1

/-- The ones' complement sum of the 16-bit words of a byte string, folded to 16 bits. -/
def onesSum (bs : List Byte) (acc : Nat) : Nat :=
  let n := (List.range ((bs.length + 1) / 2)).foldl (fun a i => a + fbe bs (2 * i) 2) acc
  let f := fun x : Nat => x % 65536 + x / 65536
  f (f (f n))

/-- A byte string with the bytes from an offset replaced. -/
def splice (bs : List Byte) (off : Nat) (v : List Byte) : List Byte := bs.take off ++ v ++ bs.drop (off + v.length)

/-- The UDP checksum over IPv6 of a frame with its headers at given offsets (R253, R483). -/
def udp6Checksum (bs : List Byte) (l3 l4 : Nat) : Nat :=
  let len := fbe bs (l4 + 4) 2
  let body := splice (slice bs l4 len) 6 [0, 0]
  let sum := onesSum (slice bs (l3 + 8) 32 ++ beBytes 4 len ++ [0, 0, 0, 17] ++ body) 0
  let c := 65535 - sum
  if c = 0 then 65535 else c

/-- The IPv4 header with its checksum computed, at an offset of a frame. -/
def ip4Checksum (bs : List Byte) (l3 : Nat) : List Byte :=
  let z := splice bs (l3 + 10) [0, 0]
  splice z (l3 + 10) (beBytes 2 (65535 - onesSum (slice z l3 (4 * (fbyte bs l3 % 16))) 0))

/-- Bytes of a template (TABLE 2): frame byte i in word ⌊i/4⌋ (R259). -/
def tmplBytes (s : State) (n : Nat) : List Byte := ((SMap.getD s.strm.tmpl n []).map (fun w => leBytes 4 w.toNat)).flatten

/-- The length that a template's layout implies: none for a layout outside R253. -/
def tmplLayout (bs : List Byte) : Option Nat :=
  let tag := if fbe bs 12 2 = 0x8100 then 4 else 0
  let o := 14 + tag
  match fbe bs (12 + tag) 2 with
  | 0x0800 => if fbyte bs o = 0x45 ∧ fbyte bs (o + 9) = 17 ∧ fbyte bs (o + 28) / 64 = 2 ∧ fbyte bs (o + 28) % 16 = 0 then some (54 + tag) else none
  | 0x86DD => if fbyte bs o / 16 = 6 ∧ fbyte bs (o + 6) = 17 ∧ fbyte bs (o + 48) / 64 = 2 ∧ fbyte bs (o + 48) % 16 = 0 then some (74 + tag) else none
  | _ => none

/-- A frame of transmit stream n from its gathered samples (R242, R251, R253), padded to 60 bytes without its FCS. -/
def txFrame (s : State) (n : Nat) (ws : List Word) (x : TxState) : List Byte :=
  let tlen := fld (dw ws 1) 31 24
  let b := sampleBytes ws
  let payload := (x.acc.map (fun smp => (smp.map (fun v => beBytes b (fromQ ws v))).flatten)).flatten
  let bs := (tmplBytes s n).take tlen ++ payload
  let l3 := if fbe bs 12 2 = 0x8100 then 18 else 14
  let v6 := fbe bs (l3 - 2) 2 == 0x86DD
  let l4 := if v6 then l3 + 40 else l3 + 20
  let rtp := splice (splice bs (l4 + 10) (beBytes 2 x.seq)) (l4 + 12) (beBytes 4 ((x.mc0 + (dw ws 2).toNat) % 2 ^ 32))
  let ulen := 20 + payload.length
  let u := splice (splice rtp (l4 + 4) (beBytes 2 ulen)) (l4 + 6) [0, 0]
  let f := if v6 then
      let w := splice u (l3 + 4) (beBytes 2 ulen)
      splice w (l4 + 6) (beBytes 2 (udp6Checksum w l3 l4))
    else ip4Checksum (splice u (l3 + 2) (beBytes 2 (ulen + 20))) l3
  f ++ List.replicate (60 - f.length) 0

/-- The state of a transmit stream just enabled: SEQ from its template (R251). -/
def tx0 (s : State) (n : Nat) : TxState :=
  let bs := tmplBytes s n
  let l3 := if fbe bs 12 2 = 0x8100 then 18 else 14
  let l4 := if fbe bs (l3 - 2) 2 = 0x86DD then l3 + 40 else l3 + 20
  { acc := [], mc0 := 0, seq := fbe bs (l4 + 10) 2, active := false, begun := false }

/-- A sample instant of a transmit stream (R251): the packet grows, and a full one is built. -/
def txSample (s : State) (n : Nat) (ws : List Word) (a : TxState × List (List Byte)) (mc : Nat) (smp : List Int) :
    TxState × List (List Byte) :=
  let x := a.1
  let len := txS s ws
  let starts := !x.begun && (mc + 2 ^ 32 - fld (dw ws 1) 23 14) % 2 ^ 32 % len == 0
  if !x.begun && !starts then a
  else
    let y := if x.acc = [] then { x with begun := true, mc0 := mc, acc := [smp] } else { x with acc := x.acc ++ [smp] }
    if y.acc.length < len then (y, a.2)
    else ({ y with acc := [], seq := (y.seq + 1) % 65536 }, a.2 ++ [txFrame s n ws y])

/-- The gain of sample i of a block at an egress port (R531): full, silent, or the ramp of a change; as numerator over N.
[Log 54: DEDUCED] -/
def heardGain (s : State) (port i : Nat) : Nat :=
  let n := nSamples s
  match s.hp.heardPrev.testBit port, s.hp.heard.testBit port with
  | true, true => n
  | false, false => 0
  | true, false => n - 1 - i
  | false, true => i + 1

/-- The gain of sample i of a block by what the whole device does: the ramps of a fence and a takeover (R457, R458), of a lift
(R99) and of a thermal trip (R601). [Log 54: DEDUCED] -/
def deviceGain (s : State) (i : Nat) : Rat :=
  let n : Rat := nSamples s
  let down : Rat := ((nSamples s - 1 - i : Nat) : Rat) / n
  let pair : Rat := match s.pair.out with
    | .normal => 1
    | .fenced f => if s.dkl.num = f then down else if inPast 48 f s.dkl.num then 0 else 1
    | .silent => 0
    | .taken t => if s.dkl.num = t then ((i + 1 : Nat) : Rat) / (n + 1) else if inPast 48 t s.dkl.num then 1 else 0
  pair * (if s.dev = .lifting ∨ s.mgt.tripping = true then down else 1)

/-- A sample at an egress port with its ramps (R531). [Log 54: DEDUCED, 113: DEDUCED] -/
def heardSample (s : State) (port i : Nat) (v : Int) : Int :=
  (((v : Rat) * ((heardGain s port i : Rat) / (nSamples s : Rat)) * deviceGain s i)).floor

/-- The blocks packed in this deckle do not leave a pair member (R457, R458). -/
def pairSilent (s : State) : Bool :=
  match s.pair.out with
  | .normal => false
  | .fenced f => s.dkl.num != f && inPast 48 f s.dkl.num
  | .silent => true
  | .taken t => s.dkl.num != t && !inPast 48 t s.dkl.num

/-- Blocks leave the device: not the silent blocks of a pair member (R457, R458), nor those after the ramped block of a lift
(R99) or of a thermal trip (R601). [Log 113: DEDUCED] -/
def launches (s : State) : Bool := !pairSilent s && !(s.dev == .lifting && s.mld.liftAt != s.dkl.num) &&
  !s.mgt.tripSent

/-- A block of transmit stream n (R251, R252): its packets that end in block d. -/
def txBlock (s : State) (d n : Nat) : State × List (List Byte) :=
  let ws := txDesc s n
  let port := fld (dw ws 0) 17 13
  let dest := fld (dw ws 1) 13 0
  let x := SMap.getD s.strm.txs n (tx0 s n)
  let r := (List.range (nSamples s)).foldl (fun a i =>
      txSample s n ws a (mcOf s d i)
        ((List.range (chOf ws)).map (fun c =>
          heardSample s port i (((SMap.getD s.aud.outC (dest + c) [])[i]?).getD 0)))) (x, ([] : List (List Byte)))
  (s.setStrm { s.strm with txs := SMap.put s.strm.txs n r.1 }, r.2)

/-- The packets of every enabled transmit stream that end in block d, in ascending stream number (R252): stream, port, queue, frame.
[Log 113: DEDUCED] -/
def txAll (s : State) (d : Nat) : State × List (Nat × Nat × Nat × List Byte) :=
  s.strm.tx.foldl (fun (a : State × List (Nat × Nat × Nat × List Byte)) e =>
    let ws := e.2
    if !bit (dw ws 0) 0 then a
    else
      let r := txBlock a.1 d e.1
      (r.1, a.2 ++ r.2.map (fun f => (e.1, fld (dw ws 0) 17 13, fld (dw ws 0) 20 18, f)))) (s, [])

/-- The transmit streams pass a block whose packets are not sent (R51, R251): their counts go on. -/
def txSkip (s : State) (d : Nat) : State := (txAll s d).1

/-- The descriptor or template that will be in force once the pending writes are (R258). -/
def descNow (s : State) (table n : Nat) : List Word :=
  match (s.strm.pend.filter (fun e => e.1 == table && e.2.1 == n)).getLast? with
  | some e => e.2.2
  | none => match table with
    | 0 => rxDesc s n
    | 1 => txDesc s n
    | _ => SMap.getD s.strm.tmpl n []

/-- Streams of a table with a descriptor, now or pending. -/
def descIds (s : State) (table : Nat) : List Nat :=
  (((if table = 0 then s.strm.rx else s.strm.tx).map Prod.fst) ++ ((s.strm.pend.filter (fun e => e.1 == table)).map (fun e => e.2.1))).eraseDups

/-- The enabled descriptors of a table other than n, pending writes counted as in force. -/
def othersOn (s : State) (table n : Nat) : List (List Word) :=
  ((descIds s table).filter (· != n)).filterMap (fun i => let ws := descNow s table i; if bit (dw ws 0) 0 then some ws else none)

/-- Bytes of the felt ring of a receive descriptor (R246). -/
def ringBytes (ws : List Word) : Nat := chOf ws * 2 ^ fld (dw ws 1) 19 16 * 4

/-- Deep-store access units of a receive descriptor per deckle (R495). [Log 55: DEDUCED] -/
def rxUnits (s : State) (ws : List Word) : Nat :=
  if bit (dw ws 1) 14 then 2 * (ceilDiv (nSamples s) 8 + 1) * chOf ws else 0

/-- The limit of R230 for a frame at a port. -/
def frameLimit (s : State) (port : Nat) (tagged : Bool) : Nat :=
  if 16 ≤ port ∨ rdB s (R.ETH_PORTp_CFG port) 11 then 9216 else if tagged then 1522 else 1518

/-- Bytes of a frame of a transmit descriptor, with its FCS (R254). [Log 55: DEDUCED] -/
def txFrameBytes (s : State) (ws : List Word) : Nat := max 64 (fld (dw ws 1) 31 24 + chOf ws * txS s ws * sampleBytes ws + 4)

/-- Bytes per deckle of a transmit descriptor: the packets that can end in one block (R254). [Log 55: DEDUCED] -/
def txBytes (s : State) (ws : List Word) : Nat := ceilDiv (nSamples s) (txS s ws) * txFrameBytes s ws

/-- The runtime checks of a receive stream (R246, R496). [Log 56: DEDUCED, 57: DEDUCED] -/
def rxRefusal (s : State) (n : Nat) (ws : List Word) : Option State :=
  let on := ws :: othersOn s 0 n
  let t := rxTenant ws
  let mine := on.filter (fun w => rxTenant w == t)
  if bit (dw ws 1) 14 then
    let kib := fun (l : List (List Word)) => ceilDiv (total ((l.filter (fun w => bit (dw w 1) 14)).map ringBytes)) 1024
    let region := item s (declKey 3 1)
    let units := fun (l : List (List Word)) => total (l.map (rxUnits s))
    firstRefusal [
      (if bits region 29 16 * 1024 < kib on then some (rtRefuse s 5 t 0x0B (kib on) (bits region 29 16 * 1024)) else none),
      roomFor s 5 t 0x0B 0x22 1 (units on) (units mine) (item s (declKey 0x22 1)),
      (let all := (rd s (R.DST_LAIDr 0)).toNat + units on + (rd s (R.DST_LAIDr 2)).toNat
       if (rd s R.DST_ADM).toNat < all then some (rtRefuse s 5 t 0x0B all (rd s R.DST_ADM).toNat) else none)]
  else
    let kib := fun (l : List (List Word)) (link : Nat) =>
      ceilDiv (total ((l.filter (fun w => !bit (dw w 1) 14)).map ringBytes) + link) 1024
    let link := linkFelt s (flowsOn s 1) (busesOn s)
    roomFor s 5 t 0x06 1 0 (kib on (link none)) (kib mine (link (some t))) (item s (declKey 1 0))

/-- Converter channels in use by descriptors (R255). -/
def convChannels (l : List (List Word)) : Nat := total ((l.filter (fun w => bit (dw w 0) 1)).map chOf)

/-- The check of a receive descriptor with EN = 1 (R258, R259): its RESULT and the state with a refusal recorded; the TENANT of the stream
as it stands and the one written are both the function's. [Log 56: DEDUCED] -/
def rxCheck (s : State) (fn n : Nat) (ws : List Word) : Nat × State :=
  let w0 := dw ws 0
  let rate := fld w0 18 16
  let conv := bit w0 1
  let ring := fld (dw ws 1) 19 16
  let p := fld (dw ws 3) 15 0
  let len := 2 ^ ring
  let plane := fld (dw ws 1) 13 0
  let pl := rd s R.STRM_PLANE
  let old := descNow s 0 n
  if 1 < fld w0 3 2 ∨ 4 < fld w0 12 10 ∨ 5 < rate ∨ ring < 6 ∨
      (conv = false ∧ (rate ≠ rdF s R.DKL_CFG 2 0 ∨ fld w0 15 13 ≠ 0)) then (1, s)
  else if !reachesTenant s fn (rxTenant ws) || !reachesTenant s fn (rxTenant old) then (2, s)
  else match rxRefusal s n ws with
    | some t => (3, t)
    | none =>
      if (!conv && decide (len < p + rxS ws + nSamples s)) ||
          (conv && (decide (len < convCentre s ws + rxS ws + convN s ws) ||
            decide (p < 48 + ceilDiv (rxS ws * fsHz s) (rateHz rate)))) then (5, s)
      else if !bit pl 31 || decide (plane < fld pl 13 0) || decide (fld pl 29 16 < plane + chOf ws - 1) ||
          (othersOn s 0 n).any (fun o =>
            decide (plane < fld (dw o 1) 13 0 + chOf o) && decide (fld (dw o 1) 13 0 < plane + chOf ws)) then (6, s)
      else if conv && decide (512 < convChannels (ws :: othersOn s 0 n)) then (7, s)
      else (0, s)

/-- The check of a transmit descriptor with EN = 1 (R253, R254, R259). -/
def txCheck (s : State) (fn n : Nat) (ws : List Word) : Nat × State :=
  let w0 := dw ws 0
  let port := fld w0 17 13
  let tm := ((descNow s 2 n).map (fun w => leBytes 4 w.toNat)).flatten
  let old := descNow s 1 n
  if 1 < fld w0 3 2 ∨ 4 < fld w0 12 10 ∨ 19 < port ∨ 16384 < fld (dw ws 1) 13 0 + chOf ws ∨
      txS s ws ≤ fld (dw ws 1) 23 14 ∨ tmplLayout tm ≠ some (fld (dw ws 1) 31 24) then (1, s)
  else if !reachesTenant s fn (txTenant ws) || !reachesTenant s fn (txTenant old) then (2, s)
  else
    let on := (ws :: othersOn s 1 n).filter (fun w => fld (dw w 0) 17 13 == port)
    let mine := on.filter (fun w => txTenant w == txTenant ws)
    let link := fun (t : Option Nat) => if port < 16 then 0 else linkBytes s (flowsOn s 0) (busesOn s) (port - 16) t
    match roomFor s 5 (txTenant ws) 0x0C 0x23 port (total (on.map (txBytes s)) + link none)
        (total (mine.map (txBytes s)) + link (some (txTenant ws)))
        (item s (declKey 0x23 port)) with
    | some t => (3, t)
    | none => if frameLimit s port (fbe tm 12 2 == 0x8100) < txFrameBytes s ws then (4, s) else (0, s)

/-- RESULT 8, before every other check: every write fails while the device is not LAID (R89, R259). -/
def laidOr (s : State) (r : Nat × State) : Nat × State := if s.dev ≠ .laid then (8, s) else r

/-- The check of a write with EN = 0, or of a template (R253, R259). -/
def descCheck (s : State) (fn table n : Nat) (ws : List Word) : Nat × State :=
  laidOr s (match table with
    | 0 =>
      if bit (dw ws 0) 0 then rxCheck s fn n ws
      else if reachesTenant s fn (rxTenant ws) && reachesTenant s fn (rxTenant (descNow s 0 n)) then (0, s) else (2, s)
    | 1 =>
      if bit (dw ws 0) 0 then txCheck s fn n ws
      else if reachesTenant s fn (txTenant ws) && reachesTenant s fn (txTenant (descNow s 1 n)) then (0, s) else (2, s)
    | 2 =>
      let len := tmplLayout ((ws.map (fun w => leBytes 4 w.toNat)).flatten)
      if len.isNone || (bit (dw (descNow s 1 n) 0) 0 && len != some (fld (dw (descNow s 1 n) 1) 31 24)) then (1, s)
      else if reachesTenant s fn (txTenant (descNow s 1 n)) then (0, s) else (2, s)
    | _ => (1, s))

/-- The data registers of a function (R258). -/
def descData (s : State) (fn count : Nat) : List Word := (List.range count).map (fun m => rd s (regKey fn (R.STRM_DESC_Dm m)))

/-- Words of a descriptor as they are read, with their read-only bits (R259). -/
def descView (s : State) (table n : Nat) : List Word :=
  match table with
  | 0 =>
    let ws := (List.range 4).map (dw (rxDesc s n))
    let st := rxState s n
    let on := bit (dw ws 0) 0
    let w3 := setFld (setFld (dw ws 3) 24 24 (b2n (on && decide (st.since < rxS ws)))) 25 25 (b2n (on && st.inGap))
    [dw ws 0, dw ws 1, dw ws 2, w3]
  | 1 =>
    let ws := txDesc s n
    let act := bit (dw ws 0) 0 && (match SMap.get s.strm.txs n with | some x => x.active | none => false)
    [dw ws 0, dw ws 1, dw ws 2, BitVec.ofNat 32 (b2n act)]
  | 2 => (List.range 24).map (dw (SMap.getD s.strm.tmpl n []))
  | _ => []

/-- GO of `STRM_DESC_CTL` (R258, R259): the access of function fn to a table. [Log 107: DEDUCED] -/
def strmGo (s : State) (fn : Nat) : State :=
  let key := regKey fn R.STRM_DESC_CTL
  let ctl := rd s key
  let table := fld ctl 17 16
  let n := fld ctl 11 0
  if bit ctl 29 then
    let ws := descData s fn (if table = 2 then 24 else 4)
    let r := descCheck s fn table n ws
    let s1 := wrF r.2 key 27 24 r.1
    if r.1 = 0 then s1.setStrm { s1.strm with pend := s1.strm.pend ++ [(table, n, ws)] } else s1
  else
    let tenant := if table = 0 then rxTenant (rxDesc s n) else txTenant (txDesc s n)
    if table = 3 then wrF s key 27 24 1
    else if !reachesTenant s fn tenant then wrF s key 27 24 2
    else if s.dev ≠ .laid then wrF s key 27 24 8
    else
      let s1 := wrAll s (((List.range 24).zip (descView s table n)).map (fun e => (regKey fn (R.STRM_DESC_Dm e.1), e.2)))
      wrF s1 key 27 24 0

/-- A write of `STRM_DESC_CTL` that names a table and a stream, with GO = 1. -/
def strmRow (s : State) (fn : Nat) (write : Bool) (t i : Nat) : State :=
  let w := i + t * 2 ^ 16 + b2n write * 2 ^ 29
  hostWriteAs s fn R.STRM_DESC_CTL (BitVec.ofNat 32 (2 ^ 31 + w)) (fun u =>
    strmGo (wr u (regKey fn R.STRM_DESC_CTL) (BitVec.ofNat 32 w)) fn)

/-- STREAM_DESC_READ (R258). -/
def execStreamDescRead (fn : BitVec 6) (table : BitVec 2) (n : BitVec 12) (s : State) : Host.Outcome State Fault Refusal :=
  .next (strmRow s fn.toNat false table.toNat n.toNat)

/-- STREAM_DESC_WRITE (R258, R259). -/
def execStreamDescWrite (fn : BitVec 6) (table : BitVec 2) (n : BitVec 12) (s : State) : Host.Outcome State Fault Refusal :=
  .next (strmRow s fn.toNat true table.toNat n.toNat)

/-- An accepted descriptor write takes effect (R258). -/
def strmApply (s : State) (e : Nat × Nat × List Word) : State :=
  let n := e.2.1
  let ws := e.2.2
  match e.1 with
  | 0 =>
    let old := rxDesc s n
    let on := bit (dw ws 0) 0
    let fade := if bit (dw old 0) 0 && !on then [(n, fld (dw old 1) 13 0, rxState s n)] else []
    let s1 := s.setStrm { s.strm with
      rx := SMap.put s.strm.rx n ws, ring := ringClear s.strm.ring n, rxs := SMap.del s.strm.rxs n
      fading := s.strm.fading ++ fade }
    if on then setRx s1 n rx0 else s1
  | 1 =>
    let s0 := s.setEth { s.eth with egress := s.eth.egress.map (fun f => if f.stream = some n then { f with stream := none } else f) }
    let s1 := s0.setStrm { s.strm with tx := SMap.put s.strm.tx n ws, txs := SMap.del s.strm.txs n }
    if bit (dw ws 0) 0 then s1.setStrm { s1.strm with txs := SMap.put s1.strm.txs n (tx0 s1 n) } else s1
  | _ => s.setStrm { s.strm with tmpl := SMap.put s.strm.tmpl n ws }

/-- The enabled receive descriptors. -/
def rxOn (s : State) : List (List Word) := (s.strm.rx.map Prod.snd).filter (fun ws => bit (dw ws 0) 0)

/-- The streams at a boundary (R241, R257, R258): pending descriptors, the media-count offset, the converters' fills, and the
figures `STRM_ASRC.FREE` and `DST_LAID1`. -/
def strmBoundary (s : State) : State :=
  let tmpls := s.strm.pend.filter (fun e => e.1 == 2)
  let rest := s.strm.pend.filter (fun e => e.1 != 2)
  let s1 := (tmpls ++ rest).foldl strmApply s
  let s2 := s1.setStrm { s1.strm with pend := [], mcOfs := (rd s1 R.STRM_MC_OFS).toNat }
  let s3 := s2.strm.rx.foldl (fun t e => convResync t e.1) s2
  wrAll s3 [(R.STRM_ASRC, BitVec.ofNat 32 (512 - convChannels (rxOn s3))),
    (R.DST_LAIDr 1, BitVec.ofNat 32 (total ((rxOn s3).map (rxUnits s3))))]

/-- A write of a register of the block with an effect of its own. -/
def strmWrite (s : State) (fn off : Nat) (q : Quarter) (w v : Word) : Option State :=
  if off = R.STRM_DESC_CTL then
    let s1 := wr s (regKey fn off) w
    some (if q = .base ∧ bit v 31 = true then strmGo s1 fn else s1)
  else none

/-- The registers of the block whose value is that of the moment of the read. -/
def strmLive (s : State) (off : Nat) : Option Word :=
  if off = R.STRM_MCLK then some (BitVec.ofNat 32 (if running s then mcOf s s.dkl.num 0 else 0)) else none

end Sys2Proof.Machine
end

