-- ==== Sys2Proof/Machine/Ethernet.lean ====
section
/-! DEFINITION. The Ethernet ports (chapter 08), frame acceptance, the destination decision and the egress set (R197 to R202)
and the egress queues. -/

namespace Sys2Proof.Machine

/-- Line rate of a port in Gb/s by its mode code (R226). -/
def portGbps (speed : Nat) : Nat :=
  match speed with
  | 1 => 1 | 2 => 1 | 3 => 10 | 4 => 25 | 5 => 25 | 6 => 100 | 7 => 100 | _ => 0

/-- Fabric cycles that a frame takes on a port with its preamble and inter-frame gap: 0.625 ns each. -/
def frameCycles (s : State) (p len : Nat) : Nat :=
  let g := portGbps (portSpeed s p)
  if g = 0 then 0 else ceilDiv ((len + 20) * 64) (5 * g)

/-- A condition of `EDL_PORTn_STAT` with the source of its group (R414). -/
def edlCond (s : State) (n b : Nat) : State :=
  let k := if b < 4 then 0 else match b with
    | 4 => 1 | 5 => 1 | 7 => 1 | 10 => 1 | 6 => 2 | 8 => 3 | 9 => 3 | 11 => 4 | 12 => 4 | _ => 6
  setCond s (R.EDL_PORTn_STAT n) (160 + 8 * n + k) (2 ^ b)

/-- A condition of `ETH_PORTp_STAT` (R260). -/
def ethCond (s : State) (p b : Nat) : State := setCond s (R.ETH_PORTp_STAT p) (128 + 2 * p) (2 ^ b)

/-- A drop flag of a port (R232, R260, R414): bit 31 of the record's word 3 marks the drop register. -/
def portDrop (s : State) (p b : Nat) : State :=
  setCondWith s (R.ETH_PORTp_DROP p) (if p < 16 then 128 + 2 * p else 160 + 8 * (p - 16) + 4) (2 ^ b) [] 0 (.marked 0x80000000)

/-- An egress copy is discarded: QFULL, or TQFULL of a tunnel port (R234, R414). -/
def queueFull (s : State) (p : Nat) : State := if p < 16 then ethCond s p 5 else edlCond s (p - 16) 11

/-- A timed frame was late: LATE, or TLATE of a tunnel port (R236, R414). -/
def queueLate (s : State) (p : Nat) : State := if p < 16 then ethCond s p 4 else edlCond s (p - 16) 12

/-- A port of a one-port group beyond its first is absent (R225). -/
def portAbsent (s : State) (p : Nat) : Bool :=
  p % 4 != 0 && rdB s (R.ETH_GRPg_CFG (p / 4)) 0

/-- The link of an Ethernet or tunnel port is up (R225, R386). -/
def portUp (s : State) (p : Nat) : Bool :=
  if p < 16 then rdB s (R.ETH_PORTp_LINK p) 0 && !portAbsent s p
  else decide (p < 20) && rdB s (R.EDL_PORTn_LINK (p - 16)) 28

/-- Bytes of the 8 MiB packet buffer in use: every waiting frame and every egress copy, with its FCS (R233).
[Log 48: DEDUCED] -/
def bufferUsed (s : State) : Nat :=
  total (s.fwd.frames.map (fun f => f.bytes.length + 4)) + total (s.eth.egress.map (fun f => f.bytes.length + 4))
    + total (s.eth.toHost.map (fun f => f.1.bytes.length + 4))

/-- Entries of a port's ingress FIFO (R233). -/
def fifoSize (s : State) (p : Nat) : Nat :=
  if 16 ≤ p then 416 else if p % 4 = 0 ∧ rdB s (R.ETH_GRPg_CFG (p / 4)) 0 = true then 192 else 48

/-- Offset of the PTP header of an event message (R482). [Log 114: DEDUCED] -/
def ptpOffset (bs : List Byte) : Option Nat :=
  let eo := etherOff bs
  let et := fbe bs eo 2
  let l3 := l3Code et
  let l4 := l4Find bs l3 (eo + 2)
  let h := if et = 0x88F7 then some (eo + 2)
    else if l4.1 = 1 ∧ fbe bs (l4.2 + 2) 2 = 319 then some (l4.2 + 8) else none
  match h with
  | some o => if fbyte bs o % 16 ≤ 3 ∧ fbyte bs (o + 1) % 16 = 2 ∧ o < bs.length then some o else none
  | none => none

/-- TB0 a number of cycles before cycle c of the event tick: ns and 1/256 ns (R482). [Log 20: DEDUCED, 114: DEDUCED] -/
def stampAt (s : State) (c back : Nat) : Nat × Nat :=
  let z := stampBase s
  let t := ((tbAt s z c : Int) - (back : Int) * tbInc s z) % 2 ^ 75
  (t.toNat / 2 ^ 43, t.toNat / 2 ^ 35 % 256)

/-- JUMBO of a port as it held for a frame whose first byte arrived in a cycle (R227). -/
def jumboAt (s : State) (p cycle : Nat) : Bool :=
  match s.eth.jumboLog.find? (fun e => e.1 == p && decide (cycle ≤ e.2.1)) with
  | some e => e.2.2
  | none => rdB s (R.ETH_PORTp_CFG p) 11

/-- The limit of R230 for a frame, by the JUMBO that held for it: a tunnel port takes jumbo frames. -/
def rxLimit (jumbo tagged : Bool) : Nat := if jumbo then 9216 else if tagged then 1522 else 1518

/-- Acceptance of a received frame, FCS included, on a port, by the JUMBO in force at its first byte (R227, R229 to R233).
[Log 50: DEDUCED] -/
def acceptFrame (s : State) (p : Nat) (bs : List Byte) (bad jumbo : Bool) (stamp : Option (Nat × Nat)) : State :=
  let len := bs.length
  let body := bs.take (len - 4)
  if len ≤ 63 then portDrop s p 0
  else if rxLimit jumbo (fbe bs 12 2 == 0x8100) < len then portDrop s p 1
  else if bad || leNat (bs.drop (len - 4)) != crc32 body then portDrop s p 2
  else if fbe bs 12 2 = 0x8808 then s
  else if 8 * 2 ^ 20 < bufferUsed s + len then portDrop s p 4
  else if fifoSize s p ≤ (s.fwd.frames.filter (fun f => f.port == p)).length then portDrop s p 3
  else classify s p body (bs.drop (len - 4)) stamp

/-- FRAME_RECEIVE (R230): the last byte of a frame arrives on an Ethernet port in cycle cyc of the event tick.
[Log 50: DEDUCED] -/
def execFrameReceive (port : BitVec 4) (bytes : List Byte) (pcsErr fecBad : Bool) (cyc : BitVec 4) (s : State) :
    Host.Outcome State Fault Refusal :=
  .next (let p := port.toNat
    if running s && portUp s p then
      let stamp := match ptpOffset (bytes.take (bytes.length - 4)) with
        | some _ => some (stampAt s cyc.toNat (frameCycles s p (bytes.length - 20)))
        | none => none
      let first := s.dkl.cyc + cyc.toNat - frameCycles s p (bytes.length - 20)
      acceptFrame s p bytes (pcsErr || fecBad) (jumboAt s p first) stamp
    else s)

/-- A frame enters an egress queue (R234, R236). -/
def enqueue (s : State) (f : EgFrame) : State :=
  let held := total ((s.eth.egress.filter (fun g => g.port == f.port && g.queue == f.queue)).map (fun g => g.bytes.length + 4))
  if rdF s (R.ETH_QLIMq f.queue) 23 0 ≤ held ∨ 8 * 2 ^ 20 < bufferUsed s + f.bytes.length + 4 then queueFull s f.port
  else
    let late := match f.launch with | some t => nsPast t (tbNs s 0 0) | none => false
    let g := if late then { f with launch := none } else f
    let s1 := if late then queueLate s f.port else s
    s1.setEth { s1.eth with egress := s1.eth.egress ++ [g] }

/-- A frame's bytes with its TTL or hop limit decremented, the IPv4 checksum updated incrementally, and the addresses of the
next hop (R200). -/
def routeRewrite (f : FrameIn) (nhMac routerMac : Nat) : List Byte :=
  let bs := splice (splice f.bytes 0 (beBytes 6 nhMac)) 6 (beBytes 6 routerMac)
  if f.l3 = 1 then
    let hc := fbe bs (f.l3off + 10) 2 + 0x100
    let hc' := if 65535 < hc then hc - 65535 else hc
    splice (splice bs (f.l3off + 8) (beBytes 1 (fbyte bs (f.l3off + 8) - 1))) (f.l3off + 10) (beBytes 2 hc')
  else splice bs (f.l3off + 7) (beBytes 1 (fbyte bs (f.l3off + 7) - 1))

/-- A frame without its outer tag. -/
def untag (bs : List Byte) : List Byte := if fbe bs 12 2 = 0x8100 then bs.take 12 ++ bs.drop 16 else bs

/-- A frame tagged with a VLAN and a PCP (R201). [Log 47: DEDUCED] -/
def tagWith (bs : List Byte) (vlan pcp : Nat) : List Byte :=
  let u := untag bs
  u.take 12 ++ [0x81, 0x00] ++ beBytes 2 (pcp * 8192 + vlan) ++ u.drop 12

/-- The frame goes to the host port with its reason (R535). [Log 47: DEDUCED] -/
def toHostPort (s : State) (f : FrameIn) (reason : Nat) : State :=
  s.setEth { s.eth with toHost := s.eth.toHost ++ [(f, reason)] }

/-- A destination decision: the ports it names, the host port with a reason, the egress VLAN and the bytes sent; or a drop, or
a next-hop search to ask for first. -/
inductive Decision where
  | send (mask : Nat) (host : Option Nat) (vlan : Nat) (bytes : List Byte)
  | drop
  | ask (f : FrameIn)
  deriving DecidableEq, Repr

/-- A flood in the ingress VLAN (R201). -/
def floodDecision (s : State) (f : FrameIn) : Decision :=
  .send (tblField s 0 f.vlan 19 0) (if tblField s 0 f.vlan 55 55 = 1 then some 4 else none) f.vlan f.bytes

/-- A station hit or miss (R197, R201). -/
def stationDecision (s : State) (f : FrameIn) (e : Option (Nat × Bool × Nat)) : Decision :=
  match e with
  | none => floodDecision s f
  | some (port, _, _) =>
    if port < 20 then .send (2 ^ port) none f.vlan f.bytes
    else if port = 20 then .send 0 (some 1) f.vlan f.bytes
    else .drop

/-- The frame as it looks up its next hop (R200). -/
def hopFrame (f : FrameIn) (vlan mac : Nat) : FrameIn := { f with vlan := vlan, bytes := splice f.bytes 0 (beBytes 6 mac) }

/-- The decision of a routed frame with a usable route (R199, R200). -/
def routeDecision (s : State) (f : FrameIn) (ad : Nat) : Decision :=
  let mac := bits ad 47 0
  let vlan := bits ad 59 48
  match bits ad 62 60 with
  | 0 =>
    let vw := tblRead s 0 vlan
    if !(vw.2 && vw.1.testBit 50 && bits vw.1 49 40 == f.tenant) then .drop
    else
      let g := hopFrame f vlan mac
      if rdB s R.FWD_PROF 7 && !f.asked.contains 4 then .ask g
      else match stationEntry s (mkKey f.tenant vlan mac) (frameResult s f 4) with
        | none => .send 0 (some 3) f.vlan f.bytes
        | some (port, _, _) =>
          if port < 20 then .send (2 ^ port) none vlan (routeRewrite f mac (tblField s 1 f.tenant 47 0))
          else if port = 20 then .send 0 (some 1) f.vlan f.bytes
          else .drop
  | 1 => .send 0 (some 3) f.vlan f.bytes
  | _ => .drop

/-- The decision of a frame for a multicast group (R207, R208). -/
def groupDecision (s : State) (f : FrameIn) : Decision :=
  let miss := match tblField s 0 f.vlan 54 53 with
    | 0 => floodDecision s f
    | 2 => .send 0 (some 5) f.vlan f.bytes
    | _ => .drop
  match frameResult s f 2 with
  | some r =>
    if recUsable r then
      let w := tblRead s 3 (fld r.adLo 13 0)
      if w.2 then .send (bits w.1 19 0) (if w.1.testBit 20 then some 5 else none) f.vlan f.bytes else miss
    else miss
  | none => miss

/-- The stream that consumes a frame, with PASS (R198). -/
def streamHit (s : State) (f : FrameIn) : Option (Nat × Bool) :=
  match frameResult s f 0 with
  | some r =>
    if recUsable r then
      let w := tblRead s 2 (fld r.adLo 15 0)
      if w.2 && w.1.testBit 12 && w.1.testBit 13 && bits w.1 24 15 == f.tenant then some (bits w.1 11 0, w.1.testBit 14) else none
    else none
  | none => none

/-- The rows of R197 after the consumed one. [Log 133: DEDUCED] -/
def destDecision (s : State) (f : FrameIn) : Decision :=
  let d := dmac f.bytes
  if d = macBcast then floodDecision s f
  else if wantsRoute s f then
    if routeToHost f then .send 0 (some 3) f.vlan f.bytes
    else match frameResult s f 3 with
      | some r => if recUsable r then routeDecision s f (r.adLo.toNat + r.adHi.toNat * 2 ^ 32) else .send 0 (some 3) f.vlan f.bytes
      | none => .send 0 (some 3) f.vlan f.bytes
  else if f.own then .send 0 (some 2) f.vlan f.bytes
  else if macMulti d then groupDecision s f
  else
    let key := mkKey f.tenant f.vlan d
    stationDecision s f (stationEntry s key (frameResult s f 1))

/-- The bad-parity words that the next-hop lookup of a route with ACTION 0 meets (R200, R206, R223). -/
def hopPerr (s : State) (f : FrameIn) (ad : Nat) : State :=
  if bits ad 62 60 ≠ 0 then s
  else
    let vlan := bits ad 59 48
    if (tblRead s 0 vlan).2 then clearBadRows s (mkKey f.tenant vlan (bits ad 47 0)) else fwdPerr s 1 0 vlan

/-- The state with the bad-parity words that a decision met reported (R206, R223). -/
def decisionPerr (s : State) (f : FrameIn) : State :=
  let s1 := match frameResult s f 0 with
    | some r => if recUsable r && !(tblRead s 2 (fld r.adLo 15 0)).2 then fwdPerr s 3 0 (fld r.adLo 15 0) else s
    | none => s
  let s2 := match frameResult s f 2 with
    | some r => if recUsable r && !(tblRead s 3 (fld r.adLo 13 0)).2 then fwdPerr s1 4 0 (fld r.adLo 13 0) else s1
    | none => s1
  let s3 := match frameResult s f 3 with
    | some r => if recUsable r && wantsRoute s f && !routeToHost f then hopPerr s2 f (r.adLo.toNat + r.adHi.toNat * 2 ^ 32) else s2
    | none => s2
  if f.own ∨ macMulti (dmac f.bytes) = true then s3 else clearBadRows s3 (mkKey f.tenant f.vlan (dmac f.bytes))

/-- The VLAN word of a frame, or the tenant word of one to the device's own address, has bad parity at its decision: the table and the
entry (R223). -/
def badEntry (s : State) (f : FrameIn) : Option (Nat × Nat) :=
  if !(tblRead s 0 f.vlan).2 then some (1, f.vlan)
  else if f.own && !(tblRead s 1 f.tenant).2 then some (2, f.tenant) else none

/-- The ports that remain of a decision's set (R201). -/
def egressPorts (s : State) (f : FrameIn) (mask vlan : Nat) : List Nat :=
  (List.range 20).filter (fun p => mask.testBit p && p != f.port && !portBlocked s p && portUp s p
    && (tblField s 0 vlan 19 0).testBit p)

/-- The copies of a decided frame enter their queues (R201, R234). [Log 48: DEDUCED] -/
def sendCopies (s : State) (f : FrameIn) (ports : List Nat) (vlan : Nat) (bytes : List Byte) : State :=
  ports.foldl (fun t p =>
    let b := if (tblField s 0 vlan 39 20).testBit p then untag bytes else tagWith bytes vlan f.pcp
    enqueue t { port := p, queue := f.pcp, bytes := b, launch := none, deckle := none
                ingress := if f.port < 16 ∧ p < 16 then f.stamp else none, host := none, bad := false }) s

/-- A decision is carried out (R201, R202); a frame consumed by a stream is no drop. -/
def carryDecision (s : State) (f : FrameIn) (consumed : Bool) (d : Decision) : State :=
  match d with
  | .drop => if consumed then s else fwdDrop s f.port
  | .ask _ => s
  | .send mask host vlan bytes =>
    let ports := egressPorts s f mask vlan
    let s1 := match host with | some r => toHostPort s f r | none => s
    if ports = [] ∧ host = none then (if consumed then s else fwdDrop s f.port) else sendCopies s1 f ports vlan bytes

/-- A frame whose source lookup and searches are complete. -/
def frameReady (s : State) (f : FrameIn) : Bool :=
  (match f.src with | .none => true | .done _ _ => true | _ => false) && f.asked.all (fun w => (frameResult s f w).isSome)

/-- The decision of a ready frame at the head of its FIFO (R195, R197 to R202): one whose port was blocked when it was accepted, or is now,
goes only to the host. [Log 142: DESIGN CHOICE] -/
def decideFrame (s : State) (f : FrameIn) : State :=
  if f.blocked || portBlocked s f.port then retireFrame (toHostPort s f 6) f
  else
    let flood := match f.src with | .done fl _ => fl | _ => false
    let dropped := match f.src with | .done _ dr => dr | _ => false
    if dropped then retireFrame (fwdDrop s f.port) f
    else match badEntry s f with
    | some e => retireFrame (fwdDrop (fwdPerr s e.1 0 e.2) f.port) f
    | none =>
      let s1 := decisionPerr s f
      let hit := streamHit s1 f
      let d := if flood then floodDecision s1 f else match hit with
        | some (_, false) => .drop
        | _ => destDecision s1 f
      match d with
      | .ask g =>
        putFrame (askFrame s1 g 4 0 (rdF s1 R.FWD_PROF 5 0) (frameSrc g)) { f with asked := f.asked ++ [4] }
      | d =>
        let s2 := match hit with | some (n, _) => rxPacket s1 n f.port f.mc f.bytes f.l4off | none => s1
        retireFrame (carryDecision s2 f hit.isSome d) f

/-- FORWARD_DECISION (R197): the frame at the head of a port's ingress FIFO. -/
def execForwardDecision (port : BitVec 5) (s : State) : Host.Outcome State Fault Refusal :=
  .next (match headFrame s port.toNat with
    | some f => if running s && frameReady s f then decideFrame s f else s
    | none => s)

/-- The combinations of AN and FEC that a mode allows (R226). -/
def modeAllows (speed an fec : Nat) : Bool :=
  match speed with
  | 1 => decide (an ≤ 1 ∧ fec = 0)
  | 2 => decide ((an = 0 ∨ an = 2) ∧ fec = 0)
  | 3 => decide (an ≤ 1 ∧ (fec = 0 ∨ fec = 1 ∨ fec = 3))
  | 4 => decide (an ≤ 1)
  | 5 => decide (an ≤ 1)
  | 6 => decide (an ≤ 1 ∧ (fec = 2 ∨ fec = 3))
  | 7 => decide (an ≤ 1 ∧ (fec = 2 ∨ fec = 3))
  | _ => false

/-- GUARD = 1 needs the longest frame within half the nominal deckle (R237): bytes × 8 / rate ≤ N / (2 × fs).
[Log 115: DEDUCED] -/
def guardFits (s : State) (speed : Nat) (jumbo : Bool) : Bool :=
  let bytes := (if jumbo then 9216 else 1522) + 20
  decide (bytes * 8 * 2 * fsHz s ≤ nSamples s * portGbps speed * 10 ^ 9)

/-- The word an `ETH_PORTp_CFG` may hold (R226, R237). -/
def portCfgOk (s : State) (w : Word) : Bool :=
  modeAllows (fld w 2 0) (fld w 7 6) (fld w 9 8) && (!bit w 12 || guardFits s (fld w 2 0) (bit w 11))

/-- The link of a port goes down: the status bits, DOWN, and the flush of R220. -/
def linkDown (s : State) (p : Nat) : State :=
  if rdB s (R.ETH_PORTp_LINK p) 0 then linkLossFlush (ethCond (wr s (R.ETH_PORTp_LINK p) 0) p 1) p
  else wr s (R.ETH_PORTp_LINK p) 0

/-- The JUMBO of a port before a write is kept for the frames that have begun to arrive (R227): no frame within the limit of R230 takes
2^17 cycles. -/
def noteJumbo (s : State) (p : Nat) (old : Bool) : State :=
  s.setEth { s.eth with
    jumboLog := s.eth.jumboLog.filter (fun e => decide (s.dkl.cyc < e.2.1 + 2 ^ 17)) ++ [(p, s.dkl.cyc + tickCycles s - 1, old)] }

/-- A write of `ETH_PORTp_CFG` that would make it w (R88, R226, R227, R237). [Log 57: DEDUCED] -/
def writePortCfg (s : State) (p : Nat) (w : Word) : State :=
  let old := rd s (R.ETH_PORTp_CFG p)
  if !running s || !portCfgOk s w then s
  else
    let s0 := wr s (R.ETH_PORTp_CFG p) w
    let s1 := if bit old 11 = bit w 11 then s0 else noteJumbo s0 p (bit old 11)
    match powerRefusal s s1 5 0 with
    | some t => t
    | none => if fld old 10 6 = fld w 10 6 then s1 else linkDown s1 p

/-- ETH_PORT_CFG_WRITE (R227): function fn writes v to `ETH_PORTp_CFG`. -/
def execEthPortCfgWrite (fn : BitVec 6) (p : BitVec 4) (v : Word) (s : State) : Host.Outcome State Fault Refusal :=
  .next (if accessOk s fn.toNat (R.ETH_PORTp_CFG p.toNat) then
      writePortCfg s p.toNat (newWord s fn.toNat (R.ETH_PORTp_CFG p.toNat) .base v)
    else s)

/-- FEC resolved for a port: its own code, or for code 3 the resolution of clause 73 or the last column of R226. -/
def resolveFec (s : State) (p fec : Nat) : Nat :=
  let w := rd s (R.ETH_PORTp_CFG p)
  if fld w 9 8 ≠ 3 then fld w 9 8
  else if fld w 7 6 ≠ 0 then fec
  else if fld w 2 0 = 3 then 0 else 2

/-- ETH_LINK_UP (R226): the link of an enabled port comes up; without `ETH_REFCLK` it stays down (R590). -/
def execEthLinkUp (p : BitVec 4) (fec : BitVec 2) (s : State) : Host.Outcome State Fault Refusal :=
  .next (let n := p.toNat
    let cfg := rd s (R.ETH_PORTp_CFG n)
    if running s && s.pwr.ethRef && bit cfg 10 && decide (fld cfg 2 0 ≠ 0) && !portAbsent s n && !rdB s (R.ETH_PORTp_LINK n) 0 then
      ethCond (wr s (R.ETH_PORTp_LINK n)
        (BitVec.ofNat 32 (3 + b2n (decide (fld cfg 7 6 ≠ 0)) * 4 + resolveFec s n (min 2 fec.toNat) * 8))) n 0
    else s)

/-- ETH_LINK_DOWN: the link of a port goes down. -/
def execEthLinkDown (p : BitVec 4) (s : State) : Host.Outcome State Fault Refusal :=
  .next (if running s then linkDown s p.toNat else s)

/-- AN_FAIL: auto-negotiation of a port that is not up finds no common mode. -/
def execAnFail (p : BitVec 4) (s : State) : Host.Outcome State Fault Refusal :=
  .next (let cfg := rd s (R.ETH_PORTp_CFG p.toNat)
    if running s && bit cfg 10 && decide (fld cfg 7 6 ≠ 0) && !rdB s (R.ETH_PORTp_LINK p.toNat) 0 then ethCond s p.toNat 2 else s)

/-- UNCORRECTABLE_CODEWORD: on Ethernet port p, or on Edarlink port p − 16 (R391). The frame it covers arrives with its own
row's flag set. -/
def execUncorrectableCodeword (port : BitVec 5) (s : State) : Host.Outcome State Fault Refusal :=
  .next (let p := port.toNat
    if !running s then s
    else if p < 16 then (if portUp s p then ethCond s p 3 else s)
    else if p < 20 then (if rdF s (R.EDL_PORTn_LINK (p - 16)) 2 0 = 4 then edlCond s (p - 16) 5 else s)
    else s)

/-- A queued frame may leave in cycle c of the event tick (R235, R237, R252). [Log 115: DEDUCED] -/
def mayLaunch (s : State) (c : Nat) (f : EgFrame) : Bool :=
  let now := tbNs s 0 c
  let due := (match f.launch with | some t => t % 2 ^ 32 == now || nsPast t now | none => true) && f.deckle.isNone
  let guard := decide (f.port < 16) && rdB s (R.ETH_PORTp_CFG f.port) 12 && decide (f.queue ≠ 7) && ticking s
  due && (!guard || decide (c + frameCycles s f.port (f.bytes.length + 4) ≤ cyclesLeft s))

/-- The frame a port sends next in cycle c: strict priority from queue 7, each queue first in, first out (R235). -/
def nextFrame (s : State) (p c : Nat) : Option EgFrame :=
  (List.range 8).reverse.findSome? (fun q =>
    match s.eth.egress.find? (fun f => f.port == p && f.queue == q) with
    | some f => if mayLaunch s c f then some f else none
    | none => none)

/-- The first frame equal to f leaves the egress queues. -/
def dequeue (s : State) (f : EgFrame) : State := s.setEth { s.eth with egress := s.eth.egress.erase f }

/-- The transparent clock (R483): the residence time added to the correction field. -/
def correctFrame (bs : List Byte) (inStamp outStamp : Nat × Nat) : List Byte :=
  match ptpOffset bs with
  | none => bs
  | some o =>
    let res : Int := nsDiff outStamp.1 inStamp.1 * 65536 + ((outStamp.2 : Int) - inStamp.2) * 256
    let cf := clampInt (-(2 ^ 63)) (2 ^ 63 - 1) (sext 64 (fbe bs (o + 8) 8) + res)
    let b := splice bs (o + 8) (beBytes 8 (wrapBits 64 cf))
    let eo := etherOff bs
    let l3 := l3Code (fbe bs eo 2)
    let l4 := (l4Find bs l3 (eo + 2)).2
    if fbe bs eo 2 = 0x88F7 then b
    else if l3 = 1 then splice b (l4 + 6) [0, 0]
    else splice b (l4 + 6) (beBytes 2 (udp6Checksum b (eo + 2) l4))

/-- A frame with its FCS, inverted where a packet-buffer word was bad (R238). -/
def withFcs (bs : List Byte) (bad : Bool) : List Byte :=
  bs ++ leBytes 4 (if bad then 0xFFFFFFFF - crc32 bs else crc32 bs)

end Sys2Proof.Machine
end

