-- ==== Sys2Proof/Machine/Mix.lean ====
section
/-! DEFINITION. The mix engine (chapter 09): the planes, ramps, live gains, the tiers and the couch check. -/

namespace Sys2Proof.Machine

/-- 1.0 in Q4.27 (R277). -/
def qOne : Int := 2 ^ 27

/-- The Q4.27 range (R277). -/
def satQ (i : Int) : Int := clampInt (-(2 ^ 31)) (2 ^ 31 - 1) i

/-- The Q8.55 range (R277). -/
def satAcc (i : Int) : Int := clampInt (-(2 ^ 63)) (2 ^ 63 - 1) i

/-- sin(π m / 2R) in 2^−60 steps for m ≤ R, by its series on a 60-bit fixed-point argument. [Log 58: DESIGN CHOICE] -/
def sinFix (m r : Nat) : Int :=
  let x : Int := (1811004864519280710 * m / r : Nat)
  let x2 := x * x / 2 ^ 60
  let step := fun (p : Int × Int) (j : Nat) =>
    let t := -(p.1 * x2 / 2 ^ 60) / ((2 * j) * (2 * j + 1) : Nat)
    (t, p.2 + t)
  ((List.range 12).foldl (fun p j => step p (j + 1)) (x, x)).2

/-- f(m/R) of R275 as a fraction: numerator and denominator. -/
def rampShape (shape : Nat) (a b : Int) (m r : Nat) : Int × Nat :=
  match shape with
  | 1 => if a.natAbs < b.natAbs then (sinFix m r, 2 ^ 60) else (2 ^ 60 - sinFix (r - m) r, 2 ^ 60)
  | 2 => ((3 * m * m * r : Nat) - (2 * m * m * m : Nat), r * r * r)
  | _ => (m, r)

/-- v(k) of R275, rounded half up and saturated: exact at and after the last sample, within the bound of R275 before it.
[Log 58: DESIGN CHOICE] -/
def rampValue (shape : Nat) (a b : Int) (len k : Nat) : Int :=
  if len ≤ k + 1 then satQ b
  else
    let f := rampShape shape a b (k + 1) len
    let e : Int := ((b - a).natAbs / 2 ^ 20 : Nat)
    satQ (a + (2 * ((b - a) * f.1) + f.2) / (2 * f.2) + clampInt (-e) e (Config.rampError shape a b (k + 1) len))

/-- The value of a ramp `i` samples after sample 0 of the block now mixed. -/
def Ramp.at (r : Ramp) (i : Nat) : Int := rampValue r.shape r.a r.b r.len (r.k + i)

/-- Shape and length of a ramp profile (R276). -/
def rampProfile (s : State) (n : Nat) : Nat × Nat := (rdF s (R.MIX_RAMPn n) 13 12, rdF s (R.MIX_RAMPn n) 11 0)

/-- A live slot (R279): slots nothing has laid hold 0. -/
def liveSlot (m : SMap (Ramp × Nat)) (n : Nat) : Ramp × Nat := SMap.getD m n ({ a := 0, b := 0, shape := 0, len := 0, k := 0 }, 0)

/-- The class gain of a zone for a class, i samples after sample 0 of the block now mixed (R348). -/
def classGain (s : State) (zone cls i : Nat) : Int :=
  match SMap.get s.ptr.ramps zone with
  | none => qOne
  | some z => rampValue z.shape ((z.start[cls]?).getD qOne) ((z.target[cls]?).getD qOne) z.len (z.k + i)

/-- Word address of a plane's record slot, segment header and lane entry (R263). -/
def recAddr0 (p slot : Nat) : Nat := p * 0x1000000 + 2 * slot
def hdrAddr (p h : Nat) : Nat := p * 0x1000000 + 0x800000 + 2 * h
def laneAddr (p l : Nat) : Nat := p * 0x1000000 + 0x810000 + 2 * l

/-- A word of the crosspoint-plane space. -/
def mixWord (s : State) (a : Nat) : Word := SMap.getD s.mix.words a 0

/-- A lane entry: FIRST_REC, FIRST_HDR, NHDR and DIS (R264). -/
structure LaneEntry where
  rec0 : Nat
  hdr0 : Nat
  nhdr : Nat
  dis : Bool
  bad : Bool

/-- The lane entry of a plane. -/
def laneEntry (s : State) (p l : Nat) : LaneEntry :=
  let a := laneAddr p l
  let w := (mixWord s a).toNat + (mixWord s (a + 1)).toNat * 2 ^ 32
  { rec0 := bits w 21 0, hdr0 := bits w 36 22, nhdr := bits w 52 37, dis := w.testBit 63
    bad := s.mix.bad.contains a || s.mix.bad.contains (a + 1) }

/-- A segment header with the slot its records begin at (R265). -/
structure SegHdr where
  lane : Nat
  idx : Nat
  slot : Nat
  count : Nat
  dis : Bool
  dest : Nat
  tier : Nat
  zone : Nat
  zen : Bool
  badLo : Bool
  badHi : Bool

/-- Header h of a plane, its records from a slot. -/
def segHdr (s : State) (p lane h slot : Nat) : SegHdr :=
  let a := hdrAddr p h
  let lo := mixWord s a
  let hi := mixWord s (a + 1)
  { lane := lane, idx := h, slot := slot, count := fld lo 14 0, dis := bit lo 15, dest := fld lo 29 16, tier := fld lo 31 30
    zone := fld hi 11 0, zen := bit hi 12, badLo := s.mix.bad.contains a, badHi := s.mix.bad.contains (a + 1) }

/-- The n headers of a lane from header h, their records from a slot (R265). -/
def laneSegs (s : State) (p lane : Nat) : Nat → Nat → Nat → List SegHdr
  | 0, _, _ => []
  | n + 1, h, slot =>
    let g := segHdr s p lane h slot
    g :: laneSegs s p lane n (h + 1) (slot + g.count)

/-- The headers of a lane up to one whose COUNT cannot be trusted, that one included (R288). -/
def trustedSegs : List SegHdr → List SegHdr
  | [] => []
  | g :: l => if g.badLo then [g] else g :: trustedSegs l

/-- The headers that a lane of a plane reads: none where its entry is disabled or bad (R264, R288). -/
def runSegs (s : State) (p l : Nat) : List SegHdr :=
  let e := laneEntry s p l
  if e.dis || e.bad then [] else trustedSegs (laneSegs s p l (min e.nhdr (32768 - e.hdr0)) e.hdr0 e.rec0)

/-- A header that adds its records. -/
def segActive (g : SegHdr) : Bool := !g.dis && !g.badLo && !g.badHi

/-- M_k of a plane: the most records on one lane in tier k, in segments with DIS = 0 (R271). -/
def planeM (s : State) (p k : Nat) : Nat :=
  (List.range 320).foldl (fun m l =>
    let e := laneEntry s p l
    if e.dis then m else
      max m (total (((laneSegs s p l (min e.nhdr (32768 - e.hdr0)) e.hdr0 e.rec0).filter (fun g => !g.dis && g.tier == k)).map SegHdr.count))) 0

/-- PERR with `MIX_PERR` (R288). -/
def mixPerr (s : State) (plane kind index : Nat) : State :=
  setCondWith s R.MIX_STAT 192 1 [(R.MIX_PERR, BitVec.ofNat 32 (index + kind * 2 ^ 24 + plane * 2 ^ 27))] 0 .newBits

/-- The report of a bad plane word read from plane p. -/
def planePerr (s : State) (a : Nat) : State :=
  let p := a / 0x1000000
  let w := a % 0x1000000
  if w < 0x800000 then mixPerr s p 1 (w / 2)
  else if w < 0x810000 then mixPerr s p 2 ((w - 0x800000) / 2)
  else mixPerr s p 3 ((w - 0x810000) / 2)

/-- The active plane (R312). -/
def activePlane (s : State) : Nat := rdF s R.SCN_PLANE 0 0

/-- The segment of the old plane that holds a record slot, usable as a counterpart, by the words that were bad at block T (R323). -/
def oldSegment (s : State) (p slot : Nat) : Option SegHdr :=
  let t := s.setMix { s.mix with bad := s.mix.badAt }
  (List.range 320).findSome? (fun l =>
    let e := laneEntry t p l
    if e.dis then none
    else (trustedSegs (laneSegs t p l (min e.nhdr (32768 - e.hdr0)) e.hdr0 e.rec0)).find?
      (fun g => decide (g.slot ≤ slot) && decide (slot < g.slot + g.count) && !g.dis))

/-- Good parity of a two-word entry at block T (R323). -/
def goodAt (s : State) (a : Nat) : Bool := !s.mix.badAt.contains a && !s.mix.badAt.contains (a + 1)

/-- The old value of the counterpart of the new-plane record at a slot, if it has one (R323). -/
def oldValue (s : State) (slot src dest : Nat) : Option Int :=
  let p := 1 - activePlane s
  match oldSegment s p slot with
  | none => none
  | some g =>
    let a := recAddr0 p slot
    let lo := mixWord s a
    let hi := mixWord s (a + 1)
    if fld lo 31 17 = src ∧ g.dest = dest ∧ goodAt s a = true ∧ goodAt s (hdrAddr p g.idx) = true ∧
        goodAt s (laneAddr p g.lane) = true then
      some (if bit lo 2 then (liveSlot s.mix.liveAt (fld hi 13 0)).1.at 0 else if bit lo 1 then 0 else hi.toInt)
    else none

/-- The record gain g at sample i of block b (R273, R324, R325). -/
def recordGain (s : State) (b slot dest i : Nat) (lo hi : Word) : Int :=
  if bit lo 2 then (liveSlot s.mix.live (fld hi 13 0)).1.at i
  else if bit lo 1 || bit lo 0 then
    let goal : Int := if bit lo 1 then 0 else hi.toInt
    match s.mix.carry with
    | none => hi.toInt
    | some t =>
      let prof := rampProfile s (fld lo 10 8)
      let k := modDist 48 b t * nSamples s + i
      if prof.2 ≤ k + 1 then goal
      else rampValue prof.1 ((oldValue s slot (fld lo 31 17) dest).getD 0) goal prof.2 k
  else hi.toInt

/-- q of R274: a Q8.54 product rounded half up to Q4.27 and saturated. -/
def qProduct (x : Int) : Int := satQ ((x + 2 ^ 26) / 2 ^ 27)

/-- A source at sample i as a cluster reads it, `badIn` being the bad words of its copy (R267, R269, R288). -/
def mixSource (s : State) (badIn : List (Nat × Nat)) (src i : Nat) : Int :=
  if src < 16384 then (if badIn.contains (src, i) then 0 else ((SMap.getD s.aud.inR src [])[i]?).getD 0)
  else ((SMap.getD s.aud.dstW (src - 16384) [])[i]?).getD 0

/-- The sum of two Q8.55 values with saturation, and whether it saturated (R278). -/
def addAcc (x : Int × Bool) (y : Int) : Int × Bool :=
  let t := x.1 + y
  (satAcc t, x.2 || decide (satAcc t ≠ t))

/-- One record added to a segment's partial sums (R274, R278). -/
def addRecord (s : State) (b : Nat) (badIn : List (Nat × Nat)) (g : SegHdr) (acc : List (Int × Bool)) (slot : Nat) : List (Int × Bool) :=
  let a := recAddr0 (activePlane s) slot
  if s.mix.bad.contains a || s.mix.bad.contains (a + 1) then acc
  else
    let lo := mixWord s a
    let hi := mixWord s (a + 1)
    let n := nSamples s
    let cg := fun i => if !g.zen || bit lo 3 then qOne else classGain s g.zone (fld lo 16 11) i
    let p0 := qProduct (recordGain s b slot g.dest 0 lo hi * cg 0)
    let pN := if n = 1 then p0 else qProduct (recordGain s b slot g.dest n lo hi * cg n)
    (acc.zip (List.range n)).map (fun x =>
      let e := p0 + (x.2 : Int) * (pN - p0) / n
      let prod := 2 * (e * mixSource s badIn (fld lo 31 17) x.2)
      let r := addAcc x.1 (satAcc prod)
      (r.1, r.2 || decide (satAcc prod ≠ prod)))

/-- The partial sums of a segment (R278). -/
def segSums (s : State) (b : Nat) (badIn : List (Nat × Nat)) (g : SegHdr) : List (Int × Bool) :=
  (List.range g.count).foldl (fun acc j => addRecord s b badIn g acc (g.slot + j)) (List.replicate (nSamples s) (0, false))

/-- A list in the order that a number names: each digit picks the next element. [Log 59: DEDUCED] -/
def reorder {α : Type} : Nat → Nat → List α → List α
  | 0, _, l => l
  | f + 1, n, l =>
    match l[n % (max 1 l.length)]? with
    | some a => a :: reorder f (n / (max 1 l.length)) (l.eraseIdx (n % (max 1 l.length)))
    | none => l

/-- The destination sum of the partial sums of its segments at one sample (R278): where an order of additions could saturate,
the order is open. [Log 59: DEDUCED] -/
def joinSums (s : State) (ps : List (Int × Bool)) : State × (Int × Bool) :=
  let isOver := ps.any Prod.snd
  let add := fun (l : List (Int × Bool)) => (l.map Prod.fst).foldl addAcc (0, isOver)
  if total (ps.map (fun x => x.1.natAbs)) < 2 ^ 63 ∨ ps.length < 3 then (s, add ps)
  else
    let r := freeNat s (8 * ps.length)
    (r.2, add (reorder ps.length r.1 ps))

/-- The narrowing of a destination sum to Q4.27 (R278). -/
def narrow (x : Int × Bool) : Int × Bool :=
  let v := (x.1 + 2 ^ 27) / 2 ^ 28
  (satQ v, x.2 || decide (satQ v ≠ v))

/-- The samples of a destination from the partial sums of its segments (R278). -/
def joinDest (s : State) (segs : List (List (Int × Bool))) : State × List (Int × Bool) :=
  (List.range (nSamples s)).foldl (fun (a : State × List (Int × Bool)) i =>
    let r := joinSums a.1 (segs.map (fun l => (l[i]?).getD (0, false)))
    (r.1, a.2 ++ [narrow r.2])) (s, [])

/-- New upsets of plane words join the bad ones (R288). [Log 11: DESIGN CHOICE] -/
def mixUpsets (s : State) (l : List MixUpset) : State :=
  s.setMix { s.mix with bad := l.foldl (fun b u => match u with | .word a => if b.contains a then b else b ++ [a] | _ => b) s.mix.bad }

/-- A run of a tier over these headers reads a plane word: lane entries, the headers themselves, the records of the segments
it adds (R288). -/
def runReads (all segs : List SegHdr) (a : Nat) : Bool :=
  let w := a % 0x1000000
  if w < 0x800000 then segs.any (fun g => decide (g.slot ≤ w / 2) && decide (w / 2 < g.slot + g.count))
  else if w < 0x810000 then all.any (fun g => g.idx == (w - 0x800000) / 2)
  else true

/-- The reports of the bad words that a tier's run meets (R288). -/
def tierReports (s : State) (all segs : List SegHdr) (l : List MixUpset) : State :=
  let mine := s.mix.bad.filter (fun a => a / 0x1000000 == activePlane s && runReads all segs a)
  l.foldl (fun t u => match u with
    | .input _ src _ => mixPerr t 0 4 src
    | .dest d _ => mixPerr t 0 5 d
    | _ => t) (mine.foldl planePerr s)

/-- Words of the destination store with bad parity: each sample reads zero as a tier-plane source and to stage C (R288). -/
def destUpsets (m : SMap (List Int)) (l : List MixUpset) : SMap (List Int) :=
  l.foldl (fun m u => match u with
    | .dest d i => (match SMap.get m d with | some x => SMap.put m d (x.set i 0) | none => m)
    | _ => m) m

/-- MIX_TIER's run of tier k for block b (R271, R273 to R278, R288). -/
def runTier (s : State) (b k : Nat) (l : List MixUpset) : State :=
  let s0 := mixUpsets s l
  let s0 := if s0.mix.carry = some b then s0.setMix { s0.mix with badAt := s0.mix.bad } else s0
  let s1 := s0.setAud { s0.aud with dstW := destUpsets s0.aud.dstW l }
  let all := ((List.range 320).map (runSegs s1 (activePlane s1))).flatten
  let segs := all.filter (fun g => segActive g && g.tier == k)
  let dests := (segs.map SegHdr.dest).eraseDups
  let bads := fun (lane : Nat) => l.filterMap (fun u => match u with
    | .input c src i => if c = lane / 20 then some (src, i) else none | _ => none)
  let s2 := dests.foldl (fun t d =>
    let r := joinDest t ((segs.filter (fun g => g.dest == d)).map (fun g => segSums s1 b (bads g.lane) g))
    let t1 := r.1.setAud { r.1.aud with dstW := SMap.put r.1.aud.dstW d (r.2.map Prod.fst) }
    if r.2.any Prod.snd then t1.setMix { t1.mix with overs := t1.mix.overs ++ [d] } else t1) s1
  tierReports (s2.setAud { s2.aud with tiers := s2.aud.tiers ||| 2 ^ k, dstW := destUpsets s2.aud.dstW l }) all segs l

/-- Every non-empty tier below k has run in this deckle (R271). -/
def tierNext (s : State) (k : Nat) : Bool :=
  !s.aud.tiers.testBit k && (List.range k).all (fun j => s.aud.tiers.testBit j || rdF s (R.MIX_TIERk_M j) 19 0 == 0)

/-- S_k of R271: the cycle of the deckle in which tier k starts. -/
def tierStart (s : State) : Nat → Nat
  | 0 => 2560
  | k + 1 =>
    let m := rdF s (R.MIX_TIERk_M k) 19 0
    tierStart s k + (if m = 0 then 0 else nSamples s * m + 256)

/-- Tier k may run: the window's selections stand, and the event tick lies in the tier's own part of the deckle, from its first class-gain
read to the end of its barrier (R24, R45, R47, R270). [Log 134: DEDUCED] -/
def tierDue (s : State) (k : Nat) : Bool :=
  running s && s.dkl.started && s.ptr.done && tierNext s k &&
    decide (tierStart s k + 29 < deckleCycle s (s.dkl.cyc + tickCycles s)) && decide (deckleCycle s s.dkl.cyc < tierStart s (k + 1))

/-- The block that stage B mixes in the current deckle (R19). -/
def mixBlock (s : State) : Nat := modDist 48 s.dkl.num 2

/-- MIX_TIER (R271): tier k of this deckle; a deckle tick that overtakes it cuts it (R49). -/
def execMixTier (k : BitVec 2) (upsets : List MixUpset) (s : State) : Host.Outcome State Fault Refusal :=
  .next (if tierDue s k.toNat then runTier s (mixBlock s) k.toNat upsets else s)

/-- The last cycle of the deckle in which a lane accumulates a record of a destination in tier k, over the lane's segments in order; pos is
the number of records of the tier that the lane has fetched before them (R270). -/
def lastAcc (s : State) (k d : Nat) : Nat → List SegHdr → Nat
  | _, [] => 0
  | pos, g :: l =>
    let here := if g.dest = d ∧ 0 < g.count then tierStart s k + nSamples s * (pos + g.count - 1) + 31 + nSamples s else 0
    max here (lastAcc s k d (pos + g.count) l)

/-- The destinations of a tier whose records were not all accumulated before cycle c of the deckle (R49, R270). -/
def cutDests (s : State) (k c : Nat) : List Nat :=
  let lanes := (List.range 320).map (fun l => (runSegs s (activePlane s) l).filter (fun g => segActive g && g.tier == k))
  ((lanes.flatten.map SegHdr.dest).eraseDups).filter (fun d => lanes.any (fun segs => decide (c ≤ lastAcc s k d 0 segs)))

/-- Stage B as a deckle tick in cycle c of the deckle stops it: every destination not fully accumulated carries zero (R49). -/
def cutMix (s : State) (c : Nat) : State :=
  let gone := ((List.range 4).filter (fun k => s.aud.tiers.testBit k)).flatMap (fun k => cutDests s k c)
  s.setAud { s.aud with dstW := gone.foldl SMap.del s.aud.dstW }

/-- The mix at the boundary (R281, R282): every live ramp advances by N samples, then the commands of the closing deckle take
effect; the zone ramps advance likewise. -/
def mixBoundary (s : State) : State :=
  let n := nSamples s
  let step := fun (r : Ramp) => { r with k := min 4096 (r.k + n) }
  let live := s.mix.live.map (fun e => (e.1, (step e.2.1, e.2.2)))
  let live := s.mix.pend.foldl (fun (m : SMap (Ramp × Nat)) c =>
    let p := rampProfile s c.2.1
    SMap.put m c.1 ({ a := (liveSlot m c.1).1.at 0, b := c.2.2, shape := p.1, len := p.2, k := 0 }, c.2.1)) live
  let s0 := s.setStrp { s.strp with mixOver := s.mix.overs }
  let s1 := s0.setMix { s0.mix with live := live, livePrev := s.mix.live, pend := [], overs := [] }
  s1.setPtr { s1.ptr with ramps := s1.ptr.ramps.map (fun e => (e.1, { e.2 with k := min 4096 (e.2.k + n) })) }

/-- A live command lands (R280, R281): the last of a slot in a deckle counts. -/
def liveLand (s : State) (ok : Bool) (w0 w1 : Word) : State :=
  if ok && decide (s.dev = .laid) then s.setMix { s.mix with pend := SMap.put s.mix.pend (fld w0 13 0) (fld w0 18 16, w1.toInt) }
  else setCond s R.MIX_STAT 192 4

/-- A word appended to a function's live command (R280). -/
def liveWord (s : State) (fn : Nat) (v : Word) : State :=
  match SMap.get s.mix.asm fn with
  | none => s.setMix { s.mix with asm := SMap.put s.mix.asm fn v }
  | some w0 => liveLand (s.setMix { s.mix with asm := SMap.del s.mix.asm fn }) (reachesObj s fn 0x14 (fld w0 13 0)) w0 v

/-- The assembly buffer of a function discarded (R280). -/
def liveFlush (s : State) (fn : Nat) : State := s.setMix { s.mix with asm := SMap.del s.mix.asm fn }

/-- LIVE_COMMAND (R280): function fn writes v to `MIX_LIVE_CMD`. -/
def execLiveCommand (fn : BitVec 6) (v : Word) (s : State) : Host.Outcome State Fault Refusal :=
  .next (hostWriteAs s fn.toNat R.MIX_LIVE_CMD v (fun t => liveWord t fn.toNat v))

/-- MIX_LIVE_FLUSH (R280): function fn writes v to `MIX_LIVE_FLUSH`. -/
def execMixLiveFlush (fn : BitVec 6) (v : Word) (s : State) : Host.Outcome State Fault Refusal :=
  .next (hostWriteAs s fn.toNat R.MIX_LIVE_FLUSH v (fun t => if bit v 0 then liveFlush t fn.toNat else t))

/-- A word address of the space lies in a table of a plane, or in the live table (R263). -/
def inPlaneTable (a : Nat) : Bool := decide (a < 0x2000000) && decide (a % 0x1000000 < 0x810280)
def inLiveTable (a : Nat) : Bool := decide (0x2000000 ≤ a ∧ a < 0x2004000)

/-- A write of a word of the crosspoint-plane space (R263, R282, R285, R286, R313, R314). -/
def planeWrite (s : State) (a : Nat) (v : Word) : State :=
  if inPlaneTable a then
    if a / 0x1000000 = activePlane s then setCond s R.MIX_STAT 192 2
    else if rdB s R.SCN_PLANE 1 then setCond s R.SCN_STAT 194 8
    else
      let log := if rdB s R.MIX_CHK_CTL 30 then s.mix.chkLog ++ [(s.dkl.cyc + tickCycles s, a, mixWord s a)] else []
      let s1 := s.setMix { s.mix with
        words := SMap.putD 0 s.mix.words a v, bad := s.mix.bad.filter (· != a), dirty := true, chkLog := log }
      wrF s1 R.MIX_CHK_CTL 29 29 0
  else s

/-- A word of the crosspoint-plane space as it is read: the live table gives the targets (R263, R282). -/
def planeRead (s : State) (a : Nat) : Word :=
  if inPlaneTable a then mixWord s a
  else if inLiveTable a then BitVec.ofInt 32 (liveSlot s.mix.live (a - 0x2000000)).1.b
  else 0

/-- COUCH_WRITE (R286, R313): PF0 writes a word of the crosspoint planes through BAR2. -/
def execCouchWrite (addr : BitVec 26) (v : Word) (s : State) : Host.Outcome State Fault Refusal :=
  .next (if barUp s && running s then
      mirrored s { addr := 4 * addr.toNat, data := v, kind := 1, sel := 0, fn := 0 } (fun t => planeWrite t addr.toNat v)
    else s)

/-- A refusal of the walk of R284: reason, whether a lane, and its index. -/
structure PlaneRefusal where
  reason : Nat
  lane : Bool
  idx : Nat
  tier : Nat

/-- What the walk carries: the refusals so far, the spans of the lanes (headers, records), the reference header of each
destination, and per lane the last TIER and the records taken by tier. -/
structure Walk where
  refused : List PlaneRefusal
  spans : List (Nat × Nat × Nat × Nat)
  firsts : SMap SegHdr
  last : Nat
  used : SMap Nat
  crossed : List Nat

/-- Two ranges overlap. -/
def rangesMeet (a0 a1 b0 b1 : Nat) : Bool := decide (a0 < b1) && decide (b0 < a1) && decide (a0 < a1) && decide (b0 < b1)

/-- Rule 1 for a lane (R284). [Log 61: DEDUCED] -/
def laneRule (s : State) (p : Nat) (w : Walk) (l : Nat) : Walk :=
  let e := laneEntry s p l
  if e.nhdr = 0 then w
  else
    let h1 := e.hdr0 + e.nhdr
    let r1 := e.rec0 + (if h1 ≤ 32768 then total ((laneSegs s p l e.nhdr e.hdr0 e.rec0).map SegHdr.count) else 0)
    let w1 := { w with spans := w.spans ++ [(e.hdr0, h1, e.rec0, r1)] }
    if 32768 < h1 ∨ 4194304 < r1 ∨
        w.spans.any (fun x => rangesMeet e.hdr0 h1 x.1 x.2.1 || rangesMeet e.rec0 r1 x.2.2.1 x.2.2.2) = true then
      { w1 with refused := w.refused ++ [{ reason := 1, lane := true, idx := l, tier := 0 }] }
    else w1

/-- Destinations with a header in a tier below k, in the range of any lane entry (R284, rule 5). -/
def lowerDest (s : State) (p k d : Nat) : Bool :=
  (List.range 320).any (fun l =>
    let e := laneEntry s p l
    (laneSegs s p l (min e.nhdr (32768 - e.hdr0)) e.hdr0 e.rec0).any (fun g => g.dest == d && decide (g.tier < k)))

/-- The SRC fields of a segment's records. -/
def segRecords (s : State) (p : Nat) (g : SegHdr) : List Word :=
  (List.range g.count).map (fun j => mixWord s (recAddr0 p (g.slot + j)))

/-- A source lies in the window of a lane's cluster (R268). -/
def inSrcWindow (s : State) (lane src : Nat) : Bool :=
  let w := rdF s (R.MIX_CLSc_WIN (lane / 20)) 3 0
  decide ((src + 16384 - 1024 * w) % 16384 < 8192)

/-- The first of rules 2 to 7 that a header breaks (R284); 0 for none. [Log 61: DEDUCED] -/
def segReason (s : State) (p : Nat) (w : Walk) (g : SegHdr) : Nat :=
  let recs := segRecords s p g
  if g.tier < w.last then 2
  else if (match SMap.get w.firsts g.dest with
      | some f => decide (f.tier ≠ g.tier) || decide (f.zone ≠ g.zone) || f.zen != g.zen
      | none => false) then 3
  else if nSamples s = 16 ∧ recs.any (fun r => decide (fld r 31 17 < 16384) && !inSrcWindow s g.lane (fld r 31 17)) = true then 4
  else if recs.any (fun r => decide (16384 ≤ fld r 31 17) && !lowerDest s p g.tier (fld r 31 17 - 16384)) then 5
  else if w.crossed.contains g.tier ∨ rdF s (R.MIX_TIERk_L g.tier) 19 0 < SMap.getD w.used g.tier 0 + g.count then 6
  else if g.count = 0 ∨ 16384 < g.count ∨ recs.any (fun r => (rampProfile s (fld r 10 8)).1 == 3) = true then 7
  else 0

/-- One header of the walk (R284). -/
def walkSeg (s : State) (p : Nat) (w : Walk) (g : SegHdr) : Walk :=
  if g.dis then w
  else
    let r := segReason s p w g
    if r = 0 then
      { w with
        firsts := if (SMap.get w.firsts g.dest).isSome then w.firsts else SMap.put w.firsts g.dest g
        last := g.tier, used := SMap.put w.used g.tier (SMap.getD w.used g.tier 0 + g.count) }
    else
      { w with
        refused := w.refused ++ [{ reason := r, lane := false, idx := g.idx, tier := g.tier }]
        used := if r = 7 then SMap.put w.used g.tier (SMap.getD w.used g.tier 0 + g.count) else w.used
        crossed := if r = 6 then w.crossed ++ [g.tier] else w.crossed }

/-- The check of a plane (R284): its refusals in the order in which they are found. [Log 61: DEDUCED] -/
def planeCheck (s : State) (p : Nat) : List PlaneRefusal :=
  let w0 : Walk := { refused := [], spans := [], firsts := [], last := 0, used := [], crossed := [] }
  let w1 := (List.range 320).foldl (laneRule s p) w0
  let bad := w1.refused.map PlaneRefusal.idx
  let w2 := ((List.range 320).filter (fun l => !bad.contains l)).foldl (fun w l =>
    let e := laneEntry s p l
    (laneSegs s p l (min e.nhdr (32768 - e.hdr0)) e.hdr0 e.rec0).foldl (walkSeg s p) { w with last := 0, used := [], crossed := [] }) w1
  w2.refused

/-- The plane with every refused lane and segment disabled (R284, R285). -/
def planeDisable (s : State) (p : Nat) (l : List PlaneRefusal) : State :=
  l.foldl (fun t r =>
    let a := if r.lane then laneAddr p r.idx + 1 else hdrAddr p r.idx
    let w := if r.lane then setFld (mixWord t a) 31 31 1 else setFld (mixWord t a) 15 15 1
    t.setMix { t.mix with words := SMap.putD 0 t.mix.words a w }) s

/-- The left side of the mix inequality of R48 for counts by tier. -/
def mixCycles (s : State) (m : Nat → Nat) : Nat :=
  2048 + total ((List.range 4).map (fun k => if m k = 0 then 0 else nSamples s * m k + 256))

/-- A word of the couch as it stood in a cycle of the walk: a write is seen from its cycle on (R285). [Log 60: DEDUCED] -/
def wordAt (s : State) (a t : Nat) : Word :=
  match s.mix.chkLog.find? (fun e => e.2.1 == a && decide (t < e.1)) with
  | some e => e.2.2
  | none => mixWord s a

/-- The state whose couch holds, at an address written during the check, the word as the walk read it in cycle t. -/
def rewind (s v : State) (a t : Nat) : State :=
  if s.mix.chkLog.any (fun e => e.2.1 == a) then v.setMix { v.mix with words := SMap.putD 0 v.mix.words a (wordAt s a t) } else v

/-- The words of n headers from header h and their records, the walk reading the first header in cycle t: the state and the
cycle after them. -/
def rewindSegs (s : State) (p : Nat) : Nat → Nat → Nat → Nat → State → State × Nat
  | 0, _, _, t, v => (v, t)
  | n + 1, h, slot, t, v =>
    let v1 := rewind s (rewind s v (hdrAddr p h) t) (hdrAddr p h + 1) t
    let c := (segHdr v1 p 0 h slot).count
    let v2 := s.mix.chkLog.foldl (fun u e =>
      if recAddr0 p slot ≤ e.2.1 ∧ e.2.1 < recAddr0 p (slot + c) then rewind s u e.2.1 (t + 1 + (e.2.1 - recAddr0 p slot) / 32) else u) v1
    rewindSegs s p n (h + 1) (slot + c) (t + 1 + ceilDiv c 16) v2

/-- The couch as the walk of the ending check read it (R285): lane entries one a cycle, then the headers of the lanes that
passed rule 1, each followed by its records at 16 per cycle. [Log 60: DEDUCED] -/
def walkView (s : State) (p : Nat) : State :=
  if s.mix.chkLog.isEmpty then s
  else
    let v := (List.range 320).foldl (fun u l =>
      rewind s (rewind s u (laneAddr p l) (s.mix.chkAt + l)) (laneAddr p l + 1) (s.mix.chkAt + l)) s
    let w := (List.range 320).foldl (laneRule v p) { refused := [], spans := [], firsts := [], last := 0, used := [], crossed := [] }
    let bad := w.refused.map PlaneRefusal.idx
    (((List.range 320).filter (fun l => !bad.contains l)).foldl (fun (a : State × Nat) l =>
      let e := laneEntry v p l
      rewindSegs s p (min e.nhdr (32768 - e.hdr0)) e.hdr0 e.rec0 a.2 a.1) (v, s.mix.chkAt + 320)).1

/-- The end of a couch check (R285). [Log 60: DEDUCED] -/
def couchChecked (s : State) : State :=
  let p := 1 - activePlane s
  let v := walkView s p
  let l := planeCheck v p
  let need := mixCycles v (fun k => planeM v p k)
  let shown := planeDisable v p l
  let s1 := planeDisable s p l
  let s2 := if l.any (fun r => r.reason == 6) then rtRefuse s1 6 0 0x07 need (rd s1 R.DKL_U).toNat else s1
  let first := match l with
    | [] => (0 : Word)
    | r :: _ => BitVec.ofNat 32 (2 ^ 31 + r.reason * 2 ^ 16 + b2n r.lane * 2 ^ 15 + r.idx)
  let s3 := wrAll s2 ((R.MIX_CHK_FIRST, first) :: (List.range 4).map (fun k => (R.MIX_CHK_TIERk k, BitVec.ofNat 32 (planeM shown p k))))
  let s4 := wr (s3.setMix { s3.mix with chkLog := [] }) R.MIX_CHK_CTL (BitVec.ofNat 32 (if s.mix.dirty then 0 else 2 ^ 29))
  setCond s4 R.MIX_STAT 192 (if l.isEmpty then 8 else 24)

/-- GO of `MIX_CHK_CTL` (R285). [Log 60: DEDUCED] -/
def couchGo (s : State) : State :=
  if rdB s R.MIX_CHK_CTL 30 || !running s then s
  else wrF (s.setMix { s.mix with dirty := false, chkAt := s.dkl.cyc + tickCycles s, chkLog := [] }) R.MIX_CHK_CTL 30 30 1

/-- COUCH_CHECK (R285): function fn writes v to `MIX_CHK_CTL`. -/
def execCouchCheck (fn : BitVec 6) (v : Word) (s : State) : Host.Outcome State Fault Refusal :=
  .next (hostWriteAs s fn.toNat R.MIX_CHK_CTL v (fun t => if bit v 31 then couchGo t else t))

/-- COUCH_CHECK_DONE (R285): the running check ends. [Log 60: DEDUCED] -/
def execCouchCheckDone (s : State) : Host.Outcome State Fault Refusal :=
  .next (if rdB s R.MIX_CHK_CTL 30 then couchChecked s else s)

/-- A write of a register of the block with an effect of its own. -/
def mixWrite (s : State) (fn off : Nat) (q : Quarter) (v : Word) : Option State :=
  if off = R.MIX_LIVE_CMD then some (if q = .base then liveWord s fn v else s)
  else if off = R.MIX_LIVE_FLUSH then some (if q = .base ∧ bit v 0 = true then liveFlush s fn else s)
  else if off = R.MIX_CHK_CTL then some (if q = .base ∧ bit v 31 = true then couchGo s else s)
  else none

/-- A tier of the mix that holds records has not passed its barrier at the present cycle (R49). -/
def mixUnfinished (s : State) : Bool :=
  (List.range 4).any (fun k => rdF s (R.MIX_TIERk_M k) 19 0 != 0 &&
    (!s.aud.tiers.testBit k || decide (deckleCycle s s.dkl.cyc < tierStart s (k + 1))))

/-- The registers of the block whose value is that of the moment of the read: the block of this deckle is mixed once the last tier
that holds records is past its barrier, after the parterre window (R283). -/
def mixLive (s : State) (fn off : Nat) : Option Word :=
  let slot := fld (rd s (regKey fn R.MIX_LIVE_SEL)) 13 0
  if off = R.MIX_LIVE_VAL then
    some (BitVec.ofInt 32 ((liveSlot (if s.ptr.done && !mixUnfinished s then s.mix.live else s.mix.livePrev) slot).1.at 0))
  else if off = R.MIX_LIVE_TGT then some (BitVec.ofInt 32 (liveSlot s.mix.live slot).1.b)
  else none

end Sys2Proof.Machine
end

