-- ==== Sys2Proof/Machine/Scenes.lean ====
section
/-! DEFINITION. Scenes and the couch (chapter 11): commits, their checks, the carry-out and the hold. -/

namespace Sys2Proof.Machine

/-- A commit fails (R318 to R321, R332): `SCN_LATE`, `SCN_LATE_T`, then LATE. -/
def commitFail (s : State) (cause t e src : Nat) : State :=
  setCondWith s R.SCN_STAT 194 2
    [(R.SCN_LATE, BitVec.ofNat 32 (e % 65536 + src * 65536 + cause * 2 ^ 28)), (R.SCN_LATE_T, BitVec.ofNat 32 t)] 0 .newBits

/-- The pending commit and the registers that show it (R319). -/
def setPendCommit (s : State) (c : Option (Nat × Nat × Nat)) : State :=
  let s1 := s.setScn { s.scn with pend := c }
  match c with
  | some (t, e, src) =>
    wrF (wrAll s1 [(R.SCN_PEND_T, BitVec.ofNat 32 t), (R.SCN_PEND, BitVec.ofNat 32 (e % 65536 + src * 65536 + 2 ^ 31))]) R.SCN_PLANE 2 2 1
  | none => wrF (wrAll s1 [(R.SCN_PEND_T, 0), (R.SCN_PEND, 0)]) R.SCN_PLANE 2 2 0

/-- A pending commit is discarded with a cause (R320, R321). -/
def dropCommit (s : State) (cause : Nat) : State :=
  match s.scn.pend with
  | some (t, e, src) => commitFail (setPendCommit s none) cause t e src
  | none => s

/-- A commit that passed R318 becomes the pending one (R319). -/
def acceptCommit (s : State) (t e src : Nat) : State :=
  match s.scn.pend with
  | some (t0, e0, src0) =>
    if t0 = t ∧ e0 = e then s else setPendCommit (commitFail s 7 t0 e0 src0) (some (t, e, src))
  | none => setPendCommit s (some (t, e, src))

/-- E is newer than the scene epoch (R317). -/
def newerEpoch (s : State) (e : Nat) : Bool := decide (1 ≤ modDist 16 e (sceneEpoch s)) && decide (modDist 16 e (sceneEpoch s) ≤ 32767)

/-- A commit arrives (R318): target T of 48 bits, epoch E, source; a commit with a target is held to the margin. -/
def submitCommit (s : State) (t e src : Nat) (margin : Bool) : State :=
  if s.dev ≠ .laid then commitFail s 8 t e src
  else if !newerEpoch s e then commitFail s 6 t e src
  else if margin && (decide (modDist 48 t s.dkl.num < rdF s R.SCN_CFG 7 0) || decide (2 ^ 47 ≤ modDist 48 t s.dkl.num)) then
    commitFail s 1 t e src
  else acceptCommit s t e src

/-- A generation-1 commit (R331): T = e − 1, E = the scene epoch plus 1. -/
def gen1Commit (s : State) (src : Nat) : State := submitCommit s (modDist 48 s.dkl.num 1) ((sceneEpoch s + 1) % 65536) src false

/-- The host's target extended to 48 bits (R316). -/
def extendTarget (s : State) (t : Nat) : Nat :=
  (((s.dkl.num : Int) + sext 32 (t + 2 ^ 32 - s.dkl.num % 2 ^ 32)) % 2 ^ 48).toNat

/-- The host's commit as its registers stand (R316, R331). -/
def hostCommit (s : State) : State :=
  if s.pwr.cmpt then gen1Commit s 0
  else submitCommit s (extendTarget s (rd s R.SCN_COMMIT).toNat) (rdF s R.SCN_COMMIT_CTL 15 0) 0 true

/-- H of R314. -/
def holdLength (s : State) : Nat :=
  ceilDiv ((List.range 8).foldl (fun m n => max m (rampProfile s n).2) 0) (nSamples s)

/-- The carry-out proper (R320). `MIX_CHK_TIERk` goes on showing the M_k of the couch as checked (R285): it takes those of the plane that
was active, which may be committed again without a new check (R315, R271). [Log 147: DEDUCED] -/
def carryOut (s : State) (t e : Nat) : State :=
  let s1 := setPendCommit s none
  let s2 := putSceneEpoch (wrF s1 R.SCN_PLANE 0 0 (1 - activePlane s)) e
  let s3 := wrAll s2 ((R.SCN_DONE_T, BitVec.ofNat 32 t) ::
    (List.range 4).map (fun k => (R.MIX_TIERk_M k, rd s (R.MIX_CHK_TIERk k))) ++
    (List.range 4).map (fun k => (R.MIX_CHK_TIERk k, rd s (R.MIX_TIERk_M k))))
  let s4 := s3.setMix { s3.mix with carry := some t, badAt := [], liveAt := s3.mix.live }
  let h := holdLength s4
  let s5 := if h = 0 then s4
    else wrF (s4.setScn { s4.scn with holdEnd := some ((t + 2 + h) % 2 ^ 48) }) R.SCN_PLANE 1 1 1
  setCond s5 R.SCN_STAT 194 1

/-- The pending commit is due at the boundary that opens deckle e (R63, R320). -/
def commitDue (s : State) (e : Nat) : Bool :=
  match s.scn.pend with
  | some (t, _, _) => (t + 2) % 2 ^ 48 == e % 2 ^ 48
  | none => false

/-- The commit of the boundary that opens deckle e (R320). -/
def commitBoundary (s : State) (e : Nat) : State :=
  match s.scn.pend with
  | some (t, ep, _) =>
    if commitDue s e then
      if rdB s R.SCN_PLANE 1 then dropCommit s 5
      else if !rdB s R.MIX_CHK_CTL 29 || rdB s R.MIX_CHK_CTL 30 then dropCommit s 4
      else carryOut s t ep
    else s
  | none => s

/-- The end of a hold at the boundary that opens deckle e (R314). -/
def holdBoundary (s : State) (e : Nat) : State :=
  match s.scn.holdEnd with
  | some h => if h = e % 2 ^ 48 then wrF (s.setScn { s.scn with holdEnd := none }) R.SCN_PLANE 1 1 0 else s
  | none => s

/-- Step 3 of a boundary (R62, R314, R320): the end of a hold, then the carry-out; the epoch of the block that enters stage C
is that of the closing deckle (R329). -/
def sceneBoundary (s : State) (e : Nat) : State :=
  let s1 := s.setScn { s.scn with mixEpoch := sceneEpoch s }
  commitBoundary (holdBoundary s1 e) e

/-- A commit whose target lies in the past after a jump of the deckle number (R40, R321). -/
def sceneJump (s : State) (num : Nat) : State :=
  match s.scn.pend with
  | some (t, _, _) => if inPast 48 t num then dropCommit s 3 else s
  | none => s

end Sys2Proof.Machine
end

