-- ==== Sys2Proof/Machine/Strips.lean ====
section
/-! DEFINITION. Channel strips, generators and delay (chapter 10). -/

namespace Sys2Proof.Machine

/-- A Q8.55 value narrowed to Q4.27, rounded half up and saturated, and whether it saturated (R294). [Log 67: DEDUCED] -/
def narrowAcc (x : Int) : Int × Bool :=
  let v := (x + 2 ^ 27) / 2 ^ 28
  (satQ v, decide (satQ v ≠ v))

/-- The descriptor of a strip in force (R310). -/
def stripDesc (s : State) (n : Nat) : List Word := SMap.getD s.strp.desc n []

/-- EN, DEN, NSEC, TENANT, DMAX and D of a descriptor. -/
def stEn (d : List Word) : Bool := bit (dw d 0) 0
def stDen (d : List Word) : Bool := bit (dw d 0) 14
def stNsec (d : List Word) : Nat := fld (dw d 0) 31 26
def stTenant (d : List Word) : Nat := fld (dw d 0) 25 16
def stFirst (d : List Word) : Nat := fld (dw d 1) 17 0
def stSplit (d : List Word) : Nat := fld (dw d 1) 23 18
def stDet (d : List Word) : Nat := fld (dw d 2) 27 14
def stDmax (d : List Word) : Nat := fld (dw d 6) 21 0
def stDelay (d : List Word) : Nat := fld (dw d 7) 21 0

/-- A strip with nothing measured yet. -/
def strip0 : StripSt :=
  { peak := -10240, pfall := -10240, rms := -10240, ms := 0, overLeft := 0, act := false, below := 0, line := [], tap := 0
    fade := none, next := none, upTo := 0, ahead := [] }

/-- What a strip holds. -/
def stripSt (s : State) (n : Nat) : StripSt := SMap.getD s.strp.strips n strip0

/-- The state with what a strip holds replaced. -/
def setStrip (s : State) (n : Nat) (x : StripSt) : State := s.setStrp { s.strp with strips := SMap.put s.strp.strips n x }

/-- A condition of `STRP_STAT` with the strip in `STRP_LAST` (R311). -/
def stripCond (s : State) (n b : Nat) : State :=
  setCondWith s R.STRP_STAT 193 (2 ^ b) [(R.STRP_LAST, BitVec.ofNat 32 (n % 32768 + b * 65536))] 0 .newBits

/-- PERR of a bad word that strip n meets: `STRP_PERR`, and `STRP_LAST` as of every setting (R308, R311). -/
def stripPerr (s : State) (n kind idx : Nat) : State :=
  setCondWith s R.STRP_STAT 193 4 [(R.STRP_PERR, BitVec.ofNat 32 (idx + kind * 2 ^ 24)),
    (R.STRP_LAST, BitVec.ofNat 32 (n % 32768 + 2 * 65536))] 0 .newBits

/-- The greatest k in [lo, lo + n] for which a test that holds downwards holds, by halving; lo where none does. -/
def greatest (p : Int → Bool) : Nat → Int → Int → Int
  | 0, lo, _ => lo
  | f + 1, lo, hi =>
    if hi ≤ lo then lo
    else
      let mid := (lo + hi + 1) / 2
      if p mid then greatest p f mid hi else greatest p f lo (mid - 1)

/-- num/den ≥ 10^(k/e), with num, den > 0. -/
def atLeastPow (num den e : Nat) (k : Int) : Bool :=
  if 0 ≤ k then decide (10 ^ k.toNat * den ^ e ≤ num ^ e) else decide (den ^ e ≤ num ^ e * 10 ^ (-k).toNat)

/-- The code of a level: floor(e × log10(num/den)), at least −10,240 (R301). [Log 63: DESIGN CHOICE, 66: DEDUCED] -/
def levelCode (e num den : Nat) : Int :=
  if num = 0 then -10240 else greatest (atLeastPow num den e) 15 (-10240) 1541

/-- Code of an amplitude in Q4.27 (R301). [Log 63: DESIGN CHOICE] -/
def ampCode (a : Nat) : Int := levelCode 1280 a (2 ^ 27)

/-- Code of a mean square (R301). [Log 63: DESIGN CHOICE] -/
def powerCode (m : Rat) : Int := levelCode 640 m.num.toNat m.den

/-- 2^f in 2^−100 steps for f in 2^−100 steps, 0 ≤ f < 1, by the series of e^(f ln 2). [Log 63: DESIGN CHOICE] -/
def exp2Fix (f : Nat) : Nat :=
  let x := f * 69314718055994530941723212145817656808 / 10 ^ 38
  ((List.range 34).foldl (fun (p : Nat × Nat) j =>
    let t := p.1 * x / 2 ^ 100 / (j + 1)
    (t, p.2 + t)) (2 ^ 100, 2 ^ 100)).2

/-- x × 10^(r/1,280) rounded half up, for a Q4.27 sample x and a code r (R299). -/
def scaleDb (x : Int) (r : Rat) : Int :=
  let t : Int := (r.num * 332192809488736234787031942948939017587 * 2 ^ 100) / ((r.den * 1280 * 10 ^ 38 : Nat) : Int)
  let n := t / 2 ^ 100
  let g : Int := exp2Fix (t % 2 ^ 100).toNat
  let p := x * g
  if 0 ≤ n then (2 * p * 2 ^ n.toNat + 2 ^ 100) / 2 ^ 101 else (2 * p + 2 ^ (100 + (-n).toNat)) / 2 ^ (101 + (-n).toNat)

/-- A signal of one strip on its way: samples, and whether something saturated. -/
abbrev Sig := List Int × Bool

/-- One section over a block (R296): coefficients b0, b1, b2, a1, a2; the samples, the state words, the saturation flag. -/
def runSection (c : List Int) (st : Int × Int) (x : Sig) : (Int × Int) × Sig :=
  let k := fun i => c.getD i 0
  x.1.foldl (fun (a : (Int × Int) × Sig) v =>
    let s1 := a.1.1
    let s2 := a.1.2
    let w := addAcc (k 0 * v, a.2.2) s1
    let y := narrowAcc w.1
    let u := addAcc (addAcc (k 1 * v, w.2 || y.2) (-(k 3 * y.1))) s2
    let z := addAcc (k 2 * v, u.2) (-(k 4 * y.1))
    ((u.1, z.1), (a.2.1 ++ [y.1], z.2))) (st, ([], x.2))

/-- The coefficients of a set, Q3.28. -/
def csetOf (s : State) (n : Nat) : List Int := (SMap.getD s.strp.csets n []).map BitVec.toInt

/-- Sections of consecutive slots (R291, R296, R311): a bad coefficient set passes the signal, a bad state is cleared. -/
def runSections (up : List StripUpset) (strip : Nat) : Nat → Nat → State → Sig → State × Sig
  | 0, _, s, x => (s, x)
  | n + 1, slot, s, x =>
    let cs := SMap.getD s.strp.slots slot 0
    let s1 := if up.contains (.sec slot) then stripPerr (s.setStrp { s.strp with secs := SMap.del s.strp.secs slot }) strip 3 slot else s
    if up.contains (.cset cs) then runSections up strip n (slot + 1) (stripPerr s1 strip 2 cs) x
    else
      let r := runSection (csetOf s1 cs) (SMap.getD s1.strp.secs slot (0, 0)) x
      runSections up strip n (slot + 1) (s1.setStrp { s1.strp with secs := SMap.put s1.strp.secs slot r.1 }) r.2

/-- TRIM (R291 step 2, R294). -/
def trimSig (t : Int) (x : List Int) : Sig :=
  x.foldl (fun (a : Sig) v =>
    let p := (v * t + 2 ^ 26) / 2 ^ 27
    (a.1 ++ [satQ p], a.2 || decide (satQ p ≠ p))) ([], false)

/-- A strip's raw samples: its source in stage A, its destination in stage C (R291 step 1). -/
def rawSamples (s : State) (n : Nat) (d : List Word) : List Int :=
  let z := List.replicate (nSamples s) (0 : Int)
  if n < 16384 then SMap.getD s.aud.inW (fld (dw d 2) 13 0) z else SMap.getD s.aud.dstR (n - 16384) z

/-- Steps 1 to 3 of a strip (R291, R293). -/
def strip1 (up : List StripUpset) (s : State) (n : Nat) : State × Sig :=
  let d := stripDesc s n
  runSections up n (stSplit d) (stFirst d) s (trimSig (dw d 3).toInt (rawSamples s n d))

/-- The step-3 signal of a strip among those of a stage; a disabled strip gives zero (R299, R300). -/
def stepThree (sigs : SMap Sig) (n : Nat) : List Int := (SMap.getD sigs n ([], false)).1

/-- What a detector holds. -/
def detSt (s : State) (n : Nat) : DetSt := SMap.getD s.strp.detSt n { m := 0, gs := 0 }

/-- The levels of a detector over a block, with its mean square after it (R299). -/
def detLevels (w : List Word) (m : Rat) (key : List Int) : List Int × Rat :=
  let rms := bit (dw w 0) 2
  let dtc := fld (dw w 0) 6 3
  key.foldl (fun (a : List Int × Rat) v =>
    if rms then
      let x : Rat := mkRat v (2 ^ 27)
      let m' := a.2 + (x * x - a.2) * mkRat 1 (2 ^ dtc)
      (a.1 ++ [powerCode m'], m')
    else (a.1 ++ [ampCode v.natAbs], a.2)) ([], m)

/-- The gain reduction g of a level (R299). [Log 66: DEDUCED] -/
def detGain (w : List Word) (l : Int) : Rat :=
  let thresh := sext 16 (fld (dw w 2) 15 0)
  let knee : Int := fld (dw w 2) 31 16
  let range : Int := fld (dw w 4) 15 0
  let expand := fld (dw w 0) 1 0 == 1
  let e : Rat := if expand then ((thresh - l : Int) : Rat) else ((l - thresh : Int) : Rat)
  let sl : Rat := mkRat (fld (dw w 3) 15 0) (if expand then 1024 else 65536)
  let k : Rat := (knee : Rat)
  let g : Rat :=
    if 2 * e ≤ -k then 0 else if k ≤ 2 * e then -(sl * e)
    else -(sl * (e + k * mkRat 1 2) * (e + k * mkRat 1 2)) / (2 * k)
  if g < -((range : Int) : Rat) then -((range : Int) : Rat) else g

/-- The smoothed reduction after one sample (R299). [Log 67: DEDUCED] -/
def detSmooth (w : List Word) (gs g : Rat) : Rat :=
  if g < gs then gs + mkRat (fld (dw w 5) 15 0) 65536 * (g - gs) else gs + mkRat (fld (dw w 5) 31 16) 65536 * (g - gs)

/-- Dynamics over a block (R299): the samples with the reduction of each level. -/
def dynamics (w : List Word) (gs : Rat) (levels : List Int) (x : Sig) : Rat × Sig :=
  let makeup := sext 16 (fld (dw w 4) 31 16)
  (x.1.zip levels).foldl (fun (a : Rat × Sig) p =>
    let gs' := detSmooth w a.1 (detGain w p.2)
    let y := scaleDb p.1 (gs' + (makeup : Rat))
    (gs', (a.2.1 ++ [satQ y], a.2.2 || decide (satQ y ≠ y)))) (gs, ([], x.2))

/-- The greatest level over the detectors of a LINK group, sample by sample (R299). -/
def linkedLevels (levels : SMap (Nat × List Int)) (link : Nat) (own : List Int) : List Int :=
  if link = 0 then own
  else levels.foldl (fun acc e => if e.2.1 = link then (acc.zip e.2.2).map (fun p => max p.1 p.2) else acc) own

/-- The activity state after a block's RMS (R302). -/
def actStep (d : List Word) (x : StripSt) (rms : Int) : StripSt :=
  if sext 16 (fld (dw d 4) 15 0) ≤ rms then { x with act := true, below := 0 }
  else if rms < sext 16 (fld (dw d 4) 31 16) then
    let b := x.below + 1
    if fld (dw d 5) 15 0 + 1 ≤ b then { x with act := false, below := 0 } else { x with below := b }
  else { x with below := 0 }

/-- The meters of a strip after a block (R301, R302). [Log 62: DEDUCED, 67: DEDUCED] -/
def meterStep (s : State) (n : Nat) (d : List Word) (x : Sig) : State :=
  let st := stripSt s n
  let peak := ampCode (x.1.foldl (fun m v => max m v.natAbs) 0)
  let sq : Int := x.1.foldl (fun a v => a + v * v) 0
  let mean : Rat := mkRat sq (2 ^ 54 * nSamples s)
  let ms := st.ms + (mean - st.ms) * mkRat 1 (2 ^ fld (dw d 0) 13 10)
  let rms := powerCode ms
  let isOver := x.2 || s.strp.mixOver.contains (n - 16384) && decide (16384 ≤ n)
  let left := if isOver then rdF s R.STRP_METER_CFG 31 16 else st.overLeft - 1
  let st1 := actStep d { st with
    peak := peak, pfall := max peak (st.pfall - rdF s R.STRP_METER_CFG 7 0), ms := ms, rms := rms, overLeft := left } rms
  let s1 := setStrip s n st1
  if st.overLeft = 0 ∧ left ≠ 0 then stripCond s1 n 0 else s1

/-- Samples that the units of a long line hold (R305). -/
def longRing (dmax : Nat) : Nat := 8 * ceilDiv (dmax + 16) 8

/-- A sample multiplied by k/32, rounded half up (R294, R306). -/
def fade32 (x : Int) (k : Nat) : Int := (x * k + 16) / 32

/-- Age i of a line, which is silent beyond its content, replaced. -/
def lineSet (l : List Int) (i : Nat) (v : Int) : List Int := (l ++ List.replicate (i + 1 - l.length) 0).set i v

/-- The unit of line j that sample p of the device lies in (R307). -/
def lineUnitOf (j p : Nat) : Nat := (p + j) / 8

/-- The samples of unit u of line j, oldest first, with the newest sample of the line at index top (R305, R307). -/
def lineFetch (j top u : Nat) (line : List Int) : List Int := (List.range 8).map (fun m => line.getD (top + j - (8 * u + m)) 0)

/-- The sample of a long line that is k samples old, with the newest at index top (R307): from the read-ahead, which fetches the unit of the tap
where it does not hold it; a unit not yet whole is still on chip. -/
def lineTap (j top : Nat) (st : StripSt) (k : Nat) : Int × StripSt :=
  let u := lineUnitOf j (top - k)
  if top < k ∨ top + j < 8 * u + 7 then (st.line.getD k 0, st)
  else
    let m := (top - k + j) % 8
    match st.ahead.find? (fun e => e.1 == u) with
    | some e => ((e.2[m]?).getD 0, st)
    | none =>
      let xs := lineFetch j top u st.line
      ((xs[m]?).getD 0, { st with ahead := st.ahead ++ [(u, xs)] })

/-- The sample k samples old: a line of at most 2,048 samples lies in the short-delay pool, a longer one in the deep store (R305). -/
def delayTap (dmax j : Nat) (st : StripSt) (k : Nat) : Int × StripSt :=
  if dmax ≤ 2048 then (st.line.getD k 0, st) else lineTap j st.upTo st k

/-- One sample through the delay line (R305, R306); j is the number of a long line. -/
def delaySample (dmax j : Nat) (st0 : StripSt) (v : Int) : Int × StripSt :=
  let st := { st0 with line := (v :: st0.line).take (if dmax ≤ 2048 then dmax + 1 else longRing dmax + 32) }
  let next := fun (r : Int × StripSt) => (r.1, { r.2 with upTo := st.upTo + 1 })
  match st.fade with
  | none => next (delayTap dmax j st st.tap)
  | some (goal, k) =>
    if k < 32 then
      let r := delayTap dmax j st st.tap
      next (fade32 r.1 (31 - k), { r.2 with fade := some (goal, k + 1) })
    else
      let r := delayTap dmax j st goal
      next (fade32 r.1 (k - 31), if k = 63 then { r.2 with tap := goal, fade := none } else { r.2 with fade := some (goal, k + 1) })

/-- The read-ahead between blocks: of the units fetched, the one that the tap is about to go on with (R307).
[Log 68: DEDUCED] -/
def keepAhead (j : Nat) (st : StripSt) : StripSt :=
  let tap := match st.fade with | some (goal, k) => if k < 32 then st.tap else goal | none => st.tap
  { st with ahead := if st.upTo < tap then [] else st.ahead.filter (fun e => e.1 == lineUnitOf j (st.upTo - tap)) }

/-- The delay of a strip over block b, whose first sample has index base (R305, R306). [Log 68: DEDUCED] -/
def delayStep (dmax j base : Nat) (st : StripSt) (x : List Int) : List Int × StripSt :=
  if dmax = 0 then (x, st)
  else
    let st0 := match st.fade, st.next with
      | none, some d => { st with fade := some (d, 0), next := none }
      | _, _ => st
    x.foldl (fun (a : List Int × StripSt) v =>
      let r := delaySample dmax j a.2 v
      (a.1 ++ [r.1], r.2)) ([], { st0 with upTo := base })

/-- Samples of a delay line whose pool word is bad read zero (R308). [Log 11: DESIGN CHOICE] -/
def poolUpsets (up : List StripUpset) (s : State) (n : Nat) : State :=
  up.foldl (fun t u => match u with
    | .pool w m age =>
      if m = n then
        let st := stripSt t n
        stripPerr (setStrip t n { st with line := st.line.set age 0 }) n 5 w
      else t
    | _ => t) s

/-- A descriptor with a long line (R305). -/
def isLong (d : List Word) : Bool := stEn d && decide (2048 < stDmax d)

/-- The number j of a strip's long line (R307): long lines are numbered in ascending strip index. -/
def lineNumber (s : State) (n : Nat) : Nat := (s.strp.desc.filter (fun e => decide (e.1 < n) && isLong e.2)).length

/-- The unit of the deep store that holds place k of the ring of strip n's line (R305, R491). -/
def lineUnit (s : State) (n dmax k : Nat) : Nat :=
  let r := item s (declKey 3 0)
  bits r 13 0 * 32768 + Config.lineUnit n dmax (k % (longRing dmax / 8)) % max 1 (bits r 29 16 * 32768)

/-- Sample s of the device completes a unit of line j (R307). -/
def completesUnit (j s : Nat) : Bool := (s + j) % 8 == 7

/-- The units that strip n's long line writes in block b, from its line as it stands after the block (R305, R307).
[Log 68: DEDUCED, 136: DESIGN CHOICE] -/
def lineWrites (b n : Nat) (s : State) : State :=
  let d := stripDesc s n
  if !isLong d || !dstServes s then s
  else
    let j := lineNumber s n
    let top := b * nSamples s + nSamples s - 1
    (List.range (nSamples s)).foldl (fun t i =>
      let k := b * nSamples s + i
      if completesUnit j k then
        let u := lineUnitOf j k
        writeUnit t (lineUnit t n (stDmax d) u) 0 (unitBytes (lineFetch j top u (stripSt t n).line))
      else t) s

/-- The unit of strip n's long line whose newest sample is `age` samples old, where that sample completes one (R307). -/
def agedUnit (s : State) (n age : Nat) : Option Nat :=
  let j := lineNumber s n
  let top := (stripSt s n).upTo
  if isLong (stripDesc s n) && decide (age < top) && completesUnit j (top - 1 - age) then some (lineUnitOf j (top - 1 - age)) else none

/-- A unit of a strip's line is heard as silence until the tap has left it (R498, R499). -/
def muteUnit (s : State) (n u : Nat) : State :=
  let st := stripSt s n
  setStrip s n { st with ahead := (u, List.replicate 8 0) :: st.ahead }

/-- The findings in the units that strip n's long line fetches for block b (R307, R499): an uncorrectable word silences the 8 samples of
its unit. The age is that of the unit's newest sample before the block. [Log 68: DEDUCED] -/
def lineFindings (up : List StripUpset) (s : State) (n : Nat) : State :=
  up.foldl (fun t u => match u with
    | .unit m age corr unc =>
      if m = n then
        match agedUnit t n age with
        | some k =>
          let t1 := eccReports t 0 (lineUnit t n (stDmax (stripDesc t n)) k) corr.toNat unc.toNat
          if unc = 0 then t1 else muteUnit t1 n k
        | none => t
      else t
    | _ => t) s

/-- A strip's line after a block, with the grants of the units that it has fetched since it stood at `old` (R307, R493). -/
def lineAfter (n j : Nat) (old new : StripSt) (s : State) : State :=
  (new.ahead.filter (fun e => !old.ahead.contains e)).foldl (fun t e =>
    granted t (lineUnit t n (stDmax (stripDesc t n)) e.1) 0) (setStrip s n (keepAhead j new))

/-- A unit of the deep store has been written from outside: where it holds a unit of strip n's long line, the line holds what it now
holds (R508). -/
def lineRewritten (unit : Nat) (s : State) (n : Nat) : State :=
  let d := stripDesc s n
  let j := lineNumber s n
  let st := stripSt s n
  let ring := longRing (stDmax d) / 8
  if !isLong d || decide (st.upTo + j < 8) then s
  else
    let newest := (st.upTo + j) / 8 - 1
    (List.range ring).foldl (fun t q =>
      if lineUnit s n (stDmax d) q = unit ∧ (newest + ring - q) % ring ≤ newest then
        let u := newest - (newest + ring - q) % ring
        let x := stripSt t n
        setStrip t n { x with line := (List.range 8).foldl (fun l m => lineSet l (st.upTo - 1 + j - (8 * u + m)) (unitSample t unit m)) x.line }
      else t) s

/-- What a stage carries from one strip to the next: the state and the outputs. -/
structure StageRun where
  s : State
  out : SMap (List Int)

/-- Steps 4 to 8 of a strip over block b (R291). -/
def strip2 (up : List StripUpset) (b : Nat) (sigs : SMap Sig) (levels : SMap (Nat × List Int)) (r : StageRun) (n : Nat) : StageRun :=
  let d := stripDesc r.s n
  let det := stDet d
  let w := SMap.getD r.s.strp.dets det []
  let x0 := SMap.getD sigs n ([], false)
  let dyn : State × Sig :=
    if !stDen d then (r.s, x0)
    else if up.contains (.det det) then (stripPerr r.s n 4 det, x0)
    else
      let own := (SMap.getD levels n (0, [])).2
      let y := dynamics w (detSt r.s det).gs (linkedLevels levels (fld (dw w 1) 11 0) own) x0
      (r.s.setStrp { r.s.strp with detSt := SMap.put r.s.strp.detSt det { detSt r.s det with gs := y.1 } }, y.2)
  let sec := runSections up n (stNsec d - stSplit d) (stFirst d + stSplit d) dyn.1 dyn.2
  let s1 := lineFindings up (poolUpsets up (meterStep sec.1 n d sec.2) n) n
  let j := lineNumber s1 n
  let y := delayStep (stDmax d) j (b * nSamples s1) (stripSt s1 n) sec.2.1
  { s := lineWrites b n (lineAfter n j (stripSt s1 n) y.2 s1), out := SMap.put r.out n y.1 }

/-- The levels of every detector of the stage's enabled strips (R299), with the LINK of each, and the mean squares after it. -/
def stageLevels (up : List StripUpset) (s : State) (sigs : SMap Sig) (ns : List Nat) : State × SMap (Nat × List Int) :=
  ns.foldl (fun (a : State × SMap (Nat × List Int)) n =>
    let d := stripDesc a.1 n
    let det := stDet d
    if !stDen d || up.contains (.det det) then a
    else
      let w := SMap.getD a.1.strp.dets det []
      let key := if bit (dw w 0) 7 then stepThree sigs (fld (dw w 0) 22 8) else stepThree sigs n
      let key := key ++ List.replicate (nSamples s - key.length) 0
      let l := detLevels w (detSt a.1 det).m key
      (a.1.setStrp { a.1.strp with detSt := SMap.put a.1.strp.detSt det { detSt a.1 det with m := l.2 } },
        SMap.put a.2 n (fld (dw w 1) 11 0, l.1))) (s, [])

/-- The strips of a stage over its block b (R291, R293): the state and the outputs by strip. [Log 11: DESIGN CHOICE] -/
def runStrips (up : List StripUpset) (b : Nat) (s : State) (ns : List Nat) : StageRun :=
  let p1 := ns.foldl (fun (a : State × SMap Sig) n =>
    let r := strip1 up a.1 n
    (r.1, SMap.put a.2 n r.2)) (s, [])
  let lv := stageLevels up p1.1 p1.2 ns
  ns.foldl (strip2 up b p1.2 lv.2) { s := lv.1, out := [] }

/-- The enabled strips of a stage, but those whose descriptor is bad, in ascending order. -/
def stageStrips (s : State) (outputs : Bool) (up : List StripUpset) : List Nat :=
  (s.strp.desc.filter (fun e => stEn e.2 && decide (16384 ≤ e.1) == outputs && !up.contains (.desc e.1))).map Prod.fst

/-- The reports of bad descriptors among the strips of a stage (R311). -/
def descReports (s : State) (outputs : Bool) (up : List StripUpset) : State :=
  up.foldl (fun t u => match u with
    | .desc n => if decide (16384 ≤ n) = outputs then stripPerr t n 1 n else t
    | _ => t) s

/-- Input strip n exists and its input-plane index (R290). -/
def stripPlane (s : State) (n : Nat) : Option Nat :=
  let w := rd s R.MIX_INMAP0
  let i := fld w 13 0 + n
  if bit w 31 ∧ i ≤ fld w 29 16 then some i else none

/-- The words that read bad in a stage: those that upsets reached now, and those not written since (R311). -/
def badWords (s : State) (up : List StripUpset) : List StripUpset :=
  s.strp.bad ++ up.filter (fun u => !s.strp.bad.contains u)

/-- The bad words that stay bad after a stage: a section's state has been cleared, and a pool word or a unit belongs to one block. -/
def staysBad : StripUpset → Bool
  | .desc _ | .cset _ | .det _ => true
  | .sec _ | .pool .. | .unit .. | .unfinished _ => false

/-- The state in which the bad words of a stage are recorded. -/
def recordBad (s : State) (up : List StripUpset) : State :=
  s.setStrp { s.strp with bad := (badWords s up).filter staysBad }

/-- The strips that the next deckle tick finds unfinished (R50). -/
def unfinished (ups : List StripUpset) : List Nat := ups.filterMap (fun u => match u with | .unfinished n => some n | _ => none)

/-- The strips that a stage finishes (R50): all but those that the next deckle tick finds unfinished.
[Log 135: DESIGN CHOICE] -/
def finishes (ups : List StripUpset) (ns : List Nat) : List Nat := ns.filter (fun n => !(unfinished ups).contains n)

/-- The OVER holds of the strips of a stage that were not processed count down (R301). -/
def overHolds (outputs : Bool) (ran : List Nat) (s : State) : State :=
  s.strp.strips.foldl (fun t e =>
    if decide (16384 ≤ e.1) == outputs && e.2.overLeft != 0 && !ran.contains e.1 then
      setStrip t e.1 { e.2 with overLeft := e.2.overLeft - 1 }
    else t) s

/-- A saturated mix counts as OVER for every output strip, one that is not processed too (R278, R301). -/
def mixOvers (ran : List Nat) (s : State) : State :=
  ((s.strp.mixOver.map (16384 + ·)).filter (fun n => !ran.contains n)).foldl (fun t n =>
    let st := stripSt t n
    let t1 := setStrip t n { st with overLeft := rdF t R.STRP_METER_CFG 31 16 }
    if st.overLeft = 0 ∧ rdF t R.STRP_METER_CFG 31 16 ≠ 0 then stripCond t1 n 0 else t1) s

/-- The input strips of stage A over block b (R291). -/
def inputStrips (b : Nat) (s0 : State) (ups : List StripUpset) : State :=
  let up := badWords s0 ups
  let s := recordBad s0 ups
  let ns := finishes ups (stageStrips s false up)
  let r := runStrips up b (overHolds false ns (descReports s false up)) ns
  r.out.foldl (fun t e => match stripPlane t e.1 with
    | some i => t.setAud { t.aud with inW := SMap.put t.aud.inW i e.2 }
    | none => t) r.s

/-- The output strips of stage C over block b (R50, R291, R301): a destination whose strip is disabled passes unchanged, an unfinished
strip gives zero, and a saturated mix counts as OVER even for a disabled strip. -/
def outputStrips (b : Nat) (s : State) (ups : List StripUpset) : State :=
  let up := badWords s ups
  let s1 := descReports (recordBad s ups) true up
  let all := stageStrips s1 true up
  let ns := finishes ups all
  let r := runStrips up b (mixOvers ns (overHolds true (ns ++ s1.strp.mixOver.map (16384 + ·)) s1)) ns
  let cut := (all.filter (fun n => !ns.contains n)).map (fun n => (n, List.replicate (nSamples s) (0 : Int)))
  r.s.setAud { r.s.aud with
    outC := (r.out ++ cut).foldl (fun (m : SMap (List Int)) e => SMap.put m (e.1 - 16384) e.2) r.s.aud.dstR }

/-- sin(2π ph / 2^32) in 2^−60 steps. [Log 63: DESIGN CHOICE] -/
def sinTurn (ph : Nat) : Int :=
  let m := ph % 2 ^ 30
  match ph / 2 ^ 30 % 4 with
  | 0 => sinFix m (2 ^ 30)
  | 1 => sinFix (2 ^ 30 - m) (2 ^ 30)
  | 2 => -(sinFix m (2 ^ 30))
  | _ => -(sinFix (2 ^ 30 - m) (2 ^ 30))

/-- What a generator holds. -/
def genSt (s : State) (g : Nat) : GenSt := SMap.getD s.strp.genSt g { phase := 0, index := 0 }

/-- One output sample of a generator (R304); a PARAM of 0 leaves an impulse generator's output open.
[Log 64: DESIGN CHOICE, 65: DESIGN CHOICE] -/
def genSample (w : List Word) (s : State) (x : GenSt) : Int × State × GenSt :=
  let level := (dw w 1).toInt
  let param := (dw w 2).toNat
  let seed := (dw w 3).toNat
  let next : GenSt := { x with index := x.index + 1 }
  match fld (dw w 0) 2 0 with
  | 1 => (satQ ((2 * level * sinTurn x.phase + 2 ^ 60) / 2 ^ 61), s, { x with phase := (x.phase + param) % 2 ^ 32 })
  | 2 => (level * ((Config.whiteNoise seed x.index % 2 ^ 32 : Nat) - 2 ^ 31 : Int) / 2 ^ 31, s, next)
  | 3 => (level * clampInt (-(2 ^ 31)) (2 ^ 31) (Config.pinkNoise seed x.index) / 2 ^ 31, s, next)
  | 4 =>
    if param = 0 then
      let f := freeNat s 1
      (if f.1 = 1 then level else 0, f.2, next)
    else (if x.index % param = 0 then level else 0, s, next)
  | _ => (0, s, x)

/-- Generator g over a block (R304). -/
def genBlock (s : State) (e : Nat × List Word) : State :=
  if fld (dw e.2 0) 2 0 = 0 then s
  else
    let r := (List.range (nSamples s)).foldl (fun (a : List Int × State × GenSt) _ =>
      let y := genSample e.2 a.2.1 a.2.2
      (a.1 ++ [y.1], y.2.1, y.2.2)) ([], s, genSt s e.1)
    let s1 := r.2.1.setStrp { r.2.1.strp with genSt := SMap.put r.2.1.strp.genSt e.1 r.2.2 }
    s1.setAud { s1.aud with inW := SMap.put s1.aud.inW (16256 + e.1) r.1 }

/-- The generators of stage A. -/
def generators (s : State) : State := s.strp.gens.foldl genBlock s

/-- The activity vector of a tenant (R303). -/
def activity (s : State) (t : Nat) : Nat :=
  s.strp.desc.foldl (fun v e =>
    if stEn e.2 && bit (dw e.2 0) 1 && stTenant e.2 == t && (stripSt s e.1).act then v ||| 2 ^ fld (dw e.2 0) 9 4 else v) 0

/-- Units per sample of a descriptor (R295). [Log 69: DEDUCED] -/
def stripUnits (d : List Word) : Nat := if stEn d then stNsec d + 2 * b2n (stDen d) + 1 else 0

/-- Units per sample of a generator (R295). -/
def genUnits (w : List Word) : Nat :=
  match fld (dw w 0) 2 0 with
  | 0 => 0 | 3 => 4 | _ => 1

/-- Granules of the short pool that a descriptor takes (R305). -/
def shortGranules (s : State) (d : List Word) : Nat :=
  if stEn d && decide (0 < stDmax d) && decide (stDmax d ≤ 2048) then ceilDiv (stDmax d + nSamples s) 32 else 0

/-- Bytes of the long-delay region that a descriptor takes (R305). -/
def longBytes (d : List Word) : Nat := if isLong d then 32 * ceilDiv (stDmax d + 16) 8 else 0

/-- A of R307 for C long lines. -/
def longUnits (s : State) (c : Nat) : Nat :=
  let n := nSamples s
  if n = 16 then 4 * c else 2 * (n * (c / 8) + min n (c % 8))

/-- An entry of the strip space as it will stand after the pending writes (R310). -/
def stripNow (s : State) (kind idx : Nat) : List Word :=
  match (s.strp.pend.filter (fun e => e.1 == kind && e.2.1 == idx)).getLast? with
  | some e => e.2.2
  | none => match kind with
    | 0 => stripDesc s idx
    | 1 => [BitVec.ofNat 32 (SMap.getD s.strp.slots idx 0)]
    | 2 => SMap.getD s.strp.csets idx []
    | 3 => SMap.getD s.strp.dets idx []
    | _ => SMap.getD s.strp.gens idx []

/-- Indexes of a kind with an entry, now or pending. -/
def stripIds (s : State) (kind : Nat) : List Nat :=
  ((match kind with
    | 0 => s.strp.desc.map Prod.fst
    | 3 => s.strp.dets.map Prod.fst
    | _ => s.strp.gens.map Prod.fst) ++ (s.strp.pend.filter (fun e => e.1 == kind)).map (fun e => e.2.1)).eraseDups

/-- The entries of a kind other than one, pending writes counted. -/
def stripOthers (s : State) (kind idx : Nat) : List (Nat × List Word) :=
  ((stripIds s kind).filter (· != idx)).map (fun i => (i, stripNow s kind i))

/-- The strip units of all strips and generators with one entry replaced, in total and for a tenant (R295). -/
def unitTotals (s : State) (kind idx : Nat) (ws : List Word) (tenant : Nat) : Nat × Nat :=
  let ds := (if kind = 0 then [(idx, ws)] else []) ++ stripOthers s 0 (if kind = 0 then idx else 2 ^ 20)
  let gs := (if kind = 4 then [(idx, ws)] else []) ++ stripOthers s 4 (if kind = 4 then idx else 2 ^ 20)
  let mineG := gs.filter (fun e => owner s 0x17 e.1 == some tenant)
  (nSamples s * (total (ds.map (fun e => stripUnits e.2)) + total (gs.map (fun e => genUnits e.2))),
    nSamples s * (total ((ds.filter (fun e => stTenant e.2 == tenant)).map (fun e => stripUnits e.2))
      + total (mineG.map (fun e => genUnits e.2))))

/-- The refusal of strip units (R295, R310). -/
def unitRefusal (s : State) (kind idx : Nat) (ws : List Word) (tenant : Nat) : Option State :=
  let n := unitTotals s kind idx ws tenant
  firstRefusal [roomFor s 7 tenant 0x08 0x21 0 n.1 n.2 (item s (declKey 0x21 0)),
    if (rd s R.STRP_MAX).toNat < n.1 then some (rtRefuse s 7 tenant 0x08 n.1 (rd s R.STRP_MAX).toNat) else none]

/-- The budget checks of a descriptor (R310). [Log 57: DEDUCED] -/
def descRefusal (s : State) (n : Nat) (d : List Word) : Option State :=
  let ds := d :: (stripOthers s 0 n).map Prod.snd
  let t := stTenant d
  let mine := ds.filter (fun x => stTenant x == t)
  let gran := fun (l : List (List Word)) => total (l.map (shortGranules s))
  let longs := fun (l : List (List Word)) => longUnits s (l.filter isLong).length
  let region := bits (item s (declKey 3 0)) 29 16 * 2 ^ 20
  let bytes := total (ds.map longBytes)
  let all := longs ds + (rd s (R.DST_LAIDr 1)).toNat + (rd s (R.DST_LAIDr 2)).toNat
  firstRefusal [
    unitRefusal s 0 n d t,
    roomFor s 7 t 0x06 0x26 0 (gran ds) (gran mine) (rdF s R.DLY_POOL 17 0),
    if region < bytes then some (rtRefuse s 7 t 0x0B bytes region) else none,
    roomFor s 7 t 0x0B 0x22 0 (longs ds) (longs mine) (item s (declKey 0x22 0)),
    if (rd s R.DST_ADM).toNat < all then some (rtRefuse s 7 t 0x0B all (rd s R.DST_ADM).toNat) else none]

/-- An input-plane index an input strip may read (R292). -/
def stripSrcOk (s : State) (i : Nat) : Bool :=
  let within := fun (w : Word) => bit w 31 && decide (fld w 13 0 ≤ i) && decide (i ≤ fld w 29 16)
  decide (16256 ≤ i) || within (rd s R.STRM_PLANE) || within (rd s R.MIX_INMAP1)

/-- The stage of a strip: true for output strips. -/
def stageOf (n : Nat) : Bool := decide (16384 ≤ n)

/-- The strip that uses a detector, with an entry for strip n replaced. -/
def detUser (s : State) (det : Nat) : Option Nat :=
  (stripIds s 0).find? (fun n => let d := stripNow s 0 n; stEn d && stDen d && stDet d == det)

/-- A detector's KEY and LINK stay in a stage (R300). -/
def detStageOk (s : State) (det : Nat) (w : List Word) (stage : Bool) : Bool :=
  (!bit (dw w 0) 7 || stageOf (fld (dw w 0) 22 8) == stage) &&
    (fld (dw w 1) 11 0 == 0 || (stripOthers s 3 det).all (fun e =>
      fld (dw e.2 1) 11 0 != fld (dw w 1) 11 0 ||
        (match detUser s e.1 with | some n => stageOf n == stage | none => true)))

/-- The checks of a descriptor other than budgets (R290, R292, R297, R299, R300, R302, R305). -/
def descOk (s : State) (fn n : Nat) (d : List Word) : Bool :=
  let old := stripNow s 0 n
  reachesTenant s fn (stTenant d) && reachesTenant s fn (stTenant old) &&
    decide (stNsec d ≤ 32) && decide (stSplit d ≤ stNsec d) && decide (stFirst d + stNsec d ≤ 262144) &&
    decide (sext 16 (fld (dw d 4) 31 16) ≤ sext 16 (fld (dw d 4) 15 0)) && decide (stDelay d ≤ stDmax d) &&
    (!stEn d ||
      ((stageOf n || ((stripPlane s n).isSome && stripSrcOk s (fld (dw d 2) 13 0))) &&
        (stripOthers s 0 n).all (fun e => !stEn e.2 ||
          (!rangesMeet (stFirst d) (stFirst d + stNsec d) (stFirst e.2) (stFirst e.2 + stNsec e.2) &&
            !(stDen d && stDen e.2 && stDet d == stDet e.2))) &&
        (!stDen d || (reachesObj s fn 0x16 (stDet d) && detStageOk s (stDet d) (stripNow s 3 (stDet d)) (stageOf n)))))

/-- The checks of a detector (R299, R300). -/
def detOk (s : State) (fn n : Nat) (w : List Word) : Bool :=
  reachesObj s fn 0x16 n && decide (fld (dw w 0) 1 0 ≤ 1) && decide (fld (dw w 2) 31 16 ≤ 3840) &&
    decide (fld (dw w 4) 15 0 < 32768) &&
    (match detUser s n with | some m => detStageOk s n w (stageOf m) | none => true)

/-- The strip whose sections hold a slot. [Log 69: DEDUCED] -/
def slotStrip (s : State) (slot : Nat) : Option Nat :=
  (stripIds s 0).find? (fun n => let d := stripNow s 0 n
    stEn d && decide (stFirst d ≤ slot) && decide (slot < stFirst d + stNsec d))

/-- Whether function fn reaches a section slot: it lies in a strip of a bound tenant. [Log 69: DEDUCED] -/
def reachesSlot (s : State) (fn slot : Nat) : Bool :=
  fn == 0 || (match slotStrip s slot with | some n => reachesTenant s fn (stTenant (stripNow s 0 n)) | none => false)

/-- A submitted entry that passed waits for the next boundary (R310). [Log 70: DEDUCED] -/
def stripPend (s : State) (kind idx : Nat) (ws : List Word) : State :=
  s.setStrp { s.strp with pend := s.strp.pend ++ [(kind, idx, ws)] }

/-- The submission of an entry (R310). -/
def stripSubmit (s : State) (fn kind idx : Nat) (ws : List Word) : State :=
  let rej := stripCond s idx 3
  match kind with
  | 0 =>
    if !descOk s fn idx ws then rej
    else if stEn ws then (match descRefusal s idx ws with
      | some t => stripCond t idx 1
      | none => stripPend s 0 idx ws)
    else stripPend s 0 idx ws
  | 1 => if reachesSlot s fn idx && reachesObj s fn 0x15 (fld (dw ws 0) 15 0) then stripPend s 1 idx ws else rej
  | 2 => if reachesObj s fn 0x15 idx then stripPend s 2 idx ws else rej
  | 3 => if detOk s fn idx ws then stripPend s 3 idx ws else rej
  | _ =>
    if !reachesObj s fn 0x17 idx || decide (4 < fld (dw ws 0) 2 0) then rej
    else match unitRefusal s 4 idx ws ((owner s 0x17 idx).getD 0) with
      | some t => stripCond t idx 1
      | none => stripPend s 4 idx ws

/-- The table of a word of the strip-coefficient space: kind, index, word, and words per entry used (R309, R310). -/
def stripPlace (a : Nat) : Option (Nat × Nat × Nat × Nat) :=
  if a < 0x40000 then some (0, a / 8, a % 8, 8)
  else if a < 0x80000 then some (1, a - 0x40000, 0, 1)
  else if a < 0x100000 then (if (a - 0x80000) % 8 < 5 then some (2, (a - 0x80000) / 8, (a - 0x80000) % 8, 5) else none)
  else if a < 0x120000 then (if (a - 0x100000) % 8 < 6 then some (3, (a - 0x100000) / 8, (a - 0x100000) % 8, 6) else none)
  else if 0x130000 ≤ a ∧ a < 0x130100 then some (4, (a - 0x130000) / 4, (a - 0x130000) % 4, 4)
  else none

/-- The key of a staged word: function, space and word address (R310, R517). -/
def stageKey (fn space a : Nat) : Nat := (fn * 16 + space) * 2 ^ 26 + a

/-- Words of an entry as staged by a function: a word it has not written keeps the entry's own. [Log 70: DEDUCED] -/
def stagedEntry (s : State) (fn space base count : Nat) (now : List Word) : List Word :=
  (List.range count).map (fun i => match SMap.get s.hp.staged (stageKey fn space (base + i)) with
    | some w => w
    | none => dw now i)

/-- The staged words of an entry forgotten. -/
def unstage (s : State) (fn space base count : Nat) : State :=
  s.setHp { s.hp with staged := (List.range count).foldl (fun (m : SMap Word) i => SMap.del m (stageKey fn space (base + i))) s.hp.staged }

/-- A write of a word of the strip-coefficient space by a function (R309, R310). [Log 70: DEDUCED] -/
def stripWrite (s : State) (fn a : Nat) (v : Word) : State :=
  match stripPlace a with
  | none => s
  | some (kind, idx, w, count) =>
    let s1 := s.setHp { s.hp with staged := SMap.put s.hp.staged (stageKey fn 5 a) v }
    if w + 1 = count then
      let ws := stagedEntry s1 fn 5 (a - w) count (stripNow s1 kind idx)
      stripSubmit (unstage s1 fn 5 (a - w) count) fn kind idx ws
    else s1

/-- The meter record of a strip (R310). -/
def meterWords (s : State) (n : Nat) : Word × Word :=
  let x := stripSt s n
  (BitVec.ofNat 32 (wrapBits 16 x.peak + wrapBits 16 x.pfall * 65536),
    BitVec.ofNat 32 (wrapBits 16 x.rms + b2n (x.overLeft != 0) * 65536 + b2n x.act * 131072))

/-- A read of a word of the strip-coefficient space by a function (R309, R310): the word, and the state with what it latches. -/
def stripRead (s : State) (fn a : Nat) : Word × State :=
  if 0x120000 ≤ a ∧ a < 0x130000 then
    let m := meterWords s ((a - 0x120000) / 2)
    let n := (a - 0x120000) / 2
    if a % 2 = 0 then (m.1, s.setStrp { s.strp with latch := SMap.put s.strp.latch fn (n, m.2) })
    else match SMap.get s.strp.latch fn with
      | some (k, w) => if k = n then (w, s.setStrp { s.strp with latch := SMap.del s.strp.latch fn }) else (m.2, s)
      | none => (m.2, s)
  else if 0x140000 ≤ a ∧ a < 0x140800 then
    (BitVec.ofNat 32 (activity s ((a - 0x140000) / 2) / 2 ^ (32 * (a % 2))), s)
  else if 0x100000 ≤ a ∧ a < 0x120000 ∧ a % 8 = 7 then
    (BitVec.ofNat 32 (wrapBits 16 (detSt s ((a - 0x100000) / 8)).gs.floor), s)
  else match stripPlace a with
    | some (0, i, w, _) => (dw (stripDesc s i) w, s)
    | some (1, i, _, _) => (BitVec.ofNat 32 (SMap.getD s.strp.slots i 0), s)
    | some (2, i, w, _) => (dw (SMap.getD s.strp.csets i []) w, s)
    | some (3, i, w, _) => (dw (SMap.getD s.strp.dets i []) w, s)
    | some (_, i, w, _) => (dw (SMap.getD s.strp.gens i []) w, s)
    | none => (0, s)

/-- A strip descriptor takes effect (R297, R301, R305, R306). -/
def applyStrip (s : State) (n : Nat) (d : List Word) : State :=
  let old := stripDesc s n
  let had := fun slot => stEn old && decide (stFirst old ≤ slot) && decide (slot < stFirst old + stNsec old)
  let new := ((List.range (stNsec d)).map (· + stFirst d)).filter (fun slot => stEn d && !had slot)
  let st := stripSt s n
  let st1 :=
    if !stEn d then { strip0 with overLeft := st.overLeft }
    else if !stEn old then { strip0 with tap := stDelay d, overLeft := st.overLeft }
    else if stDmax old ≠ stDmax d then { st with line := [], tap := stDelay d, fade := none, next := none, ahead := [] }
    else if stDelay old ≠ stDelay d then { st with next := some (stDelay d) }
    else st
  let s1 := s.setStrp { s.strp with
    desc := SMap.put s.strp.desc n d
    secs := new.foldl (fun (m : SMap (Int × Int)) k => SMap.del m k) s.strp.secs }
  setStrip s1 n st1

/-- A pending entry takes effect (R298, R304, R310); its words are good again (R311). -/
def applyEntry (s0 : State) (e : Nat × Nat × List Word) : State :=
  let n := e.2.1
  let ws := e.2.2
  let s := s0.setStrp { s0.strp with bad := s0.strp.bad.filter (fun u => match u with
    | .desc m => !(e.1 == 0 && m == n) | .cset m => !(e.1 == 2 && m == n) | .det m => !(e.1 == 3 && m == n) | _ => true) }
  match e.1 with
  | 0 => applyStrip s n ws
  | 1 => s.setStrp { s.strp with slots := SMap.put s.strp.slots n (fld (dw ws 0) 15 0) }
  | 2 => s.setStrp { s.strp with csets := SMap.put s.strp.csets n ws }
  | 3 => s.setStrp { s.strp with dets := SMap.put s.strp.dets n ws }
  | _ =>
    let old := SMap.getD s.strp.gens n []
    let gs := if fld (dw old 0) 2 0 = fld (dw ws 0) 2 0 then s.strp.genSt else SMap.del s.strp.genSt n
    s.setStrp { s.strp with gens := SMap.put s.strp.gens n ws, genSt := gs }

/-- The computed registers of the strip engine (R295, R305, R307). -/
def stripRegs (s : State) : State :=
  let ds := s.strp.desc.map Prod.snd
  let units := total (ds.map stripUnits) + total (s.strp.gens.map (fun e => genUnits e.2))
  let c := (ds.filter isLong).length
  let used := total (ds.map (shortGranules s))
  wrAll s [(R.STRP_COST, BitVec.ofNat 32 (nSamples s * units)),
    (R.DLY_FREE, BitVec.ofNat 32 (rdF s R.DLY_POOL 17 0 - used)), (R.DLY_LONG, BitVec.ofNat 32 c),
    (R.DLY_DAU, BitVec.ofNat 32 (longUnits s c)), (R.DST_LAIDr 0, BitVec.ofNat 32 (longUnits s c))]

/-- The strips at a boundary (R303, R310): pending entries take effect, and the activity vectors are taken for the zone keys. -/
def stripBoundary (s : State) : State :=
  let tenants := ((s.strp.desc.filter (fun e => stEn e.2 && bit (dw e.2 0) 1)).map (fun e => stTenant e.2)).eraseDups
  let acts := tenants.foldl (fun (m : SMap Nat) t => SMap.putD 0 m t (activity s t)) []
  let s1 := s.setStrp { s.strp with acts := acts }
  let p := s1.strp.pend
  if p.isEmpty then s1 else stripRegs (p.foldl applyEntry (s1.setStrp { s1.strp with pend := [] }))

end Sys2Proof.Machine
end

