-- ==== Sys2Proof/Machine/Parterre.lean ====
section
/-! DEFINITION. The parterre (chapter 12): zone descriptors, override sets, the zone state key and the evaluation of every
active zone in the window. -/

namespace Sys2Proof.Machine

/-- The descriptor of a zone in force. -/
def zoneDesc (s : State) (z : Nat) : List Word := SMap.getD s.ptr.desc z []

/-- The descriptor of a zone as it will stand after the pending writes. -/
def zoneNow (s : State) (z : Nat) : List Word :=
  match (s.ptr.pend.filter (fun e => e.1 == z)).getLast? with
  | some e => e.2
  | none => zoneDesc s z

/-- EN, PROFILE and MISS_RAMP of a descriptor (R334). -/
def zoneEn (d : List Word) : Bool := bit (dw d 0) 0
def zoneProfile (d : List Word) : Nat := fld (dw d 0) 11 6
def zoneMissRamp (d : List Word) : Nat := fld (dw d 1) 19 8

/-- A condition of `PTR_STAT` bits [4:1] with `PTR_LAST` (R354). -/
def ptrCond (s : State) (b idx : Nat) : State :=
  setCondWith s R.PTR_STAT 226 (2 ^ b) [(R.PTR_LAST, BitVec.ofNat 32 (idx % 4096 + b * 65536))] 0 .newBits

/-- The owner of a sequencer is its TENANT field (R608). -/
def seqTenant (s : State) (q : Nat) : Nat := rdF s (R.SEQn_CFG q) 29 20

/-- A profile is a defined class-2 one (R335). -/
def zoneProfileOk (s : State) (p : Nat) : Bool := profDef s p && fld (rd s (R.SRCH_PROFn_CTL p)) 2 0 == 2

/-- The checks of R335. -/
def zoneOk (s : State) (fn z : Nat) (d : List Word) : Bool :=
  let own := owner s 0x12 z
  decide (z < rdF s R.PTR_CFG 12 0) && reachesObj s fn 0x12 z && own == some (fld (dw d 0) 25 16) &&
    zoneProfileOk s (zoneProfile d) && fld (dw d 0) 2 1 != 3 && fld (dw d 0) 4 3 != 3 &&
    owner s 0x13 (fld (dw d 1) 31 20) == own && some (seqTenant s (fld (dw d 1) 6 0)) == own

/-- Zones that count against the budgets, one left out: those active once the pending writes are in force, and those that a
pending write deactivates, which count until the boundary (R137). -/
def activeOthers (s : State) (z : Nat) : List (List Word) :=
  ((((s.ptr.desc.map Prod.fst) ++ s.ptr.pend.map Prod.fst).eraseDups).filter (· != z)).filterMap (fun i =>
    let d := zoneNow s i
    if zoneEn d then some d else if zoneEn (zoneDesc s i) then some (zoneDesc s i) else none)

/-- Q_c × CREDIT_c summed over the classes 0, 1, 3 and 4 (R135). [Log 73: DEDUCED] -/
def creditLoad (s : State) : Nat :=
  total ([0, 1, 3, 4].map (fun c =>
    let qs := (List.range 64).map (fun p =>
      if profDef s p && fld (rd s (R.SRCH_PROFn_CTL p)) 2 0 == c then
        (if profWidth s p = 2 then ceilDiv (profQuires s p) 2 else profQuires s p) else 0)
    (rd s (R.SRCH_CLASSc_CREDIT c)).toNat * qs.foldl max 0))

/-- W of R135 for a list of active descriptors. [Log 73: DEDUCED] -/
def compareLoad (s : State) (ds : List (List Word)) : Nat := total (ds.map (fun d => profQuires s (zoneProfile d))) + creditLoad s

/-- The checks of an activation (R336, R137). [Log 73: DEDUCED] -/
def activationRefusal (s : State) (z : Nat) (d : List Word) : Option State :=
  let t := fld (dw d 0) 25 16
  let on := d :: activeOthers s z
  let mine := on.filter (fun x => fld (dw x 0) 25 16 == t)
  firstRefusal [
    roomFor s 9 t 0x09 0x20 0 on.length mine.length (item s (declKey 0x20 0)),
    roomFor s 9 t 0x0A 0x24 0 (compareLoad s on) (total (mine.map (fun x => profQuires s (zoneProfile x))))
      (rd s R.SRCH_CMP_BUDGET).toNat]

/-- The submission of a zone descriptor (R335, R336). -/
def zoneSubmit (s : State) (fn z : Nat) (d : List Word) : State :=
  if !zoneOk s fn z d then ptrCond s 1 z
  else
    let ok := s.setPtr { s.ptr with pend := s.ptr.pend ++ [(z, d)] }
    if zoneEn d && !zoneEn (zoneNow s z) then
      match activationRefusal s z d with
      | some t => ptrCond t 2 z
      | none => ok
    else ok

/-- The gains of a set in force. -/
def setWords (s : State) (n : Nat) : List Word := (List.range 64).map (dw (SMap.getD s.ptr.sets n []))

/-- A write of a word of the parterre space by a function (R334, R335, R346). -/
def ptrSpaceWrite (s : State) (fn a : Nat) (v : Word) : State :=
  let s1 := s.setHp { s.hp with staged := SMap.put s.hp.staged (stageKey fn 6 a) v }
  if a < 0x4000 then
    let z := a / 4
    if a % 4 = 1 then zoneSubmit (unstage s1 fn 6 (4 * z) 2) fn z (stagedEntry s1 fn 6 (4 * z) 2 (zoneNow s z))
    else if a % 4 = 0 then s1 else s
  else if a < 0x44000 then
    let n := (a - 0x4000) / 64
    if a % 64 = 63 then
      let ws := stagedEntry s1 fn 6 (0x4000 + 64 * n) 64 (setWords s n)
      let s2 := unstage s1 fn 6 (0x4000 + 64 * n) 64
      if reachesObj s fn 0x13 n then s2.setPtr { s2.ptr with setPend := s2.ptr.setPend ++ [(n, ws)] } else ptrCond s2 1 n
    else s1
  else s

/-- A word of the parterre space. -/
def ptrSpaceRead (s : State) (a : Nat) : Word :=
  if a < 0x4000 then (if a % 4 < 2 then dw (zoneDesc s (a / 4)) (a % 4) else 0)
  else if a < 0x44000 then dw (SMap.getD s.ptr.sets ((a - 0x4000) / 64) []) (a % 64)
  else 0

/-- A zone without a selection. -/
def zone0 : ZoneSt :=
  { set := none, missed := false, rule := none, ramp := 0, prio := 0, held := false, dbad := false, wmf := false }

/-- The selection of a zone. -/
def zoneSt (s : State) (z : Nat) : ZoneSt := SMap.getD s.ptr.zones z zone0

/-- The state with the selection of a zone replaced. -/
def setZone (s : State) (z : Nat) (x : ZoneSt) : State := s.setPtr { s.ptr with zones := SMap.put s.ptr.zones z x }

/-- The target gains of a selection: 1.0 in every class without a set; a word with bad parity reads 0 (R347, R348). -/
def targetGains (s : State) (set : Option Nat) : List Int :=
  match set with
  | none => List.replicate 64 qOne
  | some n => ((setWords s n).zip (List.range 64)).map (fun x => if s.ptr.bad.contains (64 * n + x.2) then 0 else x.1.toInt)

/-- The target of a zone's present ramp. -/
def presentTarget (s : State) (z : Nat) : List Int :=
  match SMap.get s.ptr.ramps z with
  | some r => r.target
  | none => List.replicate 64 qOne

/-- A zone ramps to a new target from its present values (R348). -/
def rampZone (s : State) (z len : Nat) (goal : List Int) : State :=
  if presentTarget s z = goal then s
  else
    let start := (List.range 64).map (fun c => classGain s z c 0)
    let r : ZoneRamp := { start := start, target := goal, shape := fld (dw (zoneDesc s z) 0) 4 3, len := len, k := 0 }
    s.setPtr { s.ptr with ramps := SMap.put s.ptr.ramps z r }

/-- A pending descriptor takes effect (R335, R348). -/
def applyZone (s : State) (e : Nat × List Word) : State :=
  let old := zoneDesc s e.1
  let s1 := s.setPtr { s.ptr with desc := SMap.put s.ptr.desc e.1 e.2 }
  if zoneEn old && !zoneEn e.2 then rampZone (setZone s1 e.1 zone0) e.1 (zoneMissRamp e.2) (targetGains s1 none)
  else if zoneEn e.2 && !zoneEn old then setZone s1 e.1 zone0
  else s1

/-- Zones that are active. [Log 75: DEDUCED] -/
def activeZones (s : State) : List Nat := (s.ptr.desc.filter (fun e => zoneEn e.2)).map Prod.fst

/-- `PTR_ACTIVE` and `SRCH_CMP_LAID` (R135, R336). -/
def ptrRegs (s : State) : State :=
  let on := (activeZones s).map (zoneDesc s)
  wrAll s [(R.PTR_ACTIVE, BitVec.ofNat 32 on.length), (R.SRCH_CMP_LAID, BitVec.ofNat 32 (compareLoad s on))]

/-- The parterre at step 2 of a boundary: pending sets and descriptors take effect; a submitted set is whole again (R347). -/
def ptrBoundary (s : State) : State :=
  let s1 := s.ptr.setPend.foldl (fun t e =>
    t.setPtr { t.ptr with sets := SMap.put t.ptr.sets e.1 e.2, bad := t.ptr.bad.filter (fun b => b / 64 != e.1) }) s
  let p := s1.ptr.pend
  let s2 := p.foldl applyZone (s1.setPtr { s1.ptr with pend := [], setPend := [], opened := false, issued := 0, flights := [], done := false })
  if p.isEmpty then s2 else ptrRegs s2

/-- GPIO pins of the zone key (R337, R339): the levels sampled at step 4. -/
def keyGpio (s : State) : Nat :=
  (List.range 8).foldl (fun v j =>
    let pin := rdF s (if j < 4 then R.PTR_GSEL0 else R.PTR_GSEL1) (8 * (j % 4) + 5) (8 * (j % 4))
    v + b2n (s.inp.samp.testBit pin) * 2 ^ j) 0

/-- The taken values of the dual-channel pairs. -/
def dciTaken (s : State) : Nat := fld (rd s R.DCI_STATE) 15 0

/-- The key fields taken at the end of the boundary actions (R27, R338). -/
def ptrSnapshot (s : State) : State :=
  let regs := fun (lo hi : Nat) (f : Nat → Nat) (w : Word → Nat) =>
    s.regs.filterMap (fun e => if lo ≤ e.1 ∧ e.1 < hi then some (f e.1, w e.2) else none)
  let flags := (List.range 128).filterMap (fun q =>
    let w := rd s (R.SEQn_FLAGS q)
    if w = 0 then none else some (q, w.toNat))
  s.setPtr { s.ptr with
    grants := regs 0x91000 0x92000 (fun o => (o - 0x91000) / 4) (fun w => fld w 15 0), flags := flags
    twin := rdF s R.PTR_TWIN 3 0, gpio := keyGpio s, dci := dciTaken s, epar := sceneEpoch s % 2 }

/-- The zone state of R337. -/
def zoneState (s : State) (z : Nat) : Nat :=
  let d := zoneDesc s z
  let t := fld (dw d 0) 25 16
  t + z * 2 ^ 10 + SMap.getD s.strp.acts t 0 * 2 ^ 22 + s.ptr.dci * 2 ^ 86 +
    (if bit (dw d 1) 7 then SMap.getD s.ptr.flags (fld (dw d 1) 6 0) 0 * 2 ^ 102 else 0) +
    SMap.getD s.ptr.grants t 0 * 2 ^ 134 + s.ptr.twin * 2 ^ 150 + s.ptr.gpio * 2 ^ 154 + s.ptr.epar * 2 ^ 162

/-- A signal for a sequencer: the highest PRIO, and the lowest zone with it (R353); an IDLE one discards it (R360). -/
def postSignal (s : State) (q prio zone : Nat) : State :=
  if rdF s (R.SEQn_STATE q) 2 0 = 0 then s
  else
  let keep := match SMap.get s.ptr.signals q with
    | some (p, _) => if p < prio then (prio, zone) else (p, (SMap.getD s.ptr.signals q (0, 0)).2)
    | none => (prio, zone)
  s.setPtr { s.ptr with signals := SMap.put s.ptr.signals q keep }

/-- The selection on a miss (R343). -/
def missZone (s : State) (z : Nat) (x : ZoneSt) : State :=
  let d := zoneDesc s z
  match fld (dw d 0) 2 1 with
  | 1 => setZone s z { x with rule := none, held := true }
  | 2 =>
    let n := fld (dw d 1) 31 20
    let ok := owner s 0x13 n == some (fld (dw d 0) 25 16)
    let s1 := if ok then s else ptrCond s 4 z
    let set := if ok then some n else none
    rampZone (setZone s1 z { x with rule := none, set := set, missed := true, held := false }) z (zoneMissRamp d) (targetGains s1 set)
  | _ => rampZone (setZone s z { x with rule := none, set := none, missed := true, held := false }) z (zoneMissRamp d) (targetGains s none)

/-- The selection by an accepted hit (R344, R345, R348, R353). -/
def hitZone (s : State) (z : Nat) (x : ZoneSt) (addr ad : Nat) : State :=
  let d := zoneDesc s z
  let n := bits ad 11 0
  let ok := owner s 0x13 n == some (fld (dw d 0) 25 16)
  let s1 := if ok then s else ptrCond s 4 z
  let set := if ok then some n else none
  let entry := decide (x.rule ≠ some addr)
  let s2 := setZone s1 z { x with
    rule := some addr, set := set, missed := false, held := false, ramp := bits ad 23 12, prio := bits ad 27 24 }
  let s3 := if set = x.set then s2 else rampZone s2 z (if x.missed then zoneMissRamp d else bits ad 23 12) (targetGains s2 set)
  if entry && ad.testBit 35 then postSignal s3 (bits ad 34 28) (bits ad 27 24) z else s3

/-- A zone whose set changed under it ramps to the set as it stands (R346 to R348). -/
def followSet (s : State) (z : Nat) : State :=
  let x := zoneSt s z
  rampZone s z (if x.missed then zoneMissRamp (zoneDesc s z) else x.ramp) (targetGains s x.set)

/-- Cycle in which the i-th active zone's search enters its pipe (R122). -/
def zoneCycle (s : State) (i : Nat) : Nat := s.dkl.tickCyc + 512 + i / 2

/-- The i-th active zone's search enters its pipe (R122, R341). [Log 72: DEDUCED] -/
def issueZone (s : State) (e : Nat × Nat) : State :=
  let z := e.1
  let i := e.2
  let d := zoneDesc s z
  let p := zoneProfile d
  let c := zoneCycle s i
  let t := fld (dw d 0) 25 16
  let r := runSearch s p (buildKey s p { keySrc0 with zone := zoneState s z } t) t c
  let s1 := autoInvalidate s c (widthUnits (profWidth s p)) r.2
  s1.setPtr { s1.ptr with issued := i + 1, flights := s1.ptr.flights ++ [{ idx := i, zone := z, fails := r.2, res := r.1 }] }

/-- What a zone's result reports (R351 to R353): the zone, whether its rule index changed, and PRIO, entry address and SET of an action
with EVT = 1 on entry. -/
structure ZoneReport where
  zone : Nat
  changed : Bool
  event : Option (Nat × Nat × Nat)
  deriving DecidableEq, Repr

/-- A zone's result arrives and is turned into its selection in the same cycle (R342 to R349). [Log 72: DEDUCED] -/
def takeZone (a : State × List ZoneReport) (f : ZoneFlight) : State × List ZoneReport :=
  let s := a.1
  let z := f.zone
  let d := zoneDesc s z
  let p := zoneProfile d
  let s2 := f.fails.foldl (fun u x => reportFail u (f.idx % 2) (zoneCycle s f.idx) (widthUnits (profWidth s p)) x) s
  let s3 := reportDbad s2 (f.idx % 2) (zoneCycle s f.idx) f.res
  let addr := recAddr f.res
  let mine := regionKind s3 addr == 6 && regionTenant s3 addr == fld (dw d 0) 25 16
  let s4 := if recUsable f.res && !mine then ptrCond s3 4 z else s3
  let x := { zoneSt s4 z with dbad := bit f.res.w0 23, wmf := bit f.res.w0 22 }
  let hit := recUsable f.res && mine
  let ad := f.res.adLo.toNat + f.res.adHi.toNat * 2 ^ 32
  let s5 := if hit then hitZone s4 z x addr ad else missZone s4 z x
  let now := if hit then some addr else none
  let ev := if hit && decide (x.rule ≠ some addr) && ad.testBit 36 then some (bits ad 27 24, addr, bits ad 11 0) else none
  (followSet s5 z, a.2 ++ [{ zone := z, changed := decide (x.rule ≠ now), event := ev }])

/-- The bit of a zone in the change bitmap is set. -/
def chgBit (s : State) (z : Nat) : Bool := rdB s (R.PTR_CHGw (z / 16)) (z % 16)

/-- The reports of the results of one event tick (R351 to R354). -/
def tickReports (s : State) (l : List ZoneReport) : State :=
  let new := (l.filter (fun r => r.changed && !chgBit s r.zone)).map ZoneReport.zone
  let s1 := new.foldl (fun t z => setCondWith t (R.PTR_CHGw (z / 16)) 512 (2 ^ (z % 16)) [] 0 .newBits) s
  let s2 := match new with
    | [] => s1
    | z :: _ => fireSrc s1 224 (fld (dw (zoneDesc s z) 0) 25 16) (BitVec.ofNat 32 (z + new.length * 65536))
  match (l.filter (fun r => r.event.isSome)).getLast? with
  | some r =>
    let e := r.event.getD (0, 0, 0)
    setCondWith s2 R.PTR_STAT 225 1
      [(R.PTR_EVT, BitVec.ofNat 32 (r.zone + e.1 * 4096)), (R.PTR_EVT_RULE, BitVec.ofNat 32 e.2.1)]
      0 (.word (BitVec.ofNat 32 (r.zone + e.1 * 4096 + e.2.2 * 65536)))
  | none => s2

/-- The zone searches that enter their pipes before cycle c (R122, R349). -/
def issueZones (s : State) (c : Nat) : State :=
  let zs := activeZones s
  (((zs.zip (List.range zs.length)).drop s.ptr.issued).filter (fun e => decide (zoneCycle s e.2 < c))).foldl issueZone s

/-- The results that arrive before cycle c, each in cycle 28 of its search, are taken and reported (R127, R349). -/
def takeZones (s : State) (c : Nat) : State :=
  let due := s.ptr.flights.filter (fun f => decide (zoneCycle s f.idx + 28 < c))
  let a := due.foldl takeZone (s.setPtr { s.ptr with flights := s.ptr.flights.filter (fun f => !decide (zoneCycle s f.idx + 28 < c)) }, [])
  let s1 := tickReports a.1 a.2
  if s1.ptr.flights.isEmpty && s1.ptr.issued == (activeZones s1).length then s1.setPtr { s1.ptr with done := true } else s1

/-- The window in an event tick whose last cycle comes before cycle c: the zone searches that enter in it, then the results that arrive in
it (R122, R349). [Log 72: DEDUCED] -/
def windowTick (s : State) (c : Nat) : State :=
  if running s && s.dkl.started && s.ptr.opened && !s.ptr.done then takeZones (issueZones s c) c else s

/-- Class-gain words that upsets reached (R347). [Log 11: DESIGN CHOICE, 74: DEDUCED] -/
def gainUpsets (s : State) (l : List (BitVec 12 × BitVec 6)) : State :=
  l.foldl (fun t u =>
    let n := 64 * u.1.toNat + u.2.toNat
    setCondWith (t.setPtr { t.ptr with bad := t.ptr.bad ++ [n] }) R.PTR_STAT 226 8
      [(R.PTR_PERR, BitVec.ofNat 32 (0x4000 + n + 2 ^ 24)), (R.PTR_LAST, BitVec.ofNat 32 (3 * 65536))] 0 .newBits) s

/-- Descriptor words that upsets reached: the report of `PTR_PERR` with KIND 2. [Log 11: DESIGN CHOICE, 74: DEDUCED] -/
def zoneUpsets (s : State) (l : List (BitVec 12 × BitVec 1)) : State :=
  l.foldl (fun t u =>
    setCondWith t R.PTR_STAT 226 8
      [(R.PTR_PERR, BitVec.ofNat 32 (4 * u.1.toNat + u.2.toNat + 2 ^ 25)), (R.PTR_LAST, BitVec.ofNat 32 (u.1.toNat + 3 * 65536))]
      0 .newBits) s

/-- The parterre window may open: the present event tick holds one of its cycles, 512 to 2,559 of the deckle (R45). -/
def windowDue (s : State) : Bool :=
  running s && s.dkl.started && !s.ptr.opened && decide (512 < deckleCycle s (s.dkl.cyc + tickCycles s)) && decide (deckleCycle s s.dkl.cyc < 2560)

/-- PARTERRE_WINDOW (R122): the window of this deckle opens, once in each; EVENT_TICK runs its searches in their cycles.
[Log 72: DEDUCED, 74: DEDUCED] -/
def execParterreWindow (gains : List (BitVec 12 × BitVec 6)) (descs : List (BitVec 12 × BitVec 1)) (s : State) :
    Host.Outcome State Fault Refusal :=
  .next (if windowDue s then
      let s1 := zoneUpsets (gainUpsets s gains) descs
      s1.setPtr { s1.ptr with opened := true }
    else s)

/-- `PTR_ZSTAT0` and `PTR_ZSTAT1` of a zone. -/
def zoneStat (s : State) (z : Nat) : Word × Word :=
  let x := zoneSt s z
  let ramping := match SMap.get s.ptr.ramps z with
    | some r => decide (r.k + 1 < r.len)
    | none => false
  (BitVec.ofNat 32 (x.rule.getD 0 + b2n x.rule.isSome * 2 ^ 20 + b2n x.held * 2 ^ 21 + b2n x.wmf * 2 ^ 22 + b2n x.dbad * 2 ^ 23
      + (if x.missed then 0 else x.prio) * 2 ^ 24),
    BitVec.ofNat 32 (x.set.getD 0 + b2n x.set.isNone * 2 ^ 12 + b2n ramping * 2 ^ 13))

/-- A read of `PTR_ZSTAT0` or `PTR_ZSTAT1` by a function: a zone of an unbound tenant reads zero. -/
def zoneStatRead (s : State) (fn off : Nat) : Word × State :=
  let z := rdF s (regKey fn R.PTR_ZSEL) 11 0
  let w := if reachesObj s fn 0x12 z then zoneStat s z else (0, 0)
  if off = R.PTR_ZSTAT0 then (w.1, s.setPtr { s.ptr with latch := SMap.put s.ptr.latch fn w.2 })
  else match SMap.get s.ptr.latch fn with
    | some x => (x, s.setPtr { s.ptr with latch := SMap.del s.ptr.latch fn })
    | none => (w.2, s)

/-- ZONE_STATUS_READ: function fn reads `PTR_ZSTAT0`, or with hi `PTR_ZSTAT1`. -/
def execZoneStatusRead (fn : BitVec 6) (hi : Bool) (s : State) : Host.Outcome State Fault Refusal :=
  .next (let off := if hi then R.PTR_ZSTAT1 else R.PTR_ZSTAT0
    if accessOk s fn.toNat off then
      let r := zoneStatRead s fn.toNat off
      r.2.setAns r.1
    else s.setAns 0)

/-- The registers of the block whose value is that of the moment of the read (R351). -/
def ptrLive (s : State) (off : Nat) : Option Word :=
  if 0x90040 ≤ off ∧ off < 0x90060 then
    let k := (off - 0x90040) / 4
    some (BitVec.ofNat 32 ((List.range 32).foldl (fun v j => v + b2n (rdF s (R.PTR_CHGw (32 * k + j)) 15 0 != 0) * 2 ^ j) 0))
  else none

end Sys2Proof.Machine
end

