-- ==== Sys2Proof/Machine/Inputs.lean ====
section
/-! DEFINITION. Dual-channel inputs and GPIO (chapter 22). -/

namespace Sys2Proof.Machine

/-- The classification of a pair's sample (R569): 0 idle, 1 active, 2 disagreeing. -/
def classifyPair (cfg : Word) (a b : Bool) : Nat :=
  let high := bit cfg 2
  let anti := bit cfg 1
  let aOn := a == high
  let bOn := if anti then b != high else b == high
  if aOn && bOn then 1 else if !aOn && !bOn then 0 else 2

/-- The sample of pair n: its filter outputs at the last event tick (R64, R568). -/
def pairSample (s : State) (n : Nat) : Nat :=
  classifyPair (rd s (R.DCI_PAIRn_CFG n)) (s.inp.dciLvl.testBit n) (s.inp.dciLvl.testBit (16 + n))

/-- What one evaluation of a pair comes to (R571): fault, taken value, DIS, RA, and the condition bit reported. -/
structure PairEval where
  fault : Bool
  taken : Bool
  dis : Nat
  ra : Nat
  report : Option Nat
  deriving DecidableEq, Repr

/-- `evaluate(pair)` of R571 for an enabled pair. -/
def evalPair (s : State) (n : Nat) : PairEval :=
  let cfg := rd s (R.DCI_PAIRn_CFG n)
  let time := rd s (R.DCI_PAIRn_TIME n)
  let cnt := rd s (R.DCI_PAIRn_CNT n)
  let st := rd s R.DCI_STATE
  let smp := pairSample s n
  let taken := bit st n
  if bit st (16 + n) then
    if smp = 0 then
      let ra := fld cnt 31 16 + 1
      if ra = fld time 31 16 then { fault := false, taken := false, dis := fld cnt 15 0, ra := 0, report := some 16 }
      else { fault := true, taken := taken, dis := fld cnt 15 0, ra := ra, report := none }
    else { fault := true, taken := taken, dis := fld cnt 15 0, ra := 0, report := none }
  else if smp ≠ 2 then { fault := false, taken := decide (smp = 1), dis := 0, ra := fld cnt 31 16, report := none }
  else
    let dis := fld cnt 15 0 + 1
    if dis = fld time 15 0 + 1 then { fault := true, taken := bit cfg 3, dis := 0, ra := 0, report := some n }
    else { fault := false, taken := taken, dis := dis, ra := fld cnt 31 16, report := if dis = 1 then some 17 else none }

/-- The evaluation of a pair carried out (R571, R572, R580). -/
def runPair (s : State) (n : Nat) : State :=
  if !rdB s (R.DCI_PAIRn_CFG n) 0 then s
  else
    let e := evalPair s n
    let s1 := wr s (R.DCI_PAIRn_CNT n) (BitVec.ofNat 32 (e.dis + e.ra * 65536))
    let st := setFld (setFld (rd s R.DCI_STATE) n n (b2n e.taken)) (16 + n) (16 + n) (b2n e.fault)
    let s2 := wr s1 R.DCI_STATE st
    match e.report with
    | some b => setCondWith s2 R.DCI_STAT 243 (2 ^ b) [(R.DCI_LAST, BitVec.ofNat 32 (n + b * 65536))] 0 .newBits
    | none => s2

/-- Step 4 of a boundary (R62, R64, R568, R578): every pin sampled, every enabled pair evaluated; the values before it are
kept for the sequencers. -/
def inputsBoundary (s : State) : State :=
  let s1 := s.setInp { s.inp with samp := s.inp.lvl, sampPrev := s.inp.samp, takenPrev := dciTaken s }
  (List.range 16).foldl runPair s1

/-- The pairs on entry into LAID (R574). -/
def inputsEnterLaid (s : State) : State :=
  let safe := (List.range 16).foldl (fun v n =>
    let cfg := rd s (R.DCI_PAIRn_CFG n)
    v + b2n (bit cfg 0 && bit cfg 3) * 2 ^ n) 0
  wrAll s ((R.DCI_STATE, BitVec.ofNat 32 safe) :: (List.range 16).map (fun n => (R.DCI_PAIRn_CNT n, 0)))

/-- Pair n enters fault at the coming boundary (R572). -/
def faultDue (s : State) (n : Nat) : Bool := rdB s (R.DCI_PAIRn_CFG n) 0 && (evalPair s n).report == some n

/-- Pair n leaves its fault at the coming boundary (R573). -/
def rearmDue (s : State) (n : Nat) : Bool := rdB s (R.DCI_PAIRn_CFG n) 0 && (evalPair s n).report == some 16

/-- FILT of a pair as it reads (R16, R567). -/
def pairFilt (s : State) (n : Nat) : Nat := if running s then rdF s (R.DCI_PAIRn_CFG n) 15 8 else 0

/-- DCI_FILTER_CHANGE (R567): the level at the pin of channel A, or B with chanB, of pair n changes. Where it comes late, the
clock of the present event tick misses it (R54). It passes the synchroniser within two event ticks, and the filter takes it once it has held for FILT × 100 event ticks: EVENT_TICK advances both.
[Log 122: DEDUCED] -/
def execDciFilterChange (n : BitVec 4) (chanB level late : Bool) (s : State) : Host.Outcome State Fault Refusal :=
  .next (
    let i := n.toNat + (if chanB then 16 else 0)
    let put := fun (v : Nat) => v - b2n (v.testBit i) * 2 ^ i + b2n level * 2 ^ i
    s.setInp { s.inp with dciPin := put s.inp.dciPin, dciSeen := if late then s.inp.dciSeen else put s.inp.dciSeen })

/-- GPIO_LEVEL_CHANGE (R578): the level at a pin changes from outside. -/
def execGpioLevelChange (pin : BitVec 6) (level : Bool) (s : State) : Host.Outcome State Fault Refusal :=
  .next (s.setInp { s.inp with ext := s.inp.ext - b2n (s.inp.ext.testBit pin.toNat) * 2 ^ pin.toNat + b2n level * 2 ^ pin.toNat })

/-- The level of every pin: a driven one its own, any other the outside's (R577, R578). -/
def pinLevels (s : State) : Nat :=
  (List.range 64).foldl (fun v j =>
    v + b2n (if s.inp.drvEn.testBit j then s.inp.drvOut.testBit j else s.inp.ext.testBit j) * 2 ^ j) 0

/-- `GPIO_OUT` and `GPIO_DIR` as 64 bits. -/
def gpioOut (s : State) : Nat := (rd s R.GPIO_OUT0).toNat + (rd s R.GPIO_OUT1).toNat * 2 ^ 32
def gpioDir (s : State) : Nat := (rd s R.GPIO_DIR0).toNat + (rd s R.GPIO_DIR1).toNat * 2 ^ 32

/-- What the pins drive from the next event tick on (R576, R577): plain pins with DIR = 1, and the pulse outputs; `high` tells
the pulse outputs that are high. -/
def drivePins (s : State) (high : Nat → Bool) : State :=
  if !running s then s.setInp { s.inp with drvEn := 0 }
  else
    let kind := fun j => rdF s (R.GPIO_FNn j) 1 0
    let en := (List.range 64).foldl (fun v j => v + b2n (match kind j with
      | 0 => (gpioDir s).testBit j
      | 1 => true
      | _ => false) * 2 ^ j) 0
    let out := (List.range 64).foldl (fun v j =>
      v + b2n (if kind j = 1 then high (rdF s (R.GPIO_FNn j) 4 2) else (gpioOut s).testBit j) * 2 ^ j) 0
    s.setInp { s.inp with drvEn := en, drvOut := out }

/-- One channel's filter in an event tick whose synchronised level is `lvl` (R567): the filter output and the count of event ticks for
which that level has held against it. -/
def filterStep (filt : Nat) (lvl raw : Bool) (held : Nat) : Bool × Nat :=
  if lvl == raw then (raw, 0) else if filt * 100 ≤ held + 1 then (lvl, 0) else (raw, held + 1)

/-- The filters of the channels advance by one event tick (R567), from the synchronised levels `lvls`. -/
def filterChannels (s : State) (lvls : Nat) : State :=
  (List.range 32).foldl (fun t i =>
    let f := filterStep (pairFilt t (i % 16)) (lvls.testBit i) (t.inp.dciRaw.testBit i) (SMap.getD t.inp.dciHeld i 0)
    t.setInp { t.inp with
      dciRaw := t.inp.dciRaw - b2n (t.inp.dciRaw.testBit i) * 2 ^ i + b2n f.1 * 2 ^ i
      dciHeld := SMap.putD 0 t.inp.dciHeld i f.2 }) s

/-- The synchronisers and filters advance by one event tick (R54, R567, R578). [Log 122: DEDUCED] -/
def syncPins (s : State) : State :=
  filterChannels (s.setInp { s.inp with
    lvl := s.inp.st2, st2 := s.inp.st1, st1 := pinLevels s
    dciLvl := s.inp.dciRaw, dciSt2 := s.inp.dciSt1, dciSt1 := s.inp.dciSeen, dciSeen := s.inp.dciPin }) s.inp.dciSt1

/-- The registers of the block whose value is that of the moment of the read (R567, R578). -/
def inputsLive (s : State) (off : Nat) : Option Word :=
  if off = R.GPIO_IN0 then some (BitVec.ofNat 32 s.inp.st2)
  else if off = R.GPIO_IN1 then some (BitVec.ofNat 32 (s.inp.st2 / 2 ^ 32))
  else if off = R.DCI_RAW then some (BitVec.ofNat 32 s.inp.dciRaw)
  else none

end Sys2Proof.Machine
end

