-- ==== Sys2Proof/Machine/DeepStore.lean ====
section
/-! DEFINITION. The deep store (chapter 18): error correction, the scrubber, players, capture engines and the host aperture. -/

namespace Sys2Proof.Machine

/-- The word of a unit as the host aperture delivers it (R499): a word in an uncorrectable 64-bit word reads zero. -/
def apertureWord (s : State) (addr unc : Nat) : Word :=
  if unc.testBit (addr % 8 / 2) then 0 else BitVec.ofNat 32 (leNat (dstBytes s.dst (4 * addr) 4))

/-- A player that has never run. -/
def player0 : Player :=
  { now := none, cmds := [], next := [], issuer := none, stop := none, err := false, last := 0, lastLoop := false }

/-- A player's state. -/
def player (s : State) (n : Nat) : Player := SMap.getD s.dste.players n player0

/-- The state with a player replaced. -/
def setPlayer (s : State) (n : Nat) (p : Player) : State := s.setDste { s.dste with players := SMap.put s.dste.players n p }

/-- STATE of a player: 0 idle, 1 starting, 2 playing, 3 stopping. -/
def playerState (p : Player) : Nat :=
  if p.now.isSome || !p.next.isEmpty || !p.cmds.isEmpty then
    (if p.stop.isSome then 3 else if p.now.isSome then 2 else 1)
  else 0

/-- The sidebands as each arbiter sees them (R490, R492). [Log 121: DEDUCED] -/
def dstMask (s : State) : Nat :=
  if !dstServes s then 63
  else
    b2n ((rd s (R.DST_LAIDr 0)).toNat == 0) + b2n ((rd s (R.DST_LAIDr 1)).toNat == 0) * 2 +
      b2n (s.dste.players.all (fun e => playerState e.2 == 0)) * 4 + b2n s.dste.caps.isEmpty * 8 + b2n (!s.pwr.perstn) * 16

/-- The requests that wait at a pseudo-channel's arbiter, by rank (R493): staged capture units, queued host writes, and write-backs of the
scrubber. Ranks 0 to 2 are served within their stage. [Log 121: DEDUCED] -/
def dstReqs (s : State) (pc : Nat) : Nat :=
  b2n (s.dste.caps.any (fun e => e.2.stage.any (fun x => pseudo x.1 == pc))) * 8 +
    b2n (s.dste.queue.any (fun e => pseudo e.1 == pc)) * 16 + b2n (s.dste.writeBack.any (fun u => pseudo u == pc)) * 32

/-- The arbiter of a unit's pseudo-channel may grant a rank: it is not masked, and no unmasked request of a lower rank number waits there
(R492, R493). -/
def mayGrant (s : State) (unit rank : Nat) : Bool :=
  !(dstMask s).testBit rank &&
    (List.range rank).all (fun r => (dstMask s).testBit r || !(dstReqs s (pseudo unit)).testBit r)

/-- DST_SCRUB_READ (R501): the scrubber reads its next unit where its arbiter grants it (R493); corr and unc mark the 64-bit words with a
finding. -/
def execDstScrubRead (corr unc : BitVec 4) (s : State) : Host.Outcome State Fault Refusal :=
  let u := rdF s R.DST_SCRUB_POS 28 0
  .next (if mayGrant s u 5 then
      let s1 := granted (eccReports s 5 u corr.toNat unc.toNat) u 5
      let wb := if corr ≠ 0 ∧ unc = 0 then s1.dste.writeBack ++ [u] else s1.dste.writeBack
      let s2 := s1.setDste { s1.dste with writeBack := wb, granted := true }
      if u + 1 = 2 ^ 29 then
        dstCond (wr s2 R.DST_SCRUB_POS (BitVec.ofNat 32 (if rdB s R.DST_SCRUB_POS 31 then 0 else 2 ^ 31))) 3 []
      else wrF s2 R.DST_SCRUB_POS 28 0 (u + 1)
    else s)

/-- DST_SCRUB_WRITEBACK (R501): the oldest corrected unit that an arbiter grants is written back, its content unchanged. -/
def execDstScrubWriteback (s : State) : Host.Outcome State Fault Refusal :=
  .next (match s.dste.writeBack.find? (fun u => mayGrant s u 5) with
    | some u => granted (s.setDste { s.dste with writeBack := s.dste.writeBack.erase u, granted := true }) u 5
    | none => s)

/-- DST_SCRUB_STALL (R501): 4,096 consecutive deckles have passed without a grant. -/
def execDstScrubStall (s : State) : Host.Outcome State Fault Refusal :=
  .next (if 4096 ≤ s.dste.noGrant then dstCond (s.setDste { s.dste with noGrant := s.dste.noGrant - 4096 }) 4 [] else s)

/-- The bytes of a unit that a write from an offset covers. -/
def hostBytes (off : Nat) (data : List Byte) : List (Nat × Byte) :=
  (List.range (min data.length (32 - off))).map (fun i => (off + i, (data[i]?).getD 0))

/-- A host write of bytes of a unit, from an offset (R508). -/
def apertureWrite (s : State) (unit off : Nat) (data : List Byte) : State :=
  if 64 ≤ s.dste.queue.length then dstCond s 7 []
  else s.setDste { s.dste with queue := s.dste.queue ++ [(unit, hostBytes off data)] }

/-- A BAR2 write of several words by PF0, mirrored word by word (R462, R513). -/
def mirrorAll (s : State) (l : List (Nat × Word)) (go : State → State) : State :=
  match l with
  | [] => go s
  | (a, v) :: rest =>
    if rest = [] then mirrored s { addr := a, data := v, kind := 1, sel := 0, fn := 0 } go
    else mirrorAll (mirrored s { addr := a, data := v, kind := 1, sel := 0, fn := 0 } (fun t => t)) rest go

/-- The bytes of a unit after a queued write: what a partly written uncorrectable 64-bit word keeps is zero (R500). -/
def mergeUnit (old : List Byte) (new : List (Nat × Byte)) (unc : Nat) : List Byte :=
  (List.range 32).map (fun i =>
    match new.find? (fun e => e.1 == i) with
    | some e => e.2
    | none => if unc.testBit (i / 8) && new.any (fun e => e.1 / 8 == i / 8) then 0 else (old[i]?).getD 0)

/-- The words of a unit that a write through BAR2 touches, as mirror records carry them (R463): BAR2 address, and the word as it stands behind the
writes that wait. [Log 100: DEDUCED] -/
def barWords (s : State) (unit : Nat) (new : List (Nat × Byte)) : List (Nat × Word) :=
  let old := s.dste.queue.foldl (fun b e => if e.1 = unit then mergeUnit b e.2 0 else b) (dstBytes s.dst (32 * unit) 32)
  let now := mergeUnit old new 0
  ((List.range 8).filter (fun w => new.any (fun e => e.1 / 4 == w))).map (fun w =>
    (0x20000000 + (32 * unit + 4 * w) % 2 ^ 29, BitVec.ofNat 32 (leNat (slice now (4 * w) 4))))

/-- APERTURE_WRITE (R508): PF0 writes bytes of a unit through BAR2; every word that it touches is mirrored (R462). -/
def execApertureWrite (unit : BitVec 29) (off : BitVec 5) (data : List Byte) (s : State) : Host.Outcome State Fault Refusal :=
  .next (if barUp s then
      mirrorAll s (barWords s unit.toNat (hostBytes off.toNat data)) (fun t => apertureWrite t unit.toNat off.toNat data)
    else s)

/-- 64-bit words of a unit that a write covers in part (R500). -/
def partWords (new : List (Nat × Byte)) : Nat :=
  (List.range 4).foldl (fun v w =>
    let n := ((List.range 8).filter (fun i => new.any (fun e => e.1 == 8 * w + i))).length
    v + b2n (decide (0 < n) && decide (n < 8)) * 2 ^ w) 0

/-- A unit written from outside is what the lines and rings that hold it read from then on (R508). -/
def unitRewritten (s : State) (unit : Nat) : State :=
  s.strm.rx.foldl (fun t e => ringRewritten unit t e.1) (s.strp.desc.foldl (fun t e => lineRewritten unit t e.1) s)

/-- APERTURE_WRITE_SERVED (R500): the oldest queued write is granted where its arbiter has nothing of a lower rank number (R493); a write of
part of a 64-bit word reads the unit first, whose findings corr and unc mark (R499). -/
def execApertureWriteServed (corr unc : BitVec 4) (s : State) : Host.Outcome State Fault Refusal :=
  .next (match s.dste.queue with
    | [] => s
    | (u, new) :: q =>
      if mayGrant s u 4 then
        let part := partWords new
        let t := s.setDste { s.dste with queue := q }
        let s1 := if part = 0 then t else eccReports (granted t u 4) 4 u corr.toNat unc.toNat
        unitRewritten (writeUnit s1 u 4 (mergeUnit (dstBytes s1.dst (32 * u) 32) new (unc.toNat &&& part))) u
      else s)

/-- A host read of a word of the stack that is served (R490, R499). -/
def apertureRead (s : State) (addr corr unc : Nat) : Word × State :=
  if mayGrant s (addr / 8) 4 then (apertureWord s addr unc, granted (eccReports s 4 (addr / 8) corr unc) (addr / 8) 4) else (0, s)

/-- APERTURE_READ (R508): PF0's read of a word of the stack completes; corr and unc mark the findings in its unit. -/
def execApertureRead (addr : BitVec 32) (corr unc : BitVec 4) (s : State) : Host.Outcome State Fault Refusal :=
  .next (if !barUp s then s.setAns 0
    else if dstServes s && !mayGrant s (addr.toNat / 8) 4 then s
    else
      let r := apertureRead s addr.toNat corr.toNat unc.toNat
      r.2.setAns r.1)

/-- APERTURE_READ_TIMEOUT (R508): a read not served in time completes with zeros. [Log 8: DESIGN CHOICE] -/
def execApertureReadTimeout (s : State) : Host.Outcome State Fault Refusal :=
  .next (if barUp s then dstCond (s.setAns 0) 6 [] else s.setAns 0)

/-- A start of a player lands (R503): the last one of a deckle counts. -/
def playerStart (s : State) (n msg : Nat) (issuer : Option Nat) : State :=
  let p := player s n
  setPlayer s n { p with
    cmds := p.cmds.filter (fun c => c.at_ != s.dkl.num) ++ [{ at_ := s.dkl.num, msg := msg, clear := p.stop.isSome }], issuer := issuer }

/-- A stop of a player lands (R504); it stops the starts that landed before it as well. [Log 104: DEDUCED] -/
def playerStop (s : State) (n : Nat) : State :=
  let p := player s n
  if playerState p = 0 then s
  else
    setPlayer s n { p with
      stop := some (p.stop.getD ((s.dkl.num + 1) % 2 ^ 48, 0))
      cmds := p.cmds.map (fun c => { c with clear := false }), next := p.next.map (fun e => ({ e.1 with clear := false }, e.2)) }

/-- GO and STOP of `DST_PLAYn_CTL`. -/
def playerCtl (s : State) (n : Nat) (v : Word) : State :=
  if !running s then s
  else
    let s1 := if bit v 31 then playerStart s n (rdF s (R.DST_PLAYn_CTL n) 15 0) none else s
    if bit v 30 then playerStop s1 n else s1

/-- PLAYER_START (R503): function fn writes `DST_PLAYn_CTL` with GO and MSG. -/
def execPlayerStart (fn : BitVec 6) (n : BitVec 6) (msg : BitVec 16) (s : State) : Host.Outcome State Fault Refusal :=
  .next (let off := R.DST_PLAYn_CTL n.toNat
    if accessOk s fn.toNat off then
      let v := BitVec.ofNat 32 (2 ^ 31 + msg.toNat)
      playerCtl (plainWrite s fn.toNat off .base v) n.toNat v
    else s)

/-- PLAYER_STOP (R504): function fn writes `DST_PLAYn_CTL` with STOP. -/
def execPlayerStop (fn : BitVec 6) (n : BitVec 6) (msg : BitVec 16) (s : State) : Host.Outcome State Fault Refusal :=
  .next (let off := R.DST_PLAYn_CTL n.toNat
    if accessOk s fn.toNat off then
      let v := BitVec.ofNat 32 (2 ^ 30 + msg.toNat)
      playerCtl (plainWrite s fn.toNat off .base v) n.toNat v
    else s)

/-- The end of a player (R505, R509). -/
def playerEnd (s : State) (n cause msg : Nat) : State :=
  let s1 := wr s R.DST_PLAYLAST (BitVec.ofNat 32 (n + cause * 256))
  let s2 := fireSrc s1 196 ((owner s 0x18 n).getD 0) (BitVec.ofNat 32 (n + cause * 256 + msg * 65536))
  match (player s n).issuer with
  | some q => s2.setDste { s2.dste with pdone := s2.dste.pdone ++ [q] }
  | none => s2

/-- A unit lies in the message store (R491). [Log 104: DEDUCED] -/
def inMessages (s : State) (first count : Nat) : Bool :=
  let r := item s (declKey 3 2)
  decide (bits r 13 0 * 32768 ≤ first) && decide (first + count ≤ (bits r 13 0 + bits r 29 16) * 32768)

/-- The directory fetch of a start that landed in a deckle before the current one (R502, R503, R505). [Log 104: DEDUCED] -/
def fetchStart (ecc : Ecc) (n : Nat) (s : State) (c : PlayCmd) : State :=
  let u := (rd s R.DST_MSG).toNat % 2 ^ 29 + c.msg
  let f := fun off => leNat (dstBytes s.dst (32 * u + off) 4)
  let start := f 0 % 2 ^ 29
  let len := f 4
  let ok := decide (c.msg < rdF s R.DST_MSGN 16 0) && dstServes s && inMessages s u 1 && !unitLost ecc u && (f 8).testBit 0 &&
    decide (0 < len) && inMessages s start (ceilDiv len 8)
  let s1 := unitsRead ecc 2 [u] s
  let p := player s1 n
  if ok then
    let m : Message := { num := c.msg, start := start, len := len, loop := (f 8).testBit 1, gain := sext 32 (f 12), clear := c.clear }
    setPlayer s1 n { p with next := p.next ++ [(m, (c.at_ + 2) % 2 ^ 48)], err := false }
  else
    playerEnd (setPlayer s1 n { p with now := none, next := [], stop := none, err := true, last := c.msg, lastLoop := false }) n 2 c.msg

/-- The directory fetches of a player in a deckle (R503). [Log 104: DEDUCED] -/
def playerFetch (ecc : Ecc) (s : State) (n : Nat) : State :=
  let p := player s n
  (p.cmds.filter (fun c => c.at_ != s.dkl.num)).foldl (fetchStart ecc n)
    (setPlayer s n { p with cmds := p.cmds.filter (fun c => c.at_ == s.dkl.num) })

/-- One sample of a message (R502, R505); a lost unit is silent. -/
def messageSample (s : State) (n : Nat) (m : Message) (i : Nat) : Int :=
  if s.dste.missed.contains (n, m.start + i / 8) || !dstServes s then 0
  else satQ ((unitSample s (m.start + i / 8) (i % 8) * m.gain + 2 ^ 26) / 2 ^ 27)

/-- The sample of a message after sample i, none past its end (R504). -/
def messageNext (m : Message) (i : Nat) : Option (Message × Nat) :=
  if i + 1 < m.len then some (m, i + 1) else if m.loop then some (m, 0) else none

/-- What a player carries through a block. -/
structure PlayRun where
  p : Player
  out : List Int
  /-- The end that it meets: cause and message. -/
  ended : Option (Nat × Nat)

/-- The message of a player's report: the one in play, else the one that was to begin. -/
def playerMsg (p : Player) : Nat :=
  match p.now with
  | some (m, _) => m.num
  | none => ((p.next.map (fun e => e.1.num) ++ p.cmds.map PlayCmd.msg).getLast?).getD p.last

/-- One sample of player n (R504): b is the block. -/
def playSample (s : State) (n b : Nat) (r : PlayRun) : PlayRun :=
  let fading : Bool := match r.p.stop with | some (at_, _) => !inPast 48 b at_ | none => false
  let k := match r.p.stop with | some (_, k) => k | none => 0
  let raw := match r.p.now with
    | some (m, i) => messageSample s n m i
    | none => 0
  let y := if fading then raw * (31 - (k : Int)) / 32 else raw
  let now := match r.p.now with
    | some (m, i) => messageNext m i
    | none => none
  if fading ∧ k = 31 then
    { p := { r.p with now := none, next := r.p.next.filter (fun e => e.1.clear), cmds := r.p.cmds.filter PlayCmd.clear, stop := none }
      out := r.out ++ [y], ended := some (1, playerMsg r.p) }
  else
    { p := { r.p with now := now, stop := match r.p.stop with | some (a, k) => some (a, if fading then k + 1 else k) | none => none }
      out := r.out ++ [y]
      ended := if r.p.now.isSome && now.isNone then some (0, playerMsg r.p) else r.ended }

/-- The player as block b begins: a start whose block it is begins, one that landed after the STOP that runs without its ramp (R503). -/
def playerBegin (b : Nat) (p : Player) : Player :=
  let due := fun (e : Message × Nat) => e.2 == b || inPast 48 e.2 b
  match (p.next.filter due).getLast? with
  | some (m, _) =>
    { p with now := some (m, 0), next := p.next.filter (fun e => !due e), stop := if m.clear then none else p.stop, last := m.num, lastLoop := m.loop }
  | none => p

/-- The units that a player reads for the samples of a block (R502). -/
def playerUnits (p : Player) (count : Nat) : List Nat :=
  (((List.range count).foldl (fun (a : List Nat × Option (Message × Nat)) _ => match a.2 with
    | some (m, i) => (a.1 ++ [m.start + i / 8], messageNext m i)
    | none => a) ([], p.now)).1).eraseDups

/-- The lost units of a player after a block: the one that it is still reading. -/
def keepMissed (n : Nat) (p : Player) (l : List (Nat × Nat)) : List (Nat × Nat) :=
  l.filter (fun e => e.1 != n || (match p.now with | some (m, i) => e.2 == m.start + i / 8 | none => false))

/-- Stage A of player n for block b (R503 to R505). -/
def playerBlock (ecc : Ecc) (b : Nat) (s : State) (n : Nat) : State :=
  let p := playerBegin b (player s n)
  if p.now.isNone && p.stop.isNone then setPlayer s n p
  else
    let us := playerUnits p (nSamples s)
    let s1 := unitsRead ecc 2 us s
    let s2 := s1.setDste { s1.dste with missed := s1.dste.missed ++ (us.filter (unitLost ecc)).map (fun u => (n, u)) }
    let r := (List.range (nSamples s)).foldl (fun r _ => playSample s2 n b r) { p := p, out := [], ended := none }
    let idle := r.p.now.isNone && r.p.next.isEmpty && r.p.cmds.isEmpty
    let s3 := setPlayer s2 n (if idle then { r.p with stop := none } else r.p)
    let s4 := (s3.setDste { s3.dste with missed := keepMissed n r.p s3.dste.missed }).setAud { s3.aud with inW := SMap.put s3.aud.inW (16320 + n) r.out }
    match r.ended with
    | some (cause, msg) => if idle then playerEnd s4 n cause msg else s4
    | none => s4

/-- The players of stage A for block b (R492, R503 to R505): the block of each player, then the directory fetches, with the
reports of what their reads met. -/
def playersStageA (s : State) (b : Nat) (ecc : Ecc) : State :=
  let ids := s.dste.players.map Prod.fst
  ids.foldl (playerFetch ecc) (ids.foldl (playerBlock ecc b) s)

/-- The unit of a request of rank 0 to 2, as the request names it: of a player's, the unit given (R498). -/
def reqUnit (s : State) (r : DstReq) (unit : Nat) : Option Nat :=
  match r with
  | .line _ n age => (agedUnit s n age).map (lineUnit s n (stDmax (stripDesc s n)))
  | .felt _ n c slot => if feltDeep (rxDesc s n) then some (feltUnit s n c (slot / 8)) else none
  | .player _ => if inMessages s unit 1 then some unit else none

/-- DEADLINE_MISS (R498): a request is abandoned; a read gives silence for the 8 samples of its unit, a write leaves what the
unit held before. unit is the unit's address. [Log 103: DESIGN CHOICE, 121: DEDUCED] -/
def missRequest (s : State) (r : DstReq) (unit : Nat) : State :=
  match r with
  | .line false n age =>
    match agedUnit s n age with
    | some u => muteUnit s n u
    | none => s
  | .line true n age =>
    let st := stripSt s n
    let ring := longRing (stDmax (stripDesc s n))
    let line := (List.range 8).foldl (fun l i => lineSet l (age + i) (l.getD (age + i + ring) 0)) st.line
    let s1 := setStrip s n { st with line := line }
    s1.setDst (dstPutBytes s1.dst (32 * unit) (unitBytes ((List.range 8).map (fun m => line.getD (age + 7 - m) 0))))
  | .felt false n c slot => ringChannel s n c (slot / 8) (fun _ => 0)
  | .felt true n c slot =>
    let old := fun i => ((SMap.getD s.strm.was (n * 65536 + 8 * (slot / 8) + i) [])[c]?).getD (unitSample s unit i)
    let s1 := ringChannel s n c (slot / 8) old
    s1.setDst (dstPutBytes s1.dst (32 * unit) (unitBytes ((List.range 8).map old)))
  | .player n => s.setDste { s.dste with missed := s.dste.missed ++ [(n, unit)] }

/-- Rank of a request. -/
def reqRank (r : DstReq) : Nat :=
  match r with
  | .line _ _ _ => 0
  | .felt _ _ _ _ => 1
  | .player _ => 2

/-- DEADLINE_MISS (R498). -/
def execDeadlineMiss (req : DstReq) (unit : BitVec 29) (s : State) : Host.Outcome State Fault Refusal :=
  .next (if running s && reqUnit s req unit.toNat == some unit.toNat then
      dstCond (missRequest s req unit.toNat) 2 [(R.DST_MISS, BitVec.ofNat 32 (unit.toNat / 8 % 32 + reqRank req * 32 + s.dkl.num % 65536 * 65536))]
    else s)

/-- Channels of a capture engine. -/
def capCh (cfg : Word) : Nat := fld cfg 21 16 + 1

/-- The samples of a channel of an engine: a destination after stage C, or an input-plane index after stage A (R506). -/
def capSamples (s : State) (cfg : Word) (c : Nat) : List Int :=
  let i := fld cfg 13 0 + c
  SMap.getD (if bit cfg 30 then s.aud.inW else s.aud.outC) i (List.replicate (nSamples s) 0)

/-- A full group is staged, or discarded where the stage has no room for it (R506, R507). [Log 102: DESIGN CHOICE] -/
def capGroup (s : State) (k : Nat) (x : Capture8) : State × Capture8 :=
  let ch := capCh x.cfg
  let len := (rd s (R.DST_CAPk_LEN k)).toNat % 2 ^ 29
  let base := (rd s (R.DST_CAPk_BASE k)).toNat % 2 ^ 29
  let x' := { x with acc := [], group := x.group + 1 }
  if 128 < x.stage.length + ch then (dstCond s 5 [], x')
  else
    (s, { x' with stage := x.stage ++ (List.range ch).map (fun c =>
      (base + (x.group * ch + c) % max 1 len, unitBytes (x.acc.map (fun smp => (smp[c]?).getD 0)), c + 1 == ch)) })

/-- The staged units that the arbiters grant: all but the last `left` (R493, R507). -/
def capDrain (left : Nat) (s : State) (x : Capture8) : State × Capture8 :=
  let go := x.stage.take (x.stage.length - left)
  (go.foldl (fun t e => writeUnit t e.1 3 e.2.1) s,
    { x with stage := x.stage.drop go.length, written := x.written + (go.filter (fun e => e.2.2)).length })

/-- Capture engine k over block d (R506): without a grant while the deep store serves nobody (R490). [Log 102: DESIGN CHOICE] -/
def capBlock (inputs : Bool) (d : Nat) (waits : List (BitVec 3 × BitVec 8)) (s : State) (e : Nat × Capture8) : State :=
  let k := e.1
  if bit e.2.cfg 30 ≠ inputs then s
  else
    let chans := (List.range (capCh e.2.cfg)).map (capSamples s e.2.cfg)
    let r := (List.range (nSamples s)).foldl (fun (a : State × Capture8) i =>
      let idx := d * nSamples s + i
      if a.2.acc = [] ∧ idx % 8 ≠ 0 then a
      else
        let x : Capture8 := { a.2 with acc := a.2.acc ++ [chans.map (fun l => (l[i]?).getD 0)] }
        if x.acc.length < 8 then (a.1, x) else capGroup a.1 k x) (s, e.2)
    let left := if dstServes s then ((waits.find? (fun w => w.1.toNat == k)).map (fun w => w.2.toNat)).getD 0 else r.2.stage.length
    let g := capDrain left r.1 r.2
    let next := if g.2.acc = [] then ((d * nSamples s + nSamples s + 7) / 8) * 8 else d * nSamples s + nSamples s - g.2.acc.length
    wrAll (g.1.setDste { g.1.dste with caps := SMap.put g.1.dste.caps k g.2 })
      [(R.DST_CAPk_WPTR k, BitVec.ofNat 32 g.2.written), (R.DST_CAPk_SAMP k, BitVec.ofNat 32 next)]

/-- The capture engines of a stage over block d; waits says how many staged units of an engine stay without a grant (R506, R507).
[Log 102: DESIGN CHOICE] -/
def capStage (s : State) (inputs : Bool) (d : Nat) (waits : List (BitVec 3 × BitVec 8)) : State := s.dste.caps.foldl (capBlock inputs d waits) s

/-- The capture engines at a boundary (R506): enables and changes land whole. -/
def capBoundary (s : State) : State :=
  (List.range 8).foldl (fun t k =>
    let cfg := rd t (R.DST_CAPk_CFG k)
    let now := SMap.get t.dste.caps k
    if bit cfg 31 then
      if (now.map Capture8.cfg) = some cfg then t
      else
        let t1 := t.setDste { t.dste with caps := SMap.put t.dste.caps k { cfg := cfg, acc := [], group := 0, written := 0, stage := [] } }
        wrAll t1 [(R.DST_CAPk_WPTR k, 0), (R.DST_CAPk_SAMP k, 0)]
    else if now.isSome then t.setDste { t.dste with caps := SMap.del t.dste.caps k } else t) s

/-- `DST_PLAYn_STAT` (R375). -/
def playerStat (s : State) (n : Nat) : Word :=
  let p := player s n
  let st := playerState p
  let last := match p.now with | some (m, _) => m.num | none => p.last
  let loop := match p.now with | some (m, _) => m.loop | none => p.lastLoop
  BitVec.ofNat 32 (st + b2n loop * 8 + b2n p.err * 16 + last * 65536)

/-- The registers of the block whose value is that of the moment of the read. [Log 121: DEDUCED] -/
def dstLive (s : State) (off : Nat) : Option Word :=
  if 0xE0100 ≤ off ∧ off < 0xE0180 then
    let n := (off - 0xE0100) / 4
    some (BitVec.ofNat 32 (rdF s off 2 0 + b2n (s.dste.busy.testBit n) * 2 ^ 7 + dstReqs s n * 2 ^ 8 + dstMask s * 65536))
  else if 0xE1000 ≤ off ∧ off < 0xE1400 then
    let n := (off - 0xE1000) / 16
    match (off - 0xE1000) % 16 with
    | 4 => some (playerStat s n)
    | 8 => some (BitVec.ofNat 32 (match (player s n).now with | some (_, i) => i | none => 0))
    | _ => none
  else none

/-- A ring of a capture engine breaks R506. [Log 32: DEDUCED] -/
def capRingBad (cfg len : Nat) : Bool := decide (len % (bits cfg 21 16 + 1) ≠ 0) || cfg.testBit 31 && decide (len = 0)

/-- A write of a register of the block with an effect of its own; a capture whose ring would break R506 is refused (R89).
[Log 102: DESIGN CHOICE] -/
def dstWrite (s : State) (off : Nat) (q : Quarter) (w v : Word) : Option State :=
  if 0xE1000 ≤ off ∧ off < 0xE1400 ∧ off % 16 = 0 then
    let s1 := wr s off w
    some (if q = .base then playerCtl s1 ((off - 0xE1000) / 16) v else s1)
  else if 0xE2000 ≤ off ∧ off < 0xE2100 ∧ off % 32 = 0 then
    let len := (rd s (off + 8)).toNat % 2 ^ 29
    some (if capRingBad w.toNat len then rtRefuse s 0xE 0 4 off w.toNat else wr s off w)
  else none

end Sys2Proof.Machine
end

