-- ==== Sys2Proof/Machine/Edarlink.lean ====
section
/-! DEFINITION. Edarlink (chapter 14): the parley, markers and time transfer, presence and loss, the paths of chapter 15, the
front end of received frames, audio flows, tunnelled Ethernet and maintenance. -/

namespace Sys2Proof.Machine

/-- A port of which nothing is known. -/
def edl0 : EdlPort :=
  { page := [], equal := 0, accepted := false, gotAck := false, ackSent := false, lanes := 0, failed := 0, tried := 0, marker := false
    gotNow := false, gotPrev := false, eligible := 0, mFlags := 0, mHops := 0, mRoot := 0, mPep := 0, pepDiff := 0
    sent := none, answered := none, echo := none, join := none, fseq := 0, txBox := [], rxBox := [] }

/-- What Edarlink port n holds. -/
def edlP (s : State) (n : Nat) : EdlPort := SMap.getD s.edl.ports n edl0

/-- The state with what port n holds replaced. -/
def setEdl (s : State) (n : Nat) (p : EdlPort) : State := s.setEdl { s.edl with ports := SMap.put s.edl.ports n p }

/-- STATE, MODE and PARTNER of `EDL_PORTn_LINK`. -/
def edlState (s : State) (n : Nat) : Nat := rdF s (R.EDL_PORTn_LINK n) 2 0
def edlMode (s : State) (n : Nat) : Nat := rdF s (R.EDL_PORTn_LINK n) 6 4
def edlPartner (s : State) (n : Nat) : Nat := rdF s (R.EDL_PORTn_LINK n) 27 16

/-- The device's own ID. -/
def devId (s : State) : Nat := rdF s R.EDL_CFG 11 0

/-- The device participates on a port (R407). -/
def participates (s : State) (n : Nat) : Bool :=
  decide (s.dev = .laid) && s.dkl.started && !rdB s (R.EDL_PORTn_CTL n) 12

/-- The REASON of the PNP that a port sends, where it sends PNP (R407). -/
def ownReason (s : State) (n : Nat) : Option Nat :=
  if participates s n then none
  else if s.dev = .lifting then some 1
  else if s.dev ≠ .laid then some 0
  else if rdB s (R.EDL_PORTn_CTL n) 12 then some 3 else some 2

/-- A port carries frames: it is UP and the device participates (R386, R407). -/
def edlUp (s : State) (n : Nat) : Bool := decide (n < 4) && edlState s n == 4 && participates s n

/-- Codeword time of a mode in 0.1 ns (R377). -/
def modeTenths (m : Nat) : Nat :=
  match m with | 1 => 2048 | 2 => 1024 | 3 => 1024 | 4 => 512 | 5 => 512 | _ => 256

/-- The capacity of a mode in bytes per deckle (R413): fs_max is the nominal rate times 1.0002 (R43). -/
def modeCap (s : State) (m : Nat) : Nat :=
  16 * (39 * (nSamples s * 10 ^ 18 / (fsHz s * 10002 * 10001 * modeTenths m)) - 64)

/-- MODES of the device's own page (R381). -/
def ownModes (s : State) (n : Nat) : Nat :=
  let c := rd s (R.EDL_PORTn_CTL n)
  (List.range 6).foldl (fun v i =>
    let m := i + 1
    let ok := decide (fld c 10 8 ≤ m) && decide (m ≤ fld c 6 4) && (!edlGen1 s n || m == 1 || m == 2 || m == 4) &&
      !(edlP s n).failed.testBit i
    v + b2n ok * 2 ^ i) 0

/-- CAPS of the device's own page (R381): trellis buses and epoch fields need generation 2. [Log 81: DEDUCED] -/
def ownCaps (s : State) (n : Nat) : Nat :=
  (if edlGen1 s n then 0 else 9) + 2 + (if edlRole s n = 2 then 4 else 0)

/-- The capability page a port sends on a lane (R381). [Log 81: DEDUCED] -/
def ownPage (s : State) (n lane : Nat) : List Byte :=
  let p := edlP s n
  let d := rd s R.DKL_CFG
  let b := leBytes 1 0xA5 ++ leBytes 1 ((if edlGen1 s n then 1 else 2) + lane % 4 * 16 + b2n p.accepted * 64) ++
    leBytes 2 (devId s) ++ leBytes 1 (ownModes s n) ++ leBytes 1 p.lanes ++ leBytes 1 (fld d 2 0 + fld d 6 4 * 16) ++
    leBytes 1 (ownCaps s n) ++ leBytes 4 (rd s R.EDL_SYSTEM).toNat ++ leBytes 2 (rdF s R.EDL_ROOT 11 0) ++ leBytes 2 256 ++
    leBytes 1 (edlRole s n) ++ leBytes 1 p.tried ++ List.replicate 42 0
  b ++ leBytes 4 (crc32c b)

/-- A condition of `EDL_PORTn_HEAL` (R424, R443). -/
def healCond (s : State) (n b : Nat) : State := setCond s (R.EDL_PORTn_HEAL n) (160 + 8 * n + 7) (2 ^ b)

/-- KIND of the system, and the function, RING, SUBST and range of a port (R416, R417). -/
def topoKind (s : State) : Nat := rdF s R.EDL_TOPO 2 0
def portFn (s : State) (n : Nat) : Nat := rdF s (R.EDL_PORTn_TOPO n) 2 0
def portRing (s : State) (n : Nat) : Bool := rdB s (R.EDL_PORTn_TOPO n) 3
def portSubst (s : State) (n : Nat) : Nat := rdF s (R.EDL_PORTn_TOPO n) 5 4
def inRange (s : State) (n d : Nat) : Bool :=
  decide (rdF s (R.EDL_PORTn_TOPO n) 17 6 ≤ d) && decide (d ≤ rdF s (R.EDL_PORTn_TOPO n) 29 18)

/-- The port with a function on a ring. -/
def ringPort (s : State) (fn : Nat) (ring : Bool) : Option Nat :=
  (List.range 4).find? (fun n => portFn s n == fn && (topoKind s == 2 || portRing s n == ring))

/-- A bypass whose primary is UP: it takes and sends no frame (R419). -/
def idleBypass (s : State) (n : Nat) : Bool := topoKind s == 1 && portFn s n == 4 && edlUp s (portSubst s n)

/-- A port carries frames now (R419, R422 to R424). -/
def carries (s : State) (n : Nat) : Bool := edlUp s n && !idleBypass s n

/-- A port has a place in the paths of its system (R416, R417). -/
def placed (s : State) (n : Nat) : Bool :=
  match topoKind s, portFn s n with
  | 1, 1 | 1, 4 | 3, 2 | 3, 3 => true
  | _, _ => false

/-- One port's place recomputed (R424). -/
def healPort (s : State) (n : Nat) : State :=
  let now := carries s n
  if now = rdB s (R.EDL_PORTn_TOPO n) 30 then s
  else
    let s1 := wrF s (R.EDL_PORTn_TOPO n) 30 30 (b2n now)
    if !placed s n then s1
    else if now then healCond s1 n (if portFn s n = 4 then 4 else 1) else healCond s1 n 0

/-- A wrap bit of a KIND 2 ring recomputed (R423): fn is the ring port's function, b its bit of `EDL_TOPO`. [Log 91: DEDUCED] -/
def healWrap (s : State) (fn b : Nat) : State :=
  match ringPort s fn false with
  | some n =>
    let lost := !edlUp s n
    if topoKind s ≠ 2 ∨ lost = rdB s R.EDL_TOPO b then s
    else healCond (wrF s R.EDL_TOPO b b (b2n lost)) n (if lost then 2 else 3)
  | none => s

/-- The paths recomputed (R422). [Log 91: DEDUCED] -/
def heal (s : State) : State := healWrap (healWrap ((List.range 4).foldl healPort s) 3 7) 2 6

/-- The tunnel port of an Edarlink port goes down, with the flush of R220. -/
def tunnelDown (s : State) (n : Nat) : State :=
  if rdB s (R.EDL_PORTn_LINK n) 28 then linkLossFlush (wrF s (R.EDL_PORTn_LINK n) 28 28 0) (16 + n) else s

/-- The timing port leaves UP: the device is unlocked (R405). [Log 87: DEDUCED] -/
def timingLost (s : State) (n : Nat) : State :=
  if tbDisc s = 3 ∧ edlState s n = 4 ∧ rdB s R.EDL_TIME 2 = true ∧ rdF s R.EDL_TIME 1 0 = n ∧ tbAcquiring s = false then
    let s1 := wrF (s.setTb { s.tb with good := 0, bad := 0 }) R.EDL_TIME 5 4 3
    if rdB s1 R.TB_DISC 8 then edlCond (wrF s1 R.TB_DISC 8 8 0) n 13 else s1
  else s

/-- Frames that wait at a port that is not UP are discarded; one in transit sets TXDROP (R392). -/
def dropFrames (s : State) (n : Nat) : State :=
  let x := edlTx s n
  let s1 := setEdlTx s n { x with frames := [], now := [], abort := false, box := false }
  if x.frames.any EdlWait.transit then edlCond s1 n 7 else s1

/-- A port starts the parley (R380): what waited to be sent is dropped. [Log 81: DEDUCED] -/
def parley (s : State) (n : Nat) : State :=
  let s1 := setEdlTx (dropFrames (tunnelDown (timingLost s n) n) n) n edlTx0
  let l := setFld (setFld (setFld (rd s1 (R.EDL_PORTn_LINK n)) 2 0 1) 6 4 0) 7 7 0
  let s2 := wrAll s1 [(R.EDL_PORTn_LINK n, l), (R.EDL_PORTn_CAP n, 0)]
  let p := edlP s2 n
  heal (setEdl s2 n { edl0 with
    lanes := p.lanes, failed := p.failed, tried := p.tried, fseq := p.fseq, txBox := p.txBox, rxBox := p.rxBox })

/-- A port of role 1 or 2 begins the parley on entry into LAID (R98, R380); a port of role 0 stays off (R376). -/
def portStart (s : State) (n : Nat) : State :=
  let r := edlRole s n
  if (r = 1 ∨ r = 2) ∧ edlState s n = 0 then parley s n else s

/-- PARLEY_START (R380): a port of role 1 or 2 that is off. -/
def execParleyStart (n : BitVec 2) (s : State) : Host.Outcome State Fault Refusal :=
  .next (if s.dev = .laid then portStart s n.toNat else s)

/-- The CRC-32C over all but the last four bytes holds. -/
def crcGood (bs : List Byte) : Bool :=
  decide (4 ≤ bs.length) && leNat (bs.drop (bs.length - 4)) == crc32c (bs.take (bs.length - 4))

/-- A little-endian field of a byte string. -/
def lef (bs : List Byte) (off len : Nat) : Nat := leNat (slice bs off len)

/-- Bytes 0 to 59 of a page with LANE and ACK left out (R382). -/
def pageNorm (bs : List Byte) : List Byte :=
  bs.take 1 ++ leBytes 1 (lef bs 1 1 - lef bs 1 1 / 16 % 8 * 16) ++ slice bs 2 58

/-- The field in which two pages differ first, in the order of R383: bit number of `EDL_PORTn_PART.FIELD`. -/
def pageDiff (a b : List Byte) : Option Nat :=
  if lef a 1 1 % 16 ≠ lef b 1 1 % 16 then some 0
  else if lef a 6 1 % 8 ≠ lef b 6 1 % 8 ∨ lef a 6 1 / 16 % 8 ≠ lef b 6 1 / 16 % 8 then some 1
  else if lef a 8 4 ≠ lef b 8 4 then some 2
  else if lef a 12 2 % 4096 ≠ lef b 12 2 % 4096 then some 3
  else if lef a 16 1 % 4 ≠ lef b 16 1 % 4 then some 4
  else none

/-- The common modes of a port (R384). -/
def commonModes (s : State) (n : Nat) : Nat :=
  let p := edlP s n
  let lanes := p.lanes &&& (lef p.page 5 1 % 16)
  (List.range 6).foldl (fun v i =>
    let w := 2 ^ modeLanes (i + 1) - 1
    v + b2n ((ownModes s n).testBit i && (lef p.page 4 1).testBit i && lanes &&& w == w) * 2 ^ i) 0

/-- The comparison of the pages once the parley is complete, and what follows (R383 to R385). -/
def judgePages (s : State) (n : Nat) : State :=
  let p := edlP s n
  match pageDiff (ownPage s n 0) p.page with
  | some f =>
    let s1 := wrF (wrF s (R.EDL_PORTn_PART n) 4 0 (2 ^ f)) (R.EDL_PORTn_LINK n) 2 0 6
    if edlState s n = 6 then s1 else edlCond s1 n 3
  | none =>
    let c := commonModes s n
    let part := BitVec.ofNat 32 (c * 65536 + (p.lanes &&& (lef p.page 5 1 % 16)) * 4096 + p.failed * 64)
    let s1 := wr s (R.EDL_PORTn_PART n) part
    match highestBit 6 c with
    | none => edlCond (wrF s1 (R.EDL_PORTn_LINK n) 2 0 5) n 2
    | some i =>
      let l := setFld (setFld (rd s1 (R.EDL_PORTn_LINK n)) 2 0 2) 6 4 (i + 1)
      setEdl (wrAll s1 [(R.EDL_PORTn_LINK n, l), (R.EDL_PORTn_CAP n, BitVec.ofNat 32 (modeCap s1 (i + 1)))]) n { p with tried := i + 1 }

/-- The parley of a port is complete (R382): it has accepted the partner's page, has sent a page with ACK = 1 and has received one. -/
def parleyDone (p : EdlPort) : Bool := p.accepted && p.ackSent && p.gotAck

/-- A capability page arrives on a lane of a port (R382, R415). [Log 81: DEDUCED] -/
def pageArrives (s : State) (n lane : Nat) (bs : List Byte) : State :=
  let st := edlState s n
  if !(decide (s.dev = .laid) && (st == 1 || st == 5 || st == 6)) then s
  else
    let good := bs.length == 64 && crcGood bs && lef bs 0 1 == 0xA5
    let p := edlP s n
    let p1 := { p with lanes := (if good then p.lanes ||| 2 ^ lane else p.lanes - (p.lanes &&& 2 ^ lane)) }
    if lane ≠ 0 then
      let s1 := setEdl s n p1
      if parleyDone p1 && st != 5 then judgePages s1 n else s1
    else if !good then setEdl s n { p1 with equal := if p1.accepted then p1.equal else 0 }
    else
      let norm := pageNorm bs
      let same := p1.page == norm
      let eq := if same then min 3 (p1.equal + 1) else 1
      let dup := lef bs 2 2 % 4096 == devId s
      let acc := !dup && ((same && p1.accepted) || decide (3 ≤ eq))
      let ack := bit (BitVec.ofNat 32 (lef bs 1 1)) 6
      let p2 := { p1 with page := norm, equal := eq, accepted := acc, gotAck := ack, ackSent := acc && p1.ackSent }
      let s1 := wrF (setEdl s n p2) (R.EDL_PORTn_LINK n) 7 7 0
      let s2 := if dup then healCond s1 n 6 else s1
      let s3 := if acc then wrF s2 (R.EDL_PORTn_LINK n) 27 16 (lef bs 2 2) else s2
      if parleyDone p2 && st != 5 then judgePages s3 n
      else if st = 6 then wrF s3 (R.EDL_PORTn_LINK n) 2 0 1 else s3

/-- CAPABILITY_PAGE (R382): a page of 64 bytes arrives on a lane of a port. -/
def execCapabilityPage (n lane : BitVec 2) (page : List Byte) (s : State) : Host.Outcome State Fault Refusal :=
  .next (pageArrives s n.toNat lane.toNat page)

/-- NOMODE_RETRY (R384): a port in NOMODE starts the parley again. [Log 80: DEDUCED] -/
def execNomodeRetry (n : BitVec 2) (s : State) : Host.Outcome State Fault Refusal :=
  .next (if s.dev = .laid ∧ edlState s n.toNat = 5 then
      parley (setEdl s n.toNat { edlP s n.toNat with failed := 0 }) n.toNat
    else s)

/-- TRAINING_SUCCESS (R385, R386): a port whose reference clock is absent does not train (R590). [Log 80: DEDUCED] -/
def execTrainingSuccess (n : BitVec 2) (s : State) : Host.Outcome State Fault Refusal :=
  .next (let i := n.toNat
    if edlState s i = 2 ∧ s.pwr.edlRef = true then
      let s1 := setEdlTx (setEdl s i { edlP s i with failed := 0 }) i edlTx0
      wrF s1 (R.EDL_PORTn_LINK i) 2 0 3
    else s)

/-- TRAINING_TIMEOUT (R385): the mode is excluded and the parley starts again. [Log 8: DESIGN CHOICE] -/
def execTrainingTimeout (n : BitVec 2) (s : State) : Host.Outcome State Fault Refusal :=
  .next (let i := n.toNat
    if edlState s i = 2 then
      let p := edlP s i
      parley (setEdl s i { p with failed := p.failed ||| 2 ^ (edlMode s i - 1) }) i
    else s)

/-- The limits of R91 forbid generation 1 on a port (R412). -/
def gen1Forbidden (s : State) (n : Nat) : Bool :=
  let m := rdF s (R.EDL_PORTn_CTL n) 10 8
  let buses := busesOn s
  let crossed := if topoKind s = 1 then
      buses.any (fun e => fld (dw e.2 2) 17 16 == n || fld (dw e.2 2) 21 20 == n)
    else (portFn s n == 2 || portFn s n == 3) && !buses.isEmpty
  crossed || !(m == 1 || m == 2 || m == 4) || decide (510 < devId s)

/-- A write of `EDL_PORTn_CTL` (R380, R407, R412). [Log 80: DEDUCED] -/
def edlCtlWrite (s : State) (fn n : Nat) (q : Quarter) (v : Word) : State :=
  let off := R.EDL_PORTn_CTL n
  let old := rd s off
  let w := newWord s fn off q v
  let gen := bit w 11 != bit old 11
  let role := edlRole s n
  let restart := q == .base && bit v 31
  let bad := gen && bit w 11 && gen1Forbidden s n
  let ignore := s.pwr.cmpt || bad
  let w1 := if ignore then setFld w 11 11 (b2n (bit old 11)) else w
  let s1 := wr s off w1
  let s2 := if bad && !s.pwr.cmpt then edlCond s1 n 10 else s1
  if s.dev = .laid ∧ (role = 1 ∨ role = 2) ∧ (restart || (gen && !ignore)) = true then
    parley (setEdl s2 n { edlP s2 n with failed := 0 }) n
  else heal s2

/-- RESTART (R380): PF0 writes v to `EDL_PORTn_CTL`. [Log 80: DEDUCED] -/
def execRestart (fn : BitVec 6) (n : BitVec 2) (v : Word) (s : State) : Host.Outcome State Fault Refusal :=
  .next (if accessOk s fn.toNat (R.EDL_PORTn_CTL n.toNat) then edlCtlWrite s fn.toNat n.toNat .base v else s)

/-- EDL_PNP_WRITE (R407): PF0 writes v to `EDL_PORTn_CTL`. -/
def execEdlPnpWrite (fn : BitVec 6) (n : BitVec 2) (v : Word) (s : State) : Host.Outcome State Fault Refusal :=
  .next (if accessOk s fn.toNat (R.EDL_PORTn_CTL n.toNat) then edlCtlWrite s fn.toNat n.toNat .base v else s)

/-- GEN1_WRITE (R412): PF0 writes v to `EDL_PORTn_CTL`. -/
def execGen1Write (fn : BitVec 6) (n : BitVec 2) (v : Word) (s : State) : Host.Outcome State Fault Refusal :=
  .next (if accessOk s fn.toNat (R.EDL_PORTn_CTL n.toNat) then edlCtlWrite s fn.toNat n.toNat .base v else s)

/-! ## Pairs and the epoch directory, as received sets and frames reach them -/

/-- A condition of `PAIR_STAT` other than TAKEOVER, FENCE and DEMOTE (R467). -/
def pairCond (s : State) (b : Nat) : State := setCond s R.PAIR_STAT 49 (2 ^ b)

/-- A set or frame of the partner: the member has heard it (R447). -/
def pairHeard (s : State) (src : Nat) : State :=
  if rdB s R.PAIR_CFG 0 && rdF s R.PAIR_CFG 27 16 == src then wrF s R.PAIR_STATE 5 5 1 else s

/-- The partner holds no lease: the active is disarmed (R451). [Log 98: DEDUCED] -/
def pairDisarm (s : State) (src : Nat) : State :=
  if rdB s R.PAIR_CFG 0 && rdF s R.PAIR_CFG 27 16 == src then
    (wrF s R.PAIR_STATE 4 4 0).setPair { s.pair with msgs := s.pair.msgs.map (fun m => match m with
      | .ack e r _ => .ack e r false
      | _ => m) }
  else s

/-- A lease epoch taken from a MARKER or LEASE of a device (R460). -/
def dirTake (s : State) (src epoch : Nat) : State :=
  (List.range 64).foldl (fun t n =>
    let d := rd t (R.PAIR_DIRn n)
    if bit d 31 && (fld d 11 0 == src || fld d 27 16 == src) &&
        decide (modDist 32 epoch (rd t (R.PAIR_DIRn_EPOCH n)).toNat < 2 ^ 31) then
      wr t (R.PAIR_DIRn_EPOCH n) (BitVec.ofNat 32 epoch)
    else t) s

/-- A frame carries an older lease epoch of a pair in the directory (R460). -/
def leaseStale (s : State) (src lepoch : Nat) : Bool :=
  (List.range 64).any (fun n =>
    let d := rd s (R.PAIR_DIRn n)
    bit d 31 && (fld d 11 0 == src || fld d 27 16 == src) &&
      decide (2 ^ 15 ≤ modDist 16 lepoch (rd s (R.PAIR_DIRn_EPOCH n)).toNat))

/-- The device's own lease epoch: zero where it is no pair member (R459). -/
def ownLease (s : State) : Nat := if rdB s R.PAIR_CFG 0 then pairEpoch s else 0

/-! ## Markers and time transfer -/

/-- TB0, or the base that stands for it during acquisition, at a cycle, in 1/256 ns modulo 2^40 (R404). -/
def stamp40 (s : State) (c : Nat) : Nat := tbAt s (stampBase s) c / 2 ^ 35 % 2 ^ 40

/-- The signed difference of two stamps (R404, R470). -/
def stampDiff (a b : Nat) : Int := sext 40 (a + 2 ^ 40 - b % 2 ^ 40)

/-- The stamp that five bytes hold. -/
def stampOf (bs : List Byte) (off : Nat) : Nat := lef bs off 4 * 256 + lef bs (off + 4) 1

/-- FLAGS of the markers a device sends (R402, R405, R427, R481). -/
def markerFlags (s : State) : Nat :=
  let unlocked := (tbDisc s == 3 && !rdB s R.TB_DISC 8) || tbDstate s == 4
  b2n (rdB s R.EDL_CFG 16) + b2n (tbDstate s == 3) * 2 + b2n unlocked * 4

/-- The MARKER that a port sends at the tick of the current deckle under a lease epoch, without its CRC and with T1 still zero
(R402, R410). -/
def markerBody (lease : Nat) (s : State) (n : Nat) : List Byte :=
  let p := edlP s n
  let head := leBytes 1 1 ++ leBytes 1 (markerFlags s) ++ leBytes 2 (devId s) ++ leBytes 6 s.dkl.num
  let e := p.echo.getD (0, 0)
  if edlGen1 s n then head ++ stampBytes 0 ++ stampBytes e.1 ++ stampBytes e.2 ++ leBytes 3 (b2n p.echo.isSome)
  else
    head ++ leBytes 2 (sceneEpoch s) ++ leBytes 2 (rdF s R.EDL_PEPOCH 15 0) ++ leBytes 4 lease ++
      stampBytes 0 ++ [0] ++ stampBytes e.1 ++ [0] ++ stampBytes e.2 ++ leBytes 1 (b2n p.echo.isSome) ++
      leBytes 2 (rdF s R.EDL_TOPO 27 16) ++ leBytes 2 (rdF s R.EDL_ROOT 11 0) ++ List.replicate 20 0

/-- A port is trained: ABSENT or UP. -/
def trained (s : State) (n : Nat) : Bool := edlState s n == 3 || edlState s n == 4

/-- The MARKER of one port waits for the first slot that begins at or after the tick (R392, R402). -/
def sendMarker (lease : Nat) (s : State) (n : Nat) : State :=
  if trained s n && participates s n then
    let s1 := pushSet s n (.marker (markerBody lease s n) (if edlGen1 s n then 10 else 18) s.dkl.num)
    setEdl s1 n { edlP s1 n with echo := none }
  else s

/-- The markers of a deckle tick, with the lease epoch in force before step 1 (R402, R459). -/
def sendMarkers (lease : Nat) (s : State) : State := (List.range 4).foldl (sendMarker lease) s

/-- What a MARKER says (R402, R410). -/
structure MarkerIn where
  flags : Nat
  src : Nat
  deckle : Nat
  pepoch : Nat
  lepoch : Nat
  t1 : Nat
  t3 : Nat
  t4 : Nat
  valid : Bool
  hops : Nat
  root : Nat

/-- The fields of a received MARKER; generation 1 carries no root, which is then that of the page. [Log 86: DEDUCED] -/
def markerIn (s : State) (n : Nat) (bs : List Byte) : Option MarkerIn :=
  if !crcGood bs || lef bs 0 1 != 1 then none
  else if edlGen1 s n then
    if bs.length = 32 then
      some { flags := lef bs 1 1, src := lef bs 2 2, deckle := lef bs 4 6, pepoch := rdF s R.EDL_PEPOCH 15 0, lepoch := 0
             t1 := stampOf bs 10, t3 := stampOf bs 15, t4 := stampOf bs 20, valid := decide (lef bs 25 1 % 2 = 1)
             hops := 0, root := lef (edlP s n).page 12 2 % 4096 }
    else none
  else if bs.length = 64 then
    some { flags := lef bs 1 1, src := lef bs 2 2, deckle := lef bs 4 6, pepoch := lef bs 12 2, lepoch := lef bs 14 4
           t1 := stampOf bs 18, t3 := stampOf bs 24, t4 := stampOf bs 30, valid := decide (lef bs 35 1 % 2 = 1)
           hops := lef bs 36 2, root := lef bs 38 2 % 4096 }
  else none

/-- The ECHO that answers a MARKER, without its CRC and with T3 still zero (R403). -/
def echoBody (s : State) (deckle t2 : Nat) : List Byte :=
  leBytes 2 2 ++ leBytes 2 (devId s) ++ leBytes 6 deckle ++ stampBytes t2 ++ [0] ++ stampBytes 0 ++ List.replicate 7 0

/-- The one-way delay of an exchange, in 1/256 ns (R404). [Log 85: DEDUCED] -/
def linkDelay (t1 t2 t3 t4 : Nat) : Word := BitVec.ofInt 32 ((stampDiff t2 t1 + stampDiff t4 t3) / 2)

/-- θ of an exchange, in 1/256 ns (R404): ASYM is in ps. [Log 85: DEDUCED] -/
def theta (s : State) (n t1 t2 t3 t4 : Nat) : Int :=
  let asym := sext 16 (rdF s (R.EDL_PORTn_ASYM n) 15 0)
  ((stampDiff t2 t1 - stampDiff t4 t3) * 500 + asym * 256) / 1000

/-- A marker's root and state make its port a source of time (R426). -/
def rootOk (s : State) (flags root : Nat) : Bool :=
  root == rdF s R.EDL_ROOT 11 0 && (flags.testBit 0 || (!flags.testBit 1 && !flags.testBit 2))

/-- The order of R426 among ports: TPREF, ROOTHOPS, number. -/
def portOrder (s : State) (n : Nat) : Nat := rdF s (R.EDL_PORTn_CTL n) 3 2 * 2 ^ 20 + (edlP s n).mHops * 4 + n

/-- A port may become the timing port before the first tick (R406, R426): it is trained, has TPREF 1 or 2, and hears good markers of the
root's time. [Log 22: DEDUCED] -/
def mayTime (s : State) (n : Nat) : Bool :=
  let p := edlP s n
  let pref := rdF s (R.EDL_PORTn_CTL n) 3 2
  trained s n && (pref == 1 || pref == 2) && p.marker && rootOk s p.mFlags p.mRoot

/-- TB0 starts from an exchange (R406): θ is made zero, the rate is that between the two markers, and the first boundary is that of the
marker after this one: its number is this marker's plus one, its instant lies one deckle after the boundary of this marker's, which its
T1 gives. [Log 22: DEDUCED] -/
def acquire (s : State) (n c : Nat) (m : MarkerIn) (th : Int) (old1 old2 now2 : Nat) : State :=
  let dt1 := stampDiff m.t1 old1
  let dt2 := stampDiff now2 old2
  let a1 := tbApplied s 1
  let a := if dt2 ≤ 0 then a1 else clampInt (-rateMax) rateMax ((2 ^ 40 + a1) * dt1 / dt2 - 2 ^ 40)
  let now := ((tbAt s 1 c : Int) - th * (2 ^ 35 : Nat)) % (2 ^ 75 : Nat)
  let s1 := setDstate (wr s (R.TBn_APPLIED 0) (BitVec.ofInt 32 a)) 2
  let t := (now - (c : Int) * tbInc s1 0) % (2 ^ 75 : Nat)
  let s2 := setTbase s1 0 { tbase s1 0 with t := t.toNat }
  let s3 := healCond (wrF (wr s2 R.EDL_TIME (setFld (setFld (rd s2 R.EDL_TIME) 2 0 (n + 4)) 5 4 3)) R.EDL_TOPO 27 16 (min 0xFFF (m.hops + 1))) n 5
  let s3 := setEdl s3 n { edlP s3 n with gotPrev := true }
  nextBoundary (s3.setDkl { s3.dkl with first := wrap48 (m.deckle + 1), next := m.t1 * fsHz s3 })
where wrap48 (n : Nat) : Nat := n % 2 ^ 48

/-- A good MARKER arrives in cycle c of the event tick (R402 to R406, R40, R460). A number that differs from the device's own is taken at the
next boundary, which opens the deckle after the marker's. [Log 22: DEDUCED, 84: DEDUCED] -/
def markerArrives (s : State) (n c : Nat) (m : MarkerIn) : State :=
  let s0 := dirTake (pairHeard s m.src) m.src m.lepoch
  let p := edlP s0 n
  let t2 := stamp40 s0 c
  let s1 := pushSet s0 n (.echo (echoBody s0 m.deckle t2) m.t1 t2)
  let p1 := { p with
    marker := true, gotNow := true, mFlags := m.flags, mHops := m.hops, mRoot := m.root, mPep := m.pepoch, answered := none }
  let s2 := setEdl s1 n p1
  let timing := rdB s2 R.EDL_TIME 2 && rdF s2 R.EDL_TIME 1 0 == n
  let s3 := match p.answered with
    | some (o1, o2, _) =>
      if m.valid then
        let th := theta s2 n o1 o2 m.t3 m.t4
        let u := wr s2 (R.EDL_PORTn_DELAY n) (linkDelay o1 o2 m.t3 m.t4)
        if tbDisc u = 3 ∧ tbAcquiring u = true then
          if u.dev = .laid ∧ mayTime u n = true ∧ (List.range 4).all (fun k => !mayTime u k || decide (portOrder u n ≤ portOrder u k)) = true then
            acquire u n c m th o1 o2 t2
          else u
        else if tbDisc u = 3 ∧ timing = true then wr u R.EDL_OFFSET (BitVec.ofInt 32 th)
        else u
      else s2
    | none => s2
  if tbDisc s3 = 3 ∧ timing = true ∧ s3.dkl.started = true then
    s3.setDkl { s3.dkl with jump := if m.deckle = s3.dkl.num then none else some ((m.deckle + 1) % 2 ^ 48) }
  else s3

/-- MARKER (R402): a MARKER arrives at a trained port in cycle cyc of the event tick. [Log 118: DESIGN CHOICE] -/
def execMarker (n : BitVec 2) (bytes : List Byte) (cyc : BitVec 4) (s : State) : Host.Outcome State Fault Refusal :=
  .next (if trained s n.toNat then
      (match markerIn s n.toNat bytes with
      | some m => markerArrives s n.toNat cyc.toNat m
      | none => s)
    else s)

/-- ECHO (R403, R404): an ECHO arrives at a trained port in cycle cyc of the event tick. [Log 84: DEDUCED] -/
def execEcho (n : BitVec 2) (bytes : List Byte) (cyc : BitVec 4) (s : State) : Host.Outcome State Fault Refusal :=
  .next (let i := n.toNat
    let p := edlP s i
    match p.sent with
    | some (d, t1) =>
      if trained s i && bytes.length == 32 && crcGood bytes && lef bytes 0 1 == 2 && lef bytes 4 6 == d then
        let t2 := stampOf bytes 10
        let t3 := stampOf bytes 16
        let t4 := stamp40 s cyc.toNat
        wr (setEdl s i { p with echo := some (t3, t4) }) (R.EDL_PORTn_DELAY i) (linkDelay t1 t2 t3 t4)
      else s
    | none => s)

/-! ## Frames: routes, the front end and sending -/

/-- MAXLEN of the partner of a port (R381). -/
def partnerMax (s : State) (n : Nat) : Nat := lef (edlP s n).page 14 2 % 512

/-- Both pages of a port set a CAPS bit (R386, R390). -/
def bothCaps (s : State) (n b : Nat) : Bool := (ownCaps s n).testBit b && (lef (edlP s n).page 7 1).testBit b

/-- The scene epoch of a block (R329): that of its mixing where the device still records it, else the one in force. -/
def blockEpoch (s : State) (k : Nat) : Nat :=
  match s.trl.epochs.find? (fun e => e.1 % 2 ^ 32 == k % 2 ^ 32) with
  | some e => e.2
  | none => sceneEpoch s

/-- A frame as it leaves on a port, between the generations (R411): gen1 tells a frame that came by a generation-1 port; none
where it is discarded. -/
def convertFrame (s : State) (n : Nat) (gen1 : Bool) (f : EdlFrame) : Option EdlFrame :=
  if edlGen1 s n then
    if f.type = 2 ∨ 510 < f.src ∨ (510 < f.dst ∧ f.dst ≠ 0xFFF) ∨ (f.type = 3 ∧ f.sub = 1 ∧ gen1 = false ∧ s.pwr.cmpt = false) then none
    else some { f with
      epoch := 0, lepoch := 0, emix := false, late := false, dst := if f.dst = 0xFFF then 0x1FF else f.dst
      payload := if f.type = 3 ∧ f.sub = 1 then List.replicate 16 0 else f.payload }
  else if gen1 then some { f with epoch := blockEpoch s f.block, emix := false, lepoch := 0 }
  else some f

/-- A frame handed to a port (R392, R411), one in transit or one of the device's own; cut: it ends with ABORT (R391). A generation-1 COMMIT
goes onto generation-1 ports only. [Log 89: DEDUCED] -/
def sendPart (transit cut : Bool) (s : State) (gen1 : Bool) (f : EdlFrame) (n : Nat) : State :=
  if gen1 && !edlGen1 s n && f.type == 3 && f.sub == 1 then s
  else if !edlUp s n || decide (partnerMax s n < f.len) then edlCond s n 7
  else match convertFrame s n gen1 f with
    | some g => pushFrame s n transit cut g
    | none => edlCond s n 7

/-- A frame of the device's own is handed to a port. [Log 89: DEDUCED] -/
def sendOn (s : State) (gen1 : Bool) (f : EdlFrame) (n : Nat) : State := sendPart false false s gen1 f n

/-- The tree port for a device ID, with a bypass in place of a pruned one (R419); the port named may be down. -/
def treePort (s : State) (d : Nat) : Option Nat :=
  match (List.range 4).find? (fun n => portFn s n == 1 && inRange s n d) with
  | none => none
  | some n =>
    if edlUp s n then some n
    else match (List.range 4).find? (fun b => portFn s b == 4 && portSubst s b == n && edlUp s b) with
      | some b => some b
      | none => some n

/-- The tree ports that a broadcast leaves on (R419). -/
def treePorts (s : State) : List Nat :=
  ((List.range 4).filter (fun n => portFn s n == 1)).map (fun n =>
    if edlUp s n then n
    else match (List.range 4).find? (fun b => portFn s b == 4 && portSubst s b == n && edlUp s b) with
      | some b => b
      | none => n)

/-- Where a forward frame leaves a ring (R420, R423): ring-out, or back out of ring-in where a KIND 2 ring is broken. -/
def ringOut (s : State) (ring : Bool) : List Nat :=
  match ringPort s 3 ring with
  | none => []
  | some o =>
    if topoKind s = 2 ∧ edlUp s o = false then (match ringPort s 2 ring with | some i => [i] | none => [])
    else [o]

/-- The frame stops before it returns to its source (R420). -/
def ringStops (s : State) (ring : Bool) (src : Nat) : Bool :=
  match ringPort s 3 ring with
  | some o => edlPartner s o == src
  | none => true

/-- Where the frames go that the device originates for a device ID (R416, R419 to R421): in KIND 0 one hop, to the partner that
has the ID, or to every partner for a broadcast. [Log 92: DEDUCED] -/
def originPorts (s : State) (dst : Nat) : List Nat :=
  match topoKind s with
  | 0 => (List.range 4).filter (fun n => edlRole s n == 1 && edlUp s n && (dst == 0xFFF || edlPartner s n == dst))
  | 1 => if dst = 0xFFF then treePorts s else (treePort s dst).toList
  | 2 => ringOut s false
  | 3 => ringOut s false ++ ringOut s true
  | _ => []

/-- What becomes of a frame that arrived on a port: whether it is delivered, and the ports it leaves on (R418 to R423). -/
def routeFrame (s : State) (n src dst : Nat) : Bool × List Nat :=
  let mine := dst == devId s
  let del := mine || dst == 0xFFF
  match topoKind s with
  | 1 =>
    if portFn s n = 0 then (del, [])
    else if idleBypass s n then (false, [])
    else if mine then (true, [])
    else if dst = 0xFFF then (true, (treePorts s).filter (fun p => p != n && !(portFn s n == 4 && portSubst s n == p)))
    else (false, (treePort s dst).toList)
  | 2 =>
    if portFn s n = 2 then (del, if mine || ringStops s false src then [] else ringOut s false)
    else if portFn s n = 3 then
      match ringPort s 2 false with
      | some i =>
        if edlUp s i then (false, [i])
        else (del, if mine || ringStops s false src then [] else ringOut s false)
      | none => (del, [])
    else (del, [])
  | 3 =>
    if portFn s n = 2 then
      (del, if mine || ringStops s (portRing s n) src then [] else ringOut s (portRing s n))
    else (del, [])
  | _ => (del, [])

/-- A frame is forwarded on the ports given (R418); cut: it ends with ABORT (R391). -/
def forwardPart (cut : Bool) (s : State) (gen1 : Bool) (f : EdlFrame) (ports : List Nat) : State :=
  if 4095 ≤ f.hops + 1 then s else ports.foldl (fun t p => sendPart true cut t gen1 { f with hops := f.hops + 1 } p) s

/-- A frame is forwarded whole. -/
def forwardOn (s : State) (gen1 : Bool) (f : EdlFrame) (ports : List Nat) : State := forwardPart false s gen1 f ports

/-- A received header is out of range (R390, R410). -/
def malformed (s : State) (n : Nat) (f : EdlFrame) : Bool :=
  f.type == 0 || decide (5 < f.type) || f.len == 0 || decide (256 < f.len) ||
    (f.type == 2 && (!bothCaps s n 0 || edlGen1 s n)) || (f.type == 4 && !bothCaps s n 1) ||
    (f.type == 3 && !(decide (1 ≤ f.sub) && decide (f.sub ≤ 4))) ||
    (f.type == 5 && !(decide (1 ≤ f.sub) && decide (f.sub ≤ 3) || (f.sub == 4 && edlRole s n == 2)))

/-- The frames that R460 holds to the lease epoch. -/
def epochBound (f : EdlFrame) : Bool := f.type == 1 || f.type == 2 || (f.type == 3 && (f.sub == 1 || f.sub == 2))

/-- A frame as a port takes it: a generation-1 broadcast is 0x1FF (R410). -/
def normFrame (s : State) (n : Nat) (f : EdlFrame) : EdlFrame :=
  if edlGen1 s n then { f with dst := if f.dst = 0x1FF then 0xFFF else f.dst, epoch := 0, lepoch := 0, emix := false } else f

/-- The ring of a TSUM frame that arrived on a port of a ring, and the ports it leaves on (R431). -/
def sumPorts (s : State) (n first : Nat) : List Nat :=
  let ws := SMap.getD s.trl.bus first []
  match topoKind s with
  | 1 => if bit (dw ws 0) 0 && portFn s n != 0 && !idleBypass s n then [fld (dw ws 2) 21 20] else []
  | 2 =>
    if portFn s n = 2 then ringOut s false
    else if portFn s n = 3 then
      match ringPort s 2 false with
      | some i => if edlUp s i then [i] else ringOut s false
      | none => []
    else []
  | 3 => if portFn s n = 2 then ringOut s (portRing s n) else []
  | _ => []

/-- A frame that arrived at port n passes on its way back on a broken ring: it is neither delivered, added to nor consumed (R423). -/
def reverseLeg (s : State) (n : Nat) : Bool :=
  topoKind s == 2 && portFn s n == 3 && (match ringPort s 2 false with | some i => edlUp s i | none => false)

/-- The ports on which a frame that arrived at port n is being forwarded (R393, R418, R423, R431): a tail consumes its sums. -/
def transitPorts (s : State) (n : Nat) (f : EdlFrame) : List Nat :=
  match f.type with
  | 1 | 3 => (routeFrame s n f.src f.dst).2
  | 2 =>
    let ws := SMap.getD s.trl.bus (f.dst % 2048) []
    if bit (dw ws 0) 0 && bit (dw ws 0) 2 && !reverseLeg s n then [] else sumPorts s n (f.dst % 2048)
  | _ => []

/-- A frame in progress at a port is cut off: where it is being forwarded, each egress port ends it with ABORT (R391, R422).
[Log 89: DEDUCED] -/
def cutFrame (s : State) (n : Nat) (f : EdlFrame) : State :=
  if !carries s n || malformed s n f then s
  else
    let g := normFrame s n f
    forwardPart true s (edlGen1 s n) g (transitPorts s n g)

/-- Granules after the last of a frame belong to none (R388). -/
def strayGranules (n : Nat) (f : EdlFrame) (s : State) : State := if 16 * f.len < f.payload.length then edlCond s n 4 else s

/-- The front end of every received frame (R386, R388, R390, R391, R419, R460): what is done with a frame that passes it is left to `go`. A frame
with an uncorrectable codeword is discarded, and its copies under way end with ABORT. -/
def edlFront (s : State) (n : Nat) (f : EdlFrame) (uncorr : Bool) (go : State → EdlFrame → State) : State :=
  if !carries s n then s
  else if uncorr then edlCond (cutFrame s n f) n 5
  else if malformed s n f then edlCond s n 4
  else
    let g := { normFrame s n f with payload := f.payload.take (16 * f.len) }
    strayGranules n f (if epochBound g && !edlGen1 s n && leaseStale s g.src g.lepoch then pairCond s 4 else go s g)

/-- A frame of a type and subtype that passes the front end is delivered and forwarded by its DST. -/
def edlDst (s : State) (n : Nat) (f : EdlFrame) (uncorr : Bool) (isIt : EdlFrame → Bool) (deliver : State → EdlFrame → State) :
    State :=
  edlFront s n f uncorr (fun t g =>
    if !isIt g then t
    else
      let r := routeFrame t n g.src g.dst
      let u := if r.1 then deliver t g else t
      forwardOn u (edlGen1 t n) g r.2)

/-- A CTRL frame that the device originates, with one payload granule (R398). -/
def ctrlFrame (s : State) (dst sub : Nat) (payload : List Byte) : EdlFrame :=
  { type := 3, len := 1, src := devId s, dst := dst, block := s.dkl.num % 2 ^ 32, epoch := sceneEpoch s
    lepoch := ownLease s % 65536, hops := 0, emix := false, late := false, sub := sub
    payload := payload ++ List.replicate (16 - payload.length) 0 }

/-- A member that is STANDBY or FENCED originates no COMMIT, MIGRATE or audio frame (R458). [Log 92: DEDUCED] -/
def mayOriginate (s : State) : Bool := !rdB s R.PAIR_CFG 0 || pairState s ≤ 1

/-- A commit frame is sent to a device (R327, R366). -/
def sendCommit (s : State) (dev target epoch : Nat) : State :=
  if mayOriginate s then
    (originPorts s dev).foldl (fun t p => sendOn t false (ctrlFrame s dev 1 (leBytes 6 target ++ leBytes 2 epoch)) p) s
  else s

/-- A host commit or migration goes to the partner at once (R462). -/
def pairCopy (s : State) (sub : Nat) (payload : List Byte) : State :=
  if rdB s R.PAIR_CFG 0 && pairState s == 1 then
    sendOn s false (ctrlFrame s (rdF s R.PAIR_CFG 27 16) sub payload) (rdF s R.PAIR_CFG 2 1)
  else s

/-- The commit that GO of `SCN_COMMIT_CTL` asked for, with the registers as they stand after the writes of its event tick (R316, R327,
R462). -/
def hostCommitDo (s : State) : State :=
  let c := rd s R.SCN_COMMIT_CTL
  let t := extendTarget s (rd s R.SCN_COMMIT).toNat
  let s1 := pairCopy (hostCommit s) 1 (leBytes 6 t ++ leBytes 2 (fld c 15 0))
  if bit c 30 then sendCommit s1 (fld c 27 16) t (fld c 15 0) else s1

/-- GO of `SCN_COMMIT_CTL` (R55, R316): the commit lands after the writes of the event tick. -/
def hostCommitGo (s : State) : State := later s 0 .hostCommit

/-- HOST_COMMIT (R316): PF0 writes v to `SCN_COMMIT_CTL`. -/
def execHostCommit (fn : BitVec 6) (v : Word) (s : State) : Host.Outcome State Fault Refusal :=
  .next (if accessOk s fn.toNat R.SCN_COMMIT_CTL then
      let s1 := plainWrite s fn.toNat R.SCN_COMMIT_CTL .base v
      if bit v 31 then hostCommitGo s1 else s1
    else s)

/-- COMMIT_FRAME (R398, R318, R331): a COMMIT frame arrives; uncorr: an uncorrectable codeword holds one of its granules. -/
def execCommitFrame (n : BitVec 2) (frame : List Byte) (uncorr : Bool) (s : State) : Host.Outcome State Fault Refusal :=
  .next (edlDst s n.toNat (frameOf (edlGen1 s n.toNat) frame) uncorr (fun g => g.type == 3 && g.sub == 1) (fun t g =>
    later t (160 + 8 * n.toNat) (.frameCommit (edlGen1 t n.toNat) (lef g.payload 0 6) (lef g.payload 6 2))))

/-! ## Loss and presence -/

/-- The frame in progress at a port, by its header granule, is cut off (R391). -/
def cutHeader (s : State) (n : Nat) (cut : Option (List Byte)) : State :=
  match cut with
  | some h => cutFrame s n (frameOf (edlGen1 s n) h)
  | none => s

/-- A joining frame is discarded as one with a PCS error (R400, R231). -/
def dropJoin (s : State) (n : Nat) : State :=
  match (edlP s n).join with
  | some _ => portDrop (setEdl s n { edlP s n with join := none }) (16 + n) 2
  | none => s

/-- A loss on a port in UP or ABSENT (R408). [Log 89: DEDUCED] -/
def loss (s : State) (n cause : Nat) (cut : Option (List Byte)) : State :=
  if !trained s n then s
  else
    let s1 := dropJoin (cutHeader s n cut) n
    let s2 := wr s1 (R.EDL_PORTn_LOSS n) (BitVec.ofNat 32 (s.dkl.num % 65536 * 65536 + cause))
    let s3 := edlCond s2 n 1
    if cause = 5 then
      let s4 := wrF (tunnelDown (timingLost s3 n) n) (R.EDL_PORTn_LINK n) 2 0 3
      heal (setEdl s4 n { edlP s4 n with marker := false, gotNow := false, gotPrev := false, eligible := 0 })
    else parley s3 n

/-- LOSS_OF_SIGNAL (R408): cut is the frame in progress. -/
def execLossOfSignal (n : BitVec 2) (cut : Option (List Byte)) (s : State) : Host.Outcome State Fault Refusal :=
  .next (loss s n.toNat 1 cut)

/-- LOSS_OF_LOCK (R408). -/
def execLossOfLock (n : BitVec 2) (cut : Option (List Byte)) (s : State) : Host.Outcome State Fault Refusal :=
  .next (loss s n.toNat 2 cut)

/-- MARKER_MISSING (R408). -/
def execMarkerMissing (n : BitVec 2) (cut : Option (List Byte)) (s : State) : Host.Outcome State Fault Refusal :=
  .next (loss s n.toNat 3 cut)

/-- PNP (R407, R408): PNP arrives, at the parley rate or at a trained port. -/
def pnpArrives (s : State) (n : Nat) (bs : List Byte) (at_ : PnpAt) : State :=
  if !(bs.length == 16 && crcGood bs && lef bs 0 1 == 3) then s
  else
    let src := lef bs 2 2 % 4096
    let reason := lef bs 1 1
    match at_ with
    | .parley =>
      if edlState s n = 1 then
        let s1 := wrF s (R.EDL_PORTn_LINK n) 7 7 1
        if edlRole s n = 2 ∧ rdF s R.PAIR_CFG 2 1 = n then
          let partner := rdF s R.PAIR_CFG 27 16
          pairDisarm (pairHeard s1 partner) partner
        else s1
      else s
    | .mode cut =>
      if !trained s n then s
      else
        let s1 := wrF (pairHeard s src) (R.EDL_PORTn_LINK n) 11 8 reason
        let s2 := if reason ≤ 2 then pairDisarm s1 src else s1
        if edlState s2 n = 4 then loss s2 n 5 cut
        else setEdl s2 n { edlP s2 n with marker := false }

/-- PNP (R407). -/
def execPnp (n : BitVec 2) (bytes : List Byte) (at_ : PnpAt) (s : State) : Host.Outcome State Fault Refusal :=
  .next (pnpArrives s n.toNat bytes at_)

/-- LEAVE (R408): a good LEAVE arrives at a trained port. -/
def execLeave (n : BitVec 2) (bytes : List Byte) (cut : Option (List Byte)) (s : State) : Host.Outcome State Fault Refusal :=
  .next (if trained s n.toNat && bytes.length == 16 && crcGood bytes && lef bytes 0 1 == 4 then
      let src := lef bytes 2 2 % 4096
      loss (pairDisarm (pairHeard s src) src) n.toNat 4 cut
    else s)

/-- ABORT_SET (R391): the frame in progress ends and is discarded. -/
def execAbortSet (n : BitVec 2) (bytes : List Byte) (cut : Option (List Byte)) (s : State) : Host.Outcome State Fault Refusal :=
  .next (if trained s n.toNat && bytes.length == 16 && crcGood bytes && lef bytes 0 1 == 5 then
      (match cut with
      | some h => if (frameOf (edlGen1 s n.toNat) h).type = 4 then dropJoin s n.toNat else cutHeader s n.toNat cut
      | none => s)
    else s)

/-! ## Audio flows -/

/-- CH × N samples of a block as granules (R393, R394). -/
def flowLen (s : State) (ws : List Word) : Nat := ceilDiv (flowCh ws * nSamples s) 4

/-- A deckle number of 32 bits extended to 48 as the nearest to the device's own count (R316, R389). -/
def extend48 (s : State) (b : Nat) : Nat := extendTarget s (b % 2 ^ 32)

/-- A receive flow's key for a source block. -/
def feltKey (flow k : Nat) : Nat := flow * 2 ^ 48 + k % 2 ^ 48

/-- The receive flow that an AUDIO frame feeds (R395). -/
def rxFlowOf (s : State) (f : EdlFrame) : Option (Nat × List Word) :=
  s.edl.rx.find? (fun e => bit (dw e.2 0) 0 && fld (dw e.2 1) 11 0 == f.src && fld (dw e.2 1) 24 16 == f.sub)

/-- An AUDIO frame is delivered (R395). -/
def flowTake (n : Nat) (s : State) (f : EdlFrame) : State :=
  match rxFlowOf s f with
  | none => s
  | some (i, ws) =>
    let k := extend48 s f.block
    let ch := flowCh ws
    let late := wrapK (k + fld (dw ws 0) 23 16 + 1)
    if f.len ≠ flowLen s ws then edlCond s n 4
    else if late = s.dkl.num ∨ inPast 48 late s.dkl.num then edlCond s n 6
    else if (SMap.get s.edl.felt (feltKey i k)).isSome then s
    else
      let smp := (List.range (nSamples s)).map (fun t => (List.range ch).map (fun c =>
        sext 32 (lef f.payload (4 * (c * nSamples s + t)) 4)))
      s.setEdl { s.edl with felt := SMap.put s.edl.felt (feltKey i k) smp }
where wrapK (n : Nat) : Nat := n % 2 ^ 48

/-- AUDIO (R395): an AUDIO frame arrives. -/
def execAudio (n : BitVec 2) (frame : List Byte) (uncorr : Bool) (s : State) : Host.Outcome State Fault Refusal :=
  .next (edlDst s n.toNat (frameOf (edlGen1 s n.toNat) frame) uncorr (fun g => g.type == 1) (flowTake n.toNat))

/-- Stage A of receive flow i for local block b (R395). -/
def flowBlock (b : Nat) (s : State) (e : Nat × List Word) : State :=
  let ws := e.2
  if !bit (dw ws 0) 0 then s
  else
    let k := (b + 2 ^ 48 - fld (dw ws 0) 23 16) % 2 ^ 48
    let ch := flowCh ws
    let blk := SMap.get s.edl.felt (feltKey e.1 k)
    let r := (List.range (nSamples s)).foldl (fun (a : List (List Int) × RxState) i =>
        let g := gapStep a.2 ch (match blk with | some l => l[i]? | none => none)
        (a.1 ++ [g.1], g.2.1)) ([], SMap.getD s.edl.rxs e.1 rx0)
    let s1 := s.setAud { s.aud with inW := putPlane s.aud.inW (fld (dw ws 2) 13 0) ch r.1 }
    s1.setEdl { s1.edl with rxs := SMap.put s1.edl.rxs e.1 r.2, felt := SMap.del s1.edl.felt (feltKey e.1 k) }

/-- Stage A of every receive flow for block b, and of the channels of disabled ones (R258, R395). -/
def flowsStageA (s : State) (b : Nat) : State :=
  let f := s.edl.fading.foldl (fun (a : State × List (Nat × Nat × RxState)) e =>
      let r := fadeBlock a.1 e
      (r.1, a.2 ++ r.2.toList)) (s, [])
  let s1 := f.1.setEdl { f.1.edl with fading := f.2 }
  s1.edl.rx.foldl (flowBlock b) s1

/-- The AUDIO frame of a transmit flow on port n for block d (R393, R394). [Log 93: DEDUCED] -/
def flowFrame (s : State) (i : Nat) (ws : List Word) (d n : Nat) : EdlFrame :=
  let ch := flowCh ws
  let dest := fld (dw ws 1) 13 0
  let body := ((List.range ch).map (fun c => ((List.range (nSamples s)).map (fun t =>
    leBytes 4 (wrapBits 32 (heardSample s (16 + n) t (((SMap.getD s.aud.outC (dest + c) [])[t]?).getD 0))))).flatten)).flatten
  let len := flowLen s ws
  { type := 1, len := len, src := devId s, dst := fld (dw ws 0) 27 16, block := d % 2 ^ 32, epoch := s.scn.mixEpoch
    lepoch := 0, hops := 0, emix := false, late := false, sub := i, payload := body ++ List.replicate (16 * len - body.length) 0 }

/-- The launch targets of a flow, each with the port by whose output enable it is heard: in KIND 3 a frame for one ring-out goes on both
(R394, R421). [Log 93: DEDUCED] -/
def flowTargets (s : State) (ports : List Nat) : List (Nat × Nat) :=
  let ring := fun n => topoKind s == 3 && portFn s n == 3
  ((ports.filter (fun n => !ring n)).map (fun n => (n, n))) ++
    (if ports.any ring then [false, true].filterMap (fun r => (ringPort s 3 r).map (fun n => (n, 4 + b2n r))) else [])

/-- The AUDIO frames of block d, in ascending flow number (R392, R394). [Log 88: DEDUCED, 93: DEDUCED] -/
def flowFrames (s : State) (d : Nat) : List (Nat × EdlFrame) :=
  (s.edl.tx.filter (fun e => bit (dw e.2 0) 0)).flatMap (fun e =>
    (flowTargets s ((List.range 4).filter (fun n => bit (dw e.2 0) (11 + n)))).map (fun x => (x.2, flowFrame s e.1 e.2 d x.1)))

/-- The bypass that stands in for a tree port that is not UP (R419). -/
def bypassFor (s : State) (n : Nat) : Option Nat := (List.range 4).find? (fun b => portFn s b == 4 && portSubst s b == n && edlUp s b)

/-- The ports that a launch target stands for: a port, or 4 and 5 for ring A and ring B (R421, R429). A tree port that is not UP is stood in for
by its bypass; without one the frame is discarded there (R419). A broken ring's ring-out is stood in for by ring-in (R423). -/
def launchPorts (s : State) (x : Nat) : List Nat :=
  if 4 ≤ x then ringOut s (x == 5)
  else if topoKind s = 1 ∧ portFn s x = 1 then (if edlUp s x then [x] else [(bypassFor s x).getD x])
  else if topoKind s = 2 ∧ portFn s x = 3 then (ringOut s false).filter (edlUp s)
  else [x].filter (edlUp s)

/-- The frames built for this boundary are launched (R386, R392, R459): none from the boundary at which a lift begins (R99), and none by a pair
member that step 1 of the boundary has put out of ACTIVE (R458). -/
def launchFrames (s : State) : State :=
  let s1 := (if s.dev = .laid ∧ s.mld.liftReq = false ∧ s.pair.out ≠ .silent then s.edl.launch else []).foldl (fun t e =>
    (launchPorts t e.1).foldl (fun u p => sendOn u false { e.2 with lepoch := ownLease u % 65536 } p) t) s
  s1.setEdl { s1.edl with launch := [] }

/-- The check of a flow descriptor with EN = 1 (R397). -/
def flowCheck (s : State) (fn table n : Nat) (ws : List Word) : Nat × State :=
  let ch := flowCh ws
  let old := entryNow (if table = 0 then s.edl.tx else s.edl.rx) ((s.edl.pend.filter (fun e => e.1 == table)).map Prod.snd) n
  let ten := fun (w : List Word) => if table = 0 then txFlowTenant w else rxFlowTenant w
  let ports := fld (dw ws 0) 14 11
  if 1024 < ch * nSamples s ∨
      (if table = 0 then decide (511 < n) || decide (16384 < fld (dw ws 1) 13 0 + ch) ||
          (List.range 4).any (fun p => ports.testBit p && edlRole s p != 1)
        else decide (fld (dw ws 0) 23 16 < 4)) = true then (1, s)
  else if !reachesTenant s fn (ten ws) || (bit (dw old 0) 0 && !reachesTenant s fn (ten old)) then (2, s)
  else if table = 0 then
    let on := (n, ws) :: (flowsOn s 0).filter (fun e => e.1 != n)
    let t := ten ws
    let refusal := firstRefusal (((List.range 4).filter (ports.testBit ·)).map (fun p =>
      let str := fun (x : Option Nat) => total (((othersOn s 1 65536).filter (fun w =>
        fld (dw w 0) 17 13 == 16 + p && (match x with | none => true | some y => txTenant w == y))).map (txBytes s))
      roomFor s 0xB t 0x0C 0x23 (16 + p) (linkBytes s on (busesOn s) p none + str none)
        (linkBytes s on (busesOn s) p (some t) + str (some t)) (item s (declKey 0x23 (16 + p)))))
    match refusal with
    | some u => (3, u)
    | none => (0, s)
  else
    let on := (n, ws) :: (flowsOn s 1).filter (fun e => e.1 != n)
    let t := ten ws
    let str := fun (x : Option Nat) => total (((othersOn s 0 65536).filter (fun w =>
      !bit (dw w 1) 14 && (match x with | none => true | some y => rxTenant w == y))).map ringBytes)
    let kib := fun (x : Option Nat) => ceilDiv (linkFelt s on (busesOn s) x + str x) 1024
    match roomFor s 0xB t 0x06 1 0 (kib none) (kib (some t)) (item s (declKey 1 0)) with
    | some u => (3, u)
    | none =>
      let pl := rd s R.STRM_PLANE
      let plane := fld (dw ws 2) 13 0
      let overlaps := fun (a c : Nat) => decide (plane < a + c) && decide (a < plane + ch)
      if !bit pl 31 || decide (plane < fld pl 13 0) || decide (fld pl 29 16 < plane + ch - 1) ||
          (othersOn s 0 65536).any (fun w => overlaps (fld (dw w 1) 13 0) (chOf w)) ||
          on.tail.any (fun e => overlaps (fld (dw e.2 2) 13 0) (flowCh e.2) ||
            (fld (dw e.2 1) 11 0 == fld (dw ws 1) 11 0 && fld (dw e.2 1) 24 16 == fld (dw ws 1) 24 16)) then (6, s)
      else (0, s)

/-- RESULT 8, after every other check (R397, R442). -/
def orLaid (r : Nat × State) : Nat × State := if r.1 = 0 ∧ r.2.dev ≠ .laid then (8, r.2) else r

/-- GO of `EDL_FLOW_CTL` (R396, R397): the access of function fn. [Log 107: DEDUCED] -/
def flowGo (s : State) (fn : Nat) : State :=
  let key := regKey fn R.EDL_FLOW_CTL
  let ctl := rd s key
  let table := fld ctl 16 16
  let n := fld ctl 9 0
  let cur := SMap.getD (if table = 0 then s.edl.tx else s.edl.rx) n []
  let ten := fun (w : List Word) => if table = 0 then txFlowTenant w else rxFlowTenant w
  if bit ctl 29 then
    let ws := (List.range (if table = 0 then 2 else 3)).map (fun m => rd s (regKey fn (R.EDL_FLOW_Dm m)))
    let old := entryNow (if table = 0 then s.edl.tx else s.edl.rx) ((s.edl.pend.filter (fun e => e.1 == table)).map Prod.snd) n
    let r := orLaid (if bit (dw ws 0) 0 then flowCheck s fn table n ws
      else if reachesTenant s fn (ten (if bit (dw old 0) 0 then old else ws)) then (0, s) else (2, s))
    let s1 := wrF r.2 key 27 24 r.1
    if r.1 = 0 then s1.setEdl { s1.edl with pend := s1.edl.pend ++ [(table, n, ws)] } else s1
  else if !reachesTenant s fn (ten cur) then wrF s key 27 24 2
  else if s.dev ≠ .laid then wrF s key 27 24 8
  else wrF (wrAll s ((List.range 4).map (fun m => (regKey fn (R.EDL_FLOW_Dm m), dw cur m)))) key 27 24 0

/-- A write of `EDL_FLOW_CTL` that names a table and a flow, with GO = 1. -/
def flowRow (s : State) (fn : Nat) (write : Bool) (rx : Bool) (i : Nat) : State :=
  let w := i + b2n rx * 2 ^ 16 + b2n write * 2 ^ 29
  hostWriteAs s fn R.EDL_FLOW_CTL (BitVec.ofNat 32 (2 ^ 31 + w)) (fun u =>
    flowGo (wr u (regKey fn R.EDL_FLOW_CTL) (BitVec.ofNat 32 w)) fn)

/-- FLOW_DESC_READ (R396). -/
def execFlowDescRead (fn : BitVec 6) (rx : Bool) (n : BitVec 10) (s : State) : Host.Outcome State Fault Refusal :=
  .next (flowRow s fn.toNat false rx n.toNat)

/-- FLOW_DESC_WRITE (R397). -/
def execFlowDescWrite (fn : BitVec 6) (rx : Bool) (n : BitVec 10) (s : State) : Host.Outcome State Fault Refusal :=
  .next (flowRow s fn.toNat true rx n.toNat)

/-- An accepted flow descriptor takes effect (R258, R397). -/
def flowApply (s : State) (e : Nat × Nat × List Word) : State :=
  let n := e.2.1
  let ws := e.2.2
  if e.1 = 0 then s.setEdl { s.edl with tx := SMap.put s.edl.tx n ws }
  else
    let old := SMap.getD s.edl.rx n []
    let fade := if bit (dw old 0) 0 && !bit (dw ws 0) 0 then [(n, fld (dw old 2) 13 0, SMap.getD s.edl.rxs n rx0)] else []
    s.setEdl { s.edl with
      rx := SMap.put s.edl.rx n ws, rxs := SMap.del s.edl.rxs n, felt := s.edl.felt.filter (fun x => x.1 / 2 ^ 48 != n)
      fading := s.edl.fading ++ fade }

/-- The flows at a boundary: pending descriptors take effect. -/
def flowsBoundary (s : State) : State :=
  let s1 := s.edl.pend.foldl flowApply s
  s1.setEdl { s1.edl with pend := [] }

/-! ## Tunnelled Ethernet and maintenance -/

/-- An ETH chunk that passed the front end (R400). [Log 90: DEDUCED] -/
def chunkTake (s : State) (n : Nat) (f : EdlFrame) : State :=
  let first := f.sub.testBit 0
  let last := f.sub.testBit 1
  let fseq := f.sub / 4 % 128
  let count := f.block % 8192
  let p := edlP s n
  let cont := match p.join with | some (q, _) => !first && q == fseq | none => false
  let s1 := if cont then s else dropJoin s n
  if !cont && !first then s1
  else
    let had := match p.join with | some (_, b) => if cont then b else [] | none => []
    let bytes := had ++ f.payload.take count
    if last then acceptFrame (setEdl s1 n { edlP s1 n with join := none }) (16 + n) bytes false true none
    else setEdl s1 n { edlP s1 n with join := some (fseq, bytes) }

/-- ETH_CHUNK (R400): an ETH frame arrives. -/
def execEthChunk (n : BitVec 2) (frame : List Byte) (uncorr : Bool) (s : State) : Host.Outcome State Fault Refusal :=
  .next (let t := if edlUp s n.toNat && uncorr then dropJoin s n.toNat else s
    edlFront t n.toNat (frameOf (edlGen1 s n.toNat) frame) uncorr (fun u g => if g.type = 4 then chunkTake u n.toNat g else u))

/-- The chunks of a tunnelled frame of bytes bs, from chunk number i (R399). -/
def chunks (s : State) (n fseq : Nat) (bs : List Byte) : List EdlFrame :=
  let k := ceilDiv bs.length 4096
  (List.range k).map (fun i =>
    let part := slice bs (4096 * i) 4096
    let len := ceilDiv part.length 16
    { type := 4, len := len, src := devId s, dst := edlPartner s n, block := part.length, epoch := sceneEpoch s
      lepoch := ownLease s % 65536, hops := 0, emix := false, late := false
      sub := b2n (i == 0) + b2n (i + 1 == k) * 2 + fseq % 128 * 4, payload := part ++ List.replicate (16 * len - part.length) 0 })

/-- A tunnelled frame is sent (R399). -/
def sendTunnel (s : State) (n : Nat) (bs : List Byte) : State :=
  let p := edlP s n
  (chunks s n p.fseq bs).foldl (fun t f => sendOn t false f n) (setEdl s n { p with fseq := (p.fseq + 1) % 128 })

/-- LOOP_REQ (R401): it is answered with its own payload. -/
def execLoopReq (n : BitVec 2) (frame : List Byte) (uncorr : Bool) (s : State) : Host.Outcome State Fault Refusal :=
  .next (edlFront s n.toNat (frameOf (edlGen1 s n.toNat) frame) uncorr (fun t g =>
    if g.type = 5 ∧ g.sub = 1 then
      sendOn t false { g with src := devId t, dst := edlPartner t n.toNat, hops := 0, sub := 2, lepoch := ownLease t % 65536 } n.toNat
    else t))

/-- LOOP_RSP (R401): it ends at the device that asked; only the front end acts on it. -/
def execLoopRsp (n : BitVec 2) (frame : List Byte) (uncorr : Bool) (s : State) : Host.Outcome State Fault Refusal :=
  .next (edlFront s n.toNat (frameOf (edlGen1 s n.toNat) frame) uncorr (fun t _ => t))

/-- MAILBOX (R401): a message is stored, or discarded where the receive mailbox is full. -/
def execMailbox (n : BitVec 2) (frame : List Byte) (uncorr : Bool) (s : State) : Host.Outcome State Fault Refusal :=
  .next (edlFront s n.toNat (frameOf (edlGen1 s n.toNat) frame) uncorr (fun t g =>
    let i := n.toNat
    if g.type = 5 ∧ g.sub = 3 then
      if rdB t (R.EDL_PORTn_MBOX i) 28 then edlCond t i 9
      else
        let ws := (List.range (4 * g.len)).foldl (fun m w =>
          SMap.putD 0 m w (BitVec.ofNat 32 (lef g.payload (4 * w) 4))) ([] : SMap Word)
        let t1 := setEdl t i { edlP t i with rxBox := ws }
        edlCond (wr t1 (R.EDL_PORTn_MBOX i) (setFld (setFld (rd t1 (R.EDL_PORTn_MBOX i)) 28 28 1) 24 16 g.len)) i 8
    else t))

/-- GO and RELEASE of `EDL_PORTn_MBOX` (R401). -/
def mboxCtl (s : State) (n : Nat) (v : Word) : State :=
  let len := rdF s (R.EDL_PORTn_MBOX n) 8 0
  let s1 := if bit v 31 && decide (1 ≤ len) && decide (len ≤ 256) then
      let body := ((List.range (4 * len)).map (fun w => leBytes 4 (SMap.getD (edlP s n).txBox w 0).toNat)).flatten
      sendOn s false { type := 5, len := len, src := devId s, dst := edlPartner s n, block := s.dkl.num % 2 ^ 32, epoch := sceneEpoch s
                       lepoch := ownLease s % 65536, hops := 0, emix := false, late := false, sub := 3, payload := body } n
    else s
  if bit v 30 then
    wr (setEdl s1 n { edlP s1 n with rxBox := [] }) (R.EDL_PORTn_MBOX n) (setFld (rd s1 (R.EDL_PORTn_MBOX n)) 28 16 0)
  else s1

/-- MAILBOX_SEND (R401): PF0 writes v to `EDL_PORTn_MBOX`. -/
def execMailboxSend (fn : BitVec 6) (n : BitVec 2) (v : Word) (s : State) : Host.Outcome State Fault Refusal :=
  .next (let off := R.EDL_PORTn_MBOX n.toNat
    if accessOk s fn.toNat off then mboxCtl (plainWrite s fn.toNat off .base v) n.toNat v else s)

/-- MAILBOX_RELEASE (R401): PF0 writes v to `EDL_PORTn_MBOX`. -/
def execMailboxRelease (fn : BitVec 6) (n : BitVec 2) (v : Word) (s : State) : Host.Outcome State Fault Refusal :=
  .next (let off := R.EDL_PORTn_MBOX n.toNat
    if accessOk s fn.toNat off then mboxCtl (plainWrite s fn.toNat off .base v) n.toNat v else s)

/-- A word of the mailbox space (R525): transmit at 0x800 × n, receive at 0x800 × n + 0x400. -/
def mboxRead (s : State) (a : Nat) : Word :=
  let p := edlP s (a / 0x800)
  if a % 0x800 < 0x400 then SMap.getD p.txBox (a % 0x400) 0 else SMap.getD p.rxBox (a % 0x400) 0

/-- A write of a word of the mailbox space: the receive mailbox is read-only (R525). -/
def mboxWrite (s : State) (a : Nat) (v : Word) : State :=
  if a % 0x800 < 0x400 then
    setEdl s (a / 0x800) { edlP s (a / 0x800) with txBox := SMap.putD 0 (edlP s (a / 0x800)).txBox (a % 0x400) v }
  else s

/-! ## The boundary -/

/-- A trained port enters UP (R386), and its tunnel port with it. [Log 88: DEDUCED] -/
def portUpStep (s : State) (n : Nat) : State :=
  if edlState s n = 3 ∧ (edlP s n).marker = true then
    let l := setFld (setFld (rd s (R.EDL_PORTn_LINK n)) 2 0 4) 28 28 (b2n (bothCaps s n 1))
    edlCond (wr s (R.EDL_PORTn_LINK n) l) n 0
  else s

/-- A port is eligible as timing port at this boundary (R426). -/
def portEligible (s : State) (n : Nat) : Bool :=
  let p := edlP s n
  let pref := rdF s (R.EDL_PORTn_CTL n) 3 2
  edlState s n == 4 && (pref == 1 || pref == 2) && p.gotNow && p.gotPrev && rootOk s p.mFlags p.mRoot

/-- The first eligible port in the order of R426. -/
def bestPort (s : State) : Option Nat :=
  ((List.range 4).filter (portEligible s)).foldl (fun b n => match b with
    | none => some n
    | some m => if portOrder s n < portOrder s m then some n else some m) none

/-- The timing port of a boundary (R425, R426). -/
def timingStep (s : State) : State :=
  let cur := if rdB s R.EDL_TIME 2 then some (rdF s R.EDL_TIME 1 0) else none
  let pref := fun n => rdF s (R.EDL_PORTn_CTL n) 3 2
  let better := (List.range 4).any (fun n => pref n == 1 && portEligible s n && decide (16 ≤ (edlP s n).eligible + 1))
  let next := match cur with
    | some n => if portEligible s n && !(pref n == 2 && better) then some n else bestPort s
    | none => bestPort s
  let s1 := if next = cur then s
    else
      let a := match cur with | some n => healCond s n 5 | none => s
      let b := match next with | some n => healCond a n 5 | none => a
      wrF b R.EDL_TIME 2 0 (match next with | some n => n + 4 | none => 0)
  let hops := if rdB s1 R.EDL_CFG 16 then 0
    else match next with | some n => min 0xFFF ((edlP s1 n).mHops + 1) | none => 0xFFF
  wrF s1 R.EDL_TOPO 27 16 hops

/-- The counts of a port turned over at a boundary (R426, R440). -/
def portTurn (s : State) (n : Nat) : State :=
  let p := edlP s n
  let el := if portEligible s n then min 16 (p.eligible + 1) else 0
  let diff := if edlState s n = 4 ∧ p.gotNow = true ∧ p.mPep ≠ rdF s R.EDL_PEPOCH 15 0 then p.pepDiff + 1 else 0
  let s1 := if diff = 2 then healCond s n 7 else s
  setEdl s1 n { p with eligible := el, pepDiff := min 2 diff, gotPrev := p.gotNow, gotNow := false }

/-- Edarlink at a boundary (R386, R424 to R427, R440). [Log 88: DEDUCED] -/
def edlBoundary (s : State) : State :=
  let s1 := heal ((List.range 4).foldl portUpStep s)
  let s2 := if running s1 && !rdB s1 R.EDL_CFG 16 then timingStep s1 else wrF s1 R.EDL_TOPO 27 16 (if rdB s1 R.EDL_CFG 16 then 0 else 0xFFF)
  (List.range 4).foldl portTurn s2

/-- `EDL_TIME.STATE` and LOCK after the discipline's evaluation (R405): was is the lock before it. [Log 87: DEDUCED] -/
def lockReport (was : Bool) (s : State) : State :=
  if tbDisc s ≠ 3 then s
  else
    let now := rdB s R.TB_DISC 8
    let s1 := wrF s R.EDL_TIME 5 4 (if tbAcquiring s then 1 else if now then 2 else 3)
    if now != was && rdB s R.EDL_TIME 2 then edlCond s1 (rdF s R.EDL_TIME 1 0) 13 else s1

/-- LOCK_CHANGE (R405): the lock counts of the coming boundary reach 16 within ±5 ns, or 4 beyond. [Log 87: DEDUCED] -/
def execLockChange (s : State) : Host.Outcome State Fault Refusal :=
  .next (if tbDisc s = 3 ∧ (tbDstate s = 2 ∨ tbDstate s = 4) then
      let t := countLock s
      if rdB t R.TB_DISC 8 != rdB s R.TB_DISC 8 then lockReport (rdB s R.TB_DISC 8) t else s
    else s)

/-- The port stops at the beginning of a lift, or the entry into BARE: links are as R97 gives. -/
def portsOff (s : State) : State :=
  (List.range 4).foldl (fun t n =>
    let t1 := wrAll (tunnelDown t n) [(R.EDL_PORTn_LINK n, 0), (R.EDL_PORTn_CAP n, 0)]
    setEdlTx (setEdl (wrF t1 (R.EDL_PORTn_TOPO n) 30 30 0) n edl0) n edlTx0) s

end Sys2Proof.Machine
end

