-- ==== Sys2Proof/Machine/EdlSend.lean ====
section
/-! DEFINITION. What the Edarlink ports send in an event tick (R378, R380, R387, R392, R402 to R404, R407, R409): pages and PNP at the
parley rate, and the slots of the codewords of a trained port. -/

namespace Sys2Proof.Machine

/-- The PNP set of a reason (R387, R407). -/
def pnpBytes (s : State) (reason : Nat) : List Byte :=
  withCrc (leBytes 1 3 ++ leBytes 1 reason ++ leBytes 2 (if running s then devId s else 0xFFF) ++ List.replicate 8 0)

/-- The LEAVE set (R387, R409). -/
def leaveBytes (s : State) : List Byte := withCrc (leBytes 1 4 ++ leBytes 1 0 ++ leBytes 2 (devId s) ++ List.replicate 8 0)

/-- The control slot with which every codeword of a port begins: LEAVE on a thermal trip, else PNP where the device does not participate
(R407, R409). [Log 83: DEDUCED] -/
def leadSlot (s : State) (n : Nat) : Option (List Byte) :=
  if s.mgt.tripping then some (leaveBytes s) else (ownReason s n).map (pnpBytes s)

/-- The stamp of an instant u units of 25 ps / 17,952 after the first cycle of the event tick (R404): TB0, or the base that stands for it.
[Log 84: DEDUCED] -/
def slotStamp (s : State) (u : Nat) : Nat :=
  (((tbase s (stampBase s)).t : Int) + (u : Int) * tbInc s (stampBase s) / 448800).toNat % 2 ^ 75 / 2 ^ 35 % 2 ^ 40

/-- A set may leave at a stamp: an ECHO not before the marker that it answers has arrived (R403). -/
def setReady (t : Nat) (x : EdlSet) : Bool :=
  match x with
  | .echo _ _ t2 => decide (0 ≤ stampDiff t t2)
  | _ => true

/-- A set begins to leave at a stamp: a MARKER's T1 and an ECHO's T3 are kept for the exchange (R404). [Log 84: DEDUCED] -/
def setLeaves (s : State) (n : Nat) (x : EdlSet) (t : Nat) : State :=
  match x with
  | .plain _ => s
  | .marker _ _ d => setEdl s n { edlP s n with sent := some (d, t) }
  | .echo _ t1 t2 => setEdl s n { edlP s n with answered := some (t1, t2, t) }

/-- The frame of the lowest class among those that wait, the oldest first (R392). -/
def firstFrame (l : List EdlWait) : Option EdlWait := (List.range 7).findSome? (fun c => l.find? (fun f => f.cls == c))

/-- What a slot that begins at a stamp carries (R387, R388, R392): the state, and the slot with its TAG bit. -/
def nextSlot (s : State) (n t : Nat) : State × (Bool × List Byte) :=
  let x := edlTx s n
  let lead := if x.slots = [] then leadSlot s n else none
  match lead, x.part, x.sets.find? (setReady t), x.now with
  | some b, _, _, _ => (s, (true, b))
  | none, p :: ps, _, _ => (setEdlTx s n { x with part := ps }, (true, p))
  | none, [], some y, _ =>
    let g := granules (setBytes y t)
    (setLeaves (setEdlTx s n { x with sets := x.sets.erase y, part := g.drop 1 }) n y t, (true, (g.head?).getD []))
  | none, [], none, g :: gs =>
    let abort := gs == [] && x.abort
    (setEdlTx s n { x with now := gs, abort := x.abort && !abort, sets := if abort then abortSet :: x.sets else x.sets }, (false, g))
  | none, [], none, [] =>
    match (if edlUp s n then firstFrame x.frames else none) with
    | some f =>
      let gs := f.gran.drop 1
      let abort := gs == [] && f.cut
      (setEdlTx s n { x with
        frames := x.frames.erase f, now := gs, abort := f.cut && !abort, box := f.box, sets := if abort then abortSet :: x.sets else x.sets },
        (false, (f.gran.head?).getD []))
    | none => (s, (true, List.replicate 16 0))

/-- The length of a codeword of a mode in units of 25 ps / 17,952 (R377). -/
def codewordUnits (mode : Nat) : Nat := 71808 * modeTenths mode

/-- When the first symbol of slot i of a codeword leaves, in the same units from the codeword's start (R378, R404): the slot begins at bit
148 + 128 × i of the message, and the w lanes send w symbols at a time. -/
def slotStart (mode i : Nat) : Nat :=
  let w := modeLanes mode
  (148 + 128 * i) / 10 / w * w * codewordUnits mode / (514 + modeParity mode)

/-- The slots of port n that begin in the rest of an event tick: u units of it are over, until is its end (R378).
[Log 137: DESIGN CHOICE] -/
def fillSlots (n until_ : Nat) : Nat → Nat → State → State
  | 0, _, s => s
  | f + 1, u, s =>
    let x := edlTx s n
    let mode := edlMode s n
    let start := ((slotStart mode x.slots.length + u : Nat) - x.phase : Int).toNat
    if until_ ≤ start then setEdlTx s n { x with phase := x.phase + ((until_ : Int) - u) }
    else
      let r := nextSlot s n (slotStamp s start)
      let y := edlTx r.1 n
      let slots := y.slots ++ [r.2]
      if slots.length < 39 then fillSlots n until_ f start (setEdlTx r.1 n { y with slots := slots, phase := x.phase + ((start : Int) - u) })
      else
        let s1 := emit r.1 (.edlCodeword n (laneSymbols (modeLanes mode) (modeParity mode) (codeword y.cwseq slots)))
        let s2 := setEdlTx s1 n { y with
          slots := [], cwseq := (y.cwseq + 1) % 65536, phase := (slotStart mode 38 : Int) - codewordUnits mode }
        fillSlots n until_ f start s2

/-- Frames that wait at a port that is not UP are discarded (R392). -/
def dropWaiting (s : State) (n : Nat) : State :=
  let x := edlTx s n
  if edlUp s n || (x.frames == [] && x.now == []) then s else dropFrames s n

/-- What every lane of a port sends at the parley rate (R97, R380 to R384): PNP without a mould, pages while the port holds the parley or its
pages differ. -/
def parleyBytes (s : State) (n lane : Nat) : Option (List Byte) :=
  if !s.pwr.bare then none
  else if !running s then some (pnpBytes s 0)
  else if edlState s n = 1 ∨ edlState s n = 6 then some (ownPage s n lane)
  else none

/-- A port in the parley has sent its pages: with ACK = 1 they complete a parley whose other half has been received (R382). -/
def ackPage (s : State) (n : Nat) : State :=
  let p := edlP s n
  if !(edlState s n == 1 && p.accepted && !p.ackSent) then s
  else
    let p1 := { p with ackSent := true }
    if parleyDone p1 then judgePages (setEdl s n p1) n else setEdl s n p1

/-- The pages of a port in an event tick of c cycles: one on each lane every 1 µs, that is 1,600 cycles (R380).
[Log 83: DEDUCED] -/
def sendPages (s : State) (n c : Nat) : State :=
  let x := edlTx s n
  match parleyBytes s n 0 with
  | none => if x.page = 0 then s else setEdlTx s n { x with page := 0 }
  | some _ =>
    if x.page + c < 1600 then setEdlTx s n { x with page := x.page + c }
    else
      ackPage ((List.range 4).foldl (fun t l => match parleyBytes s n l with
        | some b => emit t (.edlParley n l b)
        | none => t) (setEdlTx s n { x with page := x.page + c - 1600 })) n

/-- Edarlink port n in an event tick of c cycles: without its reference clock it sends nothing (R590). -/
def edlSendPort (c : Nat) (s : State) (n : Nat) : State :=
  if !s.pwr.edlRef then s
  else if trained s n && running s then
    let s1 := dropWaiting s n
    fillSlots n (448800 * c) 40 0 s1
  else sendPages s n c

/-- The Edarlink ports in an event tick of c cycles. -/
def edlSend (s : State) (c : Nat) : State := (List.range 4).foldl (edlSendPort c) s

end Sys2Proof.Machine
end

