-- ==== Sys2Proof/Machine/Sequencer.lean ====
section
/-! DEFINITION. The cue sequencers (chapter 13): the instruction store, the check at start, the instructions, the waits and the
stall rule. -/

namespace Sys2Proof.Machine

/-- A sequencer at rest. -/
def seq0 : SeqSt :=
  { until_ := none, target := 0, passed := false, all := false, clr := false, mask := 0, count := 0, yielded := false,
    start := false, stop := false }

/-- What sequencer n holds. -/
def seqSt (s : State) (n : Nat) : SeqSt := SMap.getD s.seq.seqs n seq0

/-- The state with what sequencer n holds replaced. -/
def setSeq (s : State) (n : Nat) (x : SeqSt) : State := s.setSeq { s.seq with seqs := SMap.put s.seq.seqs n x }

/-- STATE of a sequencer (R358). -/
def seqState (s : State) (n : Nat) : Nat := rdF s (R.SEQn_STATE n) 2 0

/-- PC of a sequencer. -/
def seqPc (s : State) (n : Nat) : Nat := rdF s (R.SEQn_STATE n) 28 12

/-- A sequencer enters a state with a program counter. -/
def seqEnter (s : State) (n st pc : Nat) : State :=
  wr s (R.SEQn_STATE n) (setFld (setFld (rd s (R.SEQn_STATE n)) 28 12 pc) 2 0 st)

/-- A word of the instruction store. -/
def storeWord (s : State) (a : Nat) : Word := SMap.getD s.seq.store a 0

/-- Word i of the program of sequencer n (R370). -/
def progWord (s : State) (n i : Nat) : Word := storeWord s (rdF s (R.SEQn_BASE n) 16 0 + i)

/-- OP of an instruction word (R374). -/
def seqOp (w : Word) : Nat := fld w 31 26

/-- The words of the instruction that begins with a word, or none where its opcode or a field is refused (R374, R375). -/
def seqWords (w : Word) : Option Nat :=
  match seqOp w with
  | 0x00 => some 1
  | 0x01 => some 1
  | 0x02 => some 1
  | 0x03 => if fld w 15 0 = 0 then none else some 1
  | 0x04 => some 1
  | 0x05 => some 2
  | 0x06 => some 2
  | 0x07 => some 1
  | 0x08 => some 1
  | 0x09 => some 1
  | 0x0A => some 1
  | 0x0B => if fld w 25 23 = 7 then none else some 1
  | 0x0C => some 1
  | 0x0D => if 10 ≤ fld w 11 8 then none else some 1
  | 0x10 => if fld w 25 23 = 7 then none else some 1
  | 0x11 => some 1
  | 0x14 => some 1
  | 0x15 => some 1
  | 0x16 => some 1
  | 0x17 => some 1
  | _ => none

/-- The first words of the instructions of a program of len words, from word i on; none where decoding fails
(R370 REASON 3). -/
def seqStarts (s : State) (n len : Nat) : Nat → Nat → Option (List Nat)
  | 0, _ => some []
  | fuel + 1, i =>
    if len ≤ i then some []
    else match seqWords (progWord s n i) with
      | none => none
      | some k => if len < i + k then none else (seqStarts s n len fuel (i + k)).map (i :: ·)

/-- The branch target of an instruction, if it is a branch. -/
def seqTarget (w : Word) : Option Nat := if seqOp w = 0x10 ∨ seqOp w = 0x11 then some (fld w 16 0) else none

/-- The instructions that yield (R357). -/
def seqYields (w : Word) : Bool := decide (1 ≤ seqOp w ∧ seqOp w ≤ 5)

/-- The words at which a program can continue after the instruction at word i, without a yield (R370). -/
def seqNexts (s : State) (n i : Nat) : List Nat :=
  let w := progWord s n i
  if seqYields w then []
  else
    (match seqTarget w with | some t => [t] | none => []) ++
      (if seqOp w = 0x10 ∧ fld w 25 23 = 0 then [] else [i + (seqWords w).getD 1])

/-- The longest path from a set of instructions, counted up to a bound (R370): none where it does not end within it. -/
def seqWorst (s : State) (n : Nat) : Nat → List Nat → Option Nat
  | 0, _ => none
  | fuel + 1, l => if l = [] then some 0 else (seqWorst s n fuel ((l.flatMap (seqNexts s n)).eraseDups)).map (· + 1)

/-- Words [first, first + count) lie within a tenant's store share (R370, R608). -/
def storeShare (s : State) (t first count : Nat) : Bool :=
  (List.range 4).any (fun r =>
    let b := item s (declKey 0x19 (r * 1024 + t)) % 2 ^ 17
    decide (b ≤ first) && decide (first + count ≤ b + item s (declKey 0x1A (r * 1024 + t))) && decide (first + count ≤ 131072))

/-- The objects an instruction names belong to the tenant t (R370 REASON 5). -/
def seqOwns (s : State) (t : Nat) (w : Word) : Bool :=
  match seqOp w with
  | 0x07 => seqTenant s (fld w 22 16) == t
  | 0x0D => if fld w 11 8 = 6 then seqTenant s (fld w 6 0) == t
      else if fld w 11 8 = 9 then owner s 0x18 (fld w 5 0) == some t else true
  | 0x14 => t == 0
  | 0x15 => bit w 19 || owner s 0x14 (fld w 13 0) == some t
  | 0x16 => owner s 0x18 (fld w 24 19) == some t
  | _ => true

/-- The check of R370: 0 where it passes, else the REASON; with it the worst path. -/
def programCheck (s : State) (n : Nat) : Nat × Nat :=
  let t := seqTenant s n
  let base := rdF s (R.SEQn_BASE n) 16 0
  let len := rdF s (R.SEQn_LEN n) 17 0
  let entry := rdF s (R.SEQn_CTL n) 16 0
  if !storeShare s t base len || len = 0 || len ≤ entry then (2, 0)
  else match seqStarts s n len len 0 with
    | none => (3, 0)
    | some st =>
      let ok := st.contains entry && st.all (fun i => match seqTarget (progWord s n i) with
        | some j => st.contains j
        | none => true)
      let ends := match st.getLast? with
        | some i => seqOp (progWord s n i) == 1 || (seqOp (progWord s n i) == 0x10 && fld (progWord s n i) 25 23 == 0)
        | none => false
      if !ok || !ends then (4, 0)
      else if !(st.all (fun i => seqOwns s t (progWord s n i))) then (5, 0)
      else match seqWorst s n (st.length + 1) st with
        | none => (6, 0xFFFFFFFF)
        | some k => if 64 < k then (6, k) else (0, k)

/-- The rejection of a start or of a store write (R370, R372). [Log 76: DEDUCED] -/
def seqReject (s : State) (n reason : Nat) : State :=
  let s1 := setCondWith s R.SEQ_STAT 512 (if reason = 7 then 0x200 else 0x100) [(R.SEQ_LAST, BitVec.ofNat 32 (reason * 256 + n))] 0 .newBits
  fireSrc s1 (256 + n) (seqTenant s n) (BitVec.ofNat 32 (3 * 2 ^ 30 + reason))

/-- The writes of START and STOP (R370, R372): a START of a sequencer that is not IDLE fails check 1 at once.
[Log 76: DEDUCED] -/
def seqCtl (s : State) (n : Nat) (v : Word) : State :=
  let s1 := if bit v 31 && !rdB s (R.SEQn_CTL n) 29 then
      (if seqState s n = 0 then wrF s (R.SEQn_CTL n) 29 29 1 else seqReject s n 1)
    else s
  if bit v 30 then setSeq s1 n { seqSt s1 n with stop := true } else s1

/-- Where sequencer n is not IDLE, these writes are ignored (R372): ENTRY, BASE, LEN and the value registers. -/
def seqFrozen (off : Nat) : Bool :=
  decide (0xA1000 ≤ off ∧ off < 0xA5000) &&
    (off % 0x80 == 0 || off % 0x80 == 8 || off % 0x80 == 12 || decide (0x40 ≤ off % 0x80 ∧ off % 0x80 < 0x60))

/-- A write of a register of the sequencers by function fn (R364, R370, R372): `w` is the word it would hold. -/
def seqWrite (s : State) (fn off : Nat) (q : Quarter) (v : Word) : State :=
  let n := (off - 0xA1000) / 0x80
  let per := decide (0xA1000 ≤ off ∧ off < 0xA5000)
  let s1 := if seqFrozen off && seqState s n != 0 then s else plainWrite s fn off q v
  if per && off % 0x80 == 0 && q == .base then seqCtl s1 n v
  else if per && off % 0x80 == 0x18 && bit v 0 && q == .base then
    s1.setSeq { s1.seq with posted := SMap.upd s1.seq.posted n 0 (· ||| 0x200) }
  else s1

/-- START (R370): function fn writes v to `SEQn_CTL`. -/
def execStart (fn : BitVec 6) (n : BitVec 7) (v : Word) (s : State) : Host.Outcome State Fault Refusal :=
  .next (hostWriteAs s fn.toNat (R.SEQn_CTL n.toNat) v (fun t => seqWrite t fn.toNat (R.SEQn_CTL n.toNat) .base v))

/-- STOP (R372): function fn writes v to `SEQn_CTL`. -/
def execStop (fn : BitVec 6) (n : BitVec 7) (v : Word) (s : State) : Host.Outcome State Fault Refusal :=
  .next (hostWriteAs s fn.toNat (R.SEQn_CTL n.toNat) v (fun t => seqWrite t fn.toNat (R.SEQn_CTL n.toNat) .base v))

/-- KICK (R359): function fn writes v to `SEQn_KICK`. -/
def execKick (fn : BitVec 6) (n : BitVec 7) (v : Word) (s : State) : Host.Outcome State Fault Refusal :=
  .next (hostWriteAs s fn.toNat (R.SEQn_KICK n.toNat) v (fun t => seqWrite t fn.toNat (R.SEQn_KICK n.toNat) .base v))

/-- The end of a start check (R370, R89). -/
def checkEnd (s : State) (n : Nat) : State :=
  let s1 := wrF s (R.SEQn_CTL n) 29 29 0
  if s1.dev ≠ .laid ∨ seqState s1 n ≠ 0 then seqReject s1 n 1
  else
    let r := programCheck s1 n
    if r.1 = 0 then setSeq s1 n { seqSt s1 n with start := true }
    else if r.1 = 6 then seqReject (rtRefuse s1 0xA (seqTenant s1 n) 0x0D r.2 64) n 6
    else seqReject s1 n r.1

/-- PROGRAM_CHECK_END (R370): the running check of sequencer n ends. -/
def execProgramCheckEnd (n : BitVec 7) (s : State) : Host.Outcome State Fault Refusal :=
  .next (if rdB s (R.SEQn_CTL n.toNat) 29 then checkEnd s n.toNat else s)

/-- A function reaches a word of the instruction store (R525, R608). -/
def storeReach (s : State) (fn a : Nat) : Bool :=
  fn == 0 || (List.range (item s (declKey 0x10 0))).any (fun t => tenantFn s t == fn && storeShare s t a 1)

/-- A write of a word of the instruction store (R372). -/
def storeWrite (s : State) (fn a : Nat) (v : Word) : State :=
  if !storeReach s fn a || 131072 ≤ a then s
  else
    let held := (List.range 128).filter (fun n =>
      seqState s n != 0 && decide (rdF s (R.SEQn_BASE n) 16 0 ≤ a) && decide (a < rdF s (R.SEQn_BASE n) 16 0 + rdF s (R.SEQn_LEN n) 17 0))
    if held = [] then s.setSeq { s.seq with store := SMap.putD 0 s.seq.store a v }
    else held.foldl (fun t n => seqReject t n 7) s

/-- Value register Vk of sequencer n. -/
def seqV (s : State) (n k : Nat) : Word := rd s (R.SEQn_Vk n k)

/-- The instruction at the program counter of sequencer n executes where it has the opcode op, in the event tick of the sequencer's slot in
which its cycle lies (R356, R357): instruction i of slot s in event tick 32 + 4 × s + i/16; f takes the word and the program counter. -/
def seqGo (s : State) (n op : Nat) (f : Word → Nat → State → State) : State :=
  let x := seqSt s n
  let pc := seqPc s n
  let w := progWord s n pc
  if running s && seqState s n == 1 && !x.yielded && decide (x.count < 64) && s.dkl.evt == 32 + 4 * (n % 16) + x.count / 16 &&
      seqOp w == op then
    f w pc (setSeq s n { x with count := x.count + 1 })
  else s

/-- The program counter of a running sequencer moves to a word. -/
def seqJump (s : State) (n pc : Nat) : State := seqEnter s n 1 pc

/-- A value register is written and the program goes on. -/
def seqSetV (s : State) (n k pc : Nat) (v : Word) : State := seqJump (wr s (R.SEQn_Vk n k) v) n (pc + 1)

/-- The deckle number as one of 48 bits. -/
def wrap48 (n : Nat) : Nat := n % 2 ^ 48

/-- NOP (R374). -/
def execNop (n : BitVec 7) (s : State) : Host.Outcome State Fault Refusal :=
  .next (seqGo s n.toNat 0x00 (fun _ pc t => seqJump t n.toNat (pc + 1)))

/-- A happening of the slot of sequencer n lands as a hardware event of its source, in step 3 of the event tick (R55, R356). -/
def seqLands (s : State) (n : Nat) (a : HwAct) : State := later s (256 + n) a

/-- HALT has landed: the sequencer is IDLE at the word of the HALT (R372). [Log 77: DEDUCED] -/
def haltLand (s : State) (n pc : Nat) : State :=
  fireSrc (seqEnter s n 0 pc) (256 + n) (seqTenant s n) (BitVec.ofNat 32 (2 * 2 ^ 30 + pc))

/-- HALT (R356, R372, R374): the slot ends, and the sequencer is IDLE once it lands, after the register writes of its event tick.
[Log 77: DEDUCED] -/
def execHalt (n : BitVec 7) (s : State) : Host.Outcome State Fault Refusal :=
  .next (seqGo s n.toNat 0x01 (fun _ pc t =>
    seqLands (setSeq t n.toNat { seqSt t n.toNat with yielded := true }) n.toNat (.halt n.toNat pc)))

/-- YIELD (R374). -/
def execYieldRow (n : BitVec 7) (s : State) : Host.Outcome State Fault Refusal :=
  .next (seqGo s n.toNat 0x02 (fun _ pc t =>
    setSeq (seqJump t n.toNat (pc + 1)) n.toNat { seqSt t n.toNat with yielded := true }))

/-- WAITD (R374). -/
def execWaitd (n : BitVec 7) (s : State) : Host.Outcome State Fault Refusal :=
  .next (seqGo s n.toNat 0x03 (fun w pc t =>
    setSeq (seqEnter t n.toNat 2 (pc + 1)) n.toNat
      { seqSt t n.toNat with until_ := some (wrap48 (t.dkl.num + fld w 15 0)) }))

/-- WAITU (R41, R374). -/
def execWaitu (n : BitVec 7) (s : State) : Host.Outcome State Fault Refusal :=
  .next (seqGo s n.toNat 0x04 (fun w pc t =>
    let v := (seqV t n.toNat (fld w 22 20)).toNat
    setSeq (seqEnter t n.toNat 3 (pc + 1)) n.toNat { seqSt t n.toNat with target := v, passed := inPast 32 v t.dkl.num }))

/-- WAITE (R362, R363, R374). -/
def execWaite (n : BitVec 7) (s : State) : Host.Outcome State Fault Refusal :=
  .next (seqGo s n.toNat 0x05 (fun w pc t =>
    setSeq (seqEnter t n.toNat 4 (pc + 2)) n.toNat
      { seqSt t n.toNat with
        all := bit w 25, clr := bit w 24, mask := (progWord t n.toNat (pc + 1)).toNat
        until_ := if fld w 15 0 = 0 then none else some (wrap48 (t.dkl.num + fld w 15 0)) }))

/-- CLRC (R374). -/
def execClrc (n : BitVec 7) (s : State) : Host.Outcome State Fault Refusal :=
  .next (seqGo s n.toNat 0x06 (fun _ pc t =>
    seqJump (wr t (R.SEQn_COND n.toNat) (rd t (R.SEQn_COND n.toNat) &&& ~~~(progWord t n.toNat (pc + 1)))) n.toNat (pc + 2)))

/-- A signal is posted (R360, R365): one to an IDLE sequencer is discarded. [Log 76: DEDUCED] -/
def postSig (s : State) (n bits : Nat) : State :=
  if seqState s n = 0 then s else s.setSeq { s.seq with posted := SMap.upd s.seq.posted n 0 (· ||| bits) }

/-- SIG (R356, R365, R374): it is posted after the register writes of its event tick. -/
def execSig (n : BitVec 7) (s : State) : Host.Outcome State Fault Refusal :=
  .next (seqGo s n.toNat 0x07 (fun w pc t => seqJump (seqLands t n.toNat (.sig (fld w 22 16) (2 ^ fld w 2 0))) n.toNat (pc + 1)))

/-- The flags after FLAGS (R374). -/
def flagsAfter (w cur v : Word) : Word :=
  let m := BitVec.ofNat 32 (fld w 15 0 * (if bit w 23 then 65536 else 1))
  match fld w 25 24 with
  | 0 => cur ||| m
  | 1 => cur &&& ~~~m
  | 2 => cur ^^^ m
  | _ => v

/-- The flags of sequencer n with the FLAGS instructions of the present event tick counted in (R364). -/
def flagsNow (s : State) (n : Nat) : Word :=
  s.ev.acts.foldl (fun c a => match a.2 with
    | .flags m w v => if m = n then flagsAfter w c v else c
    | _ => c) (rd s (R.SEQn_FLAGS n))

/-- FLAGS (R364, R374): it takes effect after the register writes of its event tick. -/
def execFlags (n : BitVec 7) (s : State) : Host.Outcome State Fault Refusal :=
  .next (seqGo s n.toNat 0x08 (fun w pc t =>
    seqJump (seqLands t n.toNat (.flags n.toNat w (seqV t n.toNat (fld w 22 20)))) n.toNat (pc + 1)))

/-- IMM of a word, sign-extended. -/
def seqImm (w : Word) : Word := BitVec.ofInt 32 (sext 16 (fld w 15 0))

/-- LDI (R374). -/
def execLdi (n : BitVec 7) (s : State) : Host.Outcome State Fault Refusal :=
  .next (seqGo s n.toNat 0x09 (fun w pc t => seqSetV t n.toNat (fld w 22 20) pc (seqImm w)))

/-- LDIH (R374). -/
def execLdih (n : BitVec 7) (s : State) : Host.Outcome State Fault Refusal :=
  .next (seqGo s n.toNat 0x0A (fun w pc t =>
    seqSetV t n.toNat (fld w 22 20) pc (setFld (seqV t n.toNat (fld w 22 20)) 31 16 (fld w 15 0))))

/-- The result of ALU (R374). -/
def aluResult (fn : Nat) (a b : Word) : Word :=
  match fn with
  | 0 => a + b
  | 1 => a - b
  | 2 => a &&& b
  | 3 => a ||| b
  | 4 => a ^^^ b
  | 5 => a <<< (b.toNat % 32)
  | _ => a >>> (b.toNat % 32)

/-- ALU (R374). -/
def execAlu (n : BitVec 7) (s : State) : Host.Outcome State Fault Refusal :=
  .next (seqGo s n.toNat 0x0B (fun w pc t =>
    seqSetV t n.toNat (fld w 22 20) pc
      (aluResult (fld w 25 23) (seqV t n.toNat (fld w 19 17)) (seqV t n.toNat (fld w 16 14)))))

/-- ADDI (R374). -/
def execAddi (n : BitVec 7) (s : State) : Host.Outcome State Fault Refusal :=
  .next (seqGo s n.toNat 0x0C (fun w pc t => seqSetV t n.toNat (fld w 22 20) pc (seqV t n.toNat (fld w 19 17) + seqImm w)))

/-- What RDIN reads (R375). -/
def seqInput (s : State) (n : Nat) (w : Word) : Word :=
  match fld w 11 8 with
  | 0 => BitVec.ofNat 32 s.dkl.num
  | 1 => rd s (R.SEQn_COND n)
  | 2 => rd s (R.SEQn_ZSIG n)
  | 3 => BitVec.ofNat 32 (dciTaken s)
  | 4 => BitVec.ofNat 32 s.inp.samp
  | 5 => BitVec.ofNat 32 (s.inp.samp / 2 ^ 32)
  | 6 => BitVec.ofNat 32 (SMap.getD s.ptr.flags (fld w 6 0) 0)
  | 7 => flagsNow s n
  | 8 => BitVec.ofNat 32 (sceneEpoch s)
  | _ => playerStat s (fld w 5 0)

/-- RDIN (R374, R375). -/
def execRdin (n : BitVec 7) (s : State) : Host.Outcome State Fault Refusal :=
  .next (seqGo s n.toNat 0x0D (fun w pc t => seqSetV t n.toNat (fld w 22 20) pc (seqInput t n.toNat w)))

/-- The condition of BR (R374). -/
def brTaken (c : Nat) (a b : Word) : Bool :=
  match c with
  | 0 => true
  | 1 => a == b
  | 2 => a != b
  | 3 => decide (a.toInt < b.toInt)
  | 4 => decide (b.toInt ≤ a.toInt)
  | 5 => decide (a.toNat < b.toNat)
  | _ => decide (b.toNat ≤ a.toNat)

/-- BR (R374). -/
def execBr (n : BitVec 7) (s : State) : Host.Outcome State Fault Refusal :=
  .next (seqGo s n.toNat 0x10 (fun w pc t =>
    seqJump t n.toNat (if brTaken (fld w 25 23) (seqV t n.toNat (fld w 22 20)) (seqV t n.toNat (fld w 19 17)) then fld w 16 0 else pc + 1)))

/-- BRB (R374). -/
def execBrb (n : BitVec 7) (s : State) : Host.Outcome State Fault Refusal :=
  .next (seqGo s n.toNat 0x11 (fun w pc t =>
    seqJump t n.toNat (if bit (seqV t n.toNat (fld w 19 17)) (fld w 24 20) == bit w 25 then fld w 16 0 else pc + 1)))

/-- COMMIT (R366): T comes from the deckle of its execution; the epoch is that of its landing. -/
def execCommit (n : BitVec 7) (s : State) : Host.Outcome State Fault Refusal :=
  .next (seqGo s n.toNat 0x14 (fun w pc t =>
    let target := wrap48 (t.dkl.num + (seqV t n.toNat (fld w 22 20)).toNat)
    seqJump (seqLands t n.toNat (.commit n.toNat (bit w 25) (fld w 11 0) target)) n.toNat (pc + 1)))

/-- LIVE (R367). -/
def execLive (n : BitVec 7) (s : State) : Host.Outcome State Fault Refusal :=
  .next (seqGo s n.toNat 0x15 (fun w pc t =>
    let slot := if bit w 19 then fld (seqV t n.toNat (fld w 18 16)) 13 0 else fld w 13 0
    seqJump (seqLands t n.toNat (.live n.toNat (BitVec.ofNat 32 (slot + fld w 25 23 * 65536)) (seqV t n.toNat (fld w 22 20)))) n.toNat (pc + 1)))

/-- PLAY (R368). -/
def execPlay (n : BitVec 7) (s : State) : Host.Outcome State Fault Refusal :=
  .next (seqGo s n.toNat 0x16 (fun w pc t =>
    let msg := if bit w 25 then none else some (fld (seqV t n.toNat (fld w 18 16)) 15 0)
    seqJump (seqLands t n.toNat (.play n.toNat (fld w 24 19) msg)) n.toNat (pc + 1)))

/-- A commit of a sequencer lands (R366). -/
def seqCommit (s : State) (fwd : Bool) (dev target : Nat) : State :=
  let epoch := (sceneEpoch s + 1) % 65536
  let t := if fwd then sendCommit s dev target epoch else s
  if t.pwr.cmpt then gen1Commit t 1 else submitCommit t target epoch 1 true

/-- RAISE (R369). -/
def execRaise (n : BitVec 7) (s : State) : Host.Outcome State Fault Refusal :=
  .next (seqGo s n.toNat 0x17 (fun w pc t =>
    seqJump (fireSrc t (256 + n.toNat) (seqTenant t n.toNat) (BitVec.ofNat 32 (fld w 15 0))) n.toNat (pc + 1)))

/-- The value an input selector picks, now or as of the boundary before (R361). -/
def seqSel (s : State) (sel : Nat) (prev : Bool) : Bool :=
  if sel < 16 then (if prev then s.inp.takenPrev else dciTaken s).testBit sel
  else if sel < 80 then (if prev then s.inp.sampPrev else s.inp.samp).testBit (sel - 16)
  else false

/-- Step 5.1 for sequencer n (R359, R360): carried tells a commit carried out at this boundary. -/
def seqRaise (carried : Bool) (s : State) (n : Nat) : State :=
  let cfg := rd s (R.SEQn_CFG n)
  let in_ := fun (sel : Nat) => b2n (seqSel s sel false != seqSel s sel true)
  let bits := SMap.getD s.seq.posted n 0 ||| (b2n (SMap.get s.ptr.signals n).isSome * 0x100) |||
    (b2n (s.dste.pdone.contains n) * 0x400) ||| (in_ (fld cfg 6 0) * 0x800) ||| (in_ (fld cfg 14 8) * 0x1000) ||| (b2n carried * 0x2000)
  let s1 := wr s (R.SEQn_COND n) (rd s (R.SEQn_COND n) ||| BitVec.ofNat 32 bits)
  match SMap.get s.ptr.signals n with
  | some (prio, zone) => wr s1 (R.SEQn_ZSIG n) (BitVec.ofNat 32 (prio % 16 * 4096 + zone % 4096))
  | none => s1

/-- A deckle has come at the boundary that opens deckle e (R362). [Log 79: DEDUCED] -/
def hasCome (k t e : Nat) : Bool := decide (t % 2 ^ k = e % 2 ^ k) || inPast k t e

/-- A WAITE holds (R362). -/
def waiteHolds (s : State) (n : Nat) : Bool :=
  let x := seqSt s n
  let c := (rd s (R.SEQn_COND n)).toNat &&& x.mask
  if x.all then decide (c = x.mask) else decide (c ≠ 0)

/-- The timeout of a WAITE, or the count of a WAITD, has come. [Log 79: DEDUCED] -/
def untilCome (x : SeqSt) (e : Nat) : Bool :=
  match x.until_ with
  | some t => hasCome 48 t e
  | none => false

/-- The wait of sequencer n ends and it is in RUN. -/
def seqResume (s : State) (n : Nat) : State :=
  setSeq (wrF s (R.SEQn_STATE n) 2 0 1) n { seqSt s n with until_ := none }

/-- A WAITE of sequencer n ends, with TMO where the timeout ends it (R362). -/
def waiteEnd (s : State) (n : Nat) (tmo : Bool) : State :=
  let x := seqSt s n
  let c := rd s (R.SEQn_COND n)
  let c1 := if x.clr then c &&& ~~~(BitVec.ofNat 32 x.mask) else c
  seqResume (wr s (R.SEQn_COND n) (if tmo then c1 ||| BitVec.ofNat 32 (2 ^ 30) else c1)) n

/-- The wait of sequencer n ends at the boundary that opens deckle e (R362). [Log 79: DEDUCED] -/
def waitDue (s : State) (n e : Nat) : Bool :=
  let x := seqSt s n
  match seqState s n with
  | 2 => untilCome x e
  | 3 => x.passed || hasCome 32 x.target e
  | 4 => waiteHolds s n || untilCome x e
  | _ => false

/-- Step 5.2 for sequencer n (R362). -/
def seqWait (e : Nat) (s : State) (n : Nat) : State :=
  if !waitDue s n e then s
  else if seqState s n = 4 then waiteEnd s n (!waiteHolds s n)
  else seqResume s n

/-- Step 5.3 for sequencer n (R362, R370, R372). [Log 76: DEDUCED] -/
def seqStartStop (s : State) (n : Nat) : State :=
  let x := seqSt s n
  let s1 := if x.start then seqEnter (wr s (R.SEQn_COND n) 0) n 1 (rdF s (R.SEQn_CTL n) 16 0) else s
  let s2 := if x.stop then wrF s1 (R.SEQn_STATE n) 2 0 0 else s1
  if x.start || x.stop then setSeq s2 n { x with start := false, stop := false, until_ := none } else s2

/-- Group g is stalled, `ended` listing the sequencers whose wait ended at this boundary (R373): bits [13:8] are the external
ones. [Log 78: DEDUCED] -/
def groupStalled (s : State) (g : Nat) (ended : List Nat) : Bool :=
  let on := ((List.range 16).map (16 * g + ·)).filter (fun n => seqState s n != 0)
  !on.isEmpty && on.all (fun n => seqState s n == 4 && (seqSt s n).mask &&& 0x3F00 == 0 && (seqSt s n).until_.isNone) &&
    !(ended.any (fun n => n / 16 == g))

/-- The release of a stalled group (R373). -/
def stallRelease (s : State) (g : Nat) : State :=
  match ((List.range 16).map (16 * g + ·)).find? (fun n => seqState s n == 4) with
  | none => s
  | some n =>
    let s1 := seqResume (wr s (R.SEQn_COND n) (rd s (R.SEQn_COND n) ||| BitVec.ofNat 32 (2 ^ 31))) n
    let s2 := setCondWith s1 R.SEQ_STAT 512 (2 ^ g) [] 0 .newBits
    wr (fireSrc s2 (256 + n) (seqTenant s n) (BitVec.ofNat 32 (2 ^ 30 + g * 65536))) (R.SEQ_GRPg_CNT g) 0

/-- Step 5.4 for group g (R362, R373). -/
def seqGroup (ended : List Nat) (s : State) (g : Nat) : State :=
  if !groupStalled s g ended then wr s (R.SEQ_GRPg_CNT g) 0
  else
    let c := rdF s (R.SEQ_GRPg_CNT g) 7 0 + 1
    if rdF s R.SEQ_CFG 7 0 ≤ c then stallRelease s g else wr s (R.SEQ_GRPg_CNT g) (BitVec.ofNat 32 c)

/-- Step 5 of the boundary that opens deckle e (R62, R65, R362). -/
def seqBoundary (s : State) (e : Nat) (carried : Bool) : State :=
  let all := List.range 128
  let s1 := all.foldl (seqRaise carried) s
  let s2 := ((s1.setSeq { s1.seq with posted := [] }).setPtr { s1.ptr with signals := [] }).setDste { s1.dste with pdone := [] }
  let ended := all.filter (fun n => waitDue s2 n e)
  let s3 := all.foldl (seqWait e) s2
  let s4 := all.foldl seqStartStop s3
  let s5 := (List.range 8).foldl (seqGroup ended) s4
  s5.setSeq { s5.seq with seqs := s5.seq.seqs.map (fun x => (x.1, { x.2 with count := 0, yielded := false })) }

/-- Every sequencer becomes IDLE at the beginning of a lift (R372). -/
def seqLift (s : State) : State :=
  let s1 := (List.range 128).foldl (fun t n => wrF t (R.SEQn_STATE n) 2 0 0) s
  s1.setSeq { s1.seq with seqs := [], posted := [] }

/-- The sequencers that start of themselves at the first boundary in LAID (R371). -/
def seqAuto (s : State) : State :=
  (List.range 128).foldl (fun t n => if rdB t (R.SEQn_CFG n) 16 then setSeq t n { seqSt t n with start := true } else t) s

/-- `SEQn_WAIT` and `SEQn_FLAGS` as they read (R363, R364). -/
def seqLive (s : State) (off : Nat) : Option Word :=
  if 0xA1000 ≤ off ∧ off < 0xA5000 ∧ off % 0x80 = 0x14 then some (flagsNow s ((off - 0xA1000) / 0x80))
  else if 0xA1000 ≤ off ∧ off < 0xA5000 ∧ off % 0x80 = 0x24 then
    let n := (off - 0xA1000) / 0x80
    let x := seqSt s n
    some (BitVec.ofNat 32 (match seqState s n, x.until_ with
      | 3, _ => x.target
      | 2, some t => modDist 48 t s.dkl.num
      | 4, some t => modDist 48 t s.dkl.num
      | _, _ => 0))
  else none

end Sys2Proof.Machine
end

