-- ==== Sys2Proof/Machine/Trellis.lean ====
section
/-! DEFINITION. Trellis buses (chapter 15): entries, contributions, passing sums, the deadline, substitutes and migrations. -/

namespace Sys2Proof.Machine

/-- A bus entry in force. -/
def busEntry (s : State) (b : Nat) : List Word := SMap.getD s.trl.bus b []

/-- EN, HEAD, TAIL and OWN of an entry (R442). -/
def busEn (ws : List Word) : Bool := bit (dw ws 0) 0
def busHead (ws : List Word) : Bool := bit (dw ws 0) 1
def busTail (ws : List Word) : Bool := bit (dw ws 0) 2
def busOwn (ws : List Word) : Bool := bit (dw ws 0) 3

/-- The key of a bus, a block and a ring. -/
def busKey (b k ring : Nat) : Nat := b * 2 ^ 49 + k % 2 ^ 48 * 2 + ring

/-- The transit allowance A (R432). -/
def transitA (s : State) : Nat := rdF s R.TRL_CFG 7 0

/-- The rings a bus runs on: one, or both in KIND 3 (R421). -/
def busRings (s : State) : List Nat := if topoKind s = 3 then [0, 1] else [0]

/-- A condition of `TRL_STAT` with `TRL_LAST` (R443); `again`: a new setting even where the bit is set. -/
def trlCond (s : State) (again : Bool) (c bus block : Nat) : State :=
  let last := BitVec.ofNat 32 (bus % 2048 + c * 4096 + block % 65536 * 65536)
  let t := busTenant (busEntry s bus)
  if again then setCondAgain s R.TRL_STAT 200 (2 ^ c) [(R.TRL_LAST, last)] t
  else setCondWith s R.TRL_STAT 200 (2 ^ c) [(R.TRL_LAST, last)] t .newBits

/-- The Q8.39 limits (R430): a sum and whether it saturated. -/
def satSum (x : Int) : Int × Bool :=
  let y := clampInt (-(2 ^ 47)) (2 ^ 47 - 1) x
  (y, decide (y ≠ x))

/-- Samples added to samples with saturation (R430). -/
def addSums (a b : List Int) : List Int × Bool :=
  let l := (a.zip b).map (fun p => satSum (p.1 + p.2))
  (l.map Prod.fst, l.any Prod.snd)

/-- The port by whose output enable a contribution leaves (R531): that of its path. -/
def busPort (s : State) (ws : List Word) (ring : Nat) : Nat :=
  if topoKind s = 1 then fld (dw ws 2) 21 20 else (ringPort s 3 (ring == 1)).getD 0

/-- The contribution of a bus for the block in stage C (R430, R458, R531): one that the device consumes itself passes no egress
port. [Log 94: DEDUCED] -/
def contribution (s : State) (ws : List Word) (ring : Nat) : List Int :=
  let smp := SMap.getD s.aud.outC (fld (dw ws 1) 13 0) []
  (List.range (nSamples s)).map (fun i =>
    let v := (smp[i]?).getD 0
    4096 * (if busTail ws && !busHead ws then v else heardSample s (16 + busPort s ws ring) i v))

/-- The contributions of block k are formed at the end of stage C (R430, R438, R439): in a silent member, which computes every block all the same
(R461), those that it adds itself as the tail (R433). -/
def holdContributions (s : State) (k : Nat) : State :=
  s.trl.bus.foldl (fun t e =>
    let lost := match SMap.get t.trl.ownTo e.1 with | some m => decide (m = k) || !inPast 48 k m | none => false
    if busEn e.2 && busOwn e.2 && !lost && (launches s || (busTail e.2 && !busHead e.2)) then
      (busRings t).foldl (fun u r =>
        u.setTrl { u.trl with held := SMap.put u.trl.held (busKey e.1 k r) (contribution u e.2 r) }) t
    else t) s

/-- The samples of the j-th bus of a TSUM payload (R393). -/
def sumOf (s : State) (bs : List Byte) (j : Nat) : List Int :=
  (List.range (nSamples s)).map (fun i => sext 48 (lef bs (6 * (j * nSamples s + i)) 6))

/-- A TSUM payload of the sums of its buses (R393). -/
def sumBytes (l : List (List Int)) : List Byte :=
  let b := ((l.map (fun x => (x.map (fun v => leBytes 6 (wrapBits 48 v))).flatten))).flatten
  b ++ List.replicate (16 * ceilDiv b.length 16 - b.length) 0

/-- A TSUM frame (R389, R429). [Log 93: DEDUCED] -/
def sumFrame (s : State) (first k epoch : Nat) (late : Bool) (sums : List (List Int)) : EdlFrame :=
  let p := sumBytes sums
  { type := 2, len := p.length / 16, src := devId s, dst := first, block := k % 2 ^ 32, epoch := epoch, lepoch := ownLease s % 65536
    hops := 0, emix := false, late := late, sub := sums.length - 1, payload := p }

/-- The head buses of a device, in runs that share frames (R429). -/
def headRuns (s : State) : List (List (Nat × List Word)) := busRuns s (s.trl.bus.filter (fun e => busEn e.2 && busHead e.2))

/-- The head frames of block k, with the contributions they take (R429, R430). -/
def headFrames (s : State) (k : Nat) : State :=
  if !launches s then s
  else (headRuns s).foldl (fun t run =>
    (busRings t).foldl (fun u r =>
      let sums := run.map (fun e => SMap.getD u.trl.held (busKey e.1 k r) (List.replicate (nSamples u) 0))
      let out := match run with
        | e :: _ => if topoKind u = 1 then fld (dw e.2 2) 21 20 else 4 + r
        | [] => 4
      let f := sumFrame u ((run.head?.map Prod.fst).getD 0) k u.scn.mixEpoch false sums
      (u.setTrl { u.trl with held := run.foldl (fun h e => SMap.del h (busKey e.1 k r)) u.trl.held }).setEdl
        { u.edl with launch := u.edl.launch ++ [(out, f)] }) t) s

/-- What the packetiser does for the buses with block k (R329, R429, R430). -/
def trellisPack (s : State) (k : Nat) : State :=
  let s1 := s.setTrl { s.trl with epochs := (k, s.scn.mixEpoch) :: s.trl.epochs.take 299 }
  headFrames (holdContributions s1 k) k

/-- The deadline of block k is past in deckle e (R432). -/
def deadlinePast (s : State) (k e : Nat) : Bool :=
  let d := (k + transitA s + 1) % 2 ^ 48
  decide (d = e % 2 ^ 48) || inPast 48 d e

/-- A tail takes a copy (R435). -/
def tailTake (s : State) (b k : Nat) (x : TailSum) : State :=
  match SMap.get s.trl.arrived (busKey b k 0) with
  | none => s.setTrl { s.trl with arrived := SMap.put s.trl.arrived (busKey b k 0) x }
  | some y => if y.late && !x.late then s.setTrl { s.trl with arrived := SMap.put s.trl.arrived (busKey b k 0) x } else s

/-- What a passing frame becomes, bus by bus (R430, R435). -/
structure SumPass where
  s : State
  sums : List (List Int)
  added : Bool

/-- A pair member adds its contributions to passing frames: a fenced one until the boundary that ends the deckle of its ramped block (R457). -/
def pairAdds (s : State) : Bool :=
  match s.pair.out with
  | .fenced f => s.dkl.num == f || s.dkl.num == (f + 1) % 2 ^ 48 || !inPast 48 f s.dkl.num
  | _ => !pairSilent s

/-- One bus of a passing frame: the tail consumes it; an owner adds to it. -/
def passBus (n k ring : Nat) (f : EdlFrame) (a : SumPass) (j : Nat) : SumPass :=
  let b := (f.dst % 2048 + j) % 2048
  let ws := busEntry a.s b
  let v := sumOf a.s f.payload j
  let s0 := a.s.setTrl { a.s.trl with passed := (b, k, ring) :: a.s.trl.passed }
  if !busEn ws then { a with s := s0, sums := a.sums ++ [v] }
  else if busTail ws then
    { a with s := tailTake s0 b k { sum := v, late := f.late, emix := f.emix, port := n, epoch := f.epoch }, sums := a.sums ++ [v] }
  else match SMap.get s0.trl.held (busKey b k ring) with
    | none => { a with s := s0, sums := a.sums ++ [v] }
    | some c =>
      let s1 := s0.setTrl { s0.trl with held := SMap.del s0.trl.held (busKey b k ring) }
      if !pairAdds s1 then { a with s := s1, sums := a.sums ++ [v] }
      else
        let r := addSums v c
        let s2 := if r.2 then trlCond s1 false 4 b k else s1
        { s := s2, sums := a.sums ++ [r.1], added := true }

/-- A TSUM frame on a forward path (R430 to R432, R434): a copy of a bus for which the device has launched a substitute is discarded.
[Log 95: DEDUCED] -/
def sumForward (s : State) (n ring : Nat) (f : EdlFrame) (out : List Nat) : State :=
  let k := extend48 s f.block
  let first := f.dst % 2048
  let ws := busEntry s first
  let gone := (List.range (f.sub + 1)).find? (fun j => s.trl.substs.contains ((first + j) % 2048, k, ring))
  if topoKind s = 1 ∧ busEn ws = false then edlCond s n 4
  else if deadlinePast s k s.dkl.num then trlCond s false 3 first k
  else match gone with
  | some j => trlCond s false 3 ((first + j) % 2048) k
  | none =>
    let r := (List.range (f.sub + 1)).foldl (passBus n k ring f) { s := s, sums := [], added := false }
    let mixed := f.emix || (r.added && blockEpoch s k != f.epoch)
    if busEn ws && busTail ws then r.s
    else forwardOn r.s false { f with payload := sumBytes r.sums, emix := mixed } out

/-- A TSUM frame that passed the front end (R417, R419, R423, R431): on the way back of a broken ring it is only forwarded. -/
def sumArrives (s : State) (n : Nat) (f : EdlFrame) : State :=
  let ports := sumPorts s n (f.dst % 2048)
  match topoKind s with
  | 1 => if portFn s n = 0 ∨ idleBypass s n = true then s else sumForward s n 0 f ports
  | 2 =>
    if portFn s n = 2 then sumForward s n 0 f ports
    else if portFn s n = 3 then
      match ringPort s 2 false with
      | some i => if edlUp s i then forwardOn s false f ports else sumForward s n 0 f ports
      | none => s
    else s
  | 3 => if portFn s n = 2 then sumForward s n (b2n (portRing s n)) f ports else s
  | _ => s

/-- TSUM (R430): a TSUM frame arrives at port n. -/
def execTsum (n : BitVec 2) (frame : List Byte) (uncorr : Bool) (s : State) : Host.Outcome State Fault Refusal :=
  .next (edlFront s n.toNat (frameOf (edlGen1 s n.toNat) frame) uncorr (fun t g => if g.type = 2 then sumArrives t n.toNat g else t))

/-- A sum narrowed to Q4.27 (R433): the sample and whether it saturated. -/
def narrowSum (x : Int) : Int × Bool :=
  let y := (x + 2048) / 4096
  let z := satQ y
  (z, decide (z ≠ y))

/-- The deadline of a bus at the boundary that opens deckle e (R433, R435): a sum that is mixed when it is consumed, by its frame's bit or by
the tail's own contribution under another epoch, is reported (R329, R330). [Log 94: DEDUCED] -/
def tailBus (s : State) (e b : Nat) : State :=
  let ws := busEntry s b
  if !(busEn ws && busTail ws) then s
  else
    let k := (e + 2 ^ 48 - transitA s - 1) % 2 ^ 48
    let plane := fld (dw ws 1) 29 16
    let put := fun (t : State) (l : List Int) => t.setTrl { t.trl with placed := SMap.put t.trl.placed plane l }
    match SMap.get s.trl.arrived (busKey b k 0) with
    | none => put (trlCond s true 0 b k) (List.replicate (nSamples s) 0)
    | some x =>
      let own := (busRings s).findSome? (fun r => SMap.get s.trl.held (busKey b k r))
      let r := match own with | some c => addSums x.sum c | none => (x.sum, false)
      let nar := r.1.map narrowSum
      let s1 := if r.2 || nar.any Prod.snd then trlCond s false 4 b k else s
      let s2 := if x.late then trlCond s1 false 1 b k else s1
      let mixed := x.emix || (own.isSome && blockEpoch s k != x.epoch)
      let s3 := if mixed then
          let w := BitVec.ofNat 32 (b + x.port * 4096 + k % 65536 * 65536)
          setCondAgain s2 R.SCN_STAT 194 4 [(R.SCN_EMIX, w)] 0
        else s2
      put s3 (nar.map Prod.fst)

/-- Whatever is still held or kept of block k and older is discarded (R432). -/
def trellisForget (s : State) (e : Nat) : State :=
  let old := fun (k : Nat) => deadlinePast s k e
  s.setTrl { s.trl with
    held := s.trl.held.filter (fun x => !old (x.1 % 2 ^ 49 / 2)), arrived := s.trl.arrived.filter (fun x => !old (x.1 % 2 ^ 49 / 2))
    passed := s.trl.passed.filter (fun x => !old x.2.1), substs := s.trl.substs.filter (fun x => !old x.2.1) }

/-- The primary ingress port of a bus on a ring (R434). -/
def ingressPort (s : State) (ws : List Word) (ring : Nat) : Option Nat :=
  if topoKind s = 1 then some (fld (dw ws 2) 17 16) else ringPort s 2 (ring == 1)

/-- A substitute is due for a bus on a ring at the boundary that opens deckle e (R434). -/
def substituteDue (s : State) (e b ring : Nat) : Bool :=
  let ws := busEntry s b
  let k := (e + 2 ^ 48 - transitA s) % 2 ^ 48
  busEn ws && !busHead ws && !busTail ws && !s.trl.passed.contains (b, k, ring) && !s.trl.substs.contains (b, k, ring) &&
    launches s && (match ingressPort s ws ring with | some i => !edlUp s i | none => false)

/-- A substitute is launched (R434). [Log 95: DEDUCED] -/
def substitute (s : State) (e b ring : Nat) : State :=
  if !substituteDue s e b ring then s
  else
    let k := (e + 2 ^ 48 - transitA s) % 2 ^ 48
    let key := busKey b k ring
    let sum := SMap.getD s.trl.held key (List.replicate (nSamples s) 0)
    let s1 := s.setTrl { s.trl with held := SMap.del s.trl.held key, substs := (b, k, ring) :: s.trl.substs }
    let f := sumFrame s b k (blockEpoch s k) true [sum]
    let ports := if topoKind s = 1 then [fld (dw (busEntry s b) 2) 21 20] else ringOut s (ring == 1)
    ports.foldl (fun t p => sendOn t false f p) (trlCond s1 false 2 b k)

/-- A migration lands (R437 to R440). [Log 96: DEDUCED] -/
def migrate (s : State) (b m old new : Nat) : State :=
  if s.dev ≠ .laid ∨ old = new ∨ 4094 < old ∨ 4094 < new then s
  else
    let at_ := (m + 3) % 2 ^ 48
    let late := decide (at_ = s.dkl.num) || inPast 48 at_ s.dkl.num
    let mine := old == devId s || new == devId s
    let same := match SMap.get s.trl.migs b with | some x => x.m == m && x.old == old && x.new == new | none => false
    if same then s
    else if new = devId s ∧ busEn (busEntry s b) = false then trlCond s false 5 b m
    else
      let s1 := s.setTrl { s.trl with migs := SMap.put s.trl.migs b { m := m, old := old, new := new, late := late } }
      if !late then s1
      else
        let s2 := if mine then trlCond s1 false 6 b m else s1
        if old = devId s then
          let gone := s2.trl.held.filter (fun x => x.1 / 2 ^ 49 == b && !inPast 48 (x.1 % 2 ^ 49 / 2) m)
          let s3 := s2.setTrl { s2.trl with
            held := s2.trl.held.filter (fun x => !(x.1 / 2 ^ 49 == b && !inPast 48 (x.1 % 2 ^ 49 / 2) m)), ownTo := SMap.put s2.trl.ownTo b m }
          match gone with
          | x :: _ => trlCond s3 false 5 b (x.1 % 2 ^ 49 / 2)
          | [] => s3
        else s2

/-- GO of `TRL_MIG_CTL`, with the registers as they stand after the writes of its event tick (R437, R462). [Log 96: DEDUCED] -/
def migGo (s : State) : State :=
  let c := rd s R.TRL_MIG_CTL
  let d := rd s R.TRL_MIG_DEV
  let m := extendTarget s (rd s R.TRL_MIG_M).toNat
  let payload := leBytes 2 (fld c 10 0) ++ leBytes 2 (fld d 11 0) ++ leBytes 2 (fld d 27 16) ++ leBytes 6 m
  let s1 := pairCopy (migrate s (fld c 10 0) m (fld d 11 0) (fld d 27 16)) 2 payload
  if bit c 30 && mayOriginate s1 then
    (originPorts s1 (fld c 27 16)).foldl (fun t p => sendOn t false (ctrlFrame t (fld c 27 16) 2 payload) p) s1
  else s1

/-- HOST_MIGRATION (R437): PF0 writes v to `TRL_MIG_CTL`. -/
def execHostMigration (fn : BitVec 6) (v : Word) (s : State) : Host.Outcome State Fault Refusal :=
  .next (if accessOk s fn.toNat R.TRL_MIG_CTL then
      let s1 := plainWrite s fn.toNat R.TRL_MIG_CTL .base v
      if bit v 31 then later s1 0 .hostMigrate else s1
    else s)

/-- MIGRATE (R437, R398): a MIGRATE frame arrives at port n. -/
def execMigrate (n : BitVec 2) (frame : List Byte) (uncorr : Bool) (s : State) : Host.Outcome State Fault Refusal :=
  .next (edlDst s n.toNat (frameOf (edlGen1 s n.toNat) frame) uncorr (fun g => g.type == 3 && g.sub == 2) (fun t g =>
    migrate t (lef g.payload 0 2 % 2048) (lef g.payload 6 6) (lef g.payload 2 2) (lef g.payload 4 2)))

/-- The effect of a bus's migration at the boundary that opens deckle e (R438, R439). -/
def migEffect (s : State) (e b : Nat) : State :=
  match SMap.get s.trl.migs b with
  | none => s
  | some x =>
    if x.late ∨ (x.m + 3) % 2 ^ 48 = e % 2 ^ 48 then
      let ws := busEntry s b
      let own := if x.old = devId s then some false else if x.new = devId s then some true else none
      let s1 := match own with
        | some o => s.setTrl { s.trl with bus := SMap.put s.trl.bus b ((setFld (dw ws 0) 3 3 (b2n o)) :: ws.drop 1) }
        | none => s
      let s2 := s1.setTrl { s1.trl with migs := SMap.del s1.trl.migs b, ownTo := SMap.del s1.trl.ownTo b }
      trlCond (wrF s2 R.EDL_PEPOCH 15 0 (rdF s2 R.EDL_PEPOCH 15 0 + 1)) false 7 b x.m
    else s

/-- The trellis at the boundary that opens deckle e (R432 to R434, R438, R442): pending entries, migrations, deadlines and
substitutes. -/
def trellisBoundary (s : State) (e : Nat) : State :=
  let s1 := s.trl.pend.foldl (fun t p => t.setTrl { t.trl with bus := SMap.put t.trl.bus p.1 p.2 }) s
  let s2 := s1.setTrl { s1.trl with pend := [], placed := [] }
  let s3 := (s2.trl.migs.map Prod.fst).foldl (fun t b => migEffect t e b) s2
  let ids := s3.trl.bus.map Prod.fst
  let s4 := trellisForget (ids.foldl (fun t b => tailBus t e b) s3) e
  ids.foldl (fun t b => (busRings t).foldl (fun u r => substitute u e b r) t) s4

/-- The trellis at the beginning of a lift (R441): migrations and contributions are discarded, and what a tail has received is placed at its
deadline as before. -/
def trellisLift (s : State) : State := s.setTrl { s.trl with held := [], migs := [], ownTo := [] }

/-- The sums placed for the block of this deckle's stage A (R433). -/
def sumsStageA (s : State) : State :=
  s.trl.placed.foldl (fun t e => t.setAud { t.aud with inW := SMap.put t.aud.inW e.1 e.2 }) s

/-- The check of a bus entry with EN = 1 (R442): under the CMPT strap there are no buses (R8).
[Log 97: DEDUCED, 138: DESIGN CHOICE] -/
def busCheck (s : State) (fn b : Nat) (ws : List Word) : Nat × State :=
  let kind := topoKind s
  let m := rd s R.MIX_INMAP1
  let plane := fld (dw ws 1) 29 16
  let tree := fun (p : Nat) => portFn s p == 1
  let old := entryNow s.trl.bus s.trl.pend b
  if s.pwr.cmpt || (busTail ws && (!bit m 31 || decide (plane < fld m 13 0) || decide (fld m 29 16 < plane))) ||
      (decide (kind < 2) && busHead ws && busTail ws) || (busHead ws && decide (4094 < fld (dw ws 2) 11 0)) ||
      (kind == 1 && (!tree (fld (dw ws 2) 17 16) || !tree (fld (dw ws 2) 21 20))) then (1, s)
  else if !reachesTenant s fn (busTenant ws) || (busEn old && !reachesTenant s fn (busTenant old)) then (2, s)
  else
    let on := (busesOn s).filter (fun e => e.1 != b) ++ [(b, ws)]
    let t := busTenant ws
    let felt := fun (x : Option Nat) =>
      let keep := fun (y : Nat) => match x with | none => true | some z => z == y
      ceilDiv (linkFelt s (flowsOn s 1) on x +
        total (((othersOn s 0 65536).filter (fun w => !bit (dw w 1) 14 && keep (rxTenant w))).map ringBytes)) 1024
    let str := fun (p : Nat) (x : Option Nat) => total (((othersOn s 1 65536).filter (fun w =>
      fld (dw w 0) 17 13 == 16 + p && (match x with | none => true | some y => txTenant w == y))).map (txBytes s))
    let refusal := firstRefusal (roomFor s 0xB t 0x06 1 0 (felt none) (felt (some t)) (item s (declKey 1 0)) ::
      ((List.range 4).filter (busOn s ws ·)).map (fun p =>
        roomFor s 0xB t 0x0C 0x23 (16 + p) (linkBytes s (flowsOn s 0) on p none + str p none)
          (linkBytes s (flowsOn s 0) on p (some t) + str p (some t)) (item s (declKey 0x23 (16 + p)))))
    match refusal with
    | some u => (3, u)
    | none => if transitA s ≤ 3 then (4, s) else (0, s)

/-- Words of an entry as they are read, with the pending migration (R442). -/
def busView (s : State) (b : Nat) : List Word :=
  let ws := busEntry s b
  let w3 := match SMap.get s.trl.migs b with
    | some x => BitVec.ofNat 32 ((if x.new = devId s then 1 else if x.old = devId s then 2 else 0) + x.m % 65536 * 65536)
    | none => 0
  [dw ws 0, dw ws 1, dw ws 2, w3]

/-- GO of `TRL_BUS_CTL` (R442): the access of function fn. [Log 107: DEDUCED] -/
def busGo (s : State) (fn : Nat) : State :=
  let key := regKey fn R.TRL_BUS_CTL
  let ctl := rd s key
  let b := fld ctl 10 0
  if bit ctl 29 then
    let ws := (List.range 3).map (fun m => rd s (regKey fn (R.TRL_BUS_Dm m)))
    let old := entryNow s.trl.bus s.trl.pend b
    let r := orLaid (if busEn ws then busCheck s fn b ws
      else if reachesTenant s fn (busTenant (if busEn old then old else ws)) then (0, s) else (2, s))
    let s1 := wrF r.2 key 27 24 r.1
    if r.1 = 0 then s1.setTrl { s1.trl with pend := s1.trl.pend ++ [(b, ws)] } else s1
  else if !reachesTenant s fn (busTenant (busEntry s b)) then wrF s key 27 24 2
  else if s.dev ≠ .laid then wrF s key 27 24 8
  else wrF (wrAll s (((List.range 4).zip (busView s b)).map (fun e => (regKey fn (R.TRL_BUS_Dm e.1), e.2)))) key 27 24 0

/-- A write of `TRL_BUS_CTL` that names a bus, with GO = 1. -/
def busRow (s : State) (fn : Nat) (write : Bool) (b : Nat) : State :=
  let w := b + b2n write * 2 ^ 29
  hostWriteAs s fn R.TRL_BUS_CTL (BitVec.ofNat 32 (2 ^ 31 + w)) (fun u =>
    busGo (wr u (regKey fn R.TRL_BUS_CTL) (BitVec.ofNat 32 w)) fn)

/-- BUS_ENTRY_READ (R442). -/
def execBusEntryRead (fn : BitVec 6) (bus : BitVec 11) (s : State) : Host.Outcome State Fault Refusal :=
  .next (busRow s fn.toNat false bus.toNat)

/-- BUS_ENTRY_WRITE (R442). -/
def execBusEntryWrite (fn : BitVec 6) (bus : BitVec 11) (s : State) : Host.Outcome State Fault Refusal :=
  .next (busRow s fn.toNat true bus.toNat)

/-- A write of a register of the EDL and TRL block with an effect of its own. [Log 82: DEDUCED] -/
def edlWrite (s : State) (fn off : Nat) (q : Quarter) (w v : Word) : Option State :=
  if 0xB0100 ≤ off ∧ off < 0xB0200 ∧ off % 0x40 = 0 then some (edlCtlWrite s fn ((off - 0xB0100) / 0x40) q v)
  else if 0xB0100 ≤ off ∧ off < 0xB0200 ∧ off % 0x40 = 0x24 then
    let s1 := wr s off w
    some (if q = .base then mboxCtl s1 ((off - 0xB0100) / 0x40) v else s1)
  else if off = R.EDL_FLOW_CTL then
    let s1 := wr s (regKey fn off) w
    some (if q = .base ∧ bit v 31 = true then flowGo s1 fn else s1)
  else if off = R.TRL_BUS_CTL then
    let s1 := wr s (regKey fn off) w
    some (if q = .base ∧ bit v 31 = true then busGo s1 fn else s1)
  else if off = R.TRL_MIG_CTL then
    let s1 := wr s off w
    some (if q = .base ∧ bit v 31 = true then later s1 0 .hostMigrate else s1)
  else if off = R.SCN_COMMIT_CTL then
    let s1 := wr s off w
    some (if q = .base ∧ bit v 31 = true then hostCommitGo s1 else s1)
  else none

/-- The transmit mailbox of a port is being sent (R401). -/
def boxBusy (s : State) (n : Nat) : Bool :=
  let x := edlTx s n
  x.frames.any (fun f => f.box) || (x.box && x.now != [])

/-- GEN1 reads 1 under the CMPT strap (R412), and BUSY of `EDL_PORTn_MBOX` shows the transmit mailbox (R401).
[Log 82: DEDUCED] -/
def edlLive (s : State) (off : Nat) : Option Word :=
  if 0xB0100 ≤ off ∧ off < 0xB0200 ∧ off % 0x40 = 0x24 then
    some (setFld (plainRead s 0 off) 29 29 (b2n (boxBusy s ((off - 0xB0100) / 0x40))))
  else if s.pwr.cmpt ∧ running s = true ∧ 0xB0100 ≤ off ∧ off < 0xB0200 ∧ off % 0x40 = 0 then some (setFld (rd s off) 11 11 1) else none

end Sys2Proof.Machine
end

