-- ==== Sys2Proof/Machine/Pair.lean ====
section
/-! DEFINITION. Active and standby pairs (chapter 16): the lease, the fence, the takeover and the mirror sets received. -/

namespace Sys2Proof.Machine

/-- The device is a pair member (R444). -/
def pairEn (s : State) : Bool := rdB s R.PAIR_CFG 0

/-- Partner, pair port, L and G (R444). -/
def pairPartner (s : State) : Nat := rdF s R.PAIR_CFG 27 16
def pairPort (s : State) : Nat := rdF s R.PAIR_CFG 2 1
def leaseL (s : State) : Nat := rdF s R.PAIR_TIMES 15 0
def leaseG (s : State) : Nat := rdF s R.PAIR_TIMES 31 16

/-- HOLD and ALONE of `PAIR_CTL` (R466). -/
def pairHeld (s : State) : Bool := rdB s R.PAIR_CTL 1
def pairAlone (s : State) : Bool := rdB s R.PAIR_CTL 2

/-- A TAKEOVER, FENCE or DEMOTE setting (R467): the new state and the lease epoch stand in the record. -/
def pairTurn (s : State) (b : Nat) : State :=
  setCondWith s R.PAIR_STAT 48 (2 ^ b) [] 0 (.every (pairState s * 2 ^ 28 + pairEpoch s % 65536 * 4096))

/-- a and s with the registers that show them. -/
def setA (s : State) (a : Nat) : State := wr (s.setPair { s.pair with a := a }) R.PAIR_ACKED (BitVec.ofNat 32 a)
def setSeen (s : State) (r : Nat) : State := wr (s.setPair { s.pair with seen := r }) R.PAIR_SEEN (BitVec.ofNat 32 r)

/-- A member enters LAID (R445, R446, R465); s is set at its first boundary. [Log 98: DEDUCED] -/
def pairEnter (s : State) : State :=
  let out : PairOut := if pairEn s then .silent else .normal
  let p : Pair :=
    { a := 0, seen := 0, firstSent := 0, msgs := [], yield_ := false, out := out, sets := [], nextSet := none, heldWrites := [], openCount := 0 }
  wrAll (putPairEpoch (putPairState (s.setPair p) (if pairEn s then 0xB else 0)) 0) [(R.PAIR_ACKED, 0), (R.PAIR_SEEN, 0), (R.PAIR_DUE, 0)]

/-- The last renewal seen as of the first deckle d0 (R446). -/
def pairFirst (s : State) (d0 : Nat) : State :=
  if pairEn s then
    setSeen s ((d0 + 2 ^ 48 - 1 + (if rdB s R.PAIR_CFG 3 then 0 else leaseL s + leaseG s)) % 2 ^ 48)
  else s

/-- A LEASE_ACK for a LEASE that arrived on port n (R449). -/
def leaseAck (s : State) (n e r : Nat) : State := sendOn s false (ctrlFrame s (pairPartner s) 4 (leBytes 4 e ++ leBytes 6 r)) n

/-- A message that waits for step 1. -/
def pairMsg (s : State) (m : PairMsg) : State := s.setPair { s.pair with msgs := s.pair.msgs ++ [m] }

/-- A LEASE from the partner (R447, R449, R460). [Log 99: DEDUCED] -/
def leaseTake (n : Nat) (s : State) (f : EdlFrame) : State :=
  let e := lef f.payload 0 4
  let r := lef f.payload 4 6
  let s0 := dirTake s f.src e
  if !(pairEn s0 && f.src == pairPartner s0) then s0
  else
    let s1 := pairHeard s0 f.src
    let d := modDist 32 e (pairEpoch s1)
    if d = 0 then
      match pairState s1 with
      | 3 =>
        if r = s1.dkl.num ∨ (r + 1) % 2 ^ 48 = s1.dkl.num then pairMsg (leaseAck s1 n e r) (.renewal r) else pairCond s1 5
      | 1 => pairMsg (pairCond s1 6) .conflict
      | _ => s1
    else if d < 2 ^ 31 then pairMsg (leaseAck s1 n e r) (.newer e r)
    else pairCond s1 4

/-- LEASE (R449): a LEASE frame arrives at port n. -/
def execLease (n : BitVec 2) (frame : List Byte) (uncorr : Bool) (s : State) : Host.Outcome State Fault Refusal :=
  .next (edlDst s n.toNat (frameOf (edlGen1 s n.toNat) frame) uncorr (fun g => g.type == 3 && g.sub == 3) (leaseTake n.toNat))

/-- A LEASE_ACK from the partner (R447, R450). -/
def ackTake (s : State) (f : EdlFrame) : State :=
  if pairEn s && f.src == pairPartner s then
    pairMsg (pairHeard s f.src) (.ack (lef f.payload 0 4) (lef f.payload 4 6) true)
  else s

/-- LEASE_ACK (R450): a LEASE_ACK frame arrives at port n. -/
def execLeaseAck (n : BitVec 2) (frame : List Byte) (uncorr : Bool) (s : State) : Host.Outcome State Fault Refusal :=
  .next (edlDst s n.toNat (frameOf (edlGen1 s n.toNat) frame) uncorr (fun g => g.type == 3 && g.sub == 4) ackTake)

/-- The later of two deckle numbers (R41). -/
def laterDeckle (a b : Nat) : Nat := if inPast 48 b a then a else b

/-- Step 1.1: the newest of the newer epochs is adopted (R449). [Log 98: DEDUCED] -/
def adopt (s : State) : State :=
  let own := pairEpoch s
  let best := s.pair.msgs.foldl (fun (b : Option (Nat × Nat)) m => match m, b with
    | .newer e r, none => some (e, r)
    | .newer e r, some (e0, r0) =>
      if modDist 32 e0 own < modDist 32 e own then some (e, r) else if e = e0 then some (e, laterDeckle r0 r) else b
    | _, _ => b) none
  match best with
  | none => s
  | some (e, r) =>
    let was := pairState s
    let s1 := setSeen (putPairEpoch s e) r
    if was = 1 ∨ was = 2 then
      let w := setFld (setFld (setFld (rd s1 R.PAIR_STATE) 2 0 3) 3 3 0) 4 4 0
      pairTurn ((putPairState s1 w).setPair { s1.pair with out := .silent }) 2
    else s1

/-- Step 1.2: renewals and acknowledgements (R449 to R451) at the boundary that opens deckle f. [Log 98: DEDUCED] -/
def takeMsgs (s : State) (f : Nat) : State :=
  let own := pairEpoch s
  let sent := fun (r : Nat) => (s.pair.firstSent == r || !inPast 48 r s.pair.firstSent) && inPast 48 r f
  let s1 := s.pair.msgs.foldl (fun t m => match m with
    | .renewal r => if pairState t = 3 then setSeen t (laterDeckle t.pair.seen r) else t
    | _ => t) s
  let acks := s.pair.msgs.filterMap (fun m => match m with
    | .ack e r arms => if pairState s1 = 1 ∧ e = own ∧ sent r = true then some (r, arms) else none
    | _ => none)
  let s2 := match acks with
    | [] => if pairState s1 = 1 ∧ rdB s1 R.PAIR_STATE 4 = true then pairCond s1 3 else s1
    | _ =>
      let t := setA s1 ((acks.map Prod.fst).foldl laterDeckle s1.pair.a)
      if acks.any Prod.snd then wrF t R.PAIR_STATE 4 4 1 else t
  s2.setPair { s2.pair with msgs := [] }

/-- A boundary number has been reached at the boundary that opens deckle f (R41, R466). -/
def reached (t f : Nat) : Bool := decide (t % 2 ^ 48 = f % 2 ^ 48) || inPast 48 t f

/-- The active fences at the boundary that opens deckle f (R449, R453, R466): conflict tells an equal-epoch LEASE received. -/
def fenceDue (s : State) (f : Nat) (conflict : Bool) : Bool :=
  pairEn s && pairState s == 1 &&
    (s.pair.yield_ || (conflict && decide (pairPartner s < devId s)) ||
      (rdB s R.PAIR_STATE 4 && !pairAlone s && reached (s.pair.a + leaseL s + 1) f))

/-- The fence (R453, R457). -/
def fence (s : State) (f : Nat) : State :=
  let w := setFld (setFld (rd s R.PAIR_STATE) 2 0 2) 4 4 0
  pairTurn ((putPairState s w).setPair { s.pair with out := .fenced (f % 2 ^ 48), yield_ := false }) 1

/-- The standby takes over at the boundary that opens deckle f (R447, R454, R466). -/
def takeoverDue (s : State) (f : Nat) : Bool :=
  pairEn s && pairState s == 3 && !pairHeld s && (rdB s R.PAIR_STATE 5 || pairAlone s) &&
    reached (s.pair.seen + leaseL s + leaseG s + 1) f

/-- The takeover (R454, R458). -/
def takeover (s : State) (f : Nat) : State :=
  let s1 := putPairEpoch s (pairEpoch s + 1)
  let w := setFld (setFld (rd s1 R.PAIR_STATE) 2 0 1) 4 4 0
  let s2 := setA ((putPairState s1 w).setPair { s1.pair with out := .taken (f % 2 ^ 48), firstSent := f % 2 ^ 48, yield_ := false }) (f % 2 ^ 48)
  pairTurn s2 0

/-- The LEASE of an active with the number of the opened deckle (R448). -/
def sendLease (s : State) (f : Nat) : State :=
  let fr := ctrlFrame s (pairPartner s) 3 (leBytes 4 (pairEpoch s) ++ leBytes 6 f)
  let s1 := sendOn s false fr (pairPort s)
  if rdB s R.PAIR_CFG 6 then
    ((List.range 4).filter (fun n => edlRole s n == 1)).foldl (fun t n => sendOn t false fr n) s1
  else s1

/-- `PAIR_DUE` (R455): the next fence or takeover boundary. -/
def pairDue (s : State) : Word :=
  match pairState s with
  | 1 => if rdB s R.PAIR_STATE 4 && !pairAlone s then BitVec.ofNat 32 (s.pair.a + leaseL s + 1) else 0
  | 3 => if !pairHeld s && (rdB s R.PAIR_STATE 5 || pairAlone s) then BitVec.ofNat 32 (s.pair.seen + leaseL s + leaseG s + 1) else 0
  | _ => 0

/-- Step 1 of the boundary that opens deckle f (R452): the LEASE, then the END of the mirror set of the closing deckle; neither
where a lift begins (R99). -/
def pairBoundary (s : State) (f : Nat) : State :=
  if !pairEn s || s.dev ≠ .laid then s
  else
    let conflict := s.pair.msgs.any (fun m => m == .conflict)
    let s1 := takeMsgs (adopt s) f
    let s2 := if fenceDue s1 f conflict then fence s1 f else if takeoverDue s1 f then takeover s1 f else s1
    let s3 := if pairState s2 = 1 ∧ s.mld.liftReq = false then
        (let t := sendLease s2 f
         if pairState s = 1 then mirrorSend t ((f + 2 ^ 48 - 1) % 2 ^ 48) [] true else t)
      else s2
    wr (s3.setPair { s3.pair with yield_ := false }) R.PAIR_DUE (pairDue s3)

/-- A write of `PAIR_CTL` (R466) that leaves the word w in the register. -/
def pairCtl (s : State) (w v : Word) : State :=
  let s1 := wr s R.PAIR_CTL w
  if bit v 0 && pairEn s1 && pairState s1 == 1 then s1.setPair { s1.pair with yield_ := true } else s1

/-- YIELD_PAIR (R466): PF0 writes v to `PAIR_CTL`. -/
def execYieldPair (fn : BitVec 6) (v : Word) (s : State) : Host.Outcome State Fault Refusal :=
  .next (hostWriteAs s fn.toNat R.PAIR_CTL v (fun t => pairCtl t (newWord t fn.toNat R.PAIR_CTL .base v) v))

/-- PAIR_HOLD (R466): PF0 writes v to `PAIR_CTL`. -/
def execPairHold (fn : BitVec 6) (v : Word) (s : State) : Host.Outcome State Fault Refusal :=
  .next (hostWriteAs s fn.toNat R.PAIR_CTL v (fun t => pairCtl t (newWord t fn.toNat R.PAIR_CTL .base v) v))

/-- ALONE (R466): PF0 writes v to `PAIR_CTL`. -/
def execAlone (fn : BitVec 6) (v : Word) (s : State) : Host.Outcome State Fault Refusal :=
  .next (hostWriteAs s fn.toNat R.PAIR_CTL v (fun t => pairCtl t (newWord t fn.toNat R.PAIR_CTL .base v) v))

/-- A record of a MIRROR payload (R463): granule i after the first. [Log 100: DEDUCED] -/
def mirrorRec (bs : List Byte) (i : Nat) : MirrorRec :=
  let o := 16 * (i + 1)
  { addr := lef bs o 4, data := BitVec.ofNat 32 (lef bs (o + 4) 4), kind := lef bs (o + 8) 1, sel := lef bs (o + 9) 1, fn := lef bs (o + 10) 2 }

/-- A MIRROR frame at a standby (R463, R464). [Log 100: DEDUCED] -/
def mirrorTake (s : State) (f : EdlFrame) : State :=
  if !(pairEn s && pairState s == 3 && f.src == pairPartner s) then s
  else
    let e := extend48 s f.block
    let old := SMap.getD s.pair.sets e { recs := [], done := none }
    let recs := (List.range (min 255 (lef f.payload 0 2))).map (mirrorRec f.payload)
    let fin := lef f.payload 2 1 % 2 == 1
    let new : MirrorSet := { recs := old.recs ++ recs, done := if fin && old.done.isNone then some s.dkl.num else old.done }
    s.setPair { s.pair with sets := SMap.put s.pair.sets e new }

/-- MIRROR (R463): a MIRROR frame arrives at port n. -/
def execMirror (n : BitVec 2) (frame : List Byte) (uncorr : Bool) (s : State) : Host.Outcome State Fault Refusal :=
  .next (edlFront s n.toNat (frameOf (edlGen1 s n.toNat) frame) uncorr (fun t g => if g.type = 5 ∧ g.sub = 4 then mirrorTake t g else t))

/-- The pair at the beginning of a lift (R99, R453). -/
def pairLift (s : State) : State := s.setPair { s.pair with msgs := [], yield_ := false }

end Sys2Proof.Machine
end

