-- ==== Sys2Proof/Machine/Mould.lean ====
section
/-! DEFINITION. The mould image (R75 to R80, R607 to R609): its header and sections, its items and tables, and the checks of
code 0x04 that the image alone decides. -/

namespace Sys2Proof.Machine

/-- An item of a body of R607: KEY, VALUE, section ordinal and TYPE, and the byte offset of its KEY. -/
structure MItem where
  key : Nat
  value : Nat
  ord : Nat
  typ : Nat
  off : Nat
  deriving DecidableEq, Repr

/-- A TABLES section (R79): ordinal, byte offset of its data, target space, start offset and data. -/
structure MTable where
  ord : Nat
  off : Nat
  space : Nat
  start : Nat
  words : List Word
  deriving DecidableEq, Repr

/-- A fault of code 0x04 (R84, R609): section ordinal, byte offset, TYPE and the value found. -/
structure Finding where
  ord : Nat
  off : Nat
  typ : Nat
  val : Nat
  deriving DecidableEq, Repr

/-- An image taken apart: its items and tables, the EVENTS words with their section's ordinal and byte offset, and the faults
met. -/
structure Mould where
  items : List MItem
  tables : List MTable
  events : List Word
  evOrd : Nat
  evOff : Nat
  faults : List Finding
  /-- Every section that the header announces has been walked. -/
  whole : Bool
  deriving DecidableEq, Repr

/-- A little-endian number of an image; bytes beyond it read zero (R100). -/
def imgNat (bs : List Byte) (off n : Nat) : Nat := leNat (slice bs off n)

/-- The header fields of R75. -/
def imgLength (bs : List Byte) : Nat := imgNat bs 0x10 4
def imgSections (bs : List Byte) : Nat := imgNat bs 0x0E 2

/-- The digest of an image: CRC-32C over LENGTH bytes with bytes 0x14 to 0x17 taken as zero (R75, R76).
[Log 154: DESIGN CHOICE] -/
def imgDigest (bs : List Byte) : Nat :=
  crc32c ((slice bs 0 0x14 ++ [0, 0, 0, 0] ++ slice bs 0x18 (imgLength bs - 0x18)).take (imgLength bs))

/-- The words of a body. -/
def imgWords : List Byte → Nat → List Word
  | _, 0 => []
  | bs, n + 1 => BitVec.ofNat 32 (leNat (bs.take 4)) :: imgWords (bs.drop 4) n

/-- Bits of a register that an item lays: its "mould" fields but for the computed ones (R607). -/
def laidMask (off : Nat) : Nat :=
  match regFind off with
  | none => 0
  | some r =>
    if off = R.DKL_U ∨ off = R.SRCH_CMP_MAX ∨ off = R.SRCH_CMP_LAID ∨ off = R.SRCH_CLASSc_CREDIT 2 ∨ off = R.STRP_COST ∨ off = R.STRP_MAX ∨
        off = R.DLY_FREE ∨ off = R.DLY_LONG ∨ off = R.DLY_DAU ∨ off = R.DST_ADM ∨ off = R.MLD_DIGEST ∨
        r.base = R.DST_LAIDr 0 ∨ r.base = R.EDL_PORTn_MINCAP 0 ∨ r.base = R.GPIO_FNn 0 then 0
    else if off = R.SCN_CFG then 0xFF
    else r.mould

/-- A BAR0 offset names a register that register items may lay (R607). -/
def layable (off : Nat) : Bool :=
  off != R.GLB_TPART && (match regFind off with | some r => r.mould != 0 | none => false)

/-- A declared item: its code and index stand in its section (R608), and its VALUE in range. -/
def declOk (typ code idx value : Nat) : Bool × Bool :=
  let sec := if code ≤ 4 then 1 else if code ≤ 0x1A then 3 else 4
  let known := match code with
    | 0x01 | 0x02 | 0x04 | 0x10 | 0x20 | 0x21 => idx == 0
    | 0x03 | 0x22 => decide (idx < 3)
    | 0x11 => decide (idx < 1024)
    | 0x12 | 0x13 | 0x14 | 0x15 | 0x16 | 0x17 | 0x18 | 0x19 | 0x1A => true
    | 0x23 => decide (idx < 20)
    | _ => false
  let lo := value % 65536
  let hi := value / 65536
  let range := fun (n : Nat) => decide (lo ≤ hi) && decide (hi < n)
  let ok := match code with
    | 0x03 => decide (bits value 31 30 = 0) && decide (bits value 15 14 = 0) && decide (1 ≤ bits value 29 16)
    | 0x04 => decide (value ≤ 64)
    | 0x10 => decide (1 ≤ value ∧ value ≤ 1024)
    | 0x11 => decide (value ≤ 63)
    | 0x12 | 0x13 => range 4096
    | 0x14 | 0x16 => range 16384
    | 0x15 => range 65536
    | 0x17 | 0x18 => range 64
    | 0x19 => decide (value < 131072)
    | 0x1A => decide (1 ≤ value ∧ value ≤ 131072)
    | 0x20 => decide (value ≤ 4096)
    | _ => true
  (typ == sec && known, ok)

/-- A share item's code and index (R608). -/
def shareKeyOk (code idx : Nat) : Bool :=
  match code with
  | 0x01 | 0x20 | 0x21 | 0x24 | 0x26 => idx == 0
  | 0x22 => decide (idx < 3)
  | 0x23 => decide (idx < 20)
  | 0x25 => idx == 0 || idx == 1 || idx == 3 || idx == 4
  | _ => false

/-- Whether an item's KEY, and its VALUE, stand by R607. -/
def itemOk (i : MItem) : Bool × Bool :=
  match i.key / 2 ^ 28 with
  | 0 =>
    if i.key < 2 ^ 24 ∧ layable i.key = true then (true, i.value &&& laidMask i.key == i.value) else (false, true)
  | 1 => declOk i.typ (i.key % 2 ^ 16) (bits i.key 27 16) i.value
  | 2 => (i.typ == 3 && shareKeyOk (bits i.key 7 0) (bits i.key 12 8) && bits i.key 17 13 == 0, true)
  | _ => (false, true)

/-- The items of a body of n items from a byte offset (R607). -/
def bodyItems (ord typ : Nat) : Nat → Nat → List Byte → List MItem
  | 0, _, _ => []
  | n + 1, off, bs =>
    { key := leNat (bs.take 4), value := leNat (slice bs 4 4), ord := ord, typ := typ, off := off } ::
      bodyItems ord typ n (off + 8) (bs.drop 8)

/-- The faults of items, a KEY that appears twice among them (R607). -/
def itemFaults : List MItem → List Nat → List Finding
  | [], _ => []
  | i :: l, seen =>
    let ok := itemOk i
    let here : List Finding :=
      if !ok.1 || seen.contains i.key then [{ ord := i.ord, off := i.off, typ := i.typ, val := i.key }]
      else if !ok.2 then [{ ord := i.ord, off := i.off + 4, typ := i.typ, val := i.value }]
      else []
    here ++ itemFaults l (i.key :: seen)

/-- Words of a target space of R79. -/
def spaceWords (space : Nat) : Nat :=
  match space with
  | 1 => 2 ^ 23
  | 3 => 2 ^ 21
  | 4 => 2 ^ 32
  | 5 => 0x140800
  | 6 => 0x44000
  | 7 => 131072
  | 8 => 2 ^ 32
  | _ => 0

/-- A TABLES section of SLEN bytes at a byte offset (R79): its data, or the fault it carries. [Log 29: DEDUCED] -/
def tableOf (bs : List Byte) (ord off slen space : Nat) : Mould → Mould := fun m =>
  let start := imgNat bs (off + 16) 8
  let n := (slen - 24) / 4
  let unit := if space = 1 then 8 else if space = 3 then 2 else 1
  let size := spaceWords space
  let bad := fun (o v : Nat) => { m with faults := m.faults ++ [{ ord := ord, off := o, typ := 8, val := v }] }
  if slen < 24 then bad (off + 4) slen
  else if size ≤ start ∨ start % unit ≠ 0 then bad (off + 16) (start % 2 ^ 32)
  else if n % unit ≠ 0 ∨ size + 1 < start + n then bad (off + 4) slen
  else
    let ws := imgWords (bs.drop (off + 24)) (if size < start + n then n - 1 else n)
    { m with tables := m.tables ++ [{ ord := ord, off := off + 24, space := space, start := start, words := ws }] }

/-- A section at a byte offset (R77): its header's faults and its body; SLEN where the walk can go on. -/
def sectionOf (bs : List Byte) (ord off : Nat) (m : Mould) : Mould × Option Nat :=
  let len := imgLength bs
  let typ := imgNat bs off 2
  let want := if ord ≤ 7 then ord else 8
  let slen := imgNat bs (off + 4) 4
  let attr := imgNat bs (off + 8) 4
  let rsv := imgNat bs (off + 12) 4
  let fault := fun (t o v : Nat) (k : Mould) => { k with faults := k.faults ++ [{ ord := ord, off := o, typ := t, val := v }] }
  if len < off + 16 then (fault want off 0 m, none)
  else if typ ≠ want then (fault (if typ = 0 ∨ 8 < typ then typ else want) off typ m, none)
  else
    let m1 := if imgNat bs (off + 2) 2 = 1 then m else fault typ (off + 2) (imgNat bs (off + 2) 2) m
    if slen % 8 ≠ 0 ∨ slen < 16 ∨ len < off + slen then (fault typ (off + 4) slen m1, none)
    else
      let attrOk := if typ = 8 then attr == 1 || decide (3 ≤ attr ∧ attr ≤ 8) else attr == 0
      let m2 := if attrOk then m1 else fault typ (off + 8) attr m1
      let m3 := if rsv = 0 then m2 else fault typ (off + 12) rsv m2
      let m4 :=
        if typ ≤ 6 then { m3 with items := m3.items ++ bodyItems ord typ ((slen - 16) / 8) (off + 16) (bs.drop (off + 16)) }
        else if typ = 7 then
          (if slen = 2136 then { m3 with events := imgWords (bs.drop (off + 16)) 530, evOrd := ord, evOff := off + 16 } else fault 7 (off + 4) slen m3)
        else if attrOk then tableOf bs ord off slen attr m3 else m3
      (m4, some slen)

/-- The walk over n sections from a byte offset (R78): the bytes after the last are as many as LENGTH says.
[Log 28: DEDUCED, 29: DEDUCED] -/
def walkSections (bs : List Byte) : Nat → Nat → Nat → Mould → Mould
  | 0, _, off, m =>
    if off = imgLength bs then { m with whole := true }
    else { m with faults := m.faults ++ [{ ord := 0, off := 0x0E, typ := 0, val := imgSections bs }] }
  | n + 1, ord, off, m =>
    match sectionOf bs ord off m with
    | (m1, some slen) => walkSections bs n (ord + 1) (off + slen) m1
    | (m1, none) => m1

/-- The faults of the image header under code 0x04 (R75). [Log 28: DEDUCED] -/
def headerFaults (bs : List Byte) : List Finding :=
  let f := fun (bad : Bool) (o v : Nat) => if bad then [({ ord := 0, off := o, typ := 0, val := v } : Finding)] else []
  let n := imgSections bs
  let l := imgLength bs
  f (decide (n < 7 ∨ 4096 < n)) 0x0E n ++ f (decide (l % 8 ≠ 0 ∨ l < 64 ∨ 2 ^ 29 < l)) 0x10 l ++
    f (imgNat bs 0x18 4 != 0) 0x18 (imgNat bs 0x18 4) ++ f (imgNat bs 0x1C 4 != 0) 0x1C (imgNat bs 0x1C 4)

/-- An image taken apart. -/
def mouldOf (bs : List Byte) : Mould :=
  let m0 : Mould := { items := [], tables := [], events := [], evOrd := 0, evOff := 0, faults := headerFaults bs, whole := false }
  let m := walkSections bs (min 4096 (imgSections bs)) 1 32 m0
  { m with faults := m.faults ++ itemFaults m.items [] }

/-- The finding at the VALUE of the item with a KEY, or at the field that no item lays (R609). -/
def Mould.atKey (m : Mould) (key : Nat) : Finding :=
  match m.items.find? (fun i => i.key == key) with
  | some i => { ord := i.ord, off := i.off + 4, typ := i.typ, val := i.value }
  | none => { ord := 1, off := 0xFFFFFFFF, typ := 1, val := key }

/-- The last TABLES section that lays a word of a space. -/
def Mould.tableAt (m : Mould) (space a : Nat) : Option MTable :=
  (m.tables.filter (fun t => t.space == space && decide (t.start ≤ a) && decide (a < t.start + t.words.length))).getLast?

/-- The finding at a word of a space, or at the first of the words that led to it that a section lays (R609). -/
def Mould.atWord (m : Mould) (space : Nat) : List Nat → List Finding
  | [] => []
  | a :: l =>
    match m.tableAt space a with
    | some t => [{ ord := t.ord, off := t.off + 4 * (a - t.start), typ := 8, val := ((t.words[a - t.start]?).getD 0).toNat }]
    | none => m.atWord space l

/-- The words of a space that TABLES sections lay, in the order of the image. -/
def Mould.laidWords (m : Mould) (space : Nat) : List (Nat × Word) :=
  ((m.tables.filter (fun t => t.space == space)).map (fun t => (List.range t.words.length).zip t.words |>.map (fun e => (t.start + e.1, e.2)))).flatten

/-! ## Ranges of the fields -/

/-- n offsets s apart. -/
def offs (base n s : Nat) : List Nat := (List.range n).map (fun i => base + i * s)

/-- Ranges of the "mould" fields narrower than the field (R80): offsets, [hi:lo], least and greatest value. [Log 29: DEDUCED] -/
def rangeRules : List (List Nat × Nat × Nat × Nat × Nat) := [
  ([R.MLD_PCLASS], 1, 0, 0, 2),
  ([R.DKL_CFG], 2, 0, 0, 5), ([R.DKL_CFG], 6, 4, 0, 4),
  (offs (R.SRCH_PROFn_CTL 0) 64 0x80, 4, 3, 0, 2), (offs (R.SRCH_PROFn_CTL 0) 64 0x80, 2, 0, 0, 4),
  (((List.range 64).map (fun p => offs (R.SRCH_PROFn_FXm p 0) 12 4)).flatten, 15, 9, 0, 64),
  (((List.range 64).map (fun p => offs (R.SRCH_PROFn_FXm p 0) 12 4)).flatten, 8, 0, 0, 383),
  (offs (R.SRCH_REGn_B 0) 256 8, 19, 16, 0, 7), (offs (R.SRCH_REGn_B 0) 256 8, 14, 0, 0, 16384),
  ([R.FWD_AGE_CFG], 27, 16, 16, 4095), ([R.FWD_AGE_LIMIT], 15, 0, 1, 65535),
  (offs (R.ETH_PORTp_CFG 0) 16 16, 7, 6, 0, 2),
  (offs (R.MIX_RAMPn 0) 8 4, 13, 12, 0, 2),
  ([R.STRP_METER_CFG], 31, 16, 1, 65535),
  ([R.DLY_POOL], 17, 0, 0, 131072),
  ([R.PTR_CFG], 12, 0, 0, 4096),
  ([R.SEQ_CFG], 7, 0, 1, 255), (offs (R.SEQn_LEN 0) 128 0x80, 17, 0, 1, 131072)] ++ [
  ([R.EDL_CFG], 11, 0, 0, 4094), ([R.EDL_ROOT], 11, 0, 0, 4094), ([R.EDL_TOPO], 2, 0, 0, 3),
  (offs (R.EDL_PORTn_CTL 0) 4 0x40, 1, 0, 0, 2), (offs (R.EDL_PORTn_CTL 0) 4 0x40, 3, 2, 0, 2),
  (offs (R.EDL_PORTn_CTL 0) 4 0x40, 6, 4, 0, 6), (offs (R.EDL_PORTn_CTL 0) 4 0x40, 10, 8, 0, 6),
  (offs (R.EDL_PORTn_TOPO 0) 4 0x40, 2, 0, 0, 4),
  ([R.TRL_CFG], 7, 0, 1, 255),
  (offs (R.TBn_PPER 0) 8 0x40, 31, 0, 1000000, 4000000000), (offs (R.TBn_PCFG 0) 8 0x40, 15, 0, 1, 65535),
  ([R.TB_DISC], 2, 0, 0, 3), ([R.TB_DISC], 31, 16, 1, 65535), ([R.TB_HWDOG], 15, 0, 1, 65535),
  (offs (R.TB_CAPk_CFG 0) 8 16, 29, 28, 0, 2),
  ([R.DST_HTMO], 15, 0, 10, 10000), ([R.DST_MSGN], 16, 0, 0, 65536)]

/-- The faults of fields out of their ranges, in a state that holds the laid fields. [Log 29: DEDUCED] -/
def rangeFaults (s : State) (m : Mould) : List Finding :=
  (rangeRules.map (fun r => r.1.filterMap (fun off =>
    let v := rdF s off r.2.1 r.2.2.1
    if v < r.2.2.2.1 ∨ r.2.2.2.2 < v then some (m.atKey off) else none))).flatten

/-! ## Laying -/

/-- The state with every "mould" field zero (R16, R607). -/
def clearMould (s : State) : State :=
  s.regs.foldl (fun t e => match regFind (e.1 % 0x400000) with
    | some r => wr t e.1 (e.2 &&& ~~~(BitVec.ofNat 32 r.mould))
    | none => t) s

/-- The items of an image laid (R607, R608): register items into their registers, the others kept by KEY. -/
def layItems (s : State) (m : Mould) : State :=
  let s1 := m.items.foldl (fun t i =>
    if i.key < 2 ^ 28 then wr t i.key (rd t i.key ||| BitVec.ofNat 32 (i.value &&& laidMask i.key)) else t) (clearMould s)
  let kept := m.items.filter (fun i => decide (2 ^ 28 ≤ i.key))
  let s2 := s1.setMld { s1.mld with items := kept.foldl (fun (x : SMap Word) i => SMap.put x i.key (BitVec.ofNat 32 i.value)) ([] : SMap Word) }
  let parts := m.items.filter (fun i => decide (i.key / 2 ^ 28 = 1) && decide (i.key % 2 ^ 16 = 0x11))
  s2.setHp { s2.hp with
    tpart := parts.foldl (fun (x : SMap Nat) i => SMap.putD 0 x (bits i.key 27 16) i.value) ([] : SMap Nat)
    tpartPend := [], tpartHeld := [], voteDiff := [] }

/-- A word of a space laid (R79): the deep store's words are already there (`layStore`). -/
def layWord (s : State) (space a : Nat) (v : Word) : State :=
  match space with
  | 4 =>
    if inPlaneTable a then s.setMix { s.mix with words := SMap.putD 0 s.mix.words a v }
    else if inLiveTable a then
      let r : Ramp := { a := v.toInt, b := v.toInt, shape := 0, len := 0, k := 0 }
      s.setMix { s.mix with live := SMap.put s.mix.live (a - 0x2000000) (r, 0) }
    else s
  | 5 =>
    let into := fun (ws : List Word) (w count : Nat) => ((List.range count).map (fun i => if i = w then v else dw ws i))
    match stripPlace a with
    | some (0, i, w, n) => s.setStrp { s.strp with desc := SMap.put s.strp.desc i (into (stripDesc s i) w n) }
    | some (1, i, _, _) => s.setStrp { s.strp with slots := SMap.putD 0 s.strp.slots i (fld v 15 0) }
    | some (2, i, w, n) => s.setStrp { s.strp with csets := SMap.put s.strp.csets i (into (SMap.getD s.strp.csets i []) w n) }
    | some (3, i, w, n) => s.setStrp { s.strp with dets := SMap.put s.strp.dets i (into (SMap.getD s.strp.dets i []) w n) }
    | some (_, i, w, n) => s.setStrp { s.strp with gens := SMap.put s.strp.gens i (into (SMap.getD s.strp.gens i []) w n) }
    | none => s
  | 6 =>
    if a < 0x4000 then
      (if a % 4 < 2 ∧ a / 4 < rdF s R.PTR_CFG 12 0 then
        let d := zoneDesc s (a / 4)
        s.setPtr { s.ptr with desc := SMap.put s.ptr.desc (a / 4) (if a % 4 = 0 then [v, dw d 1] else [dw d 0, v]) }
      else s)
    else
      let n := (a - 0x4000) / 64
      let ws := setWords s n
      s.setPtr { s.ptr with sets := SMap.put s.ptr.sets n (ws.set (a % 64) v) }
  | 7 => s.setSeq { s.seq with store := SMap.putD 0 s.seq.store a v }
  | _ => s

/-- A unit of the array as laid: nothing valid (R79, R148). -/
def zeroUnit : SUnit :=
  { value := 0, mask := 0, sval := 0, smask := 0, spar := shadowParity 0 0, valid := 0, ad := 0, adpar := adParity 0 }

/-- The units of a TABLES section of spaces 0x01 and 0x03 (R79); a quire laid off is not written (R103). [Log 29: DEDUCED] -/
def layUnits (s : State) (space : Nat) : Nat → Nat → List Word → State
  | 0, _, _ => s
  | n + 1, u, ws =>
    let old := SMap.getD s.srch.base u zeroUnit
    let g := fun i => (dw ws i).toNat
    let value := g 0 + g 1 * 2 ^ 32 + g 2 * 2 ^ 64
    let mask := g 3 + g 4 * 2 ^ 32 + g 5 * 2 ^ 64
    let new : SUnit := if space = 1 then
        { value := value, mask := mask, sval := value, smask := mask, spar := shadowParity value mask, valid := old.valid, ad := g 6 + g 7 * 2 ^ 32, adpar := adParity (g 6 + g 7 * 2 ^ 32) }
      else { old with ad := g 0 + g 1 * 2 ^ 32, adpar := adParity (g 0 + g 1 * 2 ^ 32) }
    layUnits (if quireCode s (u / 16384 % 64) = 3 then s else s.setSrch { s.srch with base := SMap.put s.srch.base u new }) space n (u + 1)
      (ws.drop (if space = 1 then 8 else 2))

/-- A TABLES section laid (R79). -/
def layTable (s : State) (t : MTable) : State :=
  if t.space = 1 then layUnits s 1 (t.words.length / 8) (t.start / 8) t.words
  else if t.space = 3 then layUnits s 3 (t.words.length / 2) (t.start / 2) t.words
  else ((List.range t.words.length).zip t.words).foldl (fun u e => layWord u t.space (t.start + e.1) e.2) s

/-- U of R43: f_fab_min × N / fs_max, less 512. -/
def usableCycles (s : State) : Nat := 1599840000 * nSamples s * 10000 / (fsHz s * 10002) - 512

/-- C_max of R134 for the laid class. -/
def compareMax (s : State) : Nat :=
  let p := match rdF s R.MLD_PCLASS 1 0 with | 0 => 16 | 1 => 10 | _ => 5
  2 * p * 10 ^ 9 * nSamples s * 10000 / (fsHz s * 10002) * 10 / 11

/-- D_adm of R495. -/
def dstAdmissible (s : State) : Nat := 17920000000 * nSamples s * 10000 / (fsHz s * 10002)

/-- A pulse output or a capture input names its pin: the mould lays something into its register, enabled or not (R484, R486, R576).
[Log 151: DEDUCED] -/
def pinNamed (w : Word) : Bool := setFld w 30 30 0 != 0

/-- `GPIO_FNn` of a pin (R576). -/
def gpioFn (s : State) (j : Nat) : Nat :=
  match (List.range 8).find? (fun m => pinNamed (rd s (R.TBn_PCFG m)) && rdF s (R.TBn_PCFG m) 21 16 == j) with
  | some m => 1 + 4 * m
  | none => match (List.range 8).find? (fun k => pinNamed (rd s (R.TB_CAPk_CFG k)) && rdF s (R.TB_CAPk_CFG k) 5 0 == j) with
    | some k => 2 + 4 * k
    | none => 0

/-- The capacity shown in `EDL_PORTn_MINCAP` (R413). -/
def minCap (s : State) (n : Nat) : Nat :=
  let m := rdF s (R.EDL_PORTn_CTL n) 10 8
  if m = 0 then 0 else modeCap s m

/-- The computed fields (R607). -/
def computeFields (s : State) (digest : Nat) : State :=
  let rmax := (List.range 8).foldl (fun m n => max m (rdF s (R.MIX_RAMPn n) 11 0)) 0
  let s1 := wrAll s ([
    (R.MLD_DIGEST, BitVec.ofNat 32 digest), (R.DKL_U, BitVec.ofNat 32 (usableCycles s)),
    (R.SRCH_CMP_MAX, BitVec.ofNat 32 (compareMax s)), (R.SRCH_CLASSc_CREDIT 2, 4096),
    (R.STRP_MAX, BitVec.ofNat 32 (16 * usableCycles s)), (R.SCN_CFG, setFld (rd s R.SCN_CFG) 19 8 (ceilDiv rmax (nSamples s))),
    (R.DST_ADM, BitVec.ofNat 32 (dstAdmissible s)), (R.DST_LAIDr 1, 0),
    (R.DST_LAIDr 2, BitVec.ofNat 32 (item s (declKey 4 0) * (ceilDiv (nSamples s) 8 + 1))), (R.STRM_ASRC, 512)] ++
    (List.range 4).map (fun n => (R.EDL_PORTn_MINCAP n, BitVec.ofNat 32 (minCap s n))) ++
    (List.range 64).map (fun j => (R.GPIO_FNn j, BitVec.ofNat 32 (gpioFn s j))))
  ptrRegs (stripRegs s1)

/-- The bytes that the deep-store sections in the bytes of an image lay, section by section from a byte offset, each with its address: a word is
laid once, when its bytes have arrived after the first `old` bytes of the image (R79). -/
def layStoreFrom (bs : List Byte) (old : Nat) : Nat → Nat → List (Nat × List Byte)
  | 0, _ => []
  | n + 1, off =>
    let slen := imgNat bs (off + 4) 4
    if bs.length < off + 16 ∨ slen < 16 ∨ slen % 8 ≠ 0 then []
    else if imgNat bs off 2 = 8 ∧ imgNat bs (off + 8) 4 = 8 ∧ 24 ≤ slen then
      let start := imgNat bs (off + 16) 8
      let fit := (slen - 24) / 4
      let all := if 2 ^ 32 < start + fit then fit - 1 else fit
      let done := min all ((old - (off + 24)) / 4)
      let words := min all ((bs.length - (off + 24)) / 4)
      (if start < 2 ^ 32 ∧ start + fit ≤ 2 ^ 32 + 1 then [(4 * (start + done), slice bs (off + 24 + 4 * done) (4 * (words - done)))] else []) ++
        layStoreFrom bs old n (off + slen)
    else layStoreFrom bs old n (off + slen)

/-- Bytes written to the deep store by the loader: a write-back of the scrubber to a unit among them is discarded (R501). -/
def layBytes (s : State) (w : Nat × List Byte) : State :=
  (s.setDst (dstPutBytes s.dst w.1 w.2)).setDste { s.dste with
    writeBack := s.dste.writeBack.filter (fun u => decide (32 * u + 32 ≤ w.1) || decide (w.1 + w.2.length ≤ 32 * u)) }

/-- The loader writes the deep-store sections while in LAYING, whatever becomes of the image (R79), where the DRAM has come up (R94): `bs`
are the bytes that have arrived, `old` how many of them had before. [Log 27: DEDUCED] -/
def layStore (s : State) (bs : List Byte) (old : Nat) : State :=
  if s.pwr.dram = .ready then (layStoreFrom bs old (min 4096 (imgSections bs)) 32).foldl layBytes s else s

/-- A state with the stores that the tables of an image fill taken from another (R79). -/
def takeStores (s t : State) : State :=
  let s1 := (s.setSrch { s.srch with base := t.srch.base }).setMix { s.mix with words := t.mix.words, live := t.mix.live }
  let s2 := s1.setStrp { s1.strp with
    desc := t.strp.desc, slots := t.strp.slots, csets := t.strp.csets, dets := t.strp.dets, gens := t.strp.gens }
  (s2.setPtr { s2.ptr with desc := t.ptr.desc, sets := t.ptr.sets }).setSeq { s2.seq with store := t.seq.store }

/-- The loader writes the other sections while in LAYING (R79): the words that have arrived. [Log 27: DEDUCED] -/
def layArrived (s : State) (bs : List Byte) : State :=
  let m := mouldOf bs
  takeStores s (m.tables.foldl layTable (layItems (s.setDev .laid) m))

/-- The state in which an image is laid, before the entry into LAID: what CHECKING judges. -/
def layTrial (s : State) (m : Mould) (digest : Nat) : State :=
  let s1 := layItems (s.setDev .laid) m
  computeFields (m.tables.foldl layTable s1) digest

end Sys2Proof.Machine
end

