-- ==== Sys2Proof/Machine/MouldCheck.lean ====
section
/-! DEFINITION. The checks of a mould (R80 to R91, R94, R609): codes 0x01 to 0x0F in order, and the refusal report. Every check
past the digest judges the state in which the image is laid (`layTrial`). -/

namespace Sys2Proof.Machine

/-- A refusal report (R84). -/
structure Report where
  code : Nat
  sec : Nat
  idx : Nat
  need : Nat
  have_ : Nat
  deriving DecidableEq, Repr

/-- The first of several answers. -/
def firstSome {α : Type} : List (Option α) → Option α
  | [] => none
  | some a :: _ => some a
  | none :: l => firstSome l

/-- The report that stands first in section order, then by index, among those of one code (R81). [Log 28: DEDUCED] -/
def firstReport : List (Option Report) → Option Report
  | [] => none
  | none :: l => firstReport l
  | some r :: l =>
    match firstReport l with
    | none => some r
    | some q => if q.sec < r.sec ∨ (q.sec = r.sec ∧ q.idx < r.idx) then some q else some r

/-- A report where a condition holds. [Log 28: DEDUCED] -/
def reportIf (c : Bool) (code sec idx need have_ : Nat) : Option Report :=
  if c then some { code := code, sec := sec, idx := idx, need := need, have_ := have_ } else none

/-! ## Profiles -/

/-- SRC, OFFSET, LEN and DEST of extractor m of profile p (R116, R117). -/
def fxSrc (s : State) (p m : Nat) : Nat := rdF s (R.SRCH_PROFn_FXm p m) 31 28
def fxOff (s : State) (p m : Nat) : Nat := rdF s (R.SRCH_PROFn_FXm p m) 27 16
def fxLen (s : State) (p m : Nat) : Nat := rdF s (R.SRCH_PROFn_FXm p m) 15 9
def fxDest (s : State) (p m : Nat) : Nat := rdF s (R.SRCH_PROFn_FXm p m) 8 0

/-- Length of a source in bits (R117); 0 for a reserved one. -/
def srcBits (src : Nat) : Nat :=
  match src with
  | 1 | 3 => 2048
  | 2 | 5 => 64
  | 4 => 1024
  | 6 => 192
  | 7 => 32
  | _ => 0

/-- Extractors of a profile that are used. -/
def fxUsed (s : State) (p : Nat) : List Nat := (List.range 12).filter (fun m => fxSrc s p m != 0)

/-- The source bit that reaches key bit b (R115, R116): source and bit number, for frame sources in network order. -/
def keyBit (s : State) (p b : Nat) : Option (Nat × Nat) :=
  match (fxUsed s p).find? (fun m => decide (fxDest s p m ≤ b) && decide (b < fxDest s p m + fxLen s p m)) with
  | some m =>
    let i := b - fxDest s p m
    let src := fxSrc s p m
    some (src, if src = 1 ∨ src = 3 ∨ src = 4 then fxOff s p m + fxLen s p m - 1 - i else fxOff s p m + i)
  | none => none

/-- The registers at fault in a defined profile (R114, R340, R344). -/
def profFaults (s : State) (p : Nat) : List Nat :=
  let ctl := rd s (R.SRCH_PROFn_CTL p)
  let code := fld ctl 4 3
  let k := 96 * widthUnits code
  let ten := bit ctl 6
  let tpos := fld ctl 15 7
  let sel := (rd s (R.SRCH_PROFn_QSEL_LO p)).toNat + (rd s (R.SRCH_PROFn_QSEL_HI p)).toNat * 2 ^ 32
  let quires := (List.range 64).filterMap (fun q =>
    if sel.testBit q ∧ quireCode s q ≠ code then some (if q < 32 then R.SRCH_PROFn_QSEL_LO p else R.SRCH_PROFn_QSEL_HI p) else none)
  let fx := (List.range 12).filterMap (fun m =>
    let src := fxSrc s p m
    let len := fxLen s p m
    let d := fxDest s p m
    let bad := decide (8 ≤ src) || (src != 0 && decide (len = 0 ∨ 64 < len)) || (src == 0 && len != 0) ||
      (src != 0 && (decide (srcBits src < fxOff s p m + len) || decide (k < d + len) ||
        ((List.range m).any (fun j => fxSrc s p j != 0 && rangesMeet d (d + len) (fxDest s p j) (fxDest s p j + fxLen s p j))) ||
        (ten && rangesMeet d (d + len) tpos (tpos + 10)))) ||
      (fld ctl 2 0 == 2 && src != 0 && (if src = 6 then decide (fxOff s p m ≠ d) || decide (163 < d + len) else src != 7 || decide (d < 163)))
    if bad then some (R.SRCH_PROFn_FXm p m) else none)
  let zone := fld ctl 2 0 == 2 && (ten || !bit ctl 5 || !((List.range 163).all (fun b => keyBit s p b == some (6, b))))
  if !profDef s p then []
  else
    (if sel = 0 then [R.SRCH_PROFn_QSEL_LO p] else []) ++ quires ++
      (if (fld ctl 2 0 = 2 ∧ code ≠ 1) ∨ (ten = true ∧ k < tpos + 10) ∨ zone = true then [R.SRCH_PROFn_CTL p] else []) ++ fx

/-- A profile builds the overflow key of R205 from a MAC whose last bit is frame bit `last`. -/
def overflowKey (s : State) (p last : Nat) : Bool :=
  let ctl := rd s (R.SRCH_PROFn_CTL p)
  let tag := rd s (R.SRCH_PROFn_TAG p)
  (List.range 96).all (fun b =>
    let src := keyBit s p b
    if b < 48 then src == some (1, last - b)
    else if b < 60 then src == some (2, 5 + (b - 48))
    else if b < 70 then src == some (2, 20 + (b - 60)) || (bit ctl 6 && fld ctl 15 7 == 60)
    else
      let want := rdB s R.FWD_OVF_TAG (b - 70)
      match src with
      | none => !want && !(bit ctl 6 && decide (fld ctl 15 7 ≤ b) && decide (b < fld ctl 15 7 + 10))
      | some (7, o) => bit tag o == want
      | _ => false)

/-- A profile is defined, of a class and of a width code. -/
def profIs (s : State) (p cls code : Nat) : Bool := profDef s p && profClass s p == cls && profWidth s p == code

/-- The registers at fault in the switch's and the streams' profiles and seeds (R191, R204, R205, R243). [Log 32: DEDUCED] -/
def fwdFaults (s : State) : List Nat :=
  let f := rd s R.FWD_PROF
  let r6 := rd s R.FWD_PROF2
  let st := rd s R.STRM_PROF
  let seed := fun i => rd s (R.FWD_HASH_SEEDn i)
  let bad := (bit f 7 && !(profIs s (fld f 5 0) 0 0 && overflowKey s (fld f 5 0) 47)) ||
    (bit f 15 && !(profIs s (fld f 13 8) 3 0 && overflowKey s (fld f 13 8) 95)) ||
    (bit f 23 && !(profDef s (fld f 21 16) && profClass s (fld f 21 16) == 0)) || (bit f 31 && !profIs s (fld f 29 24) 0 0)
  (if bad then [R.FWD_PROF] else []) ++ (if bit r6 7 && !profIs s (fld r6 5 0) 0 1 then [R.FWD_PROF2] else []) ++
    (if (bit st 7 && !profIs s (fld st 5 0) 1 0) || (bit st 15 && !profIs s (fld st 13 8) 1 1) then [R.STRM_PROF] else []) ++
    ((List.range 4).filter (fun i => (List.range i).any (fun j => seed j == seed i))).map R.FWD_HASH_SEEDn

/-! ## The other laid fields -/

/-- The registers at fault in a region (R108, R192). -/
def regionFaults (s : State) (n : Nat) : List Nat :=
  let a := rd s (R.SRCH_REGn_A n)
  let b := rd s (R.SRCH_REGn_B n)
  let kind := fld b 19 16
  let count := fld b 14 0
  let start := fld a 19 6
  let code := quireCode s (fld a 5 0)
  let w := widthUnits code
  let first := !((List.range n).any (fun m => rdF s (R.SRCH_REGn_B m) 19 16 == 1))
  if kind = 0 then (if count = 0 then [] else [R.SRCH_REGn_B n])
  else
    (if code = 3 ∨ start % w ≠ 0 ∨ (kind = 1 ∧ (code ≠ 0 ∨ fld a 29 20 ≠ 0)) then [R.SRCH_REGn_A n] else []) ++
      (if count = 0 ∨ 16384 < start + count ∨ (code ≠ 3 ∧ count % w ≠ 0) ∨ (kind = 1 ∧ (count ≠ 4096 ∨ first = false)) then [R.SRCH_REGn_B n] else [])

/-- The registers at fault in the input-plane ranges (R267), taken in ascending offset. -/
def planeFaults (s : State) : List Nat :=
  let regs := [R.STRM_PLANE, R.MIX_INMAP0, R.MIX_INMAP1]
  let lo := fun r => rdF s r 13 0
  let hi := fun r => rdF s r 29 16
  (regs.zip [0, 1, 2]).filterMap (fun e =>
    let r := e.1
    let bad := rdB s r 31 && (decide (hi r < lo r) || decide (16255 < hi r) ||
      (regs.take e.2).any (fun q => rdB s q 31 && rangesMeet (lo r) (hi r + 1) (lo q) (hi q + 1)))
    if bad then some r else none)

/-- The registers at fault among the Ethernet ports (R225, R226, R237). -/
def ethFaults (s : State) : List Nat :=
  (List.range 16).filterMap (fun p =>
    let w := rd s (R.ETH_PORTp_CFG p)
    let one := rdB s (R.ETH_GRPg_CFG (p / 4)) 0
    let wide := decide (6 ≤ fld w 2 0)
    let bad := fld w 2 0 != 0 && (!portCfgOk s w || (wide != one) || (one && decide (p % 4 ≠ 0)))
    if bad then some (R.ETH_PORTp_CFG p) else none)

/-- Ports of role 1 with a function on a ring. -/
def ringPorts (s : State) (fn ring : Nat) : Nat :=
  ((List.range 4).filter (fun n => edlRole s n == 1 && rdF s (R.EDL_PORTn_TOPO n) 2 0 == fn && rdF s (R.EDL_PORTn_TOPO n) 3 3 == ring)).length

/-- The registers at fault among the Edarlink ports and the pair (R376, R377, R415 to R417, R425, R444). [Log 33: DEDUCED] -/
def linkFaults (s : State) : List Nat :=
  let kind := rdF s R.EDL_TOPO 2 0
  let ports := (List.range 4).filterMap (fun n =>
    let c := rd s (R.EDL_PORTn_CTL n)
    let lo := fld c 10 8
    let hi := fld c 6 4
    if (fld c 1 0 = 1 ∨ fld c 1 0 = 2) ∧ (lo = 0 ∨ hi < lo) then some (R.EDL_PORTn_CTL n) else none)
  let fns := (List.range 4).filterMap (fun n =>
    let f := rdF s (R.EDL_PORTn_TOPO n) 2 0
    let used := match f with
      | 0 => true
      | 1 | 4 => kind == 1
      | 2 | 3 => kind == 2 || kind == 3
      | _ => false
    if edlRole s n = 1 ∧ used = false then some (R.EDL_PORTn_TOPO n) else none)
  let inAll := ringPorts s 2 0 + ringPorts s 2 1
  let outAll := ringPorts s 3 0 + ringPorts s 3 1
  let rings := (kind == 2 && (inAll != 1 || outAll != 1)) ||
    (kind == 3 && !([ringPorts s 2 0, ringPorts s 2 1, ringPorts s 3 0, ringPorts s 3 1].all (· == 1)))
  let pc := rd s R.PAIR_CFG
  let times := rd s R.PAIR_TIMES
  ports ++ fns ++ (if rings then [R.EDL_TOPO] else []) ++
    (if bit pc 0 ∧ (edlRole s (fld pc 2 1) ≠ 2 ∨ fld pc 27 16 = rdF s R.EDL_CFG 11 0) then [R.PAIR_CFG] else []) ++
    (if bit pc 0 ∧ (fld times 31 16 = 0 ∨ fld times 15 0 = 0) then [R.PAIR_TIMES] else []) ++
    (if rdB s R.EDL_CFG 16 ∧ rdF s R.TB_DISC 2 0 = 3 then [R.TB_DISC] else [])

/-- Regions of the deep store that are laid (R491): first and last unit + 1, with the KEY that lays each. [Log 31: DEDUCED] -/
def dstRegions (s : State) : List (Nat × Nat × Nat) :=
  ((List.range 3).filterMap (fun i =>
    let v := item s (declKey 3 i)
    if v = 0 then none else some (bits v 13 0 * 32768, (bits v 13 0 + bits v 29 16) * 32768, declKey 3 i))) ++
  ((List.range 8).filterMap (fun k =>
    let b := rdF s (R.DST_CAPk_BASE k) 28 0
    let l := rdF s (R.DST_CAPk_LEN k) 28 0
    if l = 0 then none else some (b, b + l, R.DST_CAPk_LEN k)))

/-- The KEYs at fault among the deep store's regions and the captures (R491, R506). [Log 31: DEDUCED, 32: DEDUCED] -/
def dstFaults (s : State) : List Nat :=
  let rs := dstRegions s
  let meets := (List.range rs.length).filterMap (fun i =>
    match rs[i]? with
    | some r =>
      if r.1 % 32768 ≠ 0 ∨ r.2.1 % 32768 ≠ 0 ∨ 2 ^ 29 < r.2.1 ∨ (rs.take i).any (fun q => rangesMeet r.1 r.2.1 q.1 q.2.1) = true then some r.2.2 else none
    | none => none)
  meets ++ (List.range 8).filterMap (fun k =>
    let cfg := rd s (R.DST_CAPk_CFG k)
    let len := rdF s (R.DST_CAPk_LEN k) 28 0
    if capRingBad cfg.toNat len then some (R.DST_CAPk_LEN k) else none)

/-- The registers at fault among pins, pairs and the commit margin (R331, R571, R576). [Log 32: DEDUCED] -/
def pinFaults (s : State) : List Nat :=
  let uses := ((List.range 8).filterMap (fun m => if pinNamed (rd s (R.TBn_PCFG m)) then some (R.TBn_PCFG m, rdF s (R.TBn_PCFG m) 21 16) else none)) ++
    ((List.range 8).filterMap (fun k => if pinNamed (rd s (R.TB_CAPk_CFG k)) then some (R.TB_CAPk_CFG k, rdF s (R.TB_CAPk_CFG k) 5 0) else none))
  let twice := (List.range uses.length).filterMap (fun i =>
    match uses[i]? with
    | some u => if (uses.take i).any (fun v => v.2 == u.2) then some u.1 else none
    | none => none)
  let pairs := (List.range 16).filterMap (fun n =>
    let t := rd s (R.DCI_PAIRn_TIME n)
    if rdB s (R.DCI_PAIRn_CFG n) 0 ∧ (fld t 31 16 = 0 ∨ fld t 15 0 = 0) then some (R.DCI_PAIRn_TIME n) else none)
  let margin := rdF s R.SCN_CFG 7 0
  twice ++ pairs ++ (if margin < 2 ∧ s.pwr.cmpt = false then [R.SCN_CFG] else [])

/-- The KEYs at fault among the TENANTS items (R608): the count itself, items of tenants beyond it, and store shares beyond the
store. -/
def tenantFaults (s : State) (m : Mould) : List Nat :=
  let n := item s (declKey 0x10 0)
  (if n = 0 then [declKey 0x10 0] else []) ++ m.items.filterMap (fun i =>
    let code := i.key % 2 ^ 16
    let idx := bits i.key 27 16
    if i.key / 2 ^ 28 = 1 ∧ ((code = 0x11 ∧ n ≤ idx) ∨ (0x12 ≤ code ∧ code ≤ 0x1A ∧ n ≤ idx % 1024) ∨
        (code = 0x1A ∧ 131072 < i.value + item s (declKey 0x19 idx))) then some i.key
    else if i.key / 2 ^ 28 = 2 ∧ n ≤ bits i.key 27 18 then some i.key
    else none)

/-! ## EVENTS and TABLES -/

/-- The faults of the EVENTS section (R541, R559). -/
def eventFaults (s : State) (m : Mould) : List Finding :=
  let at_ := fun (i : Nat) (w : Word) => ({ ord := m.evOrd, off := m.evOff + 4 * i, typ := 7, val := w.toNat } : Finding)
  ((List.range m.events.length).zip m.events).filterMap (fun e =>
    let w := e.2
    if e.1 < 512 then
      (if w.toNat / 2 ^ 11 ≠ 0 ∨ bit w 3 ∨ senseAllowed e.1 (fld w 2 0) = false then some (at_ e.1 w) else none)
    else if e.1 < 528 then none
    else if (List.range 4).any (fun k =>
        let b := fld w (8 * k + 7) (8 * k)
        b.testBit 6 || (b.testBit 7 && decide (0 < b % 64) &&
          !((List.range (item s (declKey 0x10 0))).any (fun t => tenantFn s t == b % 64)))) then some (at_ e.1 w)
    else none)

/-- The bits of the first word of a sequencer instruction that no field of R374 and R375 takes. [Log 30: DEDUCED] -/
def instrReserved (w : Word) : Nat :=
  w.toNat &&& (match seqOp w with
    | 0x00 | 0x01 | 0x02 | 0x06 => 0x03FFFFFF
    | 0x03 => 0x03FF0000
    | 0x04 => 0x038FFFFF
    | 0x05 => 0x00FF0000
    | 0x07 => 0x0380FFF8
    | 0x08 => 0x000F0000
    | 0x09 | 0x0A => 0x038F0000
    | 0x0B => 0x00003FFF
    | 0x0C => 0x03810000
    | 0x0D => 0x038FF080
    | 0x10 | 0x11 => 0
    | 0x14 => 0x018FF000
    | 0x15 => 0x0000C000
    | 0x16 => 0x0000FFFF
    | 0x17 => 0x03FF0000
    | _ => 0)

/-- The words of the programs that the image gives its sequencers whose reserved bits are not zero (R14, R371).
[Log 30: DEDUCED] -/
def instrFaults (s : State) (m : Mould) : List Finding :=
  ((List.range 128).map (fun n =>
    let len := rdF s (R.SEQn_LEN n) 17 0
    (((seqStarts s n len len 0).getD []).filter (fun i => instrReserved (progWord s n i) != 0)).map (fun i =>
      m.atWord 7 [rdF s (R.SEQn_BASE n) 16 0 + i]))).flatten.flatten

/-- Reserved bits of a word of a space (R199, R205, R207, R264 to R266, R310, R334, R344, R502).
[Log 29: DEDUCED, 30: DEDUCED] -/
def reservedBits (s : State) (space a : Nat) (v : Word) : Nat :=
  match space with
  | 3 =>
    let k := regionKind s (a / 2)
    match k, a % 2 with
    | 6, 1 => v.toNat &&& 0xFFFFFFE0
    | 2, 1 => v.toNat &&& 0x80000000
    | 3, 1 => v.toNat &&& 0x80000000
    | 4, 0 => v.toNat &&& 0xFFFFC000
    | 4, 1 => v.toNat
    | 5, 0 => v.toNat &&& 0xFFFF0000
    | 5, 1 => v.toNat
    | 1, 0 => v.toNat &&& 0xFFC0
    | 1, 1 => v.toNat
    | _, _ => 0
  | 4 =>
    let w := a % 0x1000000
    if !inPlaneTable a then 0
    else if w < 0x800000 then
      (if w % 2 = 0 then v.toNat &&& 0xF0
      else if bit (mixWord s (a - 1)) 2 then v.toNat &&& 0xFFFFC000 else 0)
    else if w < 0x810000 then (if w % 2 = 1 then v.toNat &&& 0xFFFFE000 else 0)
    else if w % 2 = 1 then v.toNat &&& 0x7FE00000 else 0
  | 5 =>
    match stripPlace a with
    | some (0, _, w, _) => v.toNat &&& (match w with
      | 0 => 0x800C | 1 => 0xFF000000 | 2 => 0xF0000000 | 5 => 0xFFFF0000 | 6 => 0xFFC00000 | 7 => 0xFFC00000 | _ => 0)
    | some (1, _, _, _) => v.toNat &&& 0xFFFF0000
    | some (3, _, w, _) => v.toNat &&& (match w with | 0 => 0xFF800000 | 1 => 0xFFFFF000 | 3 => 0xFFFF0000 | _ => 0)
    | some (4, _, 0, _) => v.toNat &&& 0xFFFFFFF8
    | some _ => 0
    | none => if (0x80000 ≤ a ∧ a < 0x100000) ∨ ((0x100000 ≤ a ∧ a < 0x120000) ∧ a % 8 ≠ 7) then v.toNat else 0
  | 6 =>
    if a < 0x4000 then (match a % 4 with | 0 => v.toNat &&& 0xFC00F020 | 1 => 0 | _ => v.toNat) else 0
  | 8 =>
    let dir := rdF s R.DST_MSG 28 0
    if dir ≤ a / 8 ∧ a / 8 < dir + rdF s R.DST_MSGN 16 0 then
      v.toNat &&& (match a % 8 with | 0 => 0xE0000000 | 1 | 3 => 0 | 2 => 0xFFFFFFFC | _ => 0xFFFFFFFF)
    else 0
  | _ => 0

/-- The word at fault in a laid strip descriptor, if one is (R290, R292, R297, R302, R305). -/
def stripFault (s : State) (n : Nat) (d : List Word) : Option Nat :=
  if 32 < stNsec d then some 0
  else if stNsec d < stSplit d ∨ 262144 < stFirst d + stNsec d then some 1
  else if sext 16 (fld (dw d 4) 15 0) < sext 16 (fld (dw d 4) 31 16) then some 4
  else if stDmax d < stDelay d then some 7
  else if !stEn d then none
  else if (s.strp.desc.any (fun e => decide (e.1 < n) && stEn e.2 &&
      rangesMeet (stFirst d) (stFirst d + stNsec d) (stFirst e.2) (stFirst e.2 + stNsec e.2))) then some 1
  else if stageOf n = false ∧ ((stripPlane s n).isNone ∨ stripSrcOk s (fld (dw d 2) 13 0) = false) then some 2
  else if descOk s 0 n d then none else some 2

/-- The words at fault among the laid strips, detectors and generators. -/
def stripTableFaults (s : State) (m : Mould) : List Finding :=
  let f := s.strp.desc.map (fun e => match stripFault s e.1 e.2 with
    | some w => m.atWord 5 ((8 * e.1 + w) :: (List.range 8).map (fun i => 8 * e.1 + i))
    | none => [])
  let d := s.strp.dets.map (fun e => if detOk s 0 e.1 e.2 then [] else m.atWord 5 ((List.range 6).map (fun i => 0x100000 + 8 * e.1 + i)))
  let g := s.strp.gens.map (fun e => if fld (dw e.2 0) 2 0 ≤ 4 then [] else m.atWord 5 [0x130000 + 4 * e.1])
  (f ++ d ++ g).flatten

/-- The word at fault in a laid descriptor of a zone that exists (R80, R333 to R335): FAILSET counts with MISS = 2, SEQ with SEQEN.
[Log 75: DEDUCED] -/
def zoneFault (s : State) (z : Nat) (d : List Word) : Option Nat :=
  let own := owner s 0x12 z
  if dw d 0 = 0 ∧ dw d 1 = 0 then none
  else if own ≠ some (fld (dw d 0) 25 16) ∨ zoneProfileOk s (zoneProfile d) = false ∨ fld (dw d 0) 2 1 = 3 ∨
      fld (dw d 0) 4 3 = 3 then some 0
  else if (fld (dw d 0) 2 1 = 2 ∧ owner s 0x13 (fld (dw d 1) 31 20) ≠ own) ∨
      (bit (dw d 1) 7 = true ∧ some (seqTenant s (fld (dw d 1) 6 0)) ≠ own) then some 1
  else none

/-- A word of the planes at fault for a refusal of R284 other than rule 6: the record of rules 4, 5 and 7 where a section lays it,
else its header, else the lane entry. -/
def planeFinding (s : State) (m : Mould) (p : Nat) (r : PlaneRefusal) : List Finding :=
  if r.lane then m.atWord 4 [laneAddr p r.idx, laneAddr p r.idx + 1]
  else
    let lane := (List.range 320).find? (fun l => let e := laneEntry s p l
      decide (e.hdr0 ≤ r.idx) && decide (r.idx < e.hdr0 + e.nhdr))
    let segs : List SegHdr := match lane with
      | some l => let e := laneEntry s p l
        (laneSegs s p l (min e.nhdr (32768 - e.hdr0)) e.hdr0 e.rec0).filter (fun g => g.idx == r.idx)
      | none => []
    let recs := segs.map (fun g => ((List.range g.count).filter (fun j =>
      let w := mixWord s (recAddr0 p (g.slot + j))
      match r.reason with
      | 4 => decide (fld w 31 17 < 16384) && !inSrcWindow s g.lane (fld w 31 17)
      | 5 => decide (16384 ≤ fld w 31 17) && !lowerDest s p g.tier (fld w 31 17 - 16384)
      | 7 => decide (1 ≤ g.count ∧ g.count ≤ 16384) && (rampProfile s (fld w 10 8)).1 == 3
      | _ => false)).map (fun j => recAddr0 p (g.slot + j)))
    m.atWord 4 (recs.flatten ++ [hdrAddr p r.idx, hdrAddr p r.idx + 1] ++
      (match lane with | some l => [laneAddr p l, laneAddr p l + 1] | none => []))

/-- The planes that a TABLES section lays (R284). -/
def laidPlanes (m : Mould) : List Nat :=
  (List.range 2).filter (fun p => m.tables.any (fun t => t.space == 4 && rangesMeet t.start (t.start + t.words.length) (p * 0x1000000) ((p + 1) * 0x1000000)))

/-- The faults of code 0x04 that the laid content shows. [Log 28: DEDUCED, 30: DEDUCED] -/
def contentFaults (s : State) (m : Mould) : List Finding :=
  let keys := tenantFaults s m ++ ((List.range 64).map (profFaults s)).flatten ++ fwdFaults s ++ ((List.range 256).map (regionFaults s)).flatten ++
    planeFaults s ++ ethFaults s ++ linkFaults s ++ dstFaults s ++ pinFaults s
  let words := ([4, 5, 6, 8].map (fun sp => ((m.laidWords sp).map (fun e => if reservedBits s sp e.1 e.2 = 0 then [] else m.atWord sp [e.1])).flatten)).flatten
  let ads := ((m.laidWords 3).map (fun e => if reservedBits s 3 e.1 e.2 = 0 then [] else m.atWord 3 [e.1])).flatten ++
    ((m.laidWords 1).map (fun e =>
      if 6 ≤ e.1 % 8 ∧ reservedBits s 3 (2 * (e.1 / 8) + (e.1 % 8 - 6)) e.2 ≠ 0 then m.atWord 1 [e.1] else [])).flatten
  let zones := (s.ptr.desc.map (fun e => match zoneFault s e.1 e.2 with
    | some w => m.atWord 6 [4 * e.1 + w, 4 * e.1, 4 * e.1 + 1]
    | none => [])).flatten
  let planes := ((laidPlanes m).map (fun p => ((planeCheck s p).filter (fun r => r.reason != 6)).map (planeFinding s m p))).flatten.flatten
  keys.map m.atKey ++ rangeFaults s m ++ eventFaults s m ++ words ++ ads ++ stripTableFaults s m ++ zones ++ planes ++ instrFaults s m

/-- The finding that the report names: the first in section order, then in byte order (R81). [Log 28: DEDUCED] -/
def firstFinding : List Finding → Option Finding
  | [] => none
  | f :: l =>
    match firstFinding l with
    | none => some f
    | some g => if g.ord < f.ord ∨ (g.ord = f.ord ∧ g.off < f.off) then some g else some f

/-- Check 0x04 (R80, R81, R609): where the walk over the sections broke off, the fields of the sections before it are judged all the same,
but no field that a later section may lay. [Log 28: DEDUCED] -/
def check04 (s : State) (m : Mould) : Option Report :=
  let content := contentFaults s m
  (firstFinding (m.faults ++ if m.whole then content else content.filter (fun f => f.off != 0xFFFFFFFF))).map (fun f =>
    { code := 4, sec := f.typ, idx := f.ord, need := f.off, have_ := f.val })

/-! ## Budgets -/

/-- The shares that TENANTS lays for a budget, in ascending tenant order. -/
def sharesOf (s : State) (code idx : Nat) : List (Nat × Nat) :=
  s.mld.items.filterMap (fun e =>
    if e.1 / 2 ^ 28 = 2 ∧ bits e.1 7 0 = code ∧ bits e.1 12 8 = idx then some (bits e.1 27 18, e.2.toNat) else none)

/-- The refusal of shares whose running sum exceeds the total (R85). -/
def shareSums (code total_ : Nat) : Nat → List (Nat × Nat) → Option Report
  | _, [] => none
  | sum, (t, q) :: l =>
    if total_ < sum + q then some { code := code, sec := 3, idx := t, need := sum + q, have_ := total_ }
    else shareSums code total_ (sum + q) l

/-- The checks of a budget's shares in tenant order: their sum, and each tenant's laid content (R85). -/
def shareCheck (s : State) (code item_ idx total_ : Nat) (laid : Nat → Nat) : Option Report :=
  let l := sharesOf s item_ idx
  firstReport (shareSums code total_ 0 l :: l.map (fun e => reportIf (decide (e.2 < laid e.1)) code 3 e.1 (laid e.1) e.2))

/-- Check 0x05 (R84, R108): quires in ascending order. -/
def check05 (s : State) : Option Report :=
  let regs := (List.range 256).filterMap (fun n =>
    if rdF s (R.SRCH_REGn_B n) 19 16 = 0 then none
    else some (rdF s (R.SRCH_REGn_A n) 5 0, rdF s (R.SRCH_REGn_A n) 19 6, rdF s (R.SRCH_REGn_B n) 14 0))
  firstSome ((List.range 64).map (fun q =>
    let mine := regs.filter (fun r => r.1 == q)
    let meets := (List.range mine.length).any (fun i => match mine[i]? with
      | some r => (mine.take i).any (fun x => rangesMeet r.2.1 (r.2.1 + r.2.2) x.2.1 (x.2.1 + x.2.2))
      | none => false)
    if !meets then none
    else
      let twice := (List.range 16384).filter (fun u =>
        decide (1 < (mine.filter (fun r => decide (r.2.1 ≤ u) && decide (u < r.2.1 + r.2.2))).length))
      reportIf (!twice.isEmpty) 5 1 q (twice.headD 0) twice.length))

/-- What every mould lays in the queue region, in KiB: the instruction store, the override sets, and the header and lane tables of both
planes (R86, R263, R608). -/
def queueLaid : Nat := 512 + 1024 + 517

/-- Check 0x06 (R82, R86): pool 0 short delay, 1 felt, 2 queues. [Log 31: DEDUCED] -/
def check06 (s : State) : Option Report :=
  let short := ceilDiv (rdF s R.DLY_POOL 17 0 * 128) 1024
  let felt := item s (declKey 1 0)
  let all := short + felt + item s (declKey 2 0)
  let pool := if 26214 < short then 0 else if 26214 < short + felt then 1 else 2
  let ds := s.strp.desc.map Prod.snd
  let gran := fun (l : List (List Word)) => total (l.map (shortGranules s))
  let queue := item s (declKey 2 0)
  firstReport [
    reportIf (decide (26214 < all)) 6 1 pool all 26214,
    reportIf (decide (queue < queueLaid)) 6 1 2 queueLaid queue,
    reportIf (decide (rdF s R.DLY_POOL 17 0 < gran ds)) 6 1 0 (gran ds) (rdF s R.DLY_POOL 17 0),
    shareCheck s 6 0x26 0 (rdF s R.DLY_POOL 17 0) (fun t => gran (ds.filter (fun d => stTenant d == t))),
    shareCheck s 6 0x01 0 felt (fun _ => 0)]

/-- Check 0x07 (R48, R84, R284). [Log 34: DEDUCED] -/
def check07 (s : State) (m : Mould) : Option Report :=
  let lk := fun k => rdF s (R.MIX_TIERk_L k) 19 0
  let u := (rd s R.DKL_U).toNat
  let upTo := fun (k : Nat) => mixCycles s (fun j => if j ≤ k then lk j else 0)
  let planes := (laidPlanes m).map (fun p =>
    let r6 := (planeCheck s p).filter (fun r => r.reason == 6)
    firstSome ((List.range 4).map (fun k => reportIf (r6.any (fun r => r.tier == k)) 7 8 k (planeM s p k) (lk k))))
  firstSome (((List.range 4).map (fun k => reportIf (decide (u < upTo k)) 7 4 k (upTo 3) u)) ++ planes)

/-- Check 0x08 (R86, R295). [Log 35: DEDUCED] -/
def check08 (s : State) : Option Report :=
  let decl := item s (declKey 0x21 0)
  let cap := (rd s R.STRP_MAX).toNat
  let cost := (rd s R.STRP_COST).toNat
  let mine := fun (t : Nat) => nSamples s * (total ((s.strp.desc.filter (fun e => stTenant e.2 == t)).map (fun e => stripUnits e.2)) +
    total ((s.strp.gens.filter (fun e => owner s 0x17 e.1 == some t)).map (fun e => genUnits e.2)))
  firstReport [reportIf (decide (cap < decl)) 8 4 0 decl cap, reportIf (decide (decl < cost)) 8 8 0 cost decl, shareCheck s 8 0x21 0 decl mine]

/-- The laid active zones (R135). [Log 75: DEDUCED] -/
def laidZones (s : State) : List (List Word) := (s.ptr.desc.map Prod.snd).filter zoneEn

/-- Check 0x09 (R48, R125). -/
def check09 (s : State) : Option Report :=
  let decl := item s (declKey 0x20 0)
  let on := laidZones s
  let zt := fun (t : Nat) => (on.filter (fun d => fld (dw d 0) 25 16 == t)).length
  let cap := 2 * ((rd s R.DKL_U).toNat - 2048)
  let credit := fun c => (rd s (R.SRCH_CLASSc_CREDIT c)).toNat
  let cls := fun (c : Nat) (before : List Nat) =>
    let left := cap - total (before.map credit)
    firstReport [reportIf (decide (left < credit c)) 9 4 c (credit c) left, shareCheck s 9 0x25 c (credit c) (fun _ => 0)]
  firstReport [cls 0 [], cls 1 [0],
    reportIf (decide (4096 < decl)) 9 4 2 decl 4096, reportIf (decide (decl < on.length)) 9 4 2 on.length decl, shareCheck s 9 0x20 0 decl zt,
    cls 3 [0, 1], cls 4 [0, 1, 3]]

/-- Check 0x0A (R136, R137). -/
def check0A (s : State) : Option Report :=
  let decl := (rd s R.SRCH_CMP_BUDGET).toNat
  let cmax := (rd s R.SRCH_CMP_MAX).toNat
  let on := laidZones s
  let w := compareLoad s on
  firstReport [reportIf (decide (cmax < decl)) 10 4 0 decl cmax, reportIf (decide (decl < w)) 10 4 0 w decl,
    shareCheck s 10 0x24 0 decl (fun t => total ((on.filter (fun d => fld (dw d 0) 25 16 == t)).map (fun d => profQuires s (zoneProfile d))))]

/-- Check 0x0B (R94, R495). -/
def check0B (s : State) (m : Mould) : Option Report :=
  let decl := fun r => item s (declKey 0x22 r)
  let laid := fun r => (rd s (R.DST_LAIDr r)).toNat
  let adm := (rd s R.DST_ADM).toNat
  let sums := fun (r : Nat) => total ((List.range (r + 1)).map decl)
  let ds := s.strp.desc.map Prod.snd
  let bytes := total (ds.map longBytes)
  let region := bits (item s (declKey 3 0)) 29 16 * 2 ^ 20
  let noDram := if s.pwr.dram = .ready then []
    else (List.range 3).map (fun r => reportIf (decide (0 < max (decl r) (laid r))) 11 4 r (max (decl r) (laid r)) 0) ++
      (m.tables.filter (fun t => t.space == 8)).map (fun t => some { code := 11, sec := 8, idx := t.ord, need := ceilDiv t.words.length 8, have_ := 0 })
  let laids := fun (r : Nat) => total ((List.range (r + 1)).map laid)
  firstSome [firstSome noDram, firstReport ((List.range 3).map (fun r => reportIf (decide (adm < sums r)) 11 4 r (sums r) adm) ++
    (List.range 3).map (fun r => reportIf (decide (adm < laids r)) 11 4 r (laids r) adm) ++
    (List.range 3).map (fun r => reportIf (decide (decl r < laid r)) 11 4 r (laid r) (decl r)) ++
    [reportIf (decide (region < bytes)) 11 4 0 bytes region,
      shareCheck s 11 0x22 0 (decl 0) (fun t => longUnits s ((ds.filter (fun d => isLong d && stTenant d == t)).length)),
      shareCheck s 11 0x22 1 (decl 1) (fun _ => 0), shareCheck s 11 0x22 2 (decl 2) (fun _ => 0)])]

/-- Bytes per deckle that the laid mode of a port carries: Ethernet ports 0 to 15, Edarlink ports from 16 (R86, R413).
[Log 37: DEDUCED] -/
def portCapacity (s : State) (p : Nat) : Nat :=
  if p < 16 then portGbps (portSpeed s p) * 125000000 * nSamples s * 10000 / (fsHz s * 10002)
  else (rd s (R.EDL_PORTn_MINCAP (p - 16))).toNat

/-- Check 0x0C (R86). -/
def check0C (s : State) : Option Report :=
  firstReport ((List.range 20).map (fun p =>
    let decl := item s (declKey 0x23 p)
    firstReport [reportIf (decide (portCapacity s p < decl)) 12 5 p decl (portCapacity s p), shareCheck s 12 0x23 p decl (fun _ => 0)]))

/-- Check 0x0D (R371). [Log 31: DEDUCED, 36: DEDUCED] -/
def check0D (s : State) : Option Report :=
  firstSome (((List.range 128).filter (fun n => rdB s (R.SEQn_CFG n) 16)).map (fun n =>
    let r := programCheck s n
    reportIf (r.1 != 0) 13 8 n (if r.1 = 6 then r.2 else 0xFFFFFFFF) 64))

/-- Check 0x0E (R87, R88). [Log 37: DEDUCED] -/
def check0E (s : State) : Option Report :=
  reportIf (decide (powerLimit s < powerEstimate s)) 14 4 0 (powerEstimate s) (powerLimit s)

/-- Lane rate of a mode in whole Gb/s (R377). [Log 38: DEDUCED] -/
def modeGbps (m : Nat) : Nat := if m = 3 ∨ m = 5 ∨ m = 6 then 53 else if m = 0 then 0 else 25

/-- Check 0x0F (R91, R331, R412): the strap and a GEN1 port are held to the same limits. No item or space of the image lays a trellis bus
(R607, R608, R79), so none is there to be refused. [Log 38: DEDUCED, 123: DEDUCED] -/
def check0F (s : State) : Option Report :=
  let dev := rdF s R.EDL_CFG 11 0
  let ports := (List.range 4).map (fun n =>
    let c := rd s (R.EDL_PORTn_CTL n)
    let g := max (modeGbps (fld c 6 4)) (modeGbps (fld c 10 8))
    if edlRole s n ≠ 0 ∧ (s.pwr.cmpt = true ∨ bit c 11 = true) then
      firstSome [reportIf (decide (28 < g)) 15 5 n g 28, reportIf (!s.pwr.cmpt && decide (510 < dev)) 15 5 n dev 510]
    else none)
  firstReport (ports ++ [reportIf (s.pwr.cmpt && decide (510 < dev)) 15 5 0xFFFF dev 510,
    reportIf (s.pwr.cmpt && rdF s R.SCN_CFG 7 0 != 0) 15 5 0xFFFF (rdF s R.SCN_CFG 7 0) 0])

/-- Checks 0x01 to 0x03 with the length check between them (R81, R84, R100). -/
def headerCheck (s : State) (bs : List Byte) : Option Report :=
  let g := imgNat bs
  firstSome [
    reportIf (g 0 4 != 0x444C4D58) 1 0 0 0x444C4D58 (g 0 4), reportIf (g 6 2 != 2) 1 0 1 2 (g 6 2),
    reportIf (g 8 4 != 0x16) 2 0 0 (g 8 4) 0x16, reportIf (decide (Config.stepping.toNat < g 0x0C 2)) 2 0 1 (g 0x0C 2) Config.stepping.toNat,
    reportIf (s.mld.len != imgLength bs) 4 0 0 0x10 (imgLength bs),
    reportIf (g 0x14 4 != imgDigest bs) 3 0 0 (g 0x14 4) (imgDigest bs)]

/-- The verdict of CHECKING on an image (R81): the report of the first failure, or the state in which it is laid. -/
def checkImage (s : State) (bs : List Byte) : Report ⊕ State :=
  match headerCheck s bs with
  | some r => .inl r
  | none =>
    let m := mouldOf bs
    let t := layTrial s m (imgDigest bs)
    match firstSome [check04 t m, check05 t, check06 t, check07 t m, check08 t, check09 t, check0A t, check0B t m, check0C t, check0D t, check0E t, check0F t] with
    | some r => .inl r
    | none => .inr t

end Sys2Proof.Machine
end

