-- ==== Sys2Proof/Machine/Loader.lean ====
section
/-! DEFINITION. The mould loader and the device states (R69 to R74, R83, R97 to R100): the commands of `MLD_CTL`, the end of LAYING
and of CHECKING, and the lift. -/

namespace Sys2Proof.Machine

/-- `GLB_OUTEN` and `GLB_MUTE` as one set of ports heard (R531): bit p for egress port p. -/
def heardNow (s : State) : Nat := if voteValue s 5 0 = 0 ∧ rdB s R.GLB_MUTE 1 = false then voteValue s 4 0 else 0

/-- `MLD_STATE` as it reads (R69, R72). -/
def mldStateWord (s : State) : Word :=
  let code := match s.dev with
    | .bare => 0 | .laying => 1 | .checking => 2 | .laid => 3 | .lifting => 4 | .refused => 5
  BitVec.ofNat 32 (code + b2n s.pwr.cmpt * 2 ^ 4 + b2n s.mld.pendLoad * 2 ^ 8)

/-- The entry into LAYING (R70, R72, R148): address and length of the image are taken, and the units of the array and the other stores that
the tables of an image fill are cleared. [Log 27: DEDUCED, 40: DEDUCED] -/
def startLaying (s : State) : State :=
  let s1 := (s.setDev .laying).setMld { s.mld with
    image := [], pendLoad := false, liftReq := false
    src := (rd s R.MLD_SRC_LO).toNat + (rd s R.MLD_SRC_HI).toNat * 2 ^ 32, len := (rd s R.MLD_LEN).toNat }
  (takeStores s1 State.reset).setSrch { s1.srch with base := [], beats := [] }

/-- The return from LAYING to BARE with ABORTED (R70, R74). -/
def abortLaying (s : State) : State :=
  if s.dev = .laying then mldCond ((s.setDev .bare).setMld { s.mld with image := [] }) 2 [] else s

/-- A report forgotten at a LOAD (R85). [Log 40: DEDUCED] -/
def clearReport (s : State) : State := wrAll s [(R.MLD_REFUSE, 0), (R.MLD_ITEM, 0), (R.MLD_NEED, 0), (R.MLD_HAVE, 0)]

/-- A write of `MLD_CTL` (R70 to R72): one command bit, in a state that accepts it. [Log 41: DEDUCED] -/
def mldCtl (s : State) (v : Word) : State :=
  match fld v 3 0 with
  | 1 =>
    match s.dev with
    | .bare | .refused => startLaying (clearReport s)
    | .laid => (clearReport s).setMld { s.mld with liftReq := true, pendLoad := true }
    | .lifting => (clearReport s).setMld { s.mld with pendLoad := true }
    | _ => s
  | 2 =>
    match s.dev with
    | .laying => abortLaying s
    | .lifting => s.setMld { s.mld with pendLoad := false }
    | _ => s
  | 4 => if s.dev = .refused then s.setDev .bare else s
  | 8 => if s.dev = .laid then s.setMld { s.mld with liftReq := true } else s
  | _ => s

/-- The units without a mould: what the spec gives them in BARE, the deep store's bytes and the time bases kept (R96, R97, R490).
[Log 39: DEDUCED] -/
def clearUnits (s : State) : State :=
  let z := State.reset
  let s1 := (((s.setSrch { z.srch with base := [], beats := [] }).setUpd s.upd).setFwd z.fwd).setStrm z.strm
  let s2 := ((((s1.setEth { s1.eth with egress := [], toHost := [] }).setAud z.aud).setMix z.mix).setStrp z.strp).setPtr z.ptr
  let s3 := (((s2.setScn z.scn).setSeq z.seq).setTrl z.trl).setPair z.pair
  let s4 := s3.setEdl { z.edl with ports := s3.edl.ports }
  let s5 := s4.setDste { s4.dste with players := [], caps := [], missed := [], pdone := [], noGrant := 0 }
  s5.setDkl { s5.dkl with num := 0, started := false, jump := none, first := 0, next := 0 }

/-- The words of the EVENTS section in force (R98, R558): rings of a target whose binding changes are disarmed. -/
def layEvents (s : State) (ws : List Word) : State :=
  let s1 := wrAll s (((List.range 512).map (fun n => (R.EVC_SRCn_CFG n, dw ws n))) ++
    (List.range 16).map (fun w => (R.EVC_MASKw w, dw ws (512 + w))))
  writeTgtBind (writeTgtBind s1 false (dw ws 528)) true (dw ws 529)

/-- The entry into LAID of a checked image (R83, R98): `t` is the state in which it is laid. -/
def enterLaid (t : State) (events : List Word) : State :=
  let s0 := layEvents t events
  let s1 := s0.setMld { s0.mld with image := [], pendLoad := false, liftReq := false }
  let s2 := wrAll s1 ([
    (R.SCN_PLANE, 0), (R.MIX_CHK_CTL, BitVec.ofNat 32 (2 ^ 29)), (R.EDL_PEPOCH, 0), (R.WMK_SCRUB_POS, setFld (rd s1 R.WMK_SCRUB_POS) 19 0 (scrubFirst s1)),
    (R.EDL_TOPO, BitVec.ofNat 32 (rdF s1 R.EDL_TOPO 2 0 + (if rdB s1 R.EDL_CFG 16 then 0 else 0xFFF) * 2 ^ 16))] ++
    (List.range 4).map (fun k => (R.MIX_TIERk_M k, BitVec.ofNat 32 (planeM s1 0 k))) ++
    (List.range 4).map (fun k => (R.MIX_CHK_TIERk k, BitVec.ofNat 32 (planeM s1 1 k))))
  let s3 := s2.setStrp { s2.strp with
    strips := (s2.strp.desc.filter (fun e => stEn e.2)).map (fun e => (e.1, { strip0 with tap := stDelay e.2 })) }
  let s4 := (s3.setScn { s3.scn with mixEpoch := sceneEpoch s3 }).setMix { s3.mix with livePrev := s3.mix.live }
  let s5 := tbEnterLaid (inputsEnterLaid (pairEnter (seqAuto s4)))
  let disc := rdF s5 R.TB_DISC 2 0
  let s6a := s5.setDkl { s5.dkl with started := false, num := 0, evt := 0, jump := none, first := 0, next := 0 }
  let s6 := if disc = 0 ∨ disc = 2 then placeBoundaries s6a 0 else s6a
  let s7 := (List.range 4).foldl portStart s6
  let s8 := s7.setHp { s7.hp with heard := heardNow s7, heardPrev := heardNow s7 }
  mldCond s8 16 []

/-- The end of CHECKING (R81, R83 to R85). -/
def checkingEnd (s : State) : State :=
  match checkImage s s.mld.image with
  | .inl r =>
    let s1 := wrAll (s.setDev .refused) [(R.MLD_REFUSE, BitVec.ofNat 32 r.code), (R.MLD_ITEM, BitVec.ofNat 32 (r.sec % 65536 * 65536 + r.idx % 65536)),
      (R.MLD_NEED, BitVec.ofNat 32 r.need), (R.MLD_HAVE, BitVec.ofNat 32 r.have_)]
    mldCond (s1.setMld { s1.mld with image := [] }) 1 []
  | .inr t => enterLaid t (mouldOf s.mld.image).events

/-- The begin of a lift at the boundary that opens deckle e (R99, R177, R282, R441). [Log 39: DEDUCED] -/
def liftBegin (s : State) (e : Nat) : State :=
  let s1 := (s.setDev .lifting).setMld { s.mld with liftReq := false, liftAt := e % 2 ^ 48 }
  let s2 := dropCommit (seqLift (trellisLift (pairLift (updDiscard s1)))) 2
  let s3 := (s2.setMix { s2.mix with pend := [], asm := [] }).setFwd { s2.fwd with queue := [] }
  let s4 := wr (s3.setHp { s3.hp with voteDiff := [], tpartHeld := [] }) R.GLB_MUTE (setFld (rd s3 R.GLB_MUTE) 1 1 0)
  (List.range 4).foldl tunnelDown (heal s4)

/-- The end of a lift at the boundary that opens deckle e + 2 (R70, R99). [Log 39: DEDUCED, 41: DEDUCED] -/
def liftEnd (s : State) : State :=
  let pend := s.mld.pendLoad
  let s1 := (List.range 16).foldl linkDown (portsOff (diagLiftEnd s))
  let s2 := clearMould (clearUnits s1)
  let s3 := wrAll s2 [(R.SCN_PLANE, 0), (R.DKL_NUM_LO, 0), (R.DKL_NUM_HI, 0), (R.PAIR_STATE, 0), (R.TB_DISC, 0), (R.EDL_TIME, 0)]
  let s4 := (s3.setDev .bare).setMld { s3.mld with items := [], liftReq := false, pendLoad := false }
  let s5 := s4.setHp { s4.hp with tpart := [], tpartPend := [], tpartHeld := [], voteDiff := [], heard := 0, heardPrev := 0 }
  let s6 := s5.setInp { s5.inp with drvEn := 0 }
  if pend then startLaying s6 else s6

/-- A lift that began at the boundary that opened deckle e ends at the boundary that opens deckle e + 2 (R99). -/
def liftEnds (s : State) (e : Nat) : Bool := s.dev == .lifting && decide ((s.mld.liftAt + 2) % 2 ^ 48 = e % 2 ^ 48)

/-- Step 2 of the boundary that opens deckle e for the lift (R61, R99): it begins, or ends. -/
def liftStep (s : State) (e : Nat) : State :=
  if s.dev = .laid ∧ s.mld.liftReq = true then liftBegin s e
  else if liftEnds s e then liftEnd s
  else s

/-- LOAD (R70, R72): function fn writes v to `MLD_CTL`. [Log 41: DEDUCED] -/
def execLoad (fn : BitVec 6) (v : Word) (s : State) : Host.Outcome State Fault Refusal :=
  .next (if accessOk s fn.toNat R.MLD_CTL then mldCtl s v else s)

/-- ABORT (R70, R72): function fn writes v to `MLD_CTL`. -/
def execAbort (fn : BitVec 6) (v : Word) (s : State) : Host.Outcome State Fault Refusal :=
  .next (if accessOk s fn.toNat R.MLD_CTL then mldCtl s v else s)

/-- CLEAR (R70): function fn writes v to `MLD_CTL`. -/
def execClear (fn : BitVec 6) (v : Word) (s : State) : Host.Outcome State Fault Refusal :=
  .next (if accessOk s fn.toNat R.MLD_CTL then mldCtl s v else s)

/-- LIFT (R70, R99): function fn writes v to `MLD_CTL`. -/
def execLift (fn : BitVec 6) (v : Word) (s : State) : Host.Outcome State Fault Refusal :=
  .next (if accessOk s fn.toNat R.MLD_CTL then mldCtl s v else s)

/-- LOADER_READ_ERROR (R70): the deep-store words of the bytes that had arrived stay laid (R79). -/
def execLoaderReadError (s : State) : Host.Outcome State Fault Refusal := .next (abortLaying s)

/-- Bytes that the loader reads (R100). -/
def loadBytes (s : State) : Nat := min s.mld.len (2 ^ 29)

/-- The next bytes of the image arrive (R79). [Log 27: DEDUCED] -/
def imageArrives (s : State) (bytes : List Byte) : State :=
  let img := (s.mld.image ++ bytes).take (loadBytes s)
  layArrived ((layStore s img s.mld.image.length).setMld { s.mld with image := img }) img

/-- IMAGE_COMPLETE (R79, R100): with the last of the bytes that the loader reads LAYING ends; bytes that come before it wait with those
that have arrived. [Log 27: DEDUCED, 118: DESIGN CHOICE] -/
def execImageComplete (bytes : List Byte) (s : State) : Host.Outcome State Fault Refusal :=
  .next (if s.dev = .laying then
      let t := imageArrives s bytes
      if loadBytes s ≤ s.mld.image.length + bytes.length then t.setDev .checking else t
    else s)

/-- CHECKING_END (R81, R83). -/
def execCheckingEnd (s : State) : Host.Outcome State Fault Refusal :=
  .next (if s.dev = .checking then checkingEnd s else s)

end Sys2Proof.Machine
end

