-- ==== Sys2Proof/Machine/Thermal.lean ====
section
/-! DEFINITION. Temperature sensors, the power monitor, the management port and the test access port (chapter 23). -/

namespace Sys2Proof.Machine

/-- The signed reading of sensor n in a sample; a missing reading counts as a failed sensor. -/
def reading (temps : List (BitVec 16)) (n : Nat) : BitVec 16 := (temps[n]?).getD 0x8000

/-- The hottest working sensor of a sample: its number and reading; none where every sensor has failed (R599).
[Log 24: DESIGN CHOICE] -/
def hottest (temps : List (BitVec 16)) : Option (Nat × Int) :=
  (List.range 8).foldl (fun best n =>
    let v := reading temps n
    if v = 0x8000 then best else
    match best with
    | none => some (n, v.toInt)
    | some (_, b) => if b < v.toInt then some (n, v.toInt) else best) none

/-- The working sensors that read 120 °C (1,920 sixteenths) or more, as bits (R601). -/
def tripMask (temps : List (BitVec 16)) : Nat :=
  (List.range 8).foldl (fun a n =>
    let v := reading temps n
    if v ≠ 0x8000 ∧ 1920 ≤ v.toInt then a + 2 ^ n else a) 0

/-- A thermal condition of `MGT_STAT`: source 2 (R566, R600). -/
def thermalCond (s : State) (b : Nat) (c : Bool) : State := if c then setCond s R.MGT_STAT 2 (2 ^ b) else s

/-- The effect of one sample of the sensors (R599 to R602). [Log 23: DESIGN CHOICE, 24: DESIGN CHOICE] -/
def sampleSensors (s : State) (temps : List (BitVec 16)) : State :=
  let warn : Int := sext 16 (rdF s R.MGT_WARN 15 0)
  let hot := hottest temps
  let above := match hot with | some (_, t) => decide (warn ≤ t) | none => false
  let cool := match hot with | some (_, t) => decide (t ≤ warn - 32) | none => true
  let v7 := reading temps 7
  let stk := decide (v7 ≠ 0x8000 ∧ 1680 ≤ v7.toInt)
  let failed := (List.range 8).any (fun n => reading temps n == 0x8000)
  let mask := tripMask temps
  let s1 := match hot with
    | some (n, _) => wr s R.MGT_TMAX (BitVec.ofNat 32 (n * 65536 + (reading temps n).toNat))
    | none => wr s R.MGT_TMAX 0
  let s2 := if s.mgt.count = 49 then
      (List.range 8).foldl (fun u n => wr u (R.MGT_TEMPn n) (BitVec.ofNat 32 (reading temps n).toNat)) s1
    else s1
  let s3 := s2.setMgt { s2.mgt with
    count := if s.mgt.count = 49 then 0 else s.mgt.count + 1
    hot := mask, above := above, cool := cool, stk := stk
    tripDue := s.mgt.tripDue || decide (mask &&& s.mgt.hot ≠ 0) }
  let s4 := s3.setHp { s3.hp with warnSet := false }
  thermalCond (thermalCond (thermalCond (thermalCond s4 0 (above && (!s.mgt.above || s.hp.warnSet))) 1 (cool && !s.mgt.cool))
    2 (stk && !s.mgt.stk)) 4 failed

/-- A new word of `MGT_WARN`: a hottest reading at or above it sets WARN anew at the next sample (R602). -/
def writeWarn (s : State) (w : Word) : State := (wr s R.MGT_WARN w).setHp { s.hp with warnSet := true }

/-- SENSOR_SAMPLE (R599 to R601): the sensors run while the device is powered, in the reset hold too. -/
def execSensorSample (temps : List (BitVec 16)) (s : State) : Host.Outcome State Fault Refusal :=
  .next (if s.pwr.pwrOk then sampleSensors s temps else s)

/-- POWER_MONITOR_SAMPLE (R566): PMAX is set above 71,250 mW and fires source 3. -/
def execPowerMonitorSample (mw : BitVec 20) (s : State) : Host.Outcome State Fault Refusal :=
  .next (if s.pwr.pwrOk then
      let s1 := wr s R.MGT_POWER (BitVec.ofNat 32 mw.toNat)
      if 71250 < mw.toNat then setCond s1 R.MGT_STAT 3 8 else s1
    else s)

/-- The word of the management port's command byte k: words 11, 14 and 15 read zero (R604), word 13 the strap (R16). -/
def mgtWord (s : State) (k : Nat) : Word :=
  if k = 11 ∨ 14 ≤ k then 0 else if k = 13 then BitVec.ofNat 32 s.pwr.mgtAddr else rd s (0xF2000 + 4 * k)

/-- MGT_READ (R603, R604): n words from word k on, wrapping from 15 to 0, with no side effect in the device; the port
answers while the PLL is locked. -/
def execMgtRead (k : BitVec 4) (n : BitVec 5) (s : State) : Host.Outcome State Fault Refusal :=
  .next (if s.pwr.pwrOk && s.pwr.rstn && s.pwr.pll then
      emit s (.mgt ((List.range n.toNat).map (fun i => mgtWord s ((k.toNat + i) % 16))))
    else s)

/-- The IDCODE of R594. [Log 10: DESIGN CHOICE] -/
def idcode : Word :=
  BitVec.ofNat 32 (Config.stepping.toNat % 16 * 2 ^ 28 + 0x4A16 * 2 ^ 12 + Config.manufacturer.toNat * 2 + 1)

/-- TAP_INSTRUCTION (R594): the port works while `PWR_OK` is high; a low `TRST_N` holds it in its reset state; while
`RST_N` is high every instruction but BYPASS, IDCODE and SAMPLE acts as BYPASS. [Log 9: PRESUMED, 120: DESIGN CHOICE] -/
def execTapInstruction (ins : TapIns) (trst : Bool) (s : State) : Host.Outcome State Fault Refusal :=
  if !s.pwr.pwrOk then .next s
  else if !trst then .next (s.setMgt { s.mgt with tap := .idcode })
  else match ins with
    | .bypass => .next (s.setMgt { s.mgt with tap := .bypass })
    | .idcode => .next (emit (s.setMgt { s.mgt with tap := .idcode }) (.tap idcode))
    | .sample => .next (s.setMgt { s.mgt with tap := .sample })
    | .other => if s.pwr.rstn then .next (s.setMgt { s.mgt with tap := .bypass }) else .refused .boundaryScan

end Sys2Proof.Machine
end

