-- ==== Sys2Proof/Machine/HostPort.lean ====
section
/-! DEFINITION. The host port of chapter 19: BAR0 writes in their four forms, the wide mailbox, the indirect port, the voted
fields, and the writes that a pair mirrors. -/

namespace Sys2Proof.Machine

/-- A condition of `HOST_STAT` (R539). -/
def hostCond (s : State) (b : Nat) : State := setCond s R.HOST_STAT 16 (2 ^ b)

/-! ## Voted fields (R530) -/

/-- The member enters FENCED on a disagreement of three, at the boundary that opens deckle f (R457, R530).
[Log 13: DESIGN CHOICE] -/
def voteFence (s : State) (f : Nat) : State :=
  if !pairEn s then s
  else match s.pair.out with
    | .normal | .taken _ => fence s f
    | _ => putPairState s (setFld (rd s R.PAIR_STATE) 2 0 2)

/-- The action on a disagreement of three in a field, entry i of `GLB_TPART` for FIELD 1. [Log 13: DESIGN CHOICE] -/
def tripleAction (s : State) (field i f : Nat) : State :=
  match field with
  | 1 => wrF (s.setHp { s.hp with tpartHeld := i :: s.hp.tpartHeld }) R.GLB_MUTE 1 1 1
  | 6 | 7 => wrF s R.GLB_MUTE 1 1 1
  | 2 | 3 => voteFence s f
  | _ => s

/-- A finding of a vote: `GLB_VOTE_STAT` and `GLB_VOTE_LAST`, which the record carries (R530, R539). -/
def voteReport (s : State) (b field copy index : Nat) : State :=
  let last := BitVec.ofNat 32 (index % 1024 + copy * 2 ^ 26 + field * 2 ^ 28)
  setCondWith s R.GLB_VOTE_STAT 17 (2 ^ b) [(R.GLB_VOTE_LAST, last)] 0 (.word last)

/-- The vote of a field at the boundary that opens deckle f. -/
def voteField (s : State) (f field i : Nat) : State :=
  let v := voteStored s field i
  let cp := fun k => v ^^^ (SMap.getD s.hp.voteDiff (voteKey field i k) 0 % 2 ^ voteBits field)
  let idx := if field = 1 then i else if field = 4 then (lowestBit 20 0 ((cp 0 ^^^ cp 1) ||| (cp 0 ^^^ cp 2))).getD 0 else 0
  match voteNow s field i with
  | .agree w => voteClean (voteStore s field i w) field i
  | .fixed k w => voteReport (voteClean (voteStore s field i w) field i) 0 field k idx
  | .triple a b c =>
    let s1 := voteClean (voteStore s field i (tripleNow s field a b c)) field i
    voteReport (tripleAction s1 field i f) 1 field 3 idx

/-- Every field with a copy that an upset reached is voted at the boundary that opens deckle f, in the order of the table.
[Log 12: DESIGN CHOICE] -/
def voteAll (s : State) (f : Nat) : State :=
  ((s.hp.voteDiff.map (fun e => e.1 / 4)).eraseDups).foldl (fun t k => voteField t f (k / 1024) (k % 1024)) s

/-- Upsets of copies of voted fields: key of the copy and the bits that flip. [Log 11: DESIGN CHOICE, 12: DESIGN CHOICE] -/
def voteUpset (s : State) (l : List (Nat × Nat)) : State :=
  s.setHp { s.hp with voteDiff := l.foldl (fun m e => SMap.putD 0 m e.1 (SMap.getD m e.1 0 ^^^ e.2)) s.hp.voteDiff }

/-! ## SerDes lanes (R526) -/

/-- The port of a lane carries nothing. [Log 111: DESIGN CHOICE] -/
def laneIdle (s : State) (l : Nat) : Bool :=
  if l < 16 then
    let p := if rdB s (R.ETH_GRPg_CFG (l / 4)) 0 then 4 * (l / 4) else l
    !running s || !rdB s (R.ETH_PORTp_CFG p) 10
  else !running s || edlRole s ((l - 16) / 4) == 0

/-- A word of the SerDes space as it is read: what a lane measures is a free value, and an error once seen stands until word 5 is written
(R526). [Log 111: DESIGN CHOICE] -/
def serdesRead (s : State) (a : Nat) : Word × State :=
  let free := fun (mask : Nat) => let r := freeNat s 32; (BitVec.ofNat 32 (r.1 &&& mask), r.2)
  match a % 0x100 with
  | 0 | 4 => (SMap.getD s.hp.serdes a 0, s)
  | 1 => free 0xFFFF
  | 2 => free 0x3FF
  | 3 => free 0x7F
  | 5 =>
    let r := freeNat s 2
    let w := r.1 ||| (SMap.getD s.hp.serdes a 0).toNat
    (BitVec.ofNat 32 w, r.2.setHp { r.2.hp with serdes := SMap.putD 0 r.2.hp.serdes a (BitVec.ofNat 32 (w - w % 2)) })
  | _ => (0, s)

/-- A write of a word of the SerDes space. [Log 111: DESIGN CHOICE] -/
def serdesWrite (s : State) (a : Nat) (v : Word) : State :=
  let put := fun (m : Word) => s.setHp { s.hp with serdes := SMap.putD 0 s.hp.serdes a (v &&& m) }
  match a % 0x100 with
  | 0 => put 0x3F3F3F
  | 4 => if bit v 0 && !laneIdle s (a / 0x100) then hostCond s 2 else put 7
  | 5 => s.setHp { s.hp with serdes := SMap.del s.hp.serdes a }
  | _ => s

/-! ## The functions on PCI Express (R511, R514, R515) -/

/-- The identity of a function in its configuration space: vendor, device and class code (R511). -/
def pciIdentity (fn : Nat) : BitVec 16 × Nat × Nat := (Config.vendor, if fn = 0 then 0x4A16 else 0x4A17, 0x048000)

/-- TotalVFs of the SR-IOV capability of PF0 (R511). -/
def totalVfs : Nat := 63

/-! ## The indirect port (R523 to R525) -/

/-- An indirect port with no fetch. -/
def ind0 : IndPort := { data := 0, pend := none, queued := false, zero := false, refused := false, waiting := [] }

/-- The indirect port of a function. -/
def indOf (s : State) (fn : Nat) : IndPort := SMap.getD s.hp.ind fn ind0

/-- The state with a function's indirect port replaced. -/
def setInd (s : State) (fn : Nat) (p : IndPort) : State := s.setHp { s.hp with ind := SMap.putD ind0 s.hp.ind fn p }

/-- Words of an indirect space; zero for a reserved code. [Log 105: DEDUCED] -/
def indSize (sp : Nat) : Nat :=
  match sp with
  | 1 | 2 => 8 * 2 ^ 20
  | 3 => 2 * 2 ^ 20
  | 4 | 8 => 2 ^ 32
  | 5 => 0x140800
  | 6 => 0x44000
  | 7 => 131072
  | 9 | 10 => 0x2000
  | _ => 0

/-- A word of the strip-coefficient space belongs to a tenant bound to the function (R309). [Log 71: DEDUCED] -/
def stripReach (s : State) (fn a : Nat) : Bool :=
  if a < 0x40000 then reachesTenant s fn (stTenant (stripNow s 0 (a / 8)))
  else if a < 0x80000 then reachesSlot s fn (a - 0x40000)
  else if a < 0x100000 then reachesObj s fn 0x15 ((a - 0x80000) / 8)
  else if a < 0x120000 then reachesObj s fn 0x16 ((a - 0x100000) / 8)
  else if a < 0x130000 then reachesTenant s fn (stTenant (stripDesc s ((a - 0x120000) / 2)))
  else if a < 0x130100 then reachesObj s fn 0x17 ((a - 0x130000) / 4)
  else decide (0x140000 ≤ a) && reachesTenant s fn ((a - 0x140000) / 2)

/-- Function fn reaches a word of an indirect space (R525): PF0 every word of a space, a virtual function those of the table's
last column. -/
def indReach (s : State) (fn sp a : Nat) : Bool :=
  decide (a < indSize sp) &&
    (fn == 0 || (running s && match sp with
      | 1 | 2 => unitReach s fn (a / 8)
      | 3 => unitReach s fn (a / 2)
      | 5 => stripReach s fn a
      | 6 => if a < 0x4000 then reachesObj s fn 0x12 (a / 4) else reachesObj s fn 0x13 ((a - 0x4000) / 64)
      | 7 => storeReach s fn a
      | _ => false))

/-- A word of the three quire-side spaces as it stands in cycle c (R180, R525). [Log 105: DEDUCED] -/
def quireRead (s : State) (sp a c : Nat) : Word :=
  if sp = 3 then BitVec.ofNat 32 ((unitPort s (a / 2) c).ad / 2 ^ (32 * (a % 2)))
  else
    let u := unitPort s (a / 8) c
    let w := a % 8
    let v := if sp = 1 then u.value else u.sval
    let m := if sp = 1 then u.mask else u.smask
    if w < 3 then BitVec.ofNat 32 (v / 2 ^ (32 * w))
    else if w < 6 then BitVec.ofNat 32 (m / 2 ^ (32 * (w - 3)))
    else if sp = 1 then 0
    else if w = 6 then BitVec.ofNat 32 (u.spar % 256)
    else BitVec.ofNat 32 (u.valid % 8)

/-- A word of the other spaces as it stands; corr and unc are the findings in its unit of the deep store. [Log 105: DEDUCED] -/
def indRead (s : State) (fn sp a corr unc : Nat) : Word × State :=
  match sp with
  | 4 => (if running s then planeRead s a else 0, s)
  | 5 => if running s then stripRead s fn a else (0, s)
  | 6 => (if running s then ptrSpaceRead s a else 0, s)
  | 7 => (if running s then storeWord s a else 0, s)
  | 8 => apertureRead s a corr unc
  | 9 => (if running s then mboxRead s a else 0, s)
  | 10 => serdesRead s a
  | _ => (0, s)

/-- A submission of the indirect port (R180). [Log 105: DEDUCED] -/
def indSubmit (s : State) (item : UpdItem) (op addr : Nat) : State :=
  if s.dev ≠ .laid then updReject s 2 op 7 addr
  else match fifoPush s item with
    | some t => t
    | none => updReject s 2 op 5 addr

/-- A word staged by a function for a quire-side space, by its position in a unit (R180). -/
def stageWord (s : State) (fn sp w : Nat) (v : Word) : State :=
  s.setHp { s.hp with staged := SMap.put s.hp.staged (stageKey fn sp w) v }

/-- The words staged at positions below n, as one number. [Log 105: DEDUCED] -/
def stagedBelow (s : State) (fn sp from_ n : Nat) : Nat :=
  (List.range n).foldl (fun a i => a + (SMap.getD s.hp.staged (stageKey fn sp (from_ + i)) 0).toNat * 2 ^ (32 * i)) 0

/-- A write of a word of an indirect space by a function that reaches it (R180, R286, R310, R334, R372, R401, R500, R526). -/
def indWord (s : State) (fn sp a : Nat) (v : Word) : State :=
  match sp with
  | 1 =>
    if a % 8 < 5 then stageWord s fn 1 (a % 8) v
    else if a % 8 = 5 then
      let mask := stagedBelow s fn 1 3 2 + v.toNat * 2 ^ 64
      indSubmit s (.cell fn (a / 8) (stagedBelow s fn 1 0 3) mask) 1 (a / 8)
    else s
  | 3 =>
    if a % 2 = 0 then stageWord s fn 3 0 v
    else indSubmit s (.adw fn (a / 2) (stagedBelow s fn 3 0 1 + v.toNat * 2 ^ 32)) 2 (a / 2)
  | 4 => if running s then planeWrite s a v else s
  | 5 => if s.dev = .laid then stripWrite s fn a v else s
  | 6 => if s.dev = .laid then ptrSpaceWrite s fn a v else s
  | 7 => if running s then storeWrite s fn a v else s
  | 8 => apertureWrite s (a / 8) (4 * (a % 8)) (leBytes 4 v.toNat)
  | 9 => if running s then mboxWrite s a v else s
  | 10 => serdesWrite s a v
  | _ => s

/-- A refused access (R525): `IND_CTL.REFUSED` and `HOST_STAT.INDREJ`. -/
def indRefuse (s : State) (fn : Nat) : State := hostCond (setInd s fn { indOf s fn with refused := true }) 2

/-- STRIP_SUBMIT (R310): function fn writes a word of the strip-coefficient space; the last word of an entry submits it. A word out of the
function's reach is refused (R309, R525). -/
def execStripSubmit (fn : BitVec 6) (addr : BitVec 21) (v : Word) (s : State) : Host.Outcome State Fault Refusal :=
  .next (if !barUp s then s
    else if indReach s fn.toNat 5 addr.toNat then
      indWriteAs s fn.toNat 5 addr.toNat v (fun t => indWord t fn.toNat 5 addr.toNat v)
    else indRefuse s fn.toNat)

/-- ZONE_DESCRIPTOR_SUBMIT (R335): function fn writes word w, 0 or 1, of a zone descriptor; word 1 submits it. A zone out of the function's
reach is refused (R525). [Log 105: DEDUCED] -/
def execZoneDescriptorSubmit (fn : BitVec 6) (zone : BitVec 12) (w : BitVec 1) (v : Word) (s : State) :
    Host.Outcome State Fault Refusal :=
  let a := 4 * zone.toNat + w.toNat
  .next (if !barUp s then s
    else if indReach s fn.toNat 6 a then indWriteAs s fn.toNat 6 a v (fun t => indWord t fn.toNat 6 a v)
    else indRefuse s fn.toNat)

/-- OVERRIDE_SET_SUBMIT (R346): function fn writes gain k of an override set; gain 63 submits it. A set out of the function's reach is refused
(R525). [Log 105: DEDUCED] -/
def execOverrideSetSubmit (fn : BitVec 6) (set : BitVec 12) (k : BitVec 6) (v : Word) (s : State) :
    Host.Outcome State Fault Refusal :=
  let a := 0x4000 + 64 * set.toNat + k.toNat
  .next (if !barUp s then s
    else if indReach s fn.toNat 6 a then indWriteAs s fn.toNat 6 a v (fun t => indWord t fn.toNat 6 a v)
    else indRefuse s fn.toNat)

/-- METER_RECORD_READ (R310): function fn reads word w of the meter record of a strip; a strip out of its reach is refused (R309,
R525). -/
def execMeterRecordRead (fn : BitVec 6) (strip : BitVec 15) (w : BitVec 1) (s : State) : Host.Outcome State Fault Refusal :=
  .next (let a := 0x120000 + 2 * strip.toNat + w.toNat
    if !barUp s then s.setAns 0
    else if indReach s fn.toNat 5 a then
      let r := indRead s fn.toNat 5 a 0 0
      r.2.setAns r.1
    else (indRefuse s fn.toNat).setAns 0)

/-- A fetch of the quire side enters the command FIFO where it has room, while the device is LAID (R180). -/
def indQueue (s : State) (fn : Nat) : State :=
  match (indOf s fn).pend with
  | some (sp, a) =>
    if 1 ≤ sp ∧ sp ≤ 3 ∧ (indOf s fn).queued = false ∧ s.dev = .laid then
      match fifoPush s (.fetch fn sp a) with
      | some t => setInd t fn { indOf t fn with queued := true }
      | none => s
    else s
  | none => s

/-- A fetch of the word at `IND_ADDR` starts (R523): a word outside the function's reach is fetched as zero at once. -/
def indFetchGo (s : State) (fn : Nat) : State :=
  let sp := rdF s (regKey fn R.IND_SEL) 7 0
  let a := (rd s (regKey fn R.IND_ADDR)).toNat
  let p := indOf s fn
  if indReach s fn sp a then
    indQueue (setInd s fn { p with pend := some (sp, a), queued := false, zero := false, refused := false }) fn
  else indRefuse (setInd s fn { p with data := 0, pend := none, queued := false, zero := true }) fn

/-- `IND_ADDR` advances by the increment and the next fetch starts (R523). -/
def indAdvance (s : State) (fn : Nat) : State :=
  let inc := match rdF s (regKey fn R.IND_CTL) 1 0 with
    | 0 => 0 | 1 => 1 | 2 => 4 | _ => 16
  indFetchGo (wrF s (regKey fn R.IND_ADDR) 31 0 ((rd s (regKey fn R.IND_ADDR)).toNat + inc)) fn

/-- A write of `IND_DATA` that writes the word v (R523). -/
def indDataWrite (s : State) (fn : Nat) (v : Word) : State :=
  let sp := rdF s (regKey fn R.IND_SEL) 7 0
  let a := (rd s (regKey fn R.IND_ADDR)).toNat
  if indReach s fn sp a then indAdvance (indWriteAs s fn sp a v (fun t => indWord t fn sp a v)) fn
  else indRefuse s fn

/-- A write of a register of the indirect port takes effect (R523). -/
def indRegDo (s : State) (fn off : Nat) (q : Quarter) (v : Word) : State :=
  if off = R.IND_SEL ∨ off = R.IND_ADDR then indFetchGo (wr s (regKey fn off) (newWord s fn off q v)) fn
  else if off = R.IND_DATA then indDataWrite s fn (applyForm q 0xFFFFFFFF (indOf s fn).data v)
  else wr s (regKey fn off) (newWord s fn off q v)

/-- The state with the accesses of a function that wait for its fetch. -/
def setWaiting (s : State) (fn : Nat) (l : List IndAcc) : State := setInd s fn { indOf s fn with waiting := l }

/-- The accesses of one function take effect in the order of their arrival (R524): a read of `IND_DATA` waits for the end of the fetch, and
those behind it wait for it. [Log 106: DEDUCED] -/
def indDrain (fn : Nat) : List IndAcc → State → State
  | [], s => setWaiting s fn []
  | .read :: l, s =>
    let p := indOf s fn
    if p.pend.isSome then setWaiting s fn (.read :: l)
    else indDrain fn l (if p.zero then s.setAns p.data else indAdvance (s.setAns p.data) fn)
  | .write off q v :: l, s => indDrain fn l (indRegDo s fn off q v)

/-- An access of the indirect port (R523, R524). [Log 106: DEDUCED] -/
def indAccess (s : State) (fn : Nat) (a : IndAcc) : State :=
  let w := (indOf s fn).waiting
  if w = [] then indDrain fn [a] s else setWaiting s fn (w ++ [a])

/-- A fetch ends with a word; what waited for it takes effect (R523, R524). [Log 106: DEDUCED] -/
def indFetched (s : State) (fn : Nat) (w : Word) : State :=
  let p := indOf s fn
  indDrain fn p.waiting (setInd s fn { p with data := w, pend := none, queued := false, waiting := [] })

/-! ## Reads at their moment, and the wide mailbox -/

/-- `IND_CTL` as it reads. -/
def indCtlWord (s : State) (fn : Nat) : Word :=
  let p := indOf s fn
  BitVec.ofNat 32 (rdF s (regKey fn R.IND_CTL) 1 0 + b2n p.refused * 2 ^ 30 + b2n p.pend.isSome * 2 ^ 31)

/-- The learning and aging engines at the arbiter: their sidebands and requests (R167). -/
def arbWord (s : State) : Word :=
  updArb s (learnHeld s) (!agingOn s) (learnWants s s.dkl.cyc) (agingWants s s.dkl.cyc)

/-- The registers of the host block and the identity registers whose value is that of the moment of the read. `DKL_TICK.EVTICK` reads the
event ticks since the deckle tick, and in LAID before the first one those since the entry into LAID (R53).
[Log 139: DESIGN CHOICE] -/
def hostLive (s : State) (fn off : Nat) : Option Word :=
  if off = R.GLB_TPART then
    some (if running s && decide (rdF s R.GLB_TPART_SEL 9 0 < item s (declKey 0x10 0)) then
      BitVec.ofNat 32 (voteValue s 1 (rdF s R.GLB_TPART_SEL 9 0)) else 0)
  else if off = R.GLB_OUTEN then some (if running s then BitVec.ofNat 32 (voteValue s 4 0) else 0)
  else if off = R.GLB_MUTE then some (setFld (rd s off) 0 0 (voteValue s 5 0))
  else if off = R.GLB_ID then some (BitVec.ofNat 32 (Config.stepping.toNat + Config.vendor.toNat * 65536))
  else if off = R.MLD_STATE then some (mldStateWord s)
  else if off = R.DKL_TICK then some (BitVec.ofNat 32 (if running s then s.dkl.evt % 65536 else 0))
  else if off = R.UPD_FREE then some (BitVec.ofNat 32 (updFree s))
  else if off = R.UPD_ARB then some (arbWord s)
  else if off = R.IND_DATA then some (indOf s fn).data
  else if off = R.IND_CTL then some (indCtlWord s fn)
  else if off = R.PTR_ZSTAT0 ∨ off = R.PTR_ZSTAT1 then some (zoneStatRead s fn off).1
  else if off = R.MGT_ADDR then some (BitVec.ofNat 32 s.pwr.mgtAddr)
  else none

/-- The word that a read of the register at a BAR0 offset returns in cycle c of the event tick, without the read's side
effects (R522, R565). -/
def readWord (s : State) (fn off c : Nat) : Word :=
  ((hostLive s fn off).orElse fun _ => (evcLive s off).orElse fun _ => (tbLive s off c).orElse fun _ =>
    (fwdLive s off).orElse fun _ => (strmLive s off).orElse fun _ => (mixLive s fn off).orElse fun _ =>
    (ptrLive s off).orElse fun _ => (inputsLive s off).orElse fun _ => (dstLive s off).orElse fun _ =>
    (seqLive s off).orElse fun _ => edlLive s off).getD (plainRead s fn off)

/-- A read of the register at a BAR0 offset votes the field it holds (R530). [Log 12: DESIGN CHOICE] -/
def voteRead (s : State) (off : Nat) : State :=
  if off = R.GLB_TPART then
    if running s && decide (rdF s R.GLB_TPART_SEL 9 0 < item s (declKey 0x10 0)) then voteField s s.dkl.num 1 (rdF s R.GLB_TPART_SEL 9 0)
    else s
  else match [(R.PAIR_STATE, 2), (R.PAIR_EPOCH, 3), (R.GLB_OUTEN, 4), (R.GLB_MUTE, 5), (R.SCN_EPOCH, 6), (R.MLD_DIGEST, 7)].find?
      (fun e => e.1 == off) with
    | some e => voteField s s.dkl.num e.2 0
    | none => s

/-- A read of a BAR0 word by a function in a quarter (R514, R530), in cycle c: an alias reads zero without an effect. -/
def barRead (s : State) (fn a : Nat) (q : Quarter) (c : Nat) : Word × State :=
  match q, barOffset fn a with
  | .base, some off => if reach s fn off then (readWord (voteRead s off) fn off c, voteRead s off) else (0, s)
  | _, _ => (0, s)

/-- A read of a BAR2 word of PF0 at a byte address outside the deep-store window (R515): the crosspoint planes, and reserved ranges, which read
zero. -/
def bar2Read (s : State) (a : Nat) : Word := if a < 0x0C000000 ∧ running s = true then planeRead s (a / 4) else 0

/-- A write of `GLB_WIDE_REQ` that leaves the word w in cycle c (R522). [Log 12: DESIGN CHOICE] -/
def wideReq (s : State) (w : Word) (c : Nat) : State :=
  if running s && rdB s R.GLB_CFG 0 then
    let n := if bit w 20 then 4 else 2
    let a := 4 * fld w 19 2
    let s := (List.range n).foldl (fun t m => voteRead t (a + 4 * m)) s
    wrAll s ((R.GLB_WIDE_REQ, setFld w 31 31 1) :: (List.range 4).map (fun m =>
      (R.GLB_WIDE_DATAm m, if m < n then readWord s 0 (a + 4 * m) c else 0)))
  else s

/-! ## Writes -/

/-- A write of a register of the GLB block with an effect of its own; `w` is the word it would hold. -/
def glbWrite (s : State) (fn off : Nat) (q : Quarter) (w v : Word) (c : Nat) : Option State :=
  if off = R.GLB_LOCK_SET then
    some (if q = .base then wrF s R.GLB_LOCK 15 0 (rdF s R.GLB_LOCK 15 0 ||| fld v 15 0) else s)
  else if off = R.GLB_OUTEN then some (voteClean (wr s off w) 4 0)
  else if off = R.GLB_MUTE then some (voteClean (wr s off w) 5 0)
  else if off = R.GLB_TPART then
    some (let t := rdF s R.GLB_TPART_SEL 9 0
      if running s && decide (t < item s (declKey 0x10 0)) then
        let f := fld (applyForm q 0x3F (readWord s fn off c) v) 5 0
        s.setHp { s.hp with tpartPend := s.hp.tpartPend ++ [(t, f)] }
      else s)
  else if off = R.GLB_WIDE_REQ then some (wideReq s w c)
  else if off = R.MLD_CTL then some (if q = .base then mldCtl s v else s)
  else none

/-- A write of a register of the indirect port (R523, R524). -/
def indRegWrite (s : State) (fn off : Nat) (q : Quarter) (v : Word) : Option State :=
  if off = R.IND_SEL ∨ off = R.IND_ADDR ∨ off = R.IND_DATA ∨ off = R.IND_CTL then some (indAccess s fn (.write off q v)) else none

/-- A write of a register with an effect of its own in the remaining blocks. -/
def unitWrite (s : State) (fn off : Nat) (q : Quarter) (w v : Word) (c : Nat) : Option State :=
  match off / 0x10000 with
  | 0 => glbWrite s fn off q w v c
  | 1 => evcWrite s fn off q w v
  | 2 => indRegWrite s fn off q v
  | 3 =>
    if off = R.SRCH_DIAG_CTL then
      some (let t := wr s off w
        if q = .base ∧ bit v 31 = true then diagGo t else t)
    else if off = R.WMK_INJ then some (injectLate (wr s off w))
    else if off = R.UPD_FLUSH then
      some (if q = .base ∧ bit v 0 = true then s.setUpd { s.upd with asm := SMap.del s.upd.asm fn } else s)
    else if 0x38000 ≤ off ∧ off < 0x39000 then some (if q = .base then cmdWord s fn v else s)
    else none
  | 4 => fwdWrite s fn off q w v
  | 5 =>
    match (List.range 16).find? (fun p => R.ETH_PORTp_CFG p == off) with
    | some p => some (writePortCfg s p w)
    | none => strmWrite s fn off q w v
  | 6 => mixWrite s fn off q v
  | 8 | 0xB => edlWrite s fn off q w v
  | 0xC => if off = R.PAIR_CTL then some (if q = .base then pairCtl s w v else wr s off w) else none
  | 0xD => tbWrite s off c q w v
  | 0xE => dstWrite s off q w v
  | 0xF => if off = R.MGT_WARN then some (writeWarn s w) else none
  | _ => none

/-- A write of a word to the register at a BAR0 offset by a function that reaches it, in one of the four forms, in cycle c of
the event tick (R513, R514, R519, R528): a location that holds no register ignores it, and so does one without an RW field in an
alias. [Log 146: DESIGN CHOICE] -/
def regWrite (s : State) (fn off : Nat) (q : Quarter) (v : Word) (c : Nat) : State :=
  match regFind off with
  | none => s
  | some r =>
    if q ≠ .base ∧ r.rw = 0 then s
    else if off / 0x10000 = 0xA then seqWrite s fn off q v
    else
      let s1 := if locked s off && decide (r.lk ≠ 0) then lockViolation s fn off else s
      let w := newWord s1 fn off q v
      match unitWrite s1 fn off q w v c with
      | some t => t
      | none => wr s1 (keyFor fn off) (if q = .base ∧ r.sc ≠ 0 then scClear w v else w)

/-- The quarter of a form (R514). -/
def quarterAt : Quarter → Nat
  | .base => 0
  | .set => 0x400000
  | .clear => 0x800000
  | .toggle => 0xC00000

/-- A BAR0 write of a whole word by function fn (R513, R514), mirrored where a pair mirrors it (R462). -/
def hostWrite (s : State) (fn off : Nat) (q : Quarter) (v : Word) (c : Nat) : State :=
  if !accessOk s fn off then s
  else if mirrorBar0 off then
    mirrored s { addr := quarterAt q + off, data := v, kind := 0, sel := 0, fn := fn } (fun t => regWrite t fn off q v c)
  else regWrite s fn off q v c

/-- A write at an offset in a quarter of the BAR0 of a function (R514, R516). -/
def barWrite (s : State) (fn a : Nat) (q : Quarter) (v : Word) (c : Nat) : State :=
  match barOffset fn a with
  | some off => hostWrite s fn off q v c
  | none => s

/-- REGISTER_WRITE (R513): function fn writes v to the register at a word of its BAR0 with the byte enables be, in cycle cyc of the
event tick; a write that does not select all four bytes is ignored and sets BADACC. -/
def execRegisterWrite (fn : BitVec 6) (word : BitVec 20) (v : Word) (be : BitVec 4) (cyc : BitVec 4) (s : State) :
    Host.Outcome State Fault Refusal :=
  .next (if be = 15 then barWrite s fn.toNat (4 * word.toNat) .base v cyc.toNat
    else if barUp s then hostCond s 0 else s)

/-- SET_ALIAS_WRITE (R514). -/
def execSetAliasWrite (fn : BitVec 6) (word : BitVec 20) (v : Word) (cyc : BitVec 4) (s : State) :
    Host.Outcome State Fault Refusal :=
  .next (barWrite s fn.toNat (4 * word.toNat) .set v cyc.toNat)

/-- CLEAR_ALIAS_WRITE (R514). -/
def execClearAliasWrite (fn : BitVec 6) (word : BitVec 20) (v : Word) (cyc : BitVec 4) (s : State) :
    Host.Outcome State Fault Refusal :=
  .next (barWrite s fn.toNat (4 * word.toNat) .clear v cyc.toNat)

/-- TOGGLE_ALIAS_WRITE (R514). -/
def execToggleAliasWrite (fn : BitVec 6) (word : BitVec 20) (v : Word) (cyc : BitVec 4) (s : State) :
    Host.Outcome State Fault Refusal :=
  .next (barWrite s fn.toNat (4 * word.toNat) .toggle v cyc.toNat)

/-- CLEAR_BY_SEQUENCE (R519): function fn writes v to an SC register. -/
def execClearBySequence (fn : BitVec 6) (word : BitVec 20) (v : Word) (s : State) : Host.Outcome State Fault Refusal :=
  .next (match (barOffset fn.toNat (4 * word.toNat)).bind regFind with
    | some r => if r.sc ≠ 0 then barWrite s fn.toNat (4 * word.toNat) .base v 0 else s
    | none => s)

/-- LOCK_SET (R527, R58). -/
def execLockSet (fn : BitVec 6) (v : Word) (s : State) : Host.Outcome State Fault Refusal :=
  .next (hostWrite s fn.toNat R.GLB_LOCK_SET .base v 0)

/-- TPART_WRITE (R518). -/
def execTpartWrite (fn : BitVec 6) (v : Word) (s : State) : Host.Outcome State Fault Refusal :=
  .next (hostWrite s fn.toNat R.GLB_TPART .base v 0)

/-- OUTEN_WRITE (R531). -/
def execOutenWrite (fn : BitVec 6) (v : Word) (s : State) : Host.Outcome State Fault Refusal :=
  .next (hostWrite s fn.toNat R.GLB_OUTEN .base v 0)

/-- MUTE_WRITE (R531). -/
def execMuteWrite (fn : BitVec 6) (v : Word) (s : State) : Host.Outcome State Fault Refusal :=
  .next (hostWrite s fn.toNat R.GLB_MUTE .base v 0)

/-- WIDE_REQ (R522): PF0 writes v to `GLB_WIDE_REQ`; the copy is taken in cycle cyc of the event tick. -/
def execWideReq (fn : BitVec 6) (v : Word) (cyc : BitVec 4) (s : State) : Host.Outcome State Fault Refusal :=
  .next (hostWrite s fn.toNat R.GLB_WIDE_REQ .base v cyc.toNat)

/-- WIDE_DATA3_READ (R522). -/
def execWideData3Read (fn : BitVec 6) (s : State) : Host.Outcome State Fault Refusal :=
  .next (if accessOk s fn.toNat (R.GLB_WIDE_DATAm 3) then
      (wrF s R.GLB_WIDE_REQ 31 31 0).setAns (rd s (R.GLB_WIDE_DATAm 3))
    else s.setAns 0)

/-- IND_SEL_ADDR_WRITE (R523): function fn writes v to `IND_SEL`, or with addr to `IND_ADDR`. -/
def execIndSelAddrWrite (fn : BitVec 6) (addr : Bool) (v : Word) (s : State) : Host.Outcome State Fault Refusal :=
  .next (hostWrite s fn.toNat (if addr then R.IND_ADDR else R.IND_SEL) .base v 0)

/-- IND_DATA_READ (R523, R524): a read while the fetch is under way is completed when it ends, before every access that comes after it. -/
def execIndDataRead (fn : BitVec 6) (s : State) : Host.Outcome State Fault Refusal :=
  .next (if accessOk s fn.toNat R.IND_DATA then indAccess s fn.toNat .read else s.setAns 0)

/-- IND_DATA_WRITE (R523). -/
def execIndDataWrite (fn : BitVec 6) (v : Word) (s : State) : Host.Outcome State Fault Refusal :=
  .next (hostWrite s fn.toNat R.IND_DATA .base v 0)

/-- IND_FETCH (R524): the fetch cycle of function fn's fetch, in cycle cyc of the event tick; corr and unc mark the findings in its
unit of the deep store. A fetch of the quire side that waits for room joins the FIFO here, and is served when it is at the head.
[Log 106: DEDUCED] -/
def execIndFetch (fn : BitVec 6) (cyc : BitVec 4) (corr unc : BitVec 4) (s : State) : Host.Outcome State Fault Refusal :=
  .next (let f := fn.toNat
    match (indOf s f).pend with
    | some (sp, a) =>
      if 4 ≤ sp then
        let r := indRead s f sp a corr.toNat unc.toNat
        indFetched r.2 f r.1
      else
        let t := indQueue s f
        match hostGrant t (t.dkl.cyc + cyc.toNat) with
        | some (.fetch g sp' a', c) =>
          if g = f then
            let u := endTransfer t (c + 1)
            if sp' = sp ∧ a' = a then indFetched u f (quireRead t sp a c) else u
          else t
        | _ => t
    | none =>
      match hostGrant s (s.dkl.cyc + cyc.toNat) with
      | some (.fetch g _ _, c) => if g = f then endTransfer s (c + 1) else s
      | _ => s)

/-- INDTMO (R524): the fetch of function fn has not ended within its bound; it returns zero, and for the deep store R508 applies.
[Log 8: DESIGN CHOICE, 106: DEDUCED] -/
def execIndtmo (fn : BitVec 6) (s : State) : Host.Outcome State Fault Refusal :=
  .next (match (indOf s fn.toNat).pend with
    | some (sp, _) => indFetched (if sp = 8 then dstCond s 6 [] else hostCond s 1) fn.toNat 0
    | none => s)

/-! ## Mirrored records at the standby (R464) -/

/-- A mirrored record applied as a write of the function it names (R463, R464, R529). -/
def applyRec (s : State) (r : MirrorRec) : State :=
  match r.kind with
  | 0 =>
    let off := r.addr % 0x400000
    if decide (off % 4 = 0) && reach s r.fn off then regWrite s r.fn off (quarterOf 0x400000 r.addr) r.data 0 else s
  | 1 =>
    if r.addr < 0x0C000000 then (if running s then planeWrite s (r.addr / 4) r.data else s)
    else if 0x20000000 ≤ r.addr ∧ r.addr < 0x40000000 then
      let a := rdF s R.HOST_B2_DST 4 0 * 2 ^ 29 + (r.addr - 0x20000000)
      apertureWrite s (a / 32) (a % 32) (leBytes 4 r.data.toNat)
    else s
  | 2 => if indReach s r.fn r.sel r.addr then indWord s r.fn r.sel r.addr r.data else indRefuse s r.fn
  | _ => s

/-- The application of mirror set e: under MSYNC of the member's own writes held as the active, in whatever state it is by then, by the standby of
the set received, late or after a gap with its conditions. -/
def mirrorApply (s : State) (e : Nat) : State :=
  let now := s.dkl.num
  if !pairEn s || s.dev ≠ .laid then s
  else if now = (e + 1) % 2 ^ 48 ∧ s.pair.heldWrites.any (fun h => h.1 == e) = true then
    let s1 := s.setPair { s.pair with heldWrites := s.pair.heldWrites.filter (fun h => h.1 != e) }
    (s.pair.heldWrites.filter (fun h => h.1 == e)).foldl (fun t h => applyRec t h.2) s1
  else if pairState s = 1 then s
  else
    match SMap.get s.pair.sets e with
    | some { recs := recs, done := some d } =>
      let late := d != (e + 1) % 2 ^ 48 && inPast 48 ((e + 1) % 2 ^ 48) d
      if now ≠ (if late then d else (e + 1) % 2 ^ 48) then s
      else
        let s1 := if late then wrF (pairCond s 7) R.PAIR_STATE 3 3 0 else s
        let s2 := match s.pair.nextSet with
          | some n => if n = e then s1 else wrF (pairCond s1 8) R.PAIR_STATE 3 3 0
          | none => s1
        recs.foldl applyRec (s2.setPair { s2.pair with sets := SMap.del s2.pair.sets e, nextSet := some ((e + 1) % 2 ^ 48) })
    | _ => s

/-- MIRROR_SET_APPLY (R464): the last event tick of the deckle in which set e applies. -/
def execMirrorSetApply (set : BitVec 48) (s : State) : Host.Outcome State Fault Refusal := .next (mirrorApply s set.toNat)

end Sys2Proof.Machine
end

