-- ==== Sys2Proof/Machine/Dma.lean ====
section
/-! DEFINITION. The DMA channels of the host port (R532 to R536). Host memory is outside the device: a command brings the words of
the descriptor that its channel reads, and what the device writes there goes to the output list. -/

namespace Sys2Proof.Machine

/-- The function of a channel. -/
def dmaFn (s : State) (c : Nat) : Nat := rdF s (R.HOST_DMAc_CFG c) 13 8

/-- A channel of a kind is enabled. -/
def dmaOn (s : State) (c kind : Nat) : Bool :=
  rdB s (R.HOST_DMAc_CFG c) 2 && rdF s (R.HOST_DMAc_CFG c) 1 0 == kind && s.pwr.perstn && s.pwr.link

/-- A ring size that R532 allows. [Log 109: DEDUCED] -/
def ringSizeOk (n : Nat) : Bool := (List.range 13).any (fun k => n == 2 ^ (k + 4))

/-- A channel has a descriptor to process: it has not reached TAIL (R532). [Log 109: DEDUCED] -/
def dmaWaits (s : State) (c : Nat) : Bool :=
  ringSizeOk (rdF s (R.HOST_DMAc_SIZE c) 16 0) && rdF s (R.HOST_DMAc_HEAD c) 15 0 != rdF s (R.HOST_DMAc_TAIL c) 15 0

/-- The address of word w of the descriptor at HEAD. -/
def descAddr (s : State) (c w : Nat) : Nat :=
  (rd s (R.HOST_DMAc_BASE_LO c)).toNat + (rd s (R.HOST_DMAc_BASE_HI c)).toNat * 2 ^ 32 + 32 * rdF s (R.HOST_DMAc_HEAD c) 15 0 + 4 * w

/-- A descriptor is completed (R532, R533): the words from a word on and word 7 are written, HEAD advances, and INT fires the
channel's source. -/
def dmaComplete (s : State) (c first : Nat) (words : List Word) (w7 : Word) : State :=
  let s1 := emit s (.hostWrite (dmaFn s c) (descAddr s c first) (words ++ [w7]))
  let head := (rdF s (R.HOST_DMAc_HEAD c) 15 0 + 1) % rdF s (R.HOST_DMAc_SIZE c) 16 0
  let s2 := wr s1 (R.HOST_DMAc_HEAD c) (BitVec.ofNat 32 head)
  if bit w7 30 then fireSrc s2 (20 + c) 0 (BitVec.ofNat 32 head) else s2

/-- Word 7 of a completed descriptor: OWN cleared, INT kept, and the status. [Log 110: DEDUCED] -/
def doneWord (w7 : Word) (status : Nat) : Word := setFld (setFld w7 31 31 0) 7 0 status

/-- The completion of a transmit descriptor with its timestamp (R482, R534). -/
def txComplete (s : State) (c : Nat) (w7 : Word) (stamp : Option (Nat × Nat)) : State :=
  match stamp with
  | some t => dmaComplete s c 4 [BitVec.ofNat 32 t.1, BitVec.ofNat 32 (t.2 % 256 + 256), 0] w7
  | none => dmaComplete s c 4 [0, 0, 0] w7

/-- A frame of channel c waits for its transmit timestamp. [Log 109: DEDUCED] -/
def txPending (s : State) (c : Nat) : Bool := s.eth.egress.any (fun f => (f.host.map Prod.fst) == some c)

/-- A host frame with its padding, without FCS (R534). -/
def padFrame (bs : List Byte) : List Byte := bs ++ List.replicate (60 - bs.length) 0

/-- A transmit descriptor with OWN set, and the frame read for it: none is a host memory error (R533, R534). -/
def dmaTransmit (s : State) (c : Nat) (d : List Word) (frame : Option (List Byte)) : State :=
  let w2 := dw d 2
  let port := fld w2 20 16
  let w7 := dw d 7
  let fin := fun (st : Nat) => txComplete s c (doneWord w7 st) none
  match frame with
  | none => fin 6
  | some bytes =>
    let body := padFrame (bytes.take (fld w2 13 0))
    if 20 ≤ port ∨ running s = false ∨ portUp s port = false then fin 3
    else if bytes.length < fld w2 13 0 then fin 6
    else if frameLimit s port (fbe body 12 2 == 0x8100) < body.length + 4 then fin 2
    else
      let launch := if bit w2 29 then some (dw d 3).toNat else none
      let late := match launch with | some t => nsPast t (tbNs s 0 0) | none => false
      let w := doneWord w7 (if late then 4 else 0)
      let f : EgFrame :=
        { port := port, queue := fld w2 26 24, bytes := body, launch := launch, deckle := none, ingress := none,
          host := if bit w2 28 then some (c, w.toNat) else none, bad := false }
      let t := enqueue s f
      if t.eth.egress.length = s.eth.egress.length then txComplete t c (doneWord w7 1) none
      else if bit w2 28 then t
      else txComplete t c w none

/-- DMA_TAIL_WRITE (R532): function fn writes v to `HOST_DMAc_TAIL`. -/
def execDmaTailWrite (fn : BitVec 6) (c : BitVec 3) (v : Word) (s : State) : Host.Outcome State Fault Refusal :=
  .next (hostWrite s fn.toNat (R.HOST_DMAc_TAIL c.toNat) .base v 0)

/-- DMA_TRANSMIT (R534): channel c reads the descriptor at HEAD, and the frame it names. -/
def execDmaTransmit (c : BitVec 3) (desc : List Word) (frame : Option (List Byte)) (s : State) :
    Host.Outcome State Fault Refusal :=
  .next (if dmaOn s c.toNat 1 && dmaWaits s c.toNat && bit (dw desc 7) 31 && !txPending s c.toNat then
      dmaTransmit s c.toNat desc frame
    else s)

/-- The receive channel that takes a frame of a function with a PCP (R535). [Log 110: DEDUCED] -/
def rxChannel (s : State) (fn pcp : Nat) : Option Nat :=
  (List.range 8).find? (fun c => dmaOn s c 2 && dmaFn s c == fn && rdB s (R.HOST_DMAc_CFG c) (24 + pcp % 8))

/-- The frame at the head of the host port is dropped: without a flag while no receive channel runs (R535, R537).
[Log 110: DEDUCED] -/
def rxDrop (s : State) : State := if (List.range 8).any (fun c => dmaOn s c 2) then hostCond s 3 else s

/-- The completion words 2 to 6 of a receive descriptor (R535). -/
def rxWords (d : List Word) (f : FrameIn) (reason : Nat) : List Word :=
  let st := f.stamp.getD (0, 0)
  [setFld (dw d 2) 29 16 f.bytes.length, BitVec.ofNat 32 (f.port % 32 + f.vlan % 4096 * 32 + f.tenant % 1024 * 2 ^ 17),
    BitVec.ofNat 32 st.1, BitVec.ofNat 32 (st.2 % 256 + b2n f.stamp.isSome * 256), BitVec.ofNat 32 (reason % 16)]

/-- DMA_RECEIVE (R535): the oldest frame at the host port is stored in the next descriptor of its channel, whose words are desc, or
dropped; memErr tells a host memory error. [Log 118: DESIGN CHOICE] -/
def execDmaReceive (desc : List Word) (memErr : Bool) (s : State) : Host.Outcome State Fault Refusal :=
  .next (match s.eth.toHost with
    | [] => s
    | (f, reason) :: rest =>
      let t := s.setEth { s.eth with toHost := rest }
      match rxChannel t (tenantFn t f.tenant) f.pcp with
      | none => rxDrop t
      | some c =>
        if dmaWaits t c = false ∨ bit (dw desc 7) 31 = false ∨ fld (dw desc 2) 13 0 < f.bytes.length then rxDrop t
        else if memErr then dmaComplete t c 2 (rxWords desc f reason) (doneWord (dw desc 7) 6)
        else
          let addr := (dw desc 0).toNat + (dw desc 1).toNat * 2 ^ 32
          dmaComplete (emit t (.hostBytes (dmaFn t c) addr f.bytes)) c 2 (rxWords desc f reason) (doneWord (dw desc 7) 0))

/-- Words moved to an indirect space in turn (R536): the state, the words moved, and whether a word was refused.
[Log 108: DEDUCED] -/
def copyIn : State → Nat → Nat → Nat → List Word → State × Nat × Bool
  | s, _, _, _, [] => (s, 0, false)
  | s, fn, sp, a, v :: l =>
    let a' := a % 2 ^ 32
    if indReach s fn sp a' then
      let r := copyIn (indWriteAs s fn sp a' v (fun t => indWord t fn sp a' v)) fn sp (a' + 1) l
      (r.1, r.2.1 + 1, r.2.2)
    else (indRefuse s fn, 0, true)

/-- A read of a word by a copy (R524, R536): a quire-side word takes a beat of the port, and waits behind the FIFO.
[Log 108: DEDUCED] -/
def copyWord (s : State) (fn sp a corr unc : Nat) (again : Bool) : Option (Word × State) :=
  if 1 ≤ sp ∧ sp ≤ 3 then
    if s.upd.fifo.isEmpty && !hostMasked s then
      let c := max s.dkl.cyc s.upd.free
      some (quireRead s sp a c, s.setUpd { s.upd with free := c + 1, rank := 0 })
    else none
  else if sp = 8 ∧ again = true then some (if dstServes s then apertureWord s a unc else 0, s)
  else some (indRead s fn sp a corr unc)

/-- At most n words read from an indirect space in turn, from the word a on: the state, the words, whether a word was refused. The
findings corr and unc are those of the deep-store unit of the first word. [Log 108: DEDUCED] -/
def copyOut : State → Nat → Nat → Nat → Nat → Nat → Bool → Nat → State × List Word × Bool
  | s, _, _, _, _, _, _, 0 => (s, [], false)
  | s, fn, sp, a, corr, unc, again, n + 1 =>
    let a' := a % 2 ^ 32
    if indReach s fn sp a' then
      match copyWord s fn sp a' corr unc again with
      | none => (s, [], false)
      | some (w, t) =>
        let new := decide ((a' + 1) % 8 = 0)
        let r := copyOut t fn sp (a' + 1) (if new then 0 else corr) (if new then 0 else unc) (!new) n
        (r.1, w :: r.2.1, r.2.2)
    else (indRefuse s fn, [], true)

/-- An uncorrectable word among those that a portion reads in the unit of its first word. [Log 108: DEDUCED] -/
def copyBad (sp a n unc : Nat) : Bool :=
  sp == 8 && (List.range (min n (8 - a % 8))).any (fun i => unc.testBit ((a % 8 + i) / 2))

/-- DMA_COPY (R536): a portion of the copy of channel c's descriptor: the words data read from host memory, or n words read from
the space; memErr tells a host memory error. The descriptor completes with its last word, or where a word is refused.
[Log 108: DEDUCED, 118: DESIGN CHOICE] -/
def execDmaCopy (c : BitVec 3) (desc : List Word) (data : List Word) (n : BitVec 13) (memErr : Bool) (corr unc : BitVec 4)
    (s : State) : Host.Outcome State Fault Refusal :=
  .next (let k := c.toNat
    if dmaOn s k 3 && dmaWaits s k && bit (dw desc 7) 31 then
      let len := (dw desc 2).toNat
      let sp := fld (dw desc 4) 7 0
      let fn := dmaFn s k
      let old := SMap.getD s.hp.copying k (0, false)
      let a := (dw desc 3).toNat + old.1
      let host := (dw desc 0).toNat + (dw desc 1).toNat * 2 ^ 32 + 4 * old.1
      let fin := fun (t : State) (st : Nat) =>
        dmaComplete (t.setHp { t.hp with copying := SMap.del t.hp.copying k }) k 7 [] (doneWord (dw desc 7) st)
      let go := fun (t : State) (moved : Nat) (refused bad : Bool) =>
        if refused then fin t 5
        else if len / 4 ≤ old.1 + moved then fin t (if old.2 || bad then 7 else 0)
        else t.setHp { t.hp with copying := SMap.put t.hp.copying k (old.1 + moved, old.2 || bad) }
      if len % 4 ≠ 0 ∨ len < 4 ∨ 2 ^ 24 < len then fin s 2
      else if memErr then fin s 6
      else if bit (dw desc 4) 8 then
        let r := copyOut s fn sp a corr.toNat unc.toNat false (min n.toNat (len / 4 - old.1))
        go (if r.2.1.isEmpty then r.1 else emit r.1 (.hostWrite fn host r.2.1)) r.2.1.length r.2.2
          (copyBad sp a r.2.1.length unc.toNat)
      else
        let r := copyIn s fn sp a (data.take (len / 4 - old.1))
        go r.1 r.2.1 r.2.2 false
    else s)

end Sys2Proof.Machine
end

