-- ==== Sys2Proof/Machine/Stages.lean ====
section
/-! DEFINITION. The stages of the deckle pipeline (R19 to R25): stage A, stage C and the packetiser, and the launch of queued
frames (R235). Stage B is the parterre window and the mix tiers. -/

namespace Sys2Proof.Machine

/-- The block that lies k deckles behind the current one. -/
def blockBehind (s : State) (k : Nat) : Nat := modDist 48 s.dkl.num k

/-- No enabled strip of a stage is left unfinished (R50). -/
def allFinished (s : State) (outputs : Bool) (ups : List StripUpset) : Bool :=
  (unfinished ups).all (fun n => decide (16384 ≤ n) != outputs || !stEn (stripDesc s n))

/-- Stage A (R19, R291, R492): streams, flows, carried sums, generators and players fill the input plane, then the input strips run,
and the capture engines of this stage. -/
def stageA (s : State) (up : List StripUpset) (ecc : Ecc) (waits : List (BitVec 3 × BitVec 8)) : State :=
  let b := blockBehind s 1
  let s1 := sumsStageA (flowsStageA (streamsStageA s b ecc) b)
  let s2 := inputStrips b (playersStageA (generators s1) b ecc) up
  let s3 := capStage s2 true b waits
  s3.setAud { s3.aud with ranA := true, doneA := allFinished s false up }

/-- STAGE_A (R50, R291): once in each deckle; upsets: what befalls the strips (bad words, findings, strips left
unfinished); ecc: the findings in the units of the deep store that streams and players read; waits: of a capture engine, how
many of its staged units no arbiter has granted when the stage ends. -/
def execStageA (upsets : List StripUpset) (ecc : List (BitVec 29 × BitVec 4 × BitVec 4)) (waits : List (BitVec 3 × BitVec 8))
    (s : State) : Host.Outcome State Fault Refusal :=
  .next (if running s && s.dkl.started && !s.aud.ranA then stageA s upsets ecc waits else s)

/-- Stage C (R19, R291): the output strips, and the capture engines of this stage. -/
def stageC (s : State) (up : List StripUpset) (waits : List (BitVec 3 × BitVec 8)) : State :=
  let b := blockBehind s 3
  let t := capStage (outputStrips b s up) false b waits
  t.setAud { t.aud with ranC := true, doneC := allFinished s true up }

/-- STAGE_C (R50, R291): once in each deckle; operands as for STAGE_A. -/
def execStageC (upsets : List StripUpset) (waits : List (BitVec 3 × BitVec 8)) (s : State) :
    Host.Outcome State Fault Refusal :=
  .next (if running s && s.dkl.started && !s.aud.ranC then stageC s upsets waits else s)

/-- The packets of the finished block enter their queues, and the frames of flows and buses are built, for launch at the coming
boundary (R22, R252, R394, R430). -/
def packBlock (s : State) : State :=
  let d := blockBehind s 3
  let at_ := (s.dkl.num + 1) % 2 ^ 48
  let r := txAll s d
  if launches s then
    let s1 := r.2.foldl (fun t e =>
      enqueue t { port := e.2.1, queue := e.2.2.1, bytes := e.2.2.2, launch := none, deckle := some at_, ingress := none, host := none, bad := false
                  stream := some e.1 }) r.1
    trellisPack (s1.setEdl { s1.edl with launch := s1.edl.launch ++ flowFrames s1 d }) d
  else r.1

/-- The packetiser, keeping what a thermal trip needs to pack the block again. -/
def packetise (s : State) : State :=
  let u := (s.strm, s.trl, s.edl)
  let t := packBlock s
  t.setAud { t.aud with packed := true, undo := some u }

/-- The block packed in this deckle is packed again as the state now stands (R601). [Log 25: DEDUCED] -/
def repack (s : State) : State :=
  match s.aud.undo with
  | some (a, b, c) =>
    let at_ := (s.dkl.num + 1) % 2 ^ 48
    let s1 := ((s.setStrm a).setTrl b).setEdl { s.edl with launch := c.launch }
    packBlock (s1.setEth { s1.eth with egress := s1.eth.egress.filter (fun f => f.deckle != some at_) })
  | none => s

/-- PACKETISE (R252): once in each deckle, after stage C. -/
def execPacketise (s : State) : Host.Outcome State Fault Refusal :=
  .next (if running s && s.dkl.started && s.aud.ranC && !s.aud.packed then packetise s else s)

/-- The instant at which the first bit after the SFD of a frame that starts in cycle c leaves a port: TB0 ns and 1/256 ns (R482).
[Log 114: DEDUCED] -/
def txStamp (s : State) (p c : Nat) : Nat × Nat :=
  let g := portGbps (portSpeed s p)
  let t := (tbAt s (stampBase s) c / 2 ^ 35 + (if g = 0 then 0 else 64 * 256 / g)) % 2 ^ 40
  (t / 256, t % 256)

/-- A transmit stream has sent a packet since its enable (R259). -/
def streamSent (s : State) (f : EgFrame) : State :=
  match f.stream with
  | some n => (match SMap.get s.strm.txs n with
    | some x => s.setStrm { s.strm with txs := SMap.put s.strm.txs n { x with active := true } }
    | none => s)
  | none => s

/-- A frame taken from its queue leaves an Ethernet port from cycle c of the event tick (R235, R238, R482, R483). -/
def sendFrame (s : State) (p c : Nat) (f : EgFrame) : State :=
  let st := txStamp s p c
  let bytes := match f.ingress with
    | some i => if rdB s R.TB_TC 0 then correctFrame f.bytes i st else f.bytes
    | none => f.bytes
  let s2 := if f.bad then ethCond s p 6 else s
  let s3 := emit s2 (.frame p (withFcs bytes f.bad))
  let idle := s.dkl.cyc + c + frameCycles s p (f.bytes.length + 4)
  let s4 := s3.setEth { s3.eth with idle := SMap.put s3.eth.idle p idle }
  match f.host with
  | some (ch, w7) => txComplete s4 ch (BitVec.ofNat 32 w7) (if (ptpOffset f.bytes).isSome then some st else none)
  | none => s4

/-- FRAME_LAUNCH (R235): the frame that port p, 0 to 15, or tunnel port 16 to 19, starts in cycle cyc of the event tick; bad tells that a
packet-buffer word of it has bad parity (R238). A tunnel port starts one when no chunk of another waits (R392, R399). -/
def execFrameLaunch (port : BitVec 5) (cyc : BitVec 4) (bad : Bool) (s : State) : Host.Outcome State Fault Refusal :=
  .next (let p := port.toNat
    let c := cyc.toNat
    if running s && portUp s p && decide (p < 20) && decide (SMap.getD s.eth.idle p 0 ≤ s.dkl.cyc + c) then
      match nextFrame s p c with
      | some f =>
        if p < 16 then sendFrame (streamSent (dequeue s f) f) p c { f with bad := f.bad || bad }
        else if (edlTx s (p - 16)).frames.any (fun x => x.cls == 6) then s
        else
          let s1 := sendTunnel (streamSent (dequeue s f) f) (p - 16) (withFcs f.bytes (f.bad || bad))
          (match f.host with
           | some (ch, w7) => txComplete s1 ch (BitVec.ofNat 32 w7) none
           | none => s1)
      | none => s
    else s)

end Sys2Proof.Machine
end

