-- ==== Sys2Proof/Machine/Power.lean ====
section
/-! DEFINITION. Power-up, resets and the reset hold (R92 to R97, R537, R538, R587 to R593, R601, R602). -/

namespace Sys2Proof.Machine

/-- The state with the registers dropped whose key satisfies p: each is at its reset value again (R16). -/
def dropRegs (s : State) (p : Nat → Bool) : State := s.setRegs (s.regs.filter (fun e => !p e.1))

/-- The device as a reset leaves it (R3, R16, R96): what comes from outside — levels at pins, the commands that wait and what has been
handed out — stays as it is. -/
def coldReset (s : State) (pwr : Pwr) : State :=
  let z := State.reset
  let s1 := ((((((z.setPwr pwr).setOut s.out).setAns s.ans).setFree s.free).setPending s.pending).setInp
    { z.inp with ext := s.inp.ext, dciPin := s.inp.dciPin, dciSeen := s.inp.dciSeen })
  s1.setMgt { z.mgt with halt := s.mgt.halt, tap := s.mgt.tap }

/-- A fall of `RST_N` (R96): outputs stop, and nothing of the mould or of the deep store is held. -/
def rstFall (s : State) : State :=
  coldReset s { s.pwr with rstn := false, pll := false, held := false, dram := .busy, link := false, bare := false }

/-- RST_N_FALL (R96, R591). -/
def execRstNFall (s : State) : Host.Outcome State Fault Refusal := .next (rstFall s)

/-- PWR_OK_FALL (R587): it acts as a fall of `RST_N`, which the sequence of R92 must raise again, and the test access port, which works only
while `PWR_OK` is high (R594), loses its instruction (R3). [Log 9: PRESUMED] -/
def execPwrOkFall (s : State) : Host.Outcome State Fault Refusal :=
  .next (let t := rstFall s
    (t.setPwr { t.pwr with pwrOk := false }).setMgt { t.mgt with tap := .idcode })

/-- PWR_OK_RISE (R92). -/
def execPwrOkRise (s : State) : Host.Outcome State Fault Refusal := .next (s.setPwr { s.pwr with pwrOk := true })

/-- RST_N_RISE (R92, R527, R592): the straps are sampled, and `HALT_N` is released (R593); refs tells which of the reference clocks
run (R590). [Log 5: DESIGN CHOICE, 119: DESIGN CHOICE] -/
def execRstNRise (straps : Straps) (refs : RefClocks) (s : State) : Host.Outcome State Fault Refusal :=
  .next (if s.pwr.pwrOk && !s.pwr.rstn then
      let t := coldReset s { s.pwr with
        rstn := true, pll := false, held := false, dram := .busy, link := false, bare := false, cmpt := straps.cmpt
        mgtAddr := straps.mgtAddr.toNat, ethRef := refs.eth, edlRef := refs.edl }
      t.setMgt { t.mgt with halt := false }
    else s)

/-- The device is out of reset. -/
def awake (s : State) : Bool := s.pwr.pwrOk && s.pwr.rstn && !s.pwr.held

/-- FABRIC_PLL_LOCK (R92). -/
def execFabricPllLock (s : State) : Host.Outcome State Fault Refusal :=
  .next (if awake s then s.setPwr { s.pwr with pll := true } else s)

/-- PLL_LOCK_TIMEOUT (R95). [Log 8: DESIGN CHOICE] -/
def execPllLockTimeout (s : State) : Host.Outcome State Fault Refusal :=
  .next (if awake s && !s.pwr.pll then s.setPwr { s.pwr with held := true } else s)

/-- DRAM_INIT_DONE (R490). [Log 101: DESIGN CHOICE] -/
def execDramInitDone (s : State) : Host.Outcome State Fault Refusal :=
  .next (if awake s && decide (s.pwr.dram = .busy) then (s.setPwr { s.pwr with dram := .ready }).setDst [] else s)

/-- DRAM_INIT_TIMEOUT (R94). [Log 8: DESIGN CHOICE] -/
def execDramInitTimeout (s : State) : Host.Outcome State Fault Refusal :=
  .next (if awake s && decide (s.pwr.dram = .busy) then mldCond (s.setPwr { s.pwr with dram := .failed }) 8 [] else s)

/-- PCIE_LINK_UP (R92, R510): the data link layer reports link up at a generation and a width. -/
def execPcieLinkUp (gen : BitVec 4) (width : BitVec 5) (s : State) : Host.Outcome State Fault Refusal :=
  .next (if awake s && s.pwr.pll && s.pwr.perstn then
      wr (s.setPwr { s.pwr with link := true }) R.HOST_LINK (BitVec.ofNat 32 (gen.toNat + width.toNat * 16 + 512))
    else s)

/-- ENTER_BARE (R92, R97): the Edarlink ports send PNP from now on. [Log 82: DEDUCED] -/
def execEnterBare (s : State) : Host.Outcome State Fault Refusal :=
  .next (if awake s && s.pwr.pll && s.pwr.link && decide (s.pwr.dram ≠ .busy) && !s.pwr.bare then
      s.setPwr { s.pwr with bare := true }
    else s)

/-- A configuration request is answered with Configuration Request Retry Status: the link has trained (step 6 of R92) and the device has
not entered BARE (step 7) (R93). -/
def configRetry (s : State) : Bool := awake s && s.pwr.pll && s.pwr.link && !s.pwr.bare

/-- PERST_N_DEASSERT (R92). -/
def execPerstNDeassert (s : State) : Host.Outcome State Fault Refusal := .next (s.setPwr { s.pwr with perstn := true })

/-- Registers that hold a staged descriptor of a function (R280, R517). [Log 112: DEDUCED] -/
def stagedReg (o : Nat) : Bool :=
  decide (0x58040 ≤ o ∧ o < 0x58100) || decide (0xB0400 ≤ o ∧ o < 0xB0500) || decide (0xB0820 ≤ o ∧ o < 0xB0900)

/-- Host-port registers that `PERST_N` returns to reset (R537). [Log 112: DEDUCED] -/
def perstReg (o : Nat) : Bool :=
  decide (0x20100 ≤ o ∧ o < 0x20110) || decide (0x40 ≤ o ∧ o < 0x54) || o == R.HOST_STAT || o == R.HOST_B2_DST ||
    decide (0x21000 ≤ o ∧ o < 0x21200) || stagedReg o

/-- A happening that a host write of the present event tick asked for: `PERST_N` discards it with the write (R56, R321). -/
def hostAct : HwAct → Bool
  | .hostCommit | .hostMigrate => true
  | .diagGo _ _ => true
  | _ => false

/-- PERST_N_ASSERT (R56, R321, R70, R72, R73, R177, R537, R558). [Log 112: DEDUCED] -/
def execPerstNAssert (s : State) : Host.Outcome State Fault Refusal :=
  .next (let s0 := s.setEv { s.ev with acts := s.ev.acts.filter (fun a => !hostAct a.2) }
    let s1 := dropRegs s0 (fun k => perstReg (k % 0x400000))
    let s2 := wr (s1.setPwr { s1.pwr with perstn := false, link := false }) R.HOST_LINK 0
    let s3 := (updDiscard s2).setMix { s2.mix with asm := [] }
    let s4 := (s3.setHp { s3.hp with ind := [], staged := [], copying := [], vfs := 0 }).setEth
      { s3.eth with egress := s3.eth.egress.map (fun g => { g with host := none }) }
    let s5 := (List.range 8).foldl resetTarget s4
    let s6 := wrAll s5 ((List.range 16).map (fun w => (R.EVC_ACTw w, 0)))
    let s7 := s6.setEv { s6.ev with msixOn := [], msixOpen := [], msixPend := [], msixTab := [] }
    if s7.dev = .laying then abortLaying s7
    else if s7.dev = .lifting then s7.setMld { s7.mld with pendLoad := false }
    else s7)

/-- FUNCTION_LEVEL_RESET (R511, R538): the function's own copies, the channels bound to it and the targets bound to it; for PF0, the wide
mailbox and the BAR2 window too. [Log 112: DEDUCED] -/
def execFunctionLevelReset (fn : BitVec 6) (s : State) : Host.Outcome State Fault Refusal :=
  .next (let f := fn.toNat
    let chs := (List.range 8).filter (fun c => dmaFn s c == f)
    let own := fun k => k / 0x400000 == f && perFn (k % 0x400000)
    let chan := fun k => chs.any (fun c => decide (R.HOST_DMAc_CFG c ≤ k ∧ k < R.HOST_DMAc_CFG c + 0x40))
    let pf := fun k => f == 0 && (decide (0x40 ≤ k ∧ k < 0x54) || k == R.HOST_B2_DST)
    let s1 := dropRegs s (fun k => own k || chan k || pf k)
    let s2 := (s1.setUpd { s1.upd with asm := SMap.del s1.upd.asm f }).setMix { s1.mix with asm := SMap.del s1.mix.asm f }
    let s3 := s2.setHp { s2.hp with
      ind := SMap.del s2.hp.ind f, staged := s2.hp.staged.filter (fun e => e.1 / 2 ^ 30 != f)
      copying := s2.hp.copying.filter (fun e => !chs.contains e.1), vfs := if f = 0 then 0 else s2.hp.vfs }
    let s3 := s3.setEth { s3.eth with egress := s3.eth.egress.map (fun g => match g.host with
      | some h => if chs.contains h.1 then { g with host := none } else g
      | none => g) }
    let s4 := (s3.setStrp { s3.strp with latch := SMap.del s3.strp.latch f }).setPtr { s3.ptr with latch := SMap.del s3.ptr.latch f }
    let tgts := (List.range 8).filter (fun t => tgtBoundTo s t f)
    let s5 := tgts.foldl resetTarget s4
    let s6 := (List.range 512).foldl (fun t n => if srcActive t n && tgts.contains (srcTarget t n) then setActive t n false else t) s5
    s6.setEv { s6.ev with
      msixOn := s6.ev.msixOn.filter (· ≠ f), msixOpen := s6.ev.msixOpen.filter (fun k => k / 8 ≠ f)
      msixPend := s6.ev.msixPend.filter (fun k => k / 8 ≠ f), msixTab := s6.ev.msixTab.filter (fun e => e.1 / 8 ≠ f) })

/-- Conditions of `MGT_STAT` still to be set. [Log 26: DEDUCED] -/
def mgtBits (s : State) : Nat :=
  s.ev.reqs.foldl (fun a q => match q with
    | .cond reg _ bits _ _ _ => if reg = R.MGT_STAT then a ||| bits.toNat else a
    | _ => a) 0

/-- The reset hold (R593, R601): `HALT_N` is low, the PCI Express link is down, and the sensors and their registers go on.
[Log 25: DEDUCED, 26: DEDUCED] -/
def enterHold (s : State) (pll : Bool) : State :=
  let t := coldReset s { s.pwr with held := true, pll := pll, link := false, bare := false }
  let kept := s.regs.filter (fun e => decide (0xF2000 ≤ e.1 ∧ e.1 < 0xF3000))
  let s1 := ((t.setRegs kept).setDst s.dst).setMgt { s.mgt with tripDue := false, tripping := false, tripSent := false, halt := true }
  wr s1 R.MGT_STAT (scSet (rd s1 R.MGT_STAT) (mgtBits s) 0)

/-- PLL_LOSS_OF_LOCK (R593): every output stops at once. -/
def execPllLossOfLock (s : State) : Host.Outcome State Fault Refusal :=
  .next (if awake s && s.pwr.pll then enterHold s false else s)

/-- A thermal trip (R601, R602): LEAVE goes out in every codeword from now on (R409), and where audio flows the block packed in this deckle is
ramped; else the reset hold follows at once. [Log 25: DEDUCED] -/
def thermalTrip (s : State) : State :=
  let s1 := setCond (s.setMgt { s.mgt with tripDue := false, tripping := true }) R.MGT_STAT 2 32
  if running s1 && s1.dkl.started then repack s1 else enterHold s1 s1.pwr.pll

/-- THERMAL_TRIP (R601): a working sensor has read 120 °C or more at two consecutive samples. -/
def execThermalTrip (s : State) : Host.Outcome State Fault Refusal :=
  .next (if awake s && s.mgt.tripDue && !s.mgt.tripping then thermalTrip s else s)

end Sys2Proof.Machine
end

