-- ==== Sys2Proof/Machine/Tick.lean ====
section
/-! DEFINITION. The deckle tick with its boundary actions (R36 to R65), the event tick (R53 to R59), and the scrubber's grants. -/

namespace Sys2Proof.Machine

/-- A condition of `DKL_STAT` (R68). -/
def dklCond (s : State) (b : Nat) (on : Bool) : State := if on then setCond s R.DKL_STAT 1 (2 ^ b) else s

/-- What was unfinished at a tick, and what becomes of it (R49 to R51): the mix lanes stop, unfinished strips give zero, and a block that was
not packed is not sent, its samples counted all the same (R251). -/
def overruns (s : State) : State :=
  if !s.dkl.started then s
  else
    let s1 := if mixUnfinished s then dklCond (cutMix s (deckleCycle s s.dkl.cyc)) 0 true else s
    let s2 := dklCond s1 1 (!s.aud.doneA || !s.aud.doneC)
    let s3 := dklCond s2 2 (launches s && !s.aud.packed)
    if s.aud.packed then s3 else (txSkip s3 (blockBehind s 3)).setEdl { s3.edl with launch := [] }

/-- The blocks in the pipeline move on by one stage (R19, R23). -/
def audioTurn (s : State) : State :=
  s.setAud { inW := [], inR := s.aud.inW, dstW := [], dstR := s.aud.dstW, outC := [], doneA := false, doneC := false, packed := false
             undo := none, tiers := 0, ranA := false, ranC := false }

/-- The number of the deckle that a tick opens (R37 to R40). -/
def tickNumber (s : State) : Nat :=
  if !s.dkl.started then s.dkl.first % 2 ^ 48 else (s.dkl.jump.getD (s.dkl.num + 1)) % 2 ^ 48

/-- The counter and the interval at a tick (R36 to R40, R52): a number taken from a marker that differs is a jump, the next boundary lies one
deckle on. [Log 153: DESIGN CHOICE] -/
def tickCount (s : State) : State :=
  let e := tickNumber s
  let jumped := s.dkl.started && e != (s.dkl.num + 1) % 2 ^ 48
  let len := s.dkl.cyc - s.dkl.tickCyc
  let s1 := dklCond s 4 jumped
  let s2 := dklCond s1 3 (s.dkl.started && decide (len < (rd s R.DKL_U).toNat + 512))
  let s3 := if s.dkl.started then wr s2 R.DKL_LAST (BitVec.ofNat 32 (len % 2 ^ 20)) else s2
  let s4 := wrAll s3 [(R.DKL_NUM_LO, BitVec.ofNat 32 e), (R.DKL_NUM_HI, BitVec.ofNat 32 (e / 2 ^ 32))]
  let s5 := nextBoundary (s4.setDkl { s4.dkl with num := e, tickCyc := s.dkl.cyc, evt := 0, started := true, jump := none })
  let s6 := if jumped && s5.dev == .lifting then
      s5.setMld { s5.mld with liftAt := (s5.mld.liftAt + modDist 48 e ((s.dkl.num + 1) % 2 ^ 48)) % 2 ^ 48 }
    else s5
  if jumped then sceneJump s6 e else s6

/-- Step 1 (R62, R452, R476): lease and fence, and the discipline of TB0. -/
def stepLease (s : State) (first : Bool) (wck : List Nat) : State :=
  let e := s.dkl.num
  let s1 := pairBoundary (if first then pairFirst s e else s) e
  lockReport (rdB s1 R.TB_DISC 8) (tbBoundary s1 wck ((List.range 4).any (portEligible s1)))

/-- Rewrites of the tenant partition take effect (R518), but for a tenant that a vote holds (R530). [Log 116: DEDUCED] -/
def tpartApply (s : State) : State :=
  let s1 := s.hp.tpartPend.foldl (fun t p =>
    if t.hp.tpartHeld.contains p.1 then t else voteClean (voteStore t 1 p.1 p.2) 1 p.1) s
  s1.setHp { s1.hp with tpartPend := [] }

/-- Output enables and mute as in force from this boundary on (R531). -/
def heardTurn (s : State) : State := s.setHp { s.hp with heardPrev := s.hp.heard, heard := heardNow s }

/-- Step 2 (R62): structural state, in a device that goes on running. -/
def stepStructure (s : State) : State :=
  let e := s.dkl.num
  let s1 := heardTurn (tpartApply (voteAll s e))
  let s2 := flowsBoundary (edlBoundary s1)
  let s3 := strmBoundary (trellisBoundary s2 e)
  let s3 := s3.setTb { s3.tb with stepped := 0 }
  capBoundary (ptrBoundary (mixBoundary (stripBoundary s3)))

/-- Steps 3 to 5 (R62 to R65), and the key fields taken at their end (R27). -/
def stepRest (s : State) : State :=
  let e := s.dkl.num
  let plane := rdB s R.SCN_PLANE 0
  let s1 := sceneBoundary s e
  let carried := rdB s1 R.SCN_PLANE 0 != plane
  ptrSnapshot (seqBoundary (inputsBoundary s1) e carried)

/-- The counts and credits that a tick renews (R123, R162, R501): deckles in a row without a grant of a scrubber, the first of which the
first deckle tick opens. -/
def tickCredits (s : State) (first : Bool) : State :=
  let s1 := s.setSrch { s.srch with noGrant := (if first || s.srch.granted then 0 else s.srch.noGrant + 1), granted := false }
  creditReload (s1.setDste { s1.dste with noGrant := (if first || s1.dste.granted then 0 else s1.dste.noGrant + 1), granted := false })

/-- The packets built for this boundary may leave (R252): none of a pair member that step 1 of the boundary has put out of ACTIVE (R458). -/
def launchPackets (s : State) : State :=
  let l := if s.pair.out = .silent then s.eth.egress.filter (fun f => f.deckle.isNone) else s.eth.egress
  s.setEth { s.eth with egress := l.map (fun f => { f with deckle := none }) }

/-- The deckle tick: the counter, the turn of the pipeline, the launch, and the boundary actions in the order of R62; the markers carry what
steps 1 and 2 leave, but the lease epoch from before them (R402, R425, R427, R459). -/
def deckleTick (s : State) (wck : List Nat) : State :=
  let first := !s.dkl.started
  let s1 := tickCount (audioTurn (overruns s))
  let s2 := launchPackets (launchFrames (stepLease s1 first wck))
  let s3 := liftStep s2 s2.dkl.num
  if !running s3 then (if s3.mgt.tripping then enterHold s3 s3.pwr.pll else s3)
  else
    let s4 := tickCredits (stepRest (sendMarkers (ownLease s1) (stepStructure s3))) first
    if s4.mgt.tripping then s4.setMgt { s4.mgt with tripSent := true } else s4

/-- The deckle tick that is due: after the launch that a thermal trip ramps, it finds the device in the reset hold (R601).
[Log 25: DEDUCED] -/
def boundary (s : State) (wck : List Nat) : State := if s.mgt.tripSent then enterHold s s.pwr.pll else deckleTick s wck

/-- DECKLE_TICK (R36, R62): TB0 reaches a boundary instant; wck holds the edges of the word clock since the boundary before (R479).
[Log 7: DEDUCED, 22: DEDUCED, 140: DESIGN CHOICE] -/
def execDeckleTick (wck : List Nat) (s : State) : Host.Outcome State Fault Refusal :=
  .next (if boundaryDue s then boundary s wck else s)

/-- The levels of the level sources (R540, R580). -/
def levelInputs (s : State) : Nat := s.inp.st2 * 2 ^ 384 + dciTaken s * 2 ^ 227

/-- A happening of the event tick lands in step 3 (R55, R139, R316, R356, R398, R437). -/
def landAct (s : State) (a : Nat × HwAct) : State :=
  match a.2 with
  | .hostCommit => hostCommitDo s
  | .diagGo prof tenant => diagRequest s prof tenant
  | .frameCommit gen1 target epoch => if gen1 then gen1Commit s 2 else submitCommit s target epoch 2 true
  | .flags n w v => wr s (R.SEQn_FLAGS n) (flagsAfter w (rd s (R.SEQn_FLAGS n)) v)
  | .commit _ fwd dev target => seqCommit s fwd dev target
  | .live n w0 w1 => liveLand s (owner s 0x14 (fld w0 13 0) == some (seqTenant s n)) w0 w1
  | .play n p msg => match msg with | some m => playerStart s p m (some n) | none => playerStop s p
  | .halt n pc => haltLand s n pc
  | .sig target bits => postSig s target bits
  | .hostMigrate => migGo s

/-- A happening put in its place by source number, after those of its own source. -/
def placeAct (a : Nat × HwAct) : List (Nat × HwAct) → List (Nat × HwAct)
  | [] => [a]
  | b :: l => if a.1 < b.1 then a :: b :: l else b :: placeAct a l

/-- The happenings of an event tick land after its register writes, in ascending source number (R55). [Log 1: DESIGN CHOICE] -/
def landActs (s : State) : State :=
  (s.ev.acts.foldl (fun l a => placeAct a l) []).foldl landAct (s.setEv { s.ev with acts := [] })

/-- An event tick of c cycles (R53 to R59): the Edarlink ports send and the parterre window goes on through it, the happenings of the tick
land after its register writes, its hardware events and set-pendings take effect and their records are written; then the pins, the pulse
outputs and the time bases stand as of the next tick. -/
def eventTick (s : State) (c : Nat) (flips : List RamFlip) (upsets : List (Nat × Nat)) : State :=
  let s0 := landActs (windowTick (edlSend s c) (s.dkl.cyc + c))
  let s1 := eventTickCore (settleFinds (s0.setEv { s0.ev with level := levelInputs s0 }))
  let s2 := pulseFalls (voteUpset (flips.foldl (flipRam (s.dkl.cyc + c)) s1) upsets)
  let s3 := drivePins (syncPins s2) (fun n => (tbase s2 n).fall.isSome)
  let s4 := foldBeats (tbAdvance s3 c)
  (s4.setDste { s4.dste with busy := 0 }).setDkl { s4.dkl with evt := s4.dkl.evt + 1, free := s4.dkl.free + 1 }

/-- The event tick of the reset hold: only the sensors' conditions are taken (R593, R601). [Log 26: DEDUCED] -/
def holdTick (s : State) : State :=
  wr (s.setEv { s.ev with reqs := [] }) R.MGT_STAT (scSet (rd s R.MGT_STAT) (mgtBits s) 0)

/-- EVENT_TICK (R53, R55): the end of an event tick, of 16 cycles or of those that are left to the deckle tick, which comes before the next
event tick; flips are the stored words, and upsets the copies of voted
fields (R530), that soft errors reached in it, each with the bits that flipped. [Log 1: DESIGN CHOICE, 140: DESIGN CHOICE] -/
def execEventTick (flips : List RamFlip) (upsets : List (Nat × Nat)) (s : State) : Host.Outcome State Fault Refusal :=
  .next (if awake s && s.pwr.pll then (if boundaryDue s then s else eventTick s (tickCycles s) flips upsets)
    else if s.pwr.held then holdTick s else s)

/-- A rank-3 grant in cycle c may be given (R167, R168): no other rank wants the port. -/
def scrubFree (s : State) (c : Nat) : Bool := decide (s.dev = .laid) && rank2Free s c && !agingWants s c

/-- The port after a rank-3 grant in cycle c. -/
def scrubGranted (s : State) (c : Nat) : State :=
  (s.setUpd { s.upd with free := c + 1, rank := 3 }).setSrch { s.srch with granted := true }

/-- SCRUB_VISIT (R158): a rank-3 read grant in cycle cyc of the event tick. -/
def execScrubVisit (cyc : BitVec 4) (s : State) : Host.Outcome State Fault Refusal :=
  .next (let c := s.dkl.cyc + cyc.toNat
    if scrubFree s c && scrubHas s && s.srch.rewrite.isNone then scrubVisit (scrubGranted s c) c else s)

/-- SCRUB_REWRITE (R160): a further rank-3 grant rewrites the cells of the unit that waits. -/
def execScrubRewrite (cyc : BitVec 4) (s : State) : Host.Outcome State Fault Refusal :=
  .next (let c := s.dkl.cyc + cyc.toNat
    match s.srch.rewrite with
    | some a => if scrubFree s c then scrubRewrite (scrubGranted s c) a c else s
    | none => s)

end Sys2Proof.Machine
end

