-- ==== Sys2Proof/Machine/Boundary.lean ====
section
/-! DEFINITION. The rows that name one thing a boundary does: each is the deckle tick that is due, where its own cause stands (R62). -/

namespace Sys2Proof.Machine

/-- The coming boundary, where it is due and does what the row names: the whole of its actions take place, in the order of R62.
[Log 7: DEDUCED] -/
def boundaryFor (s : State) (cause : Bool) : State := if boundaryDue s && cause then boundary s [] else s

/-- LIFT_BEGIN (R99): step 2 of the coming boundary begins the lift that waits. -/
def execLiftBegin (s : State) : Host.Outcome State Fault Refusal :=
  .next (boundaryFor s (decide (s.dev = .laid) && s.mld.liftReq))

/-- LIFT_END (R99): the coming boundary is the second after the one at which the lift began, whatever number it takes. -/
def execLiftEnd (s : State) : Host.Outcome State Fault Refusal :=
  .next (boundaryFor s (liftEnds s (if s.dkl.started then s.dkl.num + 1 else s.dkl.first)))

/-- The active fences at the coming boundary (R449, R453). -/
def fenceComes (s : State) : Bool :=
  decide (s.dev = .laid) &&
    fenceDue (takeMsgs (adopt s) (tickNumber s)) (tickNumber s) (s.pair.msgs.any (fun m => m == .conflict))

/-- FENCE (R453): the active fences at the coming boundary. [Log 7: DEDUCED] -/
def execFence (s : State) : Host.Outcome State Fault Refusal := .next (boundaryFor s (fenceComes s))

/-- TAKEOVER (R454): the standby takes over at the coming boundary. [Log 7: DEDUCED] -/
def execTakeover (s : State) : Host.Outcome State Fault Refusal :=
  .next (boundaryFor s (decide (s.dev = .laid) && takeoverDue (takeMsgs (adopt s) (tickNumber s)) (tickNumber s)))

/-- COMMIT_CARRY_OUT (R320): the pending commit is due at the coming boundary. [Log 7: DEDUCED] -/
def execCommitCarryOut (s : State) : Host.Outcome State Fault Refusal := .next (boundaryFor s (commitDue s (tickNumber s)))

/-- HOLD_END (R314): the hold ends at the coming boundary. [Log 7: DEDUCED] -/
def execHoldEnd (s : State) : Host.Outcome State Fault Refusal :=
  .next (boundaryFor s (s.scn.holdEnd == some (tickNumber s)))

/-- FAULTN (R572): pair n enters fault at the coming boundary. -/
def execFaultn (n : BitVec 4) (s : State) : Host.Outcome State Fault Refusal := .next (boundaryFor s (faultDue s n.toNat))

/-- REARM (R573): pair n leaves its fault at the coming boundary. -/
def execRearm (n : BitVec 4) (s : State) : Host.Outcome State Fault Refusal := .next (boundaryFor s (rearmDue s n.toNat))

/-- The migration of a bus takes effect at the boundary that opens deckle e (R438). -/
def migDue (s : State) (e b : Nat) : Bool :=
  match SMap.get s.trl.migs b with
  | some x => x.late || decide ((x.m + 3) % 2 ^ 48 = e % 2 ^ 48)
  | none => false

/-- MIGRATION_EFFECT (R438): the migration of a bus takes effect at the coming boundary. [Log 7: DEDUCED] -/
def execMigrationEffect (bus : BitVec 11) (s : State) : Host.Outcome State Fault Refusal :=
  .next (boundaryFor s (migDue s (tickNumber s) bus.toNat))

/-- TRELLIS_DEADLINE (R433): the deadline of a bus that the device tails, at the coming boundary. [Log 7: DEDUCED] -/
def execTrellisDeadline (bus : BitVec 11) (s : State) : Host.Outcome State Fault Refusal :=
  .next (boundaryFor s (busEn (busEntry s bus.toNat) && busTail (busEntry s bus.toNat)))

/-- SUBSTITUTE_LAUNCH (R434): the substitute of a bus on a ring, due at the coming boundary. [Log 95: DEDUCED] -/
def execSubstituteLaunch (bus : BitVec 11) (ring : BitVec 1) (s : State) : Host.Outcome State Fault Refusal :=
  .next (boundaryFor s (substituteDue s (tickNumber s) bus.toNat ring.toNat))

/-- WAITE_TIMEOUT (R362): the timeout of the WAITE of sequencer n is reached at the coming boundary; whether its condition holds there is
judged there. -/
def execWaiteTimeout (n : BitVec 7) (s : State) : Host.Outcome State Fault Refusal :=
  .next (boundaryFor s (seqState s n.toNat == 4 && untilCome (seqSt s n.toNat) (tickNumber s)))

/-- WAITD_EXPIRY (R362): the WAITD of sequencer n ends at the coming boundary. -/
def execWaitdExpiry (n : BitVec 7) (s : State) : Host.Outcome State Fault Refusal :=
  .next (boundaryFor s (seqState s n.toNat == 2 && waitDue s n.toNat (tickNumber s)))

/-- WAITU_REACHED (R362): the WAITU of sequencer n ends at the coming boundary. -/
def execWaituReached (n : BitVec 7) (s : State) : Host.Outcome State Fault Refusal :=
  .next (boundaryFor s (seqState s n.toNat == 3 && waitDue s n.toNat (tickNumber s)))

/-- STALL_RELEASE (R373): group g stands as stalled for the K-th boundary in a row; whether it still is at the coming boundary is judged
there, after the signals and starts that it brings. [Log 7: DEDUCED] -/
def execStallRelease (g : BitVec 3) (s : State) : Host.Outcome State Fault Refusal :=
  .next (boundaryFor s (groupStalled s g.toNat [] && decide (rdF s R.SEQ_CFG 7 0 ≤ rdF s (R.SEQ_GRPg_CNT g.toNat) 7 0 + 1)))

end Sys2Proof.Machine
end

