-- ==== Sys2Proof/Machine/Dispatch.lean ====
section
/-! DEFINITION. One arm per command. -/

namespace Sys2Proof.Machine

def exec (i : Instr) (s : State) : Host.Outcome State Fault Refusal :=
  match i with
  | .pwrOkFall => Sys2Proof.Machine.execPwrOkFall s
  | .rstNFall => Sys2Proof.Machine.execRstNFall s
  | .rstNRise straps refs => Sys2Proof.Machine.execRstNRise straps refs s
  | .fabricPllLock => Sys2Proof.Machine.execFabricPllLock s
  | .pllLockTimeout => Sys2Proof.Machine.execPllLockTimeout s
  | .dramInitDone => Sys2Proof.Machine.execDramInitDone s
  | .dramInitTimeout => Sys2Proof.Machine.execDramInitTimeout s
  | .pcieLinkUp gen width => Sys2Proof.Machine.execPcieLinkUp gen width s
  | .enterBare => Sys2Proof.Machine.execEnterBare s
  | .perstNAssert => Sys2Proof.Machine.execPerstNAssert s
  | .perstNDeassert => Sys2Proof.Machine.execPerstNDeassert s
  | .functionLevelReset fn => Sys2Proof.Machine.execFunctionLevelReset fn s
  | .pllLossOfLock => Sys2Proof.Machine.execPllLossOfLock s
  | .sensorSample temps => Sys2Proof.Machine.execSensorSample temps s
  | .thermalTrip => Sys2Proof.Machine.execThermalTrip s
  | .powerMonitorSample mw => Sys2Proof.Machine.execPowerMonitorSample mw s
  | .mgtRead k n => Sys2Proof.Machine.execMgtRead k n s
  | .tapInstruction ins trst => Sys2Proof.Machine.execTapInstruction ins trst s
  | .load fn v => Sys2Proof.Machine.execLoad fn v s
  | .abort fn v => Sys2Proof.Machine.execAbort fn v s
  | .clear fn v => Sys2Proof.Machine.execClear fn v s
  | .lift fn v => Sys2Proof.Machine.execLift fn v s
  | .loaderReadError => Sys2Proof.Machine.execLoaderReadError s
  | .imageComplete bytes => Sys2Proof.Machine.execImageComplete bytes s
  | .checkingEnd => Sys2Proof.Machine.execCheckingEnd s
  | .liftBegin => Sys2Proof.Machine.execLiftBegin s
  | .liftEnd => Sys2Proof.Machine.execLiftEnd s
  | .deckleTick wck => Sys2Proof.Machine.execDeckleTick wck s
  | .eventTick flips upsets => Sys2Proof.Machine.execEventTick flips upsets s
  | .parterreWindow gains descs => Sys2Proof.Machine.execParterreWindow gains descs s
  | .searchIssue cyc => Sys2Proof.Machine.execSearchIssue cyc s
  | .searchResult pipe => Sys2Proof.Machine.execSearchResult pipe s
  | .diagGo fn v => Sys2Proof.Machine.execDiagGo fn v s
  | .scrubVisit cyc => Sys2Proof.Machine.execScrubVisit cyc s
  | .scrubRewrite cyc => Sys2Proof.Machine.execScrubRewrite cyc s
  | .scrubStall => Sys2Proof.Machine.execScrubStall s
  | .updCmdWord fn v => Sys2Proof.Machine.execUpdCmdWord fn v s
  | .updFlush fn v => Sys2Proof.Machine.execUpdFlush fn v s
  | .write cyc => Sys2Proof.Machine.execWrite cyc s
  | .writeAd cyc => Sys2Proof.Machine.execWriteAd cyc s
  | .invalidate cyc => Sys2Proof.Machine.execInvalidate cyc s
  | .validate cyc => Sys2Proof.Machine.execValidate cyc s
  | .replace cyc => Sys2Proof.Machine.execReplace cyc s
  | .move cyc => Sys2Proof.Machine.execMove cyc s
  | .mark cyc => Sys2Proof.Machine.execMark cyc s
  | .quireCellWrite cyc => Sys2Proof.Machine.execQuireCellWrite cyc s
  | .frameReceive port bytes pcsErr fecBad cyc => Sys2Proof.Machine.execFrameReceive port bytes pcsErr fecBad cyc s
  | .forwardDecision port => Sys2Proof.Machine.execForwardDecision port s
  | .sourceLookup port => Sys2Proof.Machine.execSourceLookup port s
  | .learningRequest cyc => Sys2Proof.Machine.execLearningRequest cyc s
  | .hold fn v => Sys2Proof.Machine.execHold fn v s
  | .agingTick => Sys2Proof.Machine.execAgingTick s
  | .agingRemoval cyc => Sys2Proof.Machine.execAgingRemoval cyc s
  | .staLookup fn => Sys2Proof.Machine.execStaLookup fn s
  | .staRead fn => Sys2Proof.Machine.execStaRead fn s
  | .staWrite fn => Sys2Proof.Machine.execStaWrite fn s
  | .staDelete fn => Sys2Proof.Machine.execStaDelete fn s
  | .staMove fn => Sys2Proof.Machine.execStaMove fn s
  | .staHash fn => Sys2Proof.Machine.execStaHash fn s
  | .flushGo fn v => Sys2Proof.Machine.execFlushGo fn v s
  | .flushDone => Sys2Proof.Machine.execFlushDone s
  | .tableRead fn table index => Sys2Proof.Machine.execTableRead fn table index s
  | .tableWrite fn table index => Sys2Proof.Machine.execTableWrite fn table index s
  | .ethPortCfgWrite fn p v => Sys2Proof.Machine.execEthPortCfgWrite fn p v s
  | .ethLinkUp p fec => Sys2Proof.Machine.execEthLinkUp p fec s
  | .ethLinkDown p => Sys2Proof.Machine.execEthLinkDown p s
  | .anFail p => Sys2Proof.Machine.execAnFail p s
  | .frameLaunch port cyc bad => Sys2Proof.Machine.execFrameLaunch port cyc bad s
  | .streamDescRead fn table n => Sys2Proof.Machine.execStreamDescRead fn table n s
  | .streamDescWrite fn table n => Sys2Proof.Machine.execStreamDescWrite fn table n s
  | .stageA upsets ecc waits => Sys2Proof.Machine.execStageA upsets ecc waits s
  | .stageC upsets waits => Sys2Proof.Machine.execStageC upsets waits s
  | .packetise => Sys2Proof.Machine.execPacketise s
  | .mixTier k upsets => Sys2Proof.Machine.execMixTier k upsets s
  | .liveCommand fn v => Sys2Proof.Machine.execLiveCommand fn v s
  | .mixLiveFlush fn v => Sys2Proof.Machine.execMixLiveFlush fn v s
  | .couchWrite addr v => Sys2Proof.Machine.execCouchWrite addr v s
  | .couchCheck fn v => Sys2Proof.Machine.execCouchCheck fn v s
  | .couchCheckDone => Sys2Proof.Machine.execCouchCheckDone s
  | .stripSubmit fn addr v => Sys2Proof.Machine.execStripSubmit fn addr v s
  | .meterRecordRead fn strip w => Sys2Proof.Machine.execMeterRecordRead fn strip w s
  | .hostCommit fn v => Sys2Proof.Machine.execHostCommit fn v s
  | .commitFrame n frame uncorr => Sys2Proof.Machine.execCommitFrame n frame uncorr s
  | .commitCarryOut => Sys2Proof.Machine.execCommitCarryOut s
  | .holdEnd => Sys2Proof.Machine.execHoldEnd s
  | .zoneDescriptorSubmit fn zone w v => Sys2Proof.Machine.execZoneDescriptorSubmit fn zone w v s
  | .overrideSetSubmit fn set k v => Sys2Proof.Machine.execOverrideSetSubmit fn set k v s
  | .zoneStatusRead fn hi => Sys2Proof.Machine.execZoneStatusRead fn hi s
  | .start fn n v => Sys2Proof.Machine.execStart fn n v s
  | .programCheckEnd n => Sys2Proof.Machine.execProgramCheckEnd n s
  | .stop fn n v => Sys2Proof.Machine.execStop fn n v s
  | .kick fn n v => Sys2Proof.Machine.execKick fn n v s
  | .nop n => Sys2Proof.Machine.execNop n s
  | .halt n => Sys2Proof.Machine.execHalt n s
  | .yieldRow n => Sys2Proof.Machine.execYieldRow n s
  | .waitd n => Sys2Proof.Machine.execWaitd n s
  | .waitu n => Sys2Proof.Machine.execWaitu n s
  | .waite n => Sys2Proof.Machine.execWaite n s
  | .clrc n => Sys2Proof.Machine.execClrc n s
  | .sig n => Sys2Proof.Machine.execSig n s
  | .flags n => Sys2Proof.Machine.execFlags n s
  | .ldi n => Sys2Proof.Machine.execLdi n s
  | .ldih n => Sys2Proof.Machine.execLdih n s
  | .alu n => Sys2Proof.Machine.execAlu n s
  | .addi n => Sys2Proof.Machine.execAddi n s
  | .rdin n => Sys2Proof.Machine.execRdin n s
  | .br n => Sys2Proof.Machine.execBr n s
  | .brb n => Sys2Proof.Machine.execBrb n s
  | .commit n => Sys2Proof.Machine.execCommit n s
  | .live n => Sys2Proof.Machine.execLive n s
  | .play n => Sys2Proof.Machine.execPlay n s
  | .raise n => Sys2Proof.Machine.execRaise n s
  | .waiteTimeout n => Sys2Proof.Machine.execWaiteTimeout n s
  | .waitdExpiry n => Sys2Proof.Machine.execWaitdExpiry n s
  | .waituReached n => Sys2Proof.Machine.execWaituReached n s
  | .stallRelease g => Sys2Proof.Machine.execStallRelease g s
  | .restart fn n v => Sys2Proof.Machine.execRestart fn n v s
  | .edlPnpWrite fn n v => Sys2Proof.Machine.execEdlPnpWrite fn n v s
  | .gen1Write fn n v => Sys2Proof.Machine.execGen1Write fn n v s
  | .parleyStart n => Sys2Proof.Machine.execParleyStart n s
  | .capabilityPage n lane page => Sys2Proof.Machine.execCapabilityPage n lane page s
  | .nomodeRetry n => Sys2Proof.Machine.execNomodeRetry n s
  | .trainingSuccess n => Sys2Proof.Machine.execTrainingSuccess n s
  | .trainingTimeout n => Sys2Proof.Machine.execTrainingTimeout n s
  | .marker n bytes cyc => Sys2Proof.Machine.execMarker n bytes cyc s
  | .echo n bytes cyc => Sys2Proof.Machine.execEcho n bytes cyc s
  | .pnp n bytes at_ => Sys2Proof.Machine.execPnp n bytes at_ s
  | .leave n bytes cut => Sys2Proof.Machine.execLeave n bytes cut s
  | .abortSet n bytes cut => Sys2Proof.Machine.execAbortSet n bytes cut s
  | .lossOfSignal n cut => Sys2Proof.Machine.execLossOfSignal n cut s
  | .lossOfLock n cut => Sys2Proof.Machine.execLossOfLock n cut s
  | .markerMissing n cut => Sys2Proof.Machine.execMarkerMissing n cut s
  | .lockChange => Sys2Proof.Machine.execLockChange s
  | .audio n frame uncorr => Sys2Proof.Machine.execAudio n frame uncorr s
  | .tsum n frame uncorr => Sys2Proof.Machine.execTsum n frame uncorr s
  | .ethChunk n frame uncorr => Sys2Proof.Machine.execEthChunk n frame uncorr s
  | .loopReq n frame uncorr => Sys2Proof.Machine.execLoopReq n frame uncorr s
  | .loopRsp n frame uncorr => Sys2Proof.Machine.execLoopRsp n frame uncorr s
  | .mailbox n frame uncorr => Sys2Proof.Machine.execMailbox n frame uncorr s
  | .mailboxSend fn n v => Sys2Proof.Machine.execMailboxSend fn n v s
  | .mailboxRelease fn n v => Sys2Proof.Machine.execMailboxRelease fn n v s
  | .flowDescRead fn rx n => Sys2Proof.Machine.execFlowDescRead fn rx n s
  | .flowDescWrite fn rx n => Sys2Proof.Machine.execFlowDescWrite fn rx n s
  | .trellisDeadline bus => Sys2Proof.Machine.execTrellisDeadline bus s
  | .substituteLaunch bus ring => Sys2Proof.Machine.execSubstituteLaunch bus ring s
  | .hostMigration fn v => Sys2Proof.Machine.execHostMigration fn v s
  | .migrate n frame uncorr => Sys2Proof.Machine.execMigrate n frame uncorr s
  | .migrationEffect bus => Sys2Proof.Machine.execMigrationEffect bus s
  | .busEntryRead fn bus => Sys2Proof.Machine.execBusEntryRead fn bus s
  | .busEntryWrite fn bus => Sys2Proof.Machine.execBusEntryWrite fn bus s
  | .lease n frame uncorr => Sys2Proof.Machine.execLease n frame uncorr s
  | .leaseAck n frame uncorr => Sys2Proof.Machine.execLeaseAck n frame uncorr s
  | .fence => Sys2Proof.Machine.execFence s
  | .takeover => Sys2Proof.Machine.execTakeover s
  | .yieldPair fn v => Sys2Proof.Machine.execYieldPair fn v s
  | .pairHold fn v => Sys2Proof.Machine.execPairHold fn v s
  | .alone fn v => Sys2Proof.Machine.execAlone fn v s
  | .mirror n frame uncorr => Sys2Proof.Machine.execMirror n frame uncorr s
  | .mirrorSetApply set => Sys2Proof.Machine.execMirrorSetApply set s
  | .tbRateWrite fn n v cyc => Sys2Proof.Machine.execTbRateWrite fn n v cyc s
  | .tbStep fn n v cyc => Sys2Proof.Machine.execTbStep fn n v cyc s
  | .tbNsRead fn n cyc => Sys2Proof.Machine.execTbNsRead fn n cyc s
  | .acq fn v cyc => Sys2Proof.Machine.execAcq fn v cyc s
  | .hostWatchdogExpiry => Sys2Proof.Machine.execHostWatchdogExpiry s
  | .wordClockLoss => Sys2Proof.Machine.execWordClockLoss s
  | .pulse n cyc => Sys2Proof.Machine.execPulse n cyc s
  | .pstartWrite fn n v cyc => Sys2Proof.Machine.execPstartWrite fn n v cyc s
  | .capture k falling cyc => Sys2Proof.Machine.execCapture k falling cyc s
  | .captureNs0Read fn k => Sys2Proof.Machine.execCaptureNs0Read fn k s
  | .captureInfoRead fn k => Sys2Proof.Machine.execCaptureInfoRead fn k s
  | .playerStart fn n msg => Sys2Proof.Machine.execPlayerStart fn n msg s
  | .playerStop fn n msg => Sys2Proof.Machine.execPlayerStop fn n msg s
  | .deadlineMiss req unit => Sys2Proof.Machine.execDeadlineMiss req unit s
  | .dstScrubRead corr unc => Sys2Proof.Machine.execDstScrubRead corr unc s
  | .dstScrubWriteback => Sys2Proof.Machine.execDstScrubWriteback s
  | .dstScrubStall => Sys2Proof.Machine.execDstScrubStall s
  | .apertureWrite unit off data => Sys2Proof.Machine.execApertureWrite unit off data s
  | .apertureRead addr corr unc => Sys2Proof.Machine.execApertureRead addr corr unc s
  | .apertureReadTimeout => Sys2Proof.Machine.execApertureReadTimeout s
  | .registerWrite fn word v be cyc => Sys2Proof.Machine.execRegisterWrite fn word v be cyc s
  | .setAliasWrite fn word v cyc => Sys2Proof.Machine.execSetAliasWrite fn word v cyc s
  | .clearAliasWrite fn word v cyc => Sys2Proof.Machine.execClearAliasWrite fn word v cyc s
  | .toggleAliasWrite fn word v cyc => Sys2Proof.Machine.execToggleAliasWrite fn word v cyc s
  | .clearBySequence fn word v => Sys2Proof.Machine.execClearBySequence fn word v s
  | .wideReq fn v cyc => Sys2Proof.Machine.execWideReq fn v cyc s
  | .wideData3Read fn => Sys2Proof.Machine.execWideData3Read fn s
  | .indSelAddrWrite fn addr v => Sys2Proof.Machine.execIndSelAddrWrite fn addr v s
  | .indDataRead fn => Sys2Proof.Machine.execIndDataRead fn s
  | .indDataWrite fn v => Sys2Proof.Machine.execIndDataWrite fn v s
  | .indFetch fn cyc corr unc => Sys2Proof.Machine.execIndFetch fn cyc corr unc s
  | .indtmo fn => Sys2Proof.Machine.execIndtmo fn s
  | .lockSet fn v => Sys2Proof.Machine.execLockSet fn v s
  | .tpartWrite fn v => Sys2Proof.Machine.execTpartWrite fn v s
  | .outenWrite fn v => Sys2Proof.Machine.execOutenWrite fn v s
  | .muteWrite fn v => Sys2Proof.Machine.execMuteWrite fn v s
  | .dmaTailWrite fn c v => Sys2Proof.Machine.execDmaTailWrite fn c v s
  | .dmaTransmit c desc frame => Sys2Proof.Machine.execDmaTransmit c desc frame s
  | .dmaReceive desc memErr => Sys2Proof.Machine.execDmaReceive desc memErr s
  | .dmaCopy c desc data n memErr corr unc => Sys2Proof.Machine.execDmaCopy c desc data n memErr corr unc s
  | .pclr fn w v => Sys2Proof.Machine.execPclr fn w v s
  | .setPending fn w v => Sys2Proof.Machine.execSetPending fn w v s
  | .doorbell fn t v => Sys2Proof.Machine.execDoorbell fn t v s
  | .ack fn t => Sys2Proof.Machine.execAck fn t s
  | .eoi fn t => Sys2Proof.Machine.execEoi fn t s
  | .ringBaseWrite fn t p v => Sys2Proof.Machine.execRingBaseWrite fn t p v s
  | .consWrite fn t p v => Sys2Proof.Machine.execConsWrite fn t p v s
  | .sourceConfigWrite fn n v => Sys2Proof.Machine.execSourceConfigWrite fn n v s
  | .targetBindWrite fn hi v => Sys2Proof.Machine.execTargetBindWrite fn hi v s
  | .dciFilterChange n chanB level late => Sys2Proof.Machine.execDciFilterChange n chanB level late s
  | .faultn n => Sys2Proof.Machine.execFaultn n s
  | .rearm n => Sys2Proof.Machine.execRearm n s
  | .gpioLevelChange pin level => Sys2Proof.Machine.execGpioLevelChange pin level s
  | .pwrOkRise => Sys2Proof.Machine.execPwrOkRise s
  | .msixVectorUnmask fn t w => Sys2Proof.Machine.execMsixVectorUnmask fn t w s
  | .agingSweepEnd => Sys2Proof.Machine.execAgingSweepEnd s
  | .apertureWriteServed corr unc => Sys2Proof.Machine.execApertureWriteServed corr unc s
  | .uncorrectableCodeword port => Sys2Proof.Machine.execUncorrectableCodeword port s

end Sys2Proof.Machine
end

