-- ==== Sys2Proof/WellFormed.lean ====
section
/-! DEFINITION. The well-formed commands: those whose operands the interfaces of the part can bring (field widths, set and page
lengths, ranges of indexes). -/

namespace Sys2Proof

/-- The granules of an Edarlink frame (R388): a header granule, the LEN payload granules it announces, and at most further granules that
belong to no frame. LEN stands in bits [12:4] of either header (R389, R410). -/
def frameWf (bs : List Byte) : Bool :=
  let len := ((bs[0]?).getD 0).toNat / 16 + ((bs[1]?).getD 0).toNat % 32 * 16
  decide (bs.length % 16 = 0) && decide (16 * (1 + len) ≤ bs.length)

/-- The header granule of the frame that a loss cuts (R391). -/
def cutWf (cut : Option (List Byte)) : Bool :=
  match cut with
  | some h => h.length == 16
  | none => true

/-- An Ethernet port 0 to 15 or a tunnel port 16 to 19. -/
def portWf (p : BitVec 5) : Bool := decide (p.toNat < 20)

/-- A copy of a voted field (R530) and a flip of some of its bits: key 4096 × FIELD + 4 × index + copy. -/
def upsetWf (e : Nat × Nat) : Bool :=
  decide (1 ≤ e.1 / 4096 ∧ e.1 / 4096 ≤ 7) && decide (e.1 % 4 < 3) && (e.1 / 4096 == 1 || e.1 % 4096 / 4 == 0) && decide (e.2 < 2 ^ 32)

/-- The bits of an item of a unit (R144, R145, R147). -/
def UnitItem.width (x : UnitItem) : Nat :=
  match x with
  | .value | .mask | .shadowValue | .shadowMask => 96
  | .shadowParity => 8
  | .valid => 3
  | .ad => 64
  | .adParity => 2

/-- A flip within the words of R144, R190 and R203. -/
def RamFlip.wf (f : RamFlip) : Bool :=
  match f with
  | .unit _ item bits => decide (bits < 2 ^ item.width)
  | .station _ bits => decide (bits < 2 ^ 128)
  | .table t i bits =>
    if t = 0 then decide (i.toNat < 4096 ∧ bits < 2 ^ 66)
    else if t = 1 then decide (i.toNat < 1024 ∧ bits < 2 ^ 66)
    else if t = 2 then decide (bits < 2 ^ 66)
    else decide (i.toNat < 16384 ∧ bits < 2 ^ 33)

/-- A strip upset within the tables of R309. -/
def StripUpset.wf (u : StripUpset) : Bool :=
  match u with
  | .desc n => decide (n < 32768)
  | .cset n => decide (n < 65536)
  | .sec n => decide (n < 262144)
  | .det n => decide (n < 16384)
  | .pool _ strip _ => decide (strip < 32768)
  | .unit strip _ _ _ => decide (strip < 32768)
  | .unfinished strip => decide (strip < 32768)

/-- A mix upset within the planes of R263. -/
def MixUpset.wf (u : MixUpset) : Bool :=
  match u with
  | .word a => decide (a < 0x2004000)
  | .input c src i => decide (c < 16 ∧ src < 16384 ∧ i < 16)
  | .dest d i => decide (d < 16384 ∧ i < 16)

/-- A deep-store request of a strip, stream or player that exists (R492). -/
def DstReq.wf (r : DstReq) : Bool :=
  match r with
  | .line _ strip _ => decide (strip < 32768)
  | .felt _ stream _ _ => decide (stream < 4096)
  | .player n => decide (n < 64)

/-- The findings name each unit at most once. -/
def eccWf (l : List (BitVec 29 × BitVec 4 × BitVec 4)) : Bool := decide ((l.map Prod.fst).Nodup)

/-- A descriptor of 32 bytes (R532). -/
def descWf (d : List Word) : Bool := d.length == 8

/-- The well-formed commands. -/
def Instr.wf (i : Instr) : Bool :=
  match i with
  | .pwrOkFall => true
  | .rstNFall => true
  | .rstNRise _ _ => true
  | .fabricPllLock => true
  | .pllLockTimeout => true
  | .dramInitDone => true
  | .dramInitTimeout => true
  | .pcieLinkUp gen width => decide (1 ≤ gen.toNat ∧ gen.toNat ≤ 5) && (width == 1 || width == 2 || width == 4 || width == 8)
  | .enterBare => true
  | .perstNAssert => true
  | .perstNDeassert => true
  | .functionLevelReset _ => true
  | .pllLossOfLock => true
  | .sensorSample temps => temps.length == 8
  | .thermalTrip => true
  | .powerMonitorSample _ => true
  | .mgtRead _ _ => true
  | .tapInstruction _ _ => true
  | .load _ _ => true
  | .abort _ _ => true
  | .clear _ _ => true
  | .lift _ _ => true
  | .loaderReadError => true
  | .imageComplete _ => true
  | .checkingEnd => true
  | .liftBegin => true
  | .liftEnd => true
  | .deckleTick _ => true
  | .eventTick flips upsets => flips.all RamFlip.wf && upsets.all upsetWf
  | .parterreWindow _ _ => true
  | .searchIssue _ => true
  | .searchResult _ => true
  | .diagGo _ _ => true
  | .scrubVisit _ => true
  | .scrubRewrite _ => true
  | .scrubStall => true
  | .updCmdWord _ _ => true
  | .updFlush _ _ => true
  | .write _ => true
  | .writeAd _ => true
  | .invalidate _ => true
  | .validate _ => true
  | .replace _ => true
  | .move _ => true
  | .mark _ => true
  | .quireCellWrite _ => true
  | .frameReceive _ _ _ _ _ => true
  | .forwardDecision port => portWf port
  | .sourceLookup port => portWf port
  | .learningRequest _ => true
  | .hold _ _ => true
  | .agingTick => true
  | .agingRemoval _ => true
  | .staLookup _ => true
  | .staRead _ => true
  | .staWrite _ => true
  | .staDelete _ => true
  | .staMove _ => true
  | .staHash _ => true
  | .flushGo _ _ => true
  | .flushDone => true
  | .tableRead _ _ _ => true
  | .tableWrite _ _ _ => true
  | .ethPortCfgWrite _ _ _ => true
  | .ethLinkUp _ _ => true
  | .ethLinkDown _ => true
  | .anFail _ => true
  | .frameLaunch port _ _ => portWf port
  | .streamDescRead _ _ _ => true
  | .streamDescWrite _ _ _ => true
  | .stageA upsets ecc _ => upsets.all StripUpset.wf && eccWf ecc
  | .stageC upsets _ => upsets.all StripUpset.wf
  | .packetise => true
  | .mixTier _ upsets => upsets.all MixUpset.wf
  | .liveCommand _ _ => true
  | .mixLiveFlush _ _ => true
  | .couchWrite _ _ => true
  | .couchCheck _ _ => true
  | .couchCheckDone => true
  | .stripSubmit _ _ _ => true
  | .meterRecordRead _ _ _ => true
  | .hostCommit _ _ => true
  | .commitFrame _ f _ => frameWf f
  | .commitCarryOut => true
  | .holdEnd => true
  | .zoneDescriptorSubmit _ _ _ _ => true
  | .overrideSetSubmit _ _ _ _ => true
  | .zoneStatusRead _ _ => true
  | .start _ _ _ => true
  | .programCheckEnd _ => true
  | .stop _ _ _ => true
  | .kick _ _ _ => true
  | .nop _ => true
  | .halt _ => true
  | .yieldRow _ => true
  | .waitd _ => true
  | .waitu _ => true
  | .waite _ => true
  | .clrc _ => true
  | .sig _ => true
  | .flags _ => true
  | .ldi _ => true
  | .ldih _ => true
  | .alu _ => true
  | .addi _ => true
  | .rdin _ => true
  | .br _ => true
  | .brb _ => true
  | .commit _ => true
  | .live _ => true
  | .play _ => true
  | .raise _ => true
  | .waiteTimeout _ => true
  | .waitdExpiry _ => true
  | .waituReached _ => true
  | .stallRelease _ => true
  | .restart _ _ _ => true
  | .edlPnpWrite _ _ _ => true
  | .gen1Write _ _ _ => true
  | .parleyStart _ => true
  | .capabilityPage _ _ page => page.length == 64
  | .nomodeRetry _ => true
  | .trainingSuccess _ => true
  | .trainingTimeout _ => true
  | .marker _ bytes _ => bytes.length == 64 || bytes.length == 32
  | .echo _ bytes _ => bytes.length == 32
  | .pnp _ bytes at_ => bytes.length == 16 && (match at_ with | .parley => true | .mode cut => cutWf cut)
  | .leave _ bytes cut => bytes.length == 16 && cutWf cut
  | .abortSet _ bytes cut => bytes.length == 16 && cutWf cut
  | .lossOfSignal _ cut => cutWf cut
  | .lossOfLock _ cut => cutWf cut
  | .markerMissing _ cut => cutWf cut
  | .lockChange => true
  | .audio _ f _ => frameWf f
  | .tsum _ f _ => frameWf f
  | .ethChunk _ f _ => frameWf f
  | .loopReq _ f _ => frameWf f
  | .loopRsp _ f _ => frameWf f
  | .mailbox _ f _ => frameWf f
  | .mailboxSend _ _ _ => true
  | .mailboxRelease _ _ _ => true
  | .flowDescRead _ _ _ => true
  | .flowDescWrite _ _ _ => true
  | .trellisDeadline _ => true
  | .substituteLaunch _ _ => true
  | .hostMigration _ _ => true
  | .migrate _ f _ => frameWf f
  | .migrationEffect _ => true
  | .busEntryRead _ _ => true
  | .busEntryWrite _ _ => true
  | .lease _ f _ => frameWf f
  | .leaseAck _ f _ => frameWf f
  | .fence => true
  | .takeover => true
  | .yieldPair _ _ => true
  | .pairHold _ _ => true
  | .alone _ _ => true
  | .mirror _ f _ => frameWf f
  | .mirrorSetApply _ => true
  | .tbRateWrite _ _ _ _ => true
  | .tbStep _ _ _ _ => true
  | .tbNsRead _ _ _ => true
  | .acq _ _ _ => true
  | .hostWatchdogExpiry => true
  | .wordClockLoss => true
  | .pulse _ _ => true
  | .pstartWrite _ _ _ _ => true
  | .capture _ _ _ => true
  | .captureNs0Read _ _ => true
  | .captureInfoRead _ _ => true
  | .playerStart _ _ _ => true
  | .playerStop _ _ _ => true
  | .deadlineMiss req _ => req.wf
  | .dstScrubRead _ _ => true
  | .dstScrubWriteback => true
  | .dstScrubStall => true
  | .apertureWrite _ off data => decide (1 ≤ data.length ∧ off.toNat + data.length ≤ 32)
  | .apertureRead _ _ _ => true
  | .apertureReadTimeout => true
  | .registerWrite _ _ _ _ _ => true
  | .setAliasWrite _ _ _ _ => true
  | .clearAliasWrite _ _ _ _ => true
  | .toggleAliasWrite _ _ _ _ => true
  | .clearBySequence _ _ _ => true
  | .wideReq _ _ _ => true
  | .wideData3Read _ => true
  | .indSelAddrWrite _ _ _ => true
  | .indDataRead _ => true
  | .indDataWrite _ _ => true
  | .indFetch _ _ _ _ => true
  | .indtmo _ => true
  | .lockSet _ _ => true
  | .tpartWrite _ _ => true
  | .outenWrite _ _ => true
  | .muteWrite _ _ => true
  | .dmaTailWrite _ _ _ => true
  | .dmaTransmit _ desc frame => descWf desc && (match frame with | some b => decide (b.length ≤ 16383) | none => true)
  | .dmaReceive desc _ => descWf desc
  | .dmaCopy _ desc _ _ _ _ _ => descWf desc
  | .pclr _ _ _ => true
  | .setPending _ _ _ => true
  | .doorbell _ _ _ => true
  | .ack _ _ => true
  | .eoi _ _ => true
  | .ringBaseWrite _ _ _ _ => true
  | .consWrite _ _ _ _ => true
  | .sourceConfigWrite _ _ _ => true
  | .targetBindWrite _ _ _ => true
  | .dciFilterChange _ _ _ _ => true
  | .faultn _ => true
  | .rearm _ => true
  | .gpioLevelChange _ _ => true
  | .pwrOkRise => true
  | .msixVectorUnmask _ _ _ => true
  | .agingSweepEnd => true
  | .apertureWriteServed _ _ => true
  | .uncorrectableCodeword port => portWf port

end Sys2Proof
end

