-- ==== Sys2Proof/Safety.lean ====
section
/-! DEFINITION. What a safe run is: the stored registers and the deep store keep their canonical form, and every command that waits is
one that the interfaces of the part can bring. -/

namespace Sys2Proof

/-- The canonical form of what a state stores: equal registers and equal deep stores are equal data. -/
def Canonical (s : Machine.State) : Prop := Machine.Registers.wf s.regs = true ∧ Machine.Memory.wf s.dst = true

/-- A state of a safe run. -/
def Safe (s : Machine.State) : Prop := Canonical s ∧ ∀ c ∈ s.pending, c.wf = true

end Sys2Proof
end

