-- ==== Sys2Proof/Certificates/Slice0/Obligations.lean ====
section
/-! DEFINITION. The statements about the model, for the provers. What a command does is stated as the next state it answers with:
what that state holds, and that everything else stands as before. -/

namespace Sys2Proof.Claims

open Sys2Proof.Machine

/-- Every register but those of a list reads as before. -/
def RegsBut (s t : State) (os : List Nat) : Prop := ∀ o, o ∉ os → rd t o = rd s o

/-- A state after a reset: every register at its reset value, nothing of a mould and nothing in the deep store, and every part but the power state, the levels at the
pins, HALT_N, the TAP instruction, the answers handed out, the counter of free values and the queue as State.reset has it (R3, R16). -/
def AfterReset (t : State) : Prop := (∀ o, rd t o = regReset (o % 0x400000)) ∧ t.dev = .bare ∧ t.dst = [] ∧ t.mld.items = [] ∧
  t = ((((((State.reset.setPwr t.pwr).setOut t.out).setAns t.ans).setFree t.free).setPending t.pending).setInp
    { State.reset.inp with ext := t.inp.ext, dciPin := t.inp.dciPin, dciSeen := t.inp.dciSeen }).setMgt { State.reset.mgt with halt := t.mgt.halt, tap := t.mgt.tap }

/-- The levels at the pins from outside stand. -/
def SamePins (s t : State) : Prop := t.inp.ext = s.inp.ext ∧ t.inp.dciPin = s.inp.dciPin ∧ t.inp.dciSeen = s.inp.dciSeen

/-- The commands that bring a deckle boundary: the deckle tick, and the rows that name one thing a boundary does (R62). -/
def Boundaries : Instr → Prop
  | .deckleTick _ | .liftBegin | .liftEnd | .fence | .takeover | .commitCarryOut | .holdEnd | .faultn _ | .rearm _ | .migrationEffect _
  | .trellisDeadline _ | .substituteLaunch _ _ | .waiteTimeout _ | .waitdExpiry _ | .waituReached _ | .stallRelease _ => True
  | _ => False

/-- The commands that bring the device into reset, or into the reset hold (R96, R593, R601). -/
def Resets (c : Instr) : Prop :=
  Boundaries c ∨ match c with
    | .pwrOkFall | .rstNFall | .rstNRise _ _ | .pllLossOfLock | .thermalTrip => True
    | _ => False

/-- The commands by which a write reaches `MLD_CTL`, whose commands move the loader (R70). -/
def WritesLoader : Instr → Prop
  | .load _ _ | .abort _ _ | .clear _ _ | .lift _ _ | .registerWrite _ _ _ _ _ | .setAliasWrite _ _ _ _ | .clearAliasWrite _ _ _ _
  | .toggleAliasWrite _ _ _ _ | .clearBySequence _ _ _ | .wideReq _ _ _ | .indSelAddrWrite _ _ _ | .indDataWrite _ _
  | .lockSet _ _ | .tpartWrite _ _ | .outenWrite _ _ | .muteWrite _ _ | .dmaTailWrite _ _ _ | .mirrorSetApply _ => True
  | _ => False

/-- The changes of the device state, each with its causes (R70). -/
def StateMove (c : Instr) (a b : DevState) : Prop :=
  (b = .bare ∧ Resets c) ∨
  (((a = .bare ∧ b = .laying) ∨ (a = .refused ∧ b = .laying) ∨ (a = .refused ∧ b = .bare)) ∧ WritesLoader c) ∨
  (a = .laying ∧ b = .bare ∧ (WritesLoader c ∨ c = .loaderReadError ∨ c = .perstNAssert)) ∨
  (a = .laying ∧ b = .checking ∧ ∃ l, c = .imageComplete l) ∨
  (a = .checking ∧ (b = .laid ∨ b = .refused) ∧ c = .checkingEnd) ∨
  (a = .laid ∧ b = .lifting ∧ Boundaries c) ∨
  (a = .lifting ∧ (b = .bare ∨ b = .laying) ∧ Boundaries c)

/-- The commands that write bytes of the deep store, or clear it (R79, R245, R490, R492, R500, R506). -/
def WritesStore : Instr → Prop
  | .apertureWriteServed _ _ | .forwardDecision _ | .stageA _ _ _ | .stageC _ _ | .deadlineMiss _ _ | .imageComplete _ | .dramInitDone
  | .pwrOkFall | .rstNFall | .rstNRise _ _ => True
  | _ => False

/-- The parts that most commands leave alone stand as before: the queue, the device state, the deckle number and the deep store; and the
stored registers and the deep store keep their canonical form. -/
def KeepsMain (s t : State) : Prop :=
  t.pending = s.pending ∧ t.dev = s.dev ∧ t.dkl.num = s.dkl.num ∧ t.dst = s.dst ∧ Canonical t

/-- A host write takes effect at once, and is not mirrored: the device is not an active member of a pair (R462, R464). -/
abbrev AtOnce (s : State) : Prop := rdB s R.PAIR_CFG 0 = false ∨ pairState s ≠ 1

/-- The event controller's registers that a target's return to reset writes: its ring descriptors, its running priorities and the active
bits (R73, R537, R558). -/
def TargetReg (o : Nat) : Prop := (0x10200 ≤ o ∧ o < 0x10240) ∨ (0x18000 ≤ o ∧ o < 0x19000)

/-- The update port took the beats of a list, in their order: each joins the beats that a search issued late enough sees (R155, R186). -/
def Landed (s t : State) (l : List ArrBeat) : Prop := t.srch.beats = l.foldl (fun m b => insBeat b m) s.srch.beats

/-- The update port is free again from cycle c on, and its last transfer was of the rank given (R167). -/
def PortFreeAt (t : State) (c rank : Nat) : Prop := t.upd.free = c ∧ t.upd.rank = rank

/-- The DMA channels that are bound to a function (R538). -/
def boundTo (s : State) (f : Nat) : List Nat := (List.range 8).filter (fun c => dmaFn s c == f)

/-- The two requests of a finding of the scrubber in cycle c: bits of WMK_STAT with the word that names the last, and source 66 (R158, R163). -/
def scrubFinding (c bits : Nat) (lasts : List (Nat × Word)) (tenant : Nat) : List (Nat × HwReq) :=
  [(4 * c, .cond R.WMK_STAT 512 (BitVec.ofNat 32 bits) lasts 0 .newBits), (4 * c, .fire 66 tenant (BitVec.ofNat 32 bits))]

/-- WMK_SCRUB_POS behind the unit it names: the next unit of its quire; behind the last one the first unit of the next quire that is laid, or, with
none, the first laid quire with PASS turned (R158, R162). -/
def scrubNext (s : State) : Word :=
  let w := rd s R.WMK_SCRUB_POS
  if fld w 19 0 % 16384 < 16383 then setFld w 19 0 (fld w 19 0 + 1)
  else match nextQuire s (fld w 19 0 / 16384 + 1) 64 with
    | some q => setFld w 19 0 (q * 16384)
    | none => setFld (setFld w 19 0 (scrubFirst s)) 31 31 (1 - fld w 31 31)

/-- The finding at the end of a pass: PASS, where no laid quire follows the last unit of this one (R162). -/
def scrubPass (s : State) : List (Nat × HwReq) :=
  if fld (rd s R.WMK_SCRUB_POS) 19 0 % 16384 < 16383 then []
  else match nextQuire s (fld (rd s R.WMK_SCRUB_POS) 19 0 / 16384 + 1) 64 with
    | some _ => []
    | none => scrubFinding s.dkl.cyc 0x80 [] 0

/-- The requests that the failed candidates and the bad data of a search make when it ends, in the order of pipe and candidate (R155 to R157). -/
def flightFinds (s : State) (f : Flight) : List (Nat × HwReq) :=
  f.fails.flatMap (fun x =>
    let word : Word := BitVec.ofNat 32 (x.addr + x.cause * 2 ^ 20 + x.unit * 2 ^ 22 + x.cand * 2 ^ 24 +
      b2n (autoDiscarded s.srch.beats x.addr f.width f.issue) * 2 ^ 25 + f.pipe * 2 ^ 26)
    [(4 * (f.issue + 28) + (2 * f.pipe + x.cand), .cond R.WMK_STAT 512 1 [(R.WMK_FAIL, word)] 0 .newBits),
     (4 * (f.issue + 28) + (2 * f.pipe + x.cand), .fire 65 (regionTenant s x.addr) word)]) ++
  (if bit f.res.w0 23 then
    [(4 * (f.issue + 28) + 2 * f.pipe, .cond R.WMK_STAT 512 2
      [(R.WMK_DBAD, BitVec.ofNat 32 (recAddr f.res + b2n f.res.badLo * 2 ^ 20 + b2n f.res.badHi * 2 ^ 21))] 0 .newBits),
     (4 * (f.issue + 28) + 2 * f.pipe, .fire 66 (regionTenant s (recAddr f.res)) 2)]
  else [])

/-- The item at the head of the FIFO has left it, and with it those behind it that fail the check of the head (R173, R178). -/
def HeadLeft (s t : State) : Prop := t.upd.fifo <:+ s.upd.fifo.drop 1

/-- The shadow word of a unit has good parity (R145). -/
def shadowGood (u : SUnit) : Prop := u.spar = shadowParity u.sval u.smask

/-- The state in which a command of the address table runs: the command register holds its operation (R213). -/
def staOp (s : State) (op : Nat) : State := wrF s R.FWD_STA_CMD 3 0 op

/-- The registers that the commands of the address table write (R221). -/
def staRegs : List Nat := [R.FWD_STA_CMD, R.FWD_STA_LOC, R.FWD_STA_DATA, R.FWD_STA_KEY0, R.FWD_STA_KEY1, R.FWD_STA_KEY2,
  R.FWD_STA_HASHn 0, R.FWD_STA_HASHn 1, R.FWD_STA_HASHn 2, R.FWD_STA_HASHn 3]

/-- A search of the learning engine's second lookup (R212). -/
def ofEngine : Who → Bool
  | .engine _ => true
  | _ => false

/-- The parts that most commands leave alone stand, the deep store aside: the queue, the device state and the deckle number. -/
def KeepsButStore (s t : State) : Prop := t.pending = s.pending ∧ t.dev = s.dev ∧ t.dkl.num = s.dkl.num ∧ Canonical t

/-- The boundary that is due, up to the lift of step 2: what was unfinished, the turn of the pipeline, the counter, step 1, the launch of the
frames and packets built for it, and a lift that begins or ends there (R62). -/
def boundaryOpened (s : State) : State :=
  let u := launchPackets (launchFrames (stepLease (tickCount (audioTurn (overruns s))) (!s.dkl.started) []))
  liftStep u u.dkl.num

/-- The boundary that is due, up to its MARKERs: the rest of step 2, and the MARKERs that carry what steps 1 and 2 leave, but the lease epoch
from before them (R402, R425, R459). -/
def boundaryMarked (s : State) : State :=
  sendMarkers (ownLease (tickCount (audioTurn (overruns s)))) (stepStructure (boundaryOpened s))

/-- The boundary that is due in a LAID device goes on through all its steps: no ramped block of a thermal trip was sent (R62, R601). -/
def GoesOn (s : State) : Prop := boundaryDue s = true ∧ s.mgt.tripSent = false ∧ s.dev = .laid

/-- The end of the boundary of a state: the credits of the deckle, and the mark that the ramped block of a thermal trip is sent (R23, R601). -/
def boundaryClosed (s t : State) : State :=
  let u := tickCredits t (!s.dkl.started)
  if u.mgt.tripping then u.setMgt { u.mgt with tripSent := true } else u

/-- A frame whose granules an open port accepts without finding fault, as the port takes it (R386, R388 to R391, R460). -/
def Accepted (s : State) (n : Nat) (bytes : List Byte) (g : EdlFrame) : Prop :=
  carries s n = true ∧ malformed s n (frameOf (edlGen1 s n) bytes) = false ∧
    g = { normFrame s n (frameOf (edlGen1 s n) bytes) with payload := (frameOf (edlGen1 s n) bytes).payload.take (16 * (frameOf (edlGen1 s n) bytes).len) } ∧
    (epochBound g && !edlGen1 s n && leaseStale s g.src g.lepoch) = false

/-- What an accepted frame leaves, once the granules after its last one are reported (R388). -/
def TakenAs (s : State) (n : Nat) (bytes : List Byte) (t u : State) : Prop := t = strayGranules n (frameOf (edlGen1 s n) bytes) u

/-- The rows by which a frame arrives at an Edarlink port (R389). -/
def ringRows (n : BitVec 2) (bytes : List Byte) (uncorr : Bool) : List Instr :=
  [.audio n bytes uncorr, .tsum n bytes uncorr, .loopReq n bytes uncorr, .loopRsp n bytes uncorr, .mailbox n bytes uncorr, .commitFrame n bytes uncorr,
    .migrate n bytes uncorr, .lease n bytes uncorr, .leaseAck n bytes uncorr, .mirror n bytes uncorr]

/-- Sequencer n may execute an instruction of an operation: the device runs, the sequencer is RUNNING, has not yielded in this deckle and has
executed fewer than 64 instructions in it, the event tick is that of its slot's next instruction, and its next word holds the operation (R356, R357). -/
def SeqReady (s : State) (n op : Nat) : Prop :=
  running s = true ∧ seqState s n = 1 ∧ (seqSt s n).yielded = false ∧ (seqSt s n).count < 64 ∧ s.dkl.evt = 32 + 4 * (n % 16) + (seqSt s n).count / 16 ∧
    seqOp (progWord s n (seqPc s n)) = op

/-- The word a sequencer executes next. -/
def seqWord (s : State) (n : Nat) : Word := progWord s n (seqPc s n)

/-- One more instruction counts against a sequencer's budget of the deckle. -/
def Counted (s : State) (n : Nat) : State := setSeq s n { seqSt s n with count := (seqSt s n).count + 1 }

/-- The register of a sequencer that an instruction word names in its destination field holds a value, the sequencer is RUNNING at the next
word, one more instruction counts against its budget, and nothing else is changed. -/
def SeqSets (s t : State) (n : Nat) (v : Word) : Prop :=
  let d := fld (seqWord s n) 22 20
  t = seqEnter (wr (Counted s n) (R.SEQn_Vk n d) v) n 1 (seqPc s n + 1) ∧ KeepsMain s t ∧
    rd t (R.SEQn_Vk n d) = v ∧ seqPc t n = (seqPc s n + 1) % 2 ^ 17 ∧ seqState t n = 1 ∧ (seqSt t n).count = (seqSt s n).count + 1 ∧
    RegsBut s t [R.SEQn_Vk n d, R.SEQn_STATE n]

/-- A sequencer goes on: from the state u that its instruction leaves it is RUNNING at a word, one more instruction counts against its budget, and
every register but its state and those of a list stands. -/
def SeqGoesTo (s t u : State) (n pc : Nat) (os : List Nat) : Prop :=
  t = seqEnter u n 1 pc ∧ KeepsMain s t ∧ seqPc t n = pc % 2 ^ 17 ∧ seqState t n = 1 ∧ (seqSt t n).count = (seqSt s n).count + 1 ∧ RegsBut s t (R.SEQn_STATE n :: os)

/-- A sequencer waits in a state at a word, with what it waits for, one more instruction counts against its budget, and nothing else is changed. -/
def SeqRests (s t : State) (n st pc : Nat) (x : SeqSt) : Prop :=
  t = setSeq (seqEnter (Counted s n) n st pc) n x ∧ KeepsMain s t ∧ seqPc t n = pc % 2 ^ 17 ∧ seqState t n = st ∧ seqSt t n = x ∧ RegsBut s t [R.SEQn_STATE n]

/-- A sequencer goes on at its next word, and what its instruction does lands as a hardware event of its source, after the register writes of
the event tick (R55, R356). -/
def SeqSends (s t : State) (n : Nat) (a : HwAct) : Prop :=
  SeqGoesTo s t (later (Counted s n) (256 + n) a) n (seqPc s n + 1) [] ∧ t.ev.acts = s.ev.acts ++ [(256 + n, a)]

end Sys2Proof.Claims

open Sys2Proof Sys2Proof.Machine Sys2Proof.Claims

/-- A step takes the command at the front of the queue. For every command c and every state whose queue is c followed by a rest, the
step answers exactly what exec of c answers on the state with the queue's rest. -/
def Obligations.StepTakesFrontCommand : Prop :=
  ∀ (s : State) (c : Instr) (rest : List Instr), s.pending = c :: rest → step s = exec c (s.setPending rest)

/-- With no command waiting the block idles (the model's choice, log entry 2). On an empty queue a step answers the state itself. -/
def Obligations.EmptyQueueIdles : Prop :=
  ∀ s : State, s.pending = [] → step s = .next s

/-- The state after reset is safe. After reset the stored registers and the deep store have their canonical form, and no command waits.
Choices of the model that it may rest on: log entries 5, 6. -/
def Obligations.ResetIsSafe : Prop :=
  Safe State.reset

/-- Every step keeps the state safe. From every state whose stored registers and deep store have their canonical form and whose waiting
commands are all well formed, a step that answers a next state answers one of which the same holds. Choices of the model that it may
rest on: log entries 1, 101. -/
def Obligations.EveryStepKeepsSafe : Prop :=
  ∀ s t : State, Safe s → step s = .next t → Safe t

/-- No command touches the queue of those that wait. From every state in canonical form, a command that answers a next state leaves the
queue of waiting commands as it was and the stored registers and the deep store in canonical form. -/
def Obligations.CommandsLeaveTheQueue : Prop :=
  ∀ (c : Instr) (s t : State), Canonical s → exec c s = .next t → t.pending = s.pending ∧ Canonical t

/-- Every command answers a next state but a boundary-scan instruction while RST_N is low. A command answers a next state in every
state, but for one: an instruction of the test access port other than BYPASS, IDCODE and SAMPLE, with PWR_OK and TRST_N high and RST_N
low, whose effect on the pins is not given and which is refused by name. -/
def Obligations.OnlyBoundaryScanStops : Prop :=
  ∀ (c : Instr) (s : State), (∃ t, exec c s = .next t) ∨
    (c = .tapInstruction .other true ∧ s.pwr.pwrOk = true ∧ s.pwr.rstn = false ∧ exec c s = .refused .boundaryScan)

/-- The device state changes only along the rows of the state table, by their causes. From every state in canonical form, a command that
answers a next state leaves the device state as it was, or moves it along a row of the table and is a cause of that row: a write that
reaches MLD_CTL, a loader read error or PERST_N (to LAYING, BARE), the last image byte (to CHECKING), the end of the checks (to LAID,
REFUSED), a deckle boundary (to LIFTING, and out of it), a reset or the reset hold (to BARE, held). -/
def Obligations.DeviceStateFollowsTheTable : Prop :=
  ∀ (c : Instr) (s t : State), Canonical s → exec c s = .next t → t.dev = s.dev ∨ StateMove c s.dev t.dev

/-- The deckle number changes at a deckle boundary, and is zero after a lift, a laying or a reset. From every state in canonical form, a
command that answers a next state leaves the deckle number as it was; or it is a command that brings a deckle boundary, the device runs,
a boundary is due, and the number is the one that the boundary opens (the next one, or the one taken from a marker); or the number is
zero and the command is the end of CHECKING, one that brings a boundary (the end of a lift, the reset hold), or one that brings the
device into reset or the reset hold. Choices of the model that it may rest on: log entries 7, 22, 140, 153. -/
def Obligations.DeckleNumberMovesAtTicks : Prop :=
  ∀ (c : Instr) (s t : State), Canonical s → exec c s = .next t →
    t.dkl.num = s.dkl.num ∨ (Boundaries c ∧ running s = true ∧ boundaryDue s = true ∧ t.dkl.num = tickNumber s) ∨
      (t.dkl.num = 0 ∧ (c = .checkingEnd ∨ Resets c))

/-- The deep store changes only by a served write, a decided frame, a stage, a missed request, a laid table, initialisation or a reset.
From every state in canonical form, a command that answers a next state leaves the deep store as it was, unless it serves an aperture
write, decides a frame (whose samples may go into a ring there), runs stage A or stage C, misses the deadline of a request, brings bytes
of an image (whose deep-store tables are laid while LAYING), ends the DRAM initialisation, or is a fall or a rise of RST_N or a fall of
PWR_OK. Choices of the model that it may rest on: log entries 68, 101, 136. -/
def Obligations.DeepStoreKeepsItsContent : Prop :=
  ∀ (c : Instr) (s t : State), Canonical s → exec c s = .next t → ¬ WritesStore c → t.dst = s.dst

/-- A rise of RST_N, its fall and a fall of PWR_OK leave nothing of the former mould. A rise of RST_N while PWR_OK is high, a fall of
RST_N and a fall of PWR_OK each answer a state in which every register reads its reset value, the device is BARE, the deep store and the
mould items are empty, and every other part is as right after reset; the levels at the pins, the outputs handed out so far, the read
answer, the counter of free values and the queue stand. The PLL is not locked, the DRAM not initialised and the link down. The rise
releases HALT_N, leaves RST_N high, keeps the TAP instruction, and samples the straps CMPT and MGT_ADDR and which reference clocks run.
The fall of RST_N keeps the TAP instruction, the fall of PWR_OK returns the test access port to IDCODE, and both keep HALT_N. Choices of
the model that it may rest on: log entries 5, 6, 9, 101, 119. -/
def Obligations.ResetRestoresEverything : Prop :=
  ∀ (s : State) (cmpt ethRef edlRef : Bool) (adr : BitVec 3),
    (s.pwr.pwrOk = true → s.pwr.rstn = false → ∃ t, exec (.rstNRise ⟨cmpt, adr⟩ ⟨ethRef, edlRef⟩) s = .next t ∧ AfterReset t ∧
      t.pwr = { s.pwr with rstn := true, pll := false, held := false, dram := .busy, link := false, bare := false, cmpt := cmpt, mgtAddr := adr.toNat, ethRef := ethRef, edlRef := edlRef } ∧
      t.mgt.halt = false ∧ t.mgt.tap = s.mgt.tap ∧ SamePins s t ∧ t.out = s.out ∧ t.ans = s.ans ∧ t.free = s.free ∧ t.pending = s.pending) ∧
    (∃ t, exec .rstNFall s = .next t ∧ AfterReset t ∧
      t.pwr = { s.pwr with rstn := false, pll := false, held := false, dram := .busy, link := false, bare := false } ∧
      t.mgt.halt = s.mgt.halt ∧ t.mgt.tap = s.mgt.tap ∧ SamePins s t ∧ t.out = s.out ∧ t.ans = s.ans ∧ t.free = s.free ∧ t.pending = s.pending) ∧
    (∃ t, exec .pwrOkFall s = .next t ∧ AfterReset t ∧
      t.pwr = { s.pwr with pwrOk := false, rstn := false, pll := false, held := false, dram := .busy, link := false, bare := false } ∧
      t.mgt.halt = s.mgt.halt ∧ t.mgt.tap = .idcode ∧ SamePins s t ∧ t.out = s.out ∧ t.ans = s.ans ∧ t.free = s.free ∧ t.pending = s.pending)

/-- The events of the power-up sequence up to BARE. PWR_OK_RISE and PERST_N_DEASSERT set their levels. While the device is out of reset:
the PLL lock is recorded; a lock that has not come in time holds the device in reset; the end of DRAM initialisation leaves a deep store
whose every byte reads 0; its failure is recorded and requests DST_FAIL; link up, with the PLL locked and PERST_N high, records the link
and shows the generation, the width and link up in HOST_LINK; with the link up, the PLL locked and the DRAM initialised or failed, the
device enters BARE. In each case nothing else changes. Choices of the model that it may rest on: log entries 5, 8, 101, 119. -/
def Obligations.PowerUpSequence : Prop :=
  ∀ s : State, Canonical s →
    exec .pwrOkRise s = .next (s.setPwr { s.pwr with pwrOk := true }) ∧
    exec .perstNDeassert s = .next (s.setPwr { s.pwr with perstn := true }) ∧
    (awake s = true →
      exec .fabricPllLock s = .next (s.setPwr { s.pwr with pll := true }) ∧
      (s.pwr.pll = false → exec .pllLockTimeout s = .next (s.setPwr { s.pwr with held := true })) ∧
      (s.pwr.dram = .busy →
        (∃ t, exec .dramInitDone s = .next t ∧ (∀ a, dstByte t.dst a = 0) ∧ t = (s.setPwr { s.pwr with dram := .ready }).setDst t.dst) ∧
        (∃ t, exec .dramInitTimeout s = .next t ∧ t.pwr = { s.pwr with dram := .failed } ∧
          HwReq.cond R.MLD_STAT 0 8 [] 0 .newBits ∈ t.ev.reqs ∧ t = (s.setPwr t.pwr).setEv t.ev)) ∧
      (s.pwr.pll = true → s.pwr.perstn = true → ∀ (gen : BitVec 4) (width : BitVec 5),
        ∃ t, exec (.pcieLinkUp gen width) s = .next t ∧ t = (s.setPwr { s.pwr with link := true }).setRegs t.regs ∧
          RegsBut s t [R.HOST_LINK] ∧ fld (rd t R.HOST_LINK) 3 0 = gen.toNat ∧ fld (rd t R.HOST_LINK) 8 4 = width.toNat ∧
          bit (rd t R.HOST_LINK) 9 = true) ∧
      (s.pwr.pll = true → s.pwr.link = true → s.pwr.dram ≠ .busy → s.pwr.bare = false →
        exec .enterBare s = .next (s.setPwr { s.pwr with bare := true })))

/-- A loss of fabric PLL lock and the end of a thermal trip hold the device in reset. While the device is out of reset with the PLL
locked, a loss of lock answers a state held in reset with HALT_N low, the PLL unlocked, the link down, the device BARE, nothing more
handed out and the content of the deep store kept; the management registers but MGT_STAT keep their values and every other register
outside them is at its reset value. A deckle tick that is due once a trip's ramped block was sent answers a state held in reset with
HALT_N low, the link down, the PLL as it was and the device BARE, and hands nothing out. Choices of the model that it may rest on: log
entries 25, 26, 140. -/
def Obligations.HoldInReset : Prop :=
  ∀ s : State, Canonical s → awake s = true → s.pwr.pll = true →
    (∃ t, exec .pllLossOfLock s = .next t ∧ t.pwr = { s.pwr with held := true, pll := false, link := false, bare := false } ∧
      t.mgt.halt = true ∧ t.dev = .bare ∧ t.out = s.out ∧ t.dst = s.dst ∧ t.pending = s.pending ∧ awake t = false ∧
      (∀ o, ¬ (0xF2000 ≤ o ∧ o < 0xF3000) → rd t o = regReset (o % 0x400000)) ∧
      (∀ o, 0xF2000 ≤ o ∧ o < 0xF3000 → o ≠ R.MGT_STAT → rd t o = rd s o)) ∧
    (boundaryDue s = true → s.mgt.tripSent = true → ∀ wck,
      ∃ t, exec (.deckleTick wck) s = .next t ∧ t.pwr = { s.pwr with held := true, link := false, bare := false } ∧
        t.mgt.halt = true ∧ t.dev = .bare ∧ t.out = s.out ∧ t.pending = s.pending)

/-- A sample of the sensors, a sample of the power monitor, and a thermal trip. With PWR_OK high: (1) SENSOR_SAMPLE leaves in MGT_TMAX
the number and the reading of the hottest working sensor, 0 where none works; at every fiftieth sample it leaves the readings in
MGT_TEMPn, and else those stand; every other register stands. It requests WARN where the hottest reading is at least MGT_WARN and was
not at the last sample, STKHOT where sensor 7 newly reads 105 °C (1,680 sixteenths), and SENSOR where a sensor has failed; a trip
becomes due where a working sensor read 120 °C at the last sample and at this one. Only registers, the sensors' own state and the event
requests change. (2) POWER_MONITOR_SAMPLE leaves its value in MGT_POWER and requests PMAX above 71,250 mW; nothing else changes. (3)
THERMAL_TRIP of a device out of reset whose trip is due and not in progress puts it in progress and requests TRIP; then, where deckles
run, the block packed in this deckle is packed again, and elsewhere the reset hold is entered. Choices of the model that it may rest on:
log entries 23, 24, 25. -/
def Obligations.TripAndSample : Prop :=
  ∀ s : State, Canonical s → s.pwr.pwrOk = true →
    (∀ temps, let w : Int := sext 16 (rdF s R.MGT_WARN 15 0)
      let warm := match hottest temps with | some (_, v) => decide (w ≤ v) | none => false
      let calm := match hottest temps with | some (_, v) => decide (v ≤ w - 32) | none => true
      let stk := decide (reading temps 7 ≠ 0x8000 ∧ 1680 ≤ (reading temps 7).toInt)
      let ask := fun (b : Bool) (k : Word) => if b then [HwReq.cond R.MGT_STAT 2 k [] 0 .newBits] else []
      ∃ t, exec (.sensorSample temps) s = .next t ∧
      t = (((s.setRegs t.regs).setMgt { s.mgt with
          count := if s.mgt.count = 49 then 0 else s.mgt.count + 1
          hot := tripMask temps, above := warm, cool := calm, stk := stk
          tripDue := s.mgt.tripDue || decide (tripMask temps &&& s.mgt.hot ≠ 0) }).setHp { s.hp with warnSet := false }).setEv
        { s.ev with reqs := s.ev.reqs ++ (ask (warm && (!s.mgt.above || s.hp.warnSet)) 1 ++ ask (calm && !s.mgt.cool) 2 ++
          ask (stk && !s.mgt.stk) 4 ++ ask ((List.range 8).any (fun n => reading temps n == 0x8000)) 16) } ∧
      rd t R.MGT_TMAX = (match hottest temps with
        | some (n, _) => BitVec.ofNat 32 (n * 65536 + (reading temps n).toNat)
        | none => 0) ∧
      (∀ n < 8, rd t (R.MGT_TEMPn n) = if s.mgt.count = 49 then BitVec.ofNat 32 (reading temps n).toNat else rd s (R.MGT_TEMPn n)) ∧
      (∀ o, o ≠ R.MGT_TMAX → (∀ n < 8, o ≠ R.MGT_TEMPn n) → rd t o = rd s o)) ∧
    (∀ mw : BitVec 20, ∃ t, exec (.powerMonitorSample mw) s = .next t ∧ t = (s.setRegs t.regs).setEv t.ev ∧
      RegsBut s t [R.MGT_POWER] ∧ rd t R.MGT_POWER = mw.zeroExtend 32 ∧
      t.ev = { s.ev with reqs := s.ev.reqs ++ (if 71250 < mw.toNat then [HwReq.cond R.MGT_STAT 3 8 [] 0 .newBits] else []) }) ∧
    (s.pwr.rstn = true → s.pwr.held = false → s.mgt.tripDue = true → s.mgt.tripping = false →
      ∀ u, u = (s.setMgt { s.mgt with tripDue := false, tripping := true }).setEv
          { s.ev with reqs := s.ev.reqs ++ [HwReq.cond R.MGT_STAT 2 32 [] 0 .newBits] } →
        (running s = true → s.dkl.started = true → exec .thermalTrip s = .next (repack u)) ∧
        (running s = false ∨ s.dkl.started = false → exec .thermalTrip s = .next (enterHold u s.pwr.pll)))

/-- What the management port and the test access port do. While the PLL is locked the management port hands out n words from word k on,
wrapping from 15 to 0, words 11, 14 and 15 as zero and word 13 as the strap, and changes nothing else. The test access port, with PWR_OK
and TRST_N high, takes BYPASS, IDCODE and SAMPLE at any time, hands out the IDCODE, and takes any other instruction as BYPASS while
RST_N is high; a low TRST_N resets it. Choices of the model that it may rest on: log entries 9, 10. -/
def Obligations.ManagementPortAndTestAccess : Prop :=
  ∀ s : State,
    (∀ (k : BitVec 4) (n : BitVec 5), s.pwr.pwrOk = true → s.pwr.rstn = true → s.pwr.pll = true →
      exec (.mgtRead k n) s = .next (s.setOut (s.out ++ [.mgt ((List.range n.toNat).map (fun i =>
        let w := (k.toNat + i) % 16
        if w = 11 ∨ w = 14 ∨ w = 15 then 0 else if w = 13 then BitVec.ofNat 32 s.pwr.mgtAddr else rd s (0xF2000 + 4 * w)))]))) ∧
    (s.pwr.pwrOk = true →
      exec (.tapInstruction .bypass true) s = .next (s.setMgt { s.mgt with tap := .bypass }) ∧
      exec (.tapInstruction .idcode true) s = .next ((s.setMgt { s.mgt with tap := .idcode }).setOut (s.out ++ [.tap idcode])) ∧
      exec (.tapInstruction .sample true) s = .next (s.setMgt { s.mgt with tap := .sample }) ∧
      (s.pwr.rstn = true → exec (.tapInstruction .other true) s = .next (s.setMgt { s.mgt with tap := .bypass })) ∧
      ∀ i, exec (.tapInstruction i false) s = .next (s.setMgt { s.mgt with tap := .idcode }))

/-- LOAD, ABORT, CLEAR and LIFT in each device state, one command bit at a time. A write of MLD_CTL that is accepted: with more than one
command bit it does nothing, whichever row brings it. LOAD starts LAYING from BARE and REFUSED with the report at zero, address and
length of the image taken from MLD_SRC and MLD_LEN, and the search array and the other stores that an image fills cleared; it records a
lift and a pending load in LAID, and a pending load in LIFTING. ABORT cancels the pending load in LIFTING and ends LAYING in BARE,
requesting ABORTED; CLEAR returns REFUSED to BARE; LIFT records a lift in LAID. In every case the rest of the state stands, and of the
registers a LOAD changes at most those of the report. Choices of the model that it may rest on: log entries 40, 41. -/
def Obligations.LoaderCommands : Prop :=
  ∀ (s : State) (fn : BitVec 6) (v : Word), Canonical s → accessOk s fn.toNat R.MLD_CTL = true →
    (∀ c ∈ [Instr.load fn v, .abort fn v, .clear fn v, .lift fn v],
      (fld v 3 0 ∉ [1, 2, 4, 8] → exec c s = .next s) ∧
      (fld v 3 0 = 1 → (s.dev = .bare ∨ s.dev = .refused) → ∃ t, exec c s = .next t ∧ t.dev = .laying ∧ t.mld = { s.mld with image := [], pendLoad := false, liftReq := false, src := (rd s R.MLD_SRC_LO).toNat + (rd s R.MLD_SRC_HI).toNat * 2 ^ 32, len := (rd s R.MLD_LEN).toNat } ∧
        t = (takeStores (((s.setRegs t.regs).setDev .laying).setMld t.mld) State.reset).setSrch { s.srch with base := [], beats := [] } ∧
        RegsBut s t [R.MLD_REFUSE, R.MLD_ITEM, R.MLD_NEED, R.MLD_HAVE] ∧
        rd t R.MLD_REFUSE = 0 ∧ rd t R.MLD_ITEM = 0 ∧ rd t R.MLD_NEED = 0 ∧ rd t R.MLD_HAVE = 0) ∧
      (fld v 3 0 = 1 → s.dev = .laid → ∃ t, exec c s = .next t ∧ t = (s.setRegs t.regs).setMld { s.mld with liftReq := true, pendLoad := true } ∧
        RegsBut s t [R.MLD_REFUSE, R.MLD_ITEM, R.MLD_NEED, R.MLD_HAVE]) ∧
      (fld v 3 0 = 1 → s.dev = .lifting → ∃ t, exec c s = .next t ∧ t = (s.setRegs t.regs).setMld { s.mld with pendLoad := true } ∧
        RegsBut s t [R.MLD_REFUSE, R.MLD_ITEM, R.MLD_NEED, R.MLD_HAVE]) ∧
      (fld v 3 0 = 2 → s.dev = .laying → ∃ t, exec c s = .next t ∧ t.dev = .bare ∧
        HwReq.cond R.MLD_STAT 0 2 [] 0 .newBits ∈ t.ev.reqs ∧ t = (((s.setDev .bare).setMld { s.mld with image := [] }).setEv t.ev)) ∧
      (fld v 3 0 = 2 → s.dev = .lifting → exec c s = .next (s.setMld { s.mld with pendLoad := false })) ∧
      (fld v 3 0 = 4 → s.dev = .refused → exec c s = .next (s.setDev .bare)) ∧
      (fld v 3 0 = 8 → s.dev = .laid → exec c s = .next (s.setMld { s.mld with liftReq := true })))

/-- The bytes of the image, a read error, and the two ends of CHECKING. IMAGE_COMPLETE in LAYING brings the next bytes of the image,
which are then held after those that had arrived, up to the length taken at the entry into LAYING, at most 512 MiB; with the last of
them the device is in CHECKING, before it stays in LAYING. Of what has arrived, the words of deep-store sections are written to the deep
store where the DRAM is ready, ending write-backs of the units they touch, and nowhere where it is not; the other sections and the items
fill the stores of units, plane words, strip, zone and override tables and programs as an image laid there would; nothing else changes.
LOADER_READ_ERROR in LAYING answers BARE, holds no image and requests ABORTED (bit 1 of MLD_STAT, with its event); of the rest, the deep
store with it, nothing changes. At the end of CHECKING an image that a check refuses leaves REFUSED, no image held, its code, item, need
and have in the report, and bit 0 requested; nothing else changes. An image that passes is laid and LAID is entered with its event
sections: the device is LAID, the deckle number is zero, and the deep store and the queue stand. In another device state the three rows
change nothing. Choices of the model that it may rest on: log entries 27, 28, 29, 40, 123, 154. -/
def Obligations.ImageIsReadCheckedAndLaid : Prop :=
  ∀ s : State, Canonical s →
    (∀ bytes, s.dev = .laying → ∀ img m u v, img = (s.mld.image ++ bytes).take (min s.mld.len (2 ^ 29)) → m = mouldOf img →
      u = (layStore s img s.mld.image.length).setMld { s.mld with image := img } →
      v = takeStores u (m.tables.foldl layTable (layItems (u.setDev .laid) m)) →
      (min s.mld.len (2 ^ 29) ≤ s.mld.image.length + bytes.length → exec (.imageComplete bytes) s = .next (v.setDev .checking)) ∧
      (s.mld.image.length + bytes.length < min s.mld.len (2 ^ 29) → img = s.mld.image ++ bytes ∧ exec (.imageComplete bytes) s = .next v)) ∧
    (∀ img old, (s.pwr.dram ≠ .ready → layStore s img old = s) ∧
      (s.pwr.dram = .ready → let t := layStore s img old
        t.dst = (layStoreFrom img old (min 4096 (imgSections img)) 32).foldl (fun d w => dstPutBytes d w.1 w.2) s.dst ∧
        t = (s.setDst t.dst).setDste { s.dste with writeBack := t.dste.writeBack })) ∧
    (∀ bytes, s.dev ≠ .laying → exec (.imageComplete bytes) s = .next s) ∧
    (s.dev = .laying → exec .loaderReadError s = .next (mldCond ((s.setDev .bare).setMld { s.mld with image := [] }) 2 [])) ∧
    (s.dev ≠ .laying → exec .loaderReadError s = .next s) ∧
    (s.dev ≠ .checking → exec .checkingEnd s = .next s) ∧
    (∀ r, s.dev = .checking → checkImage s s.mld.image = .inl r → ∃ t, exec .checkingEnd s = .next t ∧
      t = mldCond (((s.setRegs t.regs).setDev .refused).setMld { s.mld with image := [] }) 1 [] ∧
      rd t R.MLD_REFUSE = BitVec.ofNat 32 r.code ∧ rd t R.MLD_ITEM = BitVec.ofNat 32 (r.sec % 65536 * 65536 + r.idx % 65536) ∧
      rd t R.MLD_NEED = BitVec.ofNat 32 r.need ∧ rd t R.MLD_HAVE = BitVec.ofNat 32 r.have_ ∧
      RegsBut s t [R.MLD_REFUSE, R.MLD_ITEM, R.MLD_NEED, R.MLD_HAVE]) ∧
    (∀ u, s.dev = .checking → checkImage s s.mld.image = .inr u → u = layTrial s (mouldOf s.mld.image) (imgDigest s.mld.image) ∧
      ∃ t, exec .checkingEnd s = .next t ∧ t = enterLaid u (mouldOf s.mld.image).events ∧
      t.dev = .laid ∧ t.dkl.num = 0 ∧ t.dst = s.dst ∧ t.pending = s.pending ∧ Canonical t) ∧
    (∀ u : State, ∀ b ∈ [1, 2], ∃ l, (∀ q ∈ l, q = HwReq.fire 0 0 (BitVec.ofNat 32 b)) ∧
      mldCond u b [] = u.setEv { u.ev with reqs := u.ev.reqs ++ HwReq.cond R.MLD_STAT 0 (BitVec.ofNat 32 b) [] 0 .newBits :: l })

/-- The boundaries at which a lift begins and ends. LIFT_BEGIN at a boundary that is due, in LAID with a lift requested and no ramped
block sent by a thermal trip, answers LIFTING with the deckle number that the boundary opens; the deep store and the queue stand.
LIFT_END at a boundary that is due, in LIFTING, with no thermal trip in progress, where the boundary is the second after the one at
which the lift began, answers BARE, or LAYING where a load is pending, with the deckle number zero, no mould item in force, no lift and
no load requested and the GPIO drivers off; the deep store and the queue stand. Where no boundary is due, neither changes anything.
Choices of the model that it may rest on: log entries 7, 39, 124, 140, 153. -/
def Obligations.LiftBeginsAndEnds : Prop :=
  ∀ s : State, Canonical s →
    (boundaryDue s = true → s.mgt.tripSent = false → s.dev = .laid → s.mld.liftReq = true → ∃ t, exec .liftBegin s = .next t ∧
      t.dev = .lifting ∧ t.dkl.num = tickNumber s ∧ t.dst = s.dst ∧ t.pending = s.pending ∧ Canonical t) ∧
    (boundaryDue s = true → s.mgt.tripSent = false → s.mgt.tripping = false → s.dev = .lifting → s.dkl.started = true →
      (s.mld.liftAt + 2) % 2 ^ 48 = (s.dkl.num + 1) % 2 ^ 48 → ∃ t, exec .liftEnd s = .next t ∧
      t.dev = (if s.mld.pendLoad then .laying else .bare) ∧ t.dkl.num = 0 ∧ t.dst = s.dst ∧ t.mld.items = [] ∧ t.mld.liftReq = false ∧
      t.mld.pendLoad = false ∧ t.inp.drvEn = 0 ∧ t.pending = s.pending ∧ Canonical t) ∧
    (boundaryDue s = false → exec .liftBegin s = .next s ∧ exec .liftEnd s = .next s)

/-- PERST_N returns the host port to reset and leaves the pipeline as it is. When PERST_N falls, the registers that R537 lists (IND,
GLB_WIDE, HOST_STAT, HOST_B2_DST, the DMA channels) and the staged descriptor registers are at their reset values, the assembly buffers,
the update FIFO, the indirect accesses, the staged words and the copies in progress are empty, no virtual function is enabled, no MSI-X
vector is enabled, masked, pending or has an address, and the link is down. A frame of a transmit channel that waits to leave completes
no descriptor. The acts that a host write of the tick had set for its end (a scene commit among them) are discarded; the others stand.
LAYING ends in BARE; every other device state stays. The deckle counter, the time bases, the mix, the streams, the deep store and every
register outside those, HOST_LINK and the event targets' own keep their values, so the pipeline goes on. Choices of the model that it
may rest on: log entry 112. -/
def Obligations.PerstStopsTheHostPort : Prop :=
  ∀ s : State, Canonical s → ∃ t, exec .perstNAssert s = .next t ∧ Canonical t ∧ t.pending = s.pending ∧
    t.pwr = { s.pwr with perstn := false, link := false } ∧
    t.upd = { s.upd with asm := [], fifo := [] } ∧ t.mix = { s.mix with asm := [] } ∧ t.hp = { s.hp with ind := [], staged := [], copying := [], vfs := 0 } ∧
    t.eth = { s.eth with egress := s.eth.egress.map (fun g => { g with host := none }) } ∧
    t.ev.msixOn = [] ∧ t.ev.msixOpen = [] ∧ t.ev.msixPend = [] ∧ t.ev.msixTab = [] ∧ t.ev.acts = s.ev.acts.filter (fun a => !hostAct a.2) ∧
    t.dev = (if s.dev = .laying then .bare else s.dev) ∧ t.dkl = s.dkl ∧ t.tb = s.tb ∧ t.aud = s.aud ∧ t.strm = s.strm ∧ t.dst = s.dst ∧
    (∀ o, ((0x20100 ≤ o % 0x400000 ∧ o % 0x400000 < 0x20110) ∨ (0x40 ≤ o % 0x400000 ∧ o % 0x400000 < 0x54) ∨ o % 0x400000 = R.HOST_STAT ∨
        o % 0x400000 = R.HOST_B2_DST ∨ (0x21000 ≤ o % 0x400000 ∧ o % 0x400000 < 0x21200) ∨ (0x58040 ≤ o % 0x400000 ∧ o % 0x400000 < 0x58100) ∨
        (0xB0400 ≤ o % 0x400000 ∧ o % 0x400000 < 0xB0500) ∨ (0xB0820 ≤ o % 0x400000 ∧ o % 0x400000 < 0xB0900)) → rd t o = regReset (o % 0x400000)) ∧
    (∀ o, perstReg (o % 0x400000) = false → ¬ TargetReg o → o ≠ R.HOST_LINK → rd t o = rd s o) ∧ rd t R.HOST_LINK = 0

/-- A function-level reset reaches the function, its channels and its targets only. FUNCTION_LEVEL_RESET of function f leaves every
per-function register of f at its reset value, f without an assembly buffer, an indirect access or a staged word, every DMA channel
bound to f at its reset values and without a copy in progress, and a frame of such a channel that waits to leave without a descriptor to
complete; for PF0 the wide mailbox and HOST_B2_DST are at their reset values too and no virtual function is enabled. Its MSI-X entries
are gone; those of another function stand. Registers of another function, unless they are a channel's, the wide mailbox, HOST_B2_DST or
an event target's, keep their values; every other part of the Ethernet ports, the device state, the deckle counter, the mould, the mix
of the pipeline, the search array and the deep store stand. Choices of the model that it may rest on: log entry 112. -/
def Obligations.FunctionLevelResetIsItsOwn : Prop :=
  ∀ (s : State) (fn : BitVec 6), Canonical s → ∃ t, exec (.functionLevelReset fn) s = .next t ∧ KeepsMain s t ∧
    t.mld = s.mld ∧ t.srch = s.srch ∧ t.tb = s.tb ∧ t.aud = s.aud ∧ t.strm = s.strm ∧ t.fwd = s.fwd ∧ t.pwr = s.pwr ∧
    t.upd = { s.upd with asm := SMap.del s.upd.asm fn.toNat } ∧ t.mix = { s.mix with asm := SMap.del s.mix.asm fn.toNat } ∧
    t.hp.ind = SMap.del s.hp.ind fn.toNat ∧ t.hp.staged = s.hp.staged.filter (fun e => e.1 / 2 ^ 30 != fn.toNat) ∧
    t.hp.copying = s.hp.copying.filter (fun e => !(boundTo s fn.toNat).contains e.1) ∧ t.hp.vfs = (if fn = 0 then 0 else s.hp.vfs) ∧
    t.eth = { s.eth with egress := s.eth.egress.map (fun g => match g.host with
      | some h => if (boundTo s fn.toNat).contains h.1 then { g with host := none } else g
      | none => g) } ∧
    t.ev.msixOn = s.ev.msixOn.filter (· ≠ fn.toNat) ∧ t.ev.msixOpen = s.ev.msixOpen.filter (fun k => k / 8 ≠ fn.toNat) ∧
    t.ev.msixPend = s.ev.msixPend.filter (fun k => k / 8 ≠ fn.toNat) ∧ t.ev.msixTab = s.ev.msixTab.filter (fun e => e.1 / 8 ≠ fn.toNat) ∧
    (∀ c < 8, c ∈ boundTo s fn.toNat → ∀ o, R.HOST_DMAc_CFG c ≤ o → o < R.HOST_DMAc_CFG c + 0x40 → rd t o = regReset (o % 0x400000)) ∧
    (fn = 0 → rd t R.HOST_B2_DST = regReset R.HOST_B2_DST ∧ ∀ o, 0x40 ≤ o → o < 0x54 → rd t o = regReset o) ∧
    (∀ o, o / 0x400000 = fn.toNat → perFn (o % 0x400000) = true → rd t o = regReset (o % 0x400000)) ∧
    (∀ o, o / 0x400000 ≠ fn.toNat → ¬ (R.HOST_DMAc_CFG 0 ≤ o ∧ o < R.HOST_DMAc_CFG 8) → ¬ (0x40 ≤ o ∧ o < 0x54) → o ≠ R.HOST_B2_DST →
      ¬ TargetReg o → rd t o = rd s o)

/-- An event tick and a deckle tick, in every power state. EVENT_TICK always answers a next state, and never moves the device state, the
deckle number, the deep store or the queue. Out of reset with the PLL locked and no boundary due it does the event tick of the cycles
that are left to the boundary, at most sixteen; with a boundary due it changes nothing, since the deckle tick comes first; in the reset
hold it discards the event requests, lets the thermal conditions among them into MGT_STAT and changes no other register; in any other
power state it changes nothing. DECKLE_TICK, where no boundary is due, changes nothing. Where one is due and no ramped block of a
thermal trip was sent, it does the deckle tick: the deep store and the queue stand; the deckle number is the one that the boundary
opens, or is zero in BARE or LAYING; and a device that was LAID has the number that the boundary opens and is LIFTING where a lift was
requested, else LAID. Where a ramped block was sent it enters the reset hold. Choices of the model that it may rest on: log entries 1,
7, 8, 11, 12, 22, 25, 42, 72, 122, 137, 140, 150, 153. -/
def Obligations.TicksComplete : Prop :=
  ∀ s : State, Canonical s →
    (∀ flips upsets, ∃ t, exec (.eventTick flips upsets) s = .next t ∧ KeepsMain s t ∧
      (awake s = true → s.pwr.pll = true → boundaryDue s = false → t = eventTick s (tickCycles s) flips upsets ∧ tickCycles s ≤ 16) ∧
      (awake s = true → s.pwr.pll = true → boundaryDue s = true → t = s) ∧
      (awake s = false → s.pwr.held = true → t.ev = { s.ev with reqs := [] } ∧ RegsBut s t [R.MGT_STAT] ∧
        rd t R.MGT_STAT = scSet (rd s R.MGT_STAT) (mgtBits s) 0) ∧
      (awake s = false ∨ s.pwr.pll = false → s.pwr.held = false → t = s)) ∧
    (∀ w, boundaryDue s = false → exec (.deckleTick w) s = .next s) ∧
    (∀ w, boundaryDue s = true → s.mgt.tripSent = false → ∃ t, exec (.deckleTick w) s = .next t ∧ t = deckleTick s w ∧
      t.dst = s.dst ∧ t.pending = s.pending ∧ Canonical t ∧ (t.dkl.num = tickNumber s ∨ ((t.dev = .bare ∨ t.dev = .laying) ∧ t.dkl.num = 0)) ∧
      (s.dev = .laid → t.dkl.num = tickNumber s ∧ t.dev = (if s.mld.liftReq then .lifting else .laid))) ∧
    (∀ w, boundaryDue s = true → s.mgt.tripSent = true → exec (.deckleTick w) s = .next (enterHold s s.pwr.pll))

/-- What a scrub visit and a scrub rewrite do, step by step. Let c be the cycle of the grant, a the unit that WMK_SCRUB_POS names, u its
words in cycle c and e the entry that a belongs to. Where a rank above the scrubber wants the port or the device is not LAID,
SCRUB_VISIT and SCRUB_REWRITE change nothing; nor does SCRUB_VISIT where the quire of a is not laid or a rewrite waits, nor
SCRUB_REWRITE where none waits. Otherwise SCRUB_VISIT takes the port in cycle c and notes the grant. Where the three valid copies of u
differ, the port writes them as their majority says, with WMK_STAT bit 3. Where the majority of the valid copies of e is 0, that is all.
Where it is 1 and the parity of the shadow words of u is bad, the port clears VALID of e, with bit 4. Where the parity is right, bad
associated data is reported with bit 5 in WMK_DBAD; and a rewrite of a waits, with the shadow words just read, exactly where the cells
differ from them. The position goes to the next unit unless a rewrite waits; at the end of a pass bit 7 is reported. SCRUB_REWRITE takes
the port in cycle c and notes the grant; the port writes the shadow words of the read grant into the cells of the waiting unit, with bit
2; no rewrite waits any more, and the position goes on. Each report comes with the unit in WMK_SCRUB and its tenant in source 66, placed
at cycle c. No other register changes; the device state, the deckle number, the deep store and the queue stand. The order of the reports
within a cycle and the moment of the end-of-pass report are the choices of the model that the log names. Choices of the model that it
may rest on: log entries 7, 43, 44. -/
def Obligations.ScrubberSteps : Prop :=
  ∀ (s : State) (cyc : BitVec 4), Canonical s →
    let c := s.dkl.cyc + cyc.toNat
    let a := rdF s R.WMK_SCRUB_POS 19 0
    let e := entryOf (widthUnits (quireCode s (a / 16384))) a
    let u := unitPort s a c
    let mixed := u.valid ≠ 0 ∧ u.valid ≠ 7
    let valid := majority3 (unitPort s e c).valid = true
    let bad := u.spar ≠ shadowParity u.sval u.smask
    let waits := valid ∧ ¬ bad ∧ (u.value ≠ u.sval ∨ u.mask ≠ u.smask)
    let tn := regionTenant s a
    (scrubFree s c = false → exec (.scrubVisit cyc) s = .next s ∧ exec (.scrubRewrite cyc) s = .next s) ∧
    (scrubHas s = false ∨ s.srch.rewrite ≠ none → exec (.scrubVisit cyc) s = .next s) ∧
    (s.srch.rewrite = none → exec (.scrubRewrite cyc) s = .next s) ∧
    (scrubFree s c = true → scrubHas s = true → s.srch.rewrite = none → ∃ t, exec (.scrubVisit cyc) s = .next t ∧ KeepsMain s t ∧
      PortFreeAt t (c + 1) 3 ∧ t.srch.granted = true ∧
      t.srch.rewrite = (if waits then some (a, u.sval, u.smask) else none) ∧
      rd t R.WMK_SCRUB_POS = (if waits then rd s R.WMK_SCRUB_POS else scrubNext s) ∧ RegsBut s t [R.WMK_SCRUB_POS] ∧
      Landed s t ((if mixed then [{ land := c, addr := a, op := .fix (if majority3 u.valid then 7 else 0) }] else []) ++
        (if valid ∧ bad then [{ land := c, addr := e, op := .valid 0 }] else [])) ∧
      t.ev.finds = s.ev.finds ++ (if mixed then scrubFinding c 8 [(R.WMK_SCRUB, scrubWord 1 a)] tn else []) ++
        (if valid ∧ bad then scrubFinding c 0x10 [(R.WMK_SCRUB, scrubWord 3 a)] tn else []) ++
        (if valid ∧ ¬ bad ∧ ((adBad u).1 || (adBad u).2) = true then
          scrubFinding c 0x20 [(R.WMK_DBAD, BitVec.ofNat 32 (a + b2n (adBad u).1 * 2 ^ 20 + b2n (adBad u).2 * 2 ^ 21 + 2 ^ 22))] tn else []) ++
        (if waits then [] else scrubPass s)) ∧
    (∀ b v m, scrubFree s c = true → s.srch.rewrite = some (b, v, m) → ∃ t, exec (.scrubRewrite cyc) s = .next t ∧ KeepsMain s t ∧
      PortFreeAt t (c + 1) 3 ∧ t.srch.granted = true ∧ t.srch.rewrite = none ∧ rd t R.WMK_SCRUB_POS = scrubNext s ∧
      RegsBut s t [R.WMK_SCRUB_POS] ∧ Landed s t [{ land := c, addr := b, op := .unit (some (v, m)) none none }] ∧
      t.ev.finds = s.ev.finds ++ scrubFinding c 4 [(R.WMK_SCRUB, scrubWord 2 b)] (regionTenant s b) ++ scrubPass s)

/-- What a search slot, a search result and a stalled scrubber do. SEARCH_ISSUE lets pipe 0 choose and then pipe 1 from what is left;
the device state, the deckle number, the deep store and the queue stand. A pipe chooses nothing in a cycle of the window or before the
end of its hold; else it takes the first request, in the order of the classes, that may start: it leaves the requests and joins the
searches under way with its result, and no register changes; where none may start the state stands. SEARCH_RESULT of a pipe with no
search under way changes nothing; else the first one of that pipe leaves the searches under way; each failed candidate is noted with
WMK_STAT.FAIL, WMK_FAIL and source 65, and a data-bad hit with DBAD, WMK_DBAD and source 66, in the place of their cycle and pipe; and,
unless the diagnostic port asked or nobody awaits it any more, its record joins the delivered results with the one who asked, no
register changing. SCRUB_STALL after 4,096 deckles without a grant counts them off and notes WMK_STAT.STALL with source 66, no register
changing; before that it changes nothing. Choices of the model that it may rest on: log entries 42, 43, 45, 125. -/
def Obligations.SearchesStartAndEnd : Prop :=
  ∀ s : State, Canonical s →
    (∀ cyc : BitVec 4, ∃ t, exec (.searchIssue cyc) s = .next t ∧ KeepsMain s t ∧ t = pipeChoose (pipeChoose s 0 (s.dkl.cyc + cyc.toNat)) 1 (s.dkl.cyc + cyc.toNat)) ∧
    (∀ (pipe c : Nat), inWindow s c = true → pipeChoose s pipe c = s) ∧
    (∀ (pipe c : Nat) (r : SReq), inWindow s c = false → (if pipe = 0 then s.srch.hold0 else s.srch.hold1) ≤ c →
      classOrder.findSome? (fun cls => (nextReq s cls).filter (mayStart s c)) = some r →
      (pipeChoose s pipe c).srch.reqs = dropReq r s.srch.reqs ∧
      (pipeChoose s pipe c).srch.flights = s.srch.flights ++ [⟨c, pipe, r.who, widthUnits (profWidth s r.prof),
        (runSearch s r.prof r.key r.tenant c).2, (runSearch s r.prof r.key r.tenant c).1⟩] ∧ (pipeChoose s pipe c).regs = s.regs) ∧
    (∀ (pipe c : Nat), (c < (if pipe = 0 then s.srch.hold0 else s.srch.hold1) ∨ classOrder.findSome? (fun cls => (nextReq s cls).filter (mayStart s c)) = none) → pipeChoose s pipe c = s) ∧
    (∀ pipe : BitVec 1, s.srch.flights.find? (fun f => f.pipe == pipe.toNat) = none → exec (.searchResult pipe) s = .next s) ∧
    (∀ (pipe : BitVec 1) (f : Flight), s.srch.flights.find? (fun f => f.pipe == pipe.toNat) = some f → ∃ t, exec (.searchResult pipe) s = .next t ∧ KeepsMain s t ∧
      t.srch = { s.srch with flights := s.srch.flights.erase f, done := if f.who = .diag ∨ f.who = .lost then s.srch.done else s.srch.done ++ [(f.who, f.res)] } ∧
      t.ev.finds = s.ev.finds ++ flightFinds s f ∧ (f.who ≠ .diag → t.regs = s.regs)) ∧
    (4096 ≤ s.srch.noGrant → ∃ t, exec .scrubStall s = .next t ∧ KeepsMain s t ∧ t.srch = { s.srch with noGrant := s.srch.noGrant - 4096 } ∧
      t.ev.finds = s.ev.finds ++ scrubFinding s.dkl.cyc 0x40 [] 0 ∧ t.regs = s.regs) ∧
    (s.srch.noGrant < 4096 → exec .scrubStall s = .next s)

/-- A diagnostic search is asked for by GO, taken in its event tick, and answered in one record. Let u be the state after the stores of
an accepted write of SRCH_DIAG_CTL. Without GO the write answers u. With GO, where a diagnostic search runs, the profile is not defined
or not of class 4, or the device is not LAID, it answers u with SRCH_STAT bit 1 requested. Else SRCH_DIAG_STAT reads BUSY alone, and the
search of the profile and tenant of SRCH_DIAG_CTL waits for the end of the writes of its event tick; no other register changes and no
search is queued yet. What waits so lands in a running device as a request of class 4, for that profile and tenant, that no event tick
before the next serves; nothing else changes then. SEARCH_RESULT of a diagnostic search without failed candidates and without bad data
writes the four result words, leaves VALID alone in SRCH_DIAG_STAT and requests SRCH_STAT bit 0. Choices of the model that it may rest
on: log entries 1, 45. -/
def Obligations.DiagnosticSearch : Prop :=
  ∀ (s : State) (fn : BitVec 6) (v : Word), Canonical s → accessOk s fn.toNat R.SRCH_DIAG_CTL = true →
    let u := plainWrite s fn.toNat R.SRCH_DIAG_CTL .base v
    (bit v 31 = false → exec (.diagGo fn v) s = .next u) ∧
    (bit v 31 = true → (rdB u R.SRCH_DIAG_STAT 0 = true ∨ profDef u (rdF u R.SRCH_DIAG_CTL 5 0) = false ∨ profClass u (rdF u R.SRCH_DIAG_CTL 5 0) ≠ 4 ∨ u.dev ≠ .laid) →
      exec (.diagGo fn v) s = .next (setCond u R.SRCH_STAT 64 2)) ∧
    (bit v 31 = true → rdB u R.SRCH_DIAG_STAT 0 = false → profDef u (rdF u R.SRCH_DIAG_CTL 5 0) = true → profClass u (rdF u R.SRCH_DIAG_CTL 5 0) = 4 → u.dev = .laid →
      exec (.diagGo fn v) s = .next (wr (later u 0 (.diagGo (rdF u R.SRCH_DIAG_CTL 5 0) (rdF u R.SRCH_DIAG_CTL 25 16))) R.SRCH_DIAG_STAT 1)) ∧
    (∀ prof tenant, running s = true → ∃ r, landAct s (0, .diagGo prof tenant) = s.setSrch { s.srch with reqs := s.srch.reqs ++ [r] } ∧
      r.cls = 4 ∧ r.who = .diag ∧ r.prof = prof ∧ r.tenant = tenant ∧ r.ready = s.dkl.free + 1) ∧
    (∀ (pipe : BitVec 1) (f : Flight), s.srch.flights.find? (fun f => f.pipe == pipe.toNat) = some f → f.who = .diag → f.fails = [] → bit f.res.w0 23 = false →
      ∃ t, exec (.searchResult pipe) s = .next t ∧
        rd t (R.SRCH_DIAG_RESm 0) = f.res.w0 ∧ rd t (R.SRCH_DIAG_RESm 1) = f.res.w1 ∧ rd t (R.SRCH_DIAG_RESm 2) = f.res.adLo ∧ rd t (R.SRCH_DIAG_RESm 3) = f.res.adHi ∧
        rd t R.SRCH_DIAG_STAT = 2 ∧ HwReq.cond R.SRCH_STAT 64 1 [] 0 .newBits ∈ t.ev.reqs)

/-- A beat is seen by what is issued from its cycle on, at its address alone. Take a state whose pending beats are in the order of their
cycles and hold no automatic invalidation. A valid beat or a unit beat that the update port takes at an address in a cycle after every
pending beat there leaves the unit as it was for every earlier cycle; from its own cycle on, the valid copies, or the cells, shadow and
associated data it writes, are the new ones, and what it does not write stands. Every other address holds what it held at every cycle.
Choices of the model that it may rest on: log entry 42. -/
def Obligations.BeatIsSeenFromItsCycle : Prop :=
  ∀ (s : State) (land addr : Nat) (op : ArrOp), s.srch.beats.Pairwise (fun a b => a.land ≤ b.land) →
    (∀ b ∈ s.srch.beats, ∀ i w, b.op ≠ .auto i w) → (∀ b ∈ s.srch.beats, b.addr = addr → b.land ≤ land) → (∀ i w, op ≠ .auto i w) →
    (∀ l, l < land → unitAt (landBeat s land addr op) addr l = unitAt s addr l) ∧
    (∀ a l, a ≠ addr → unitAt (landBeat s land addr op) a l = unitAt s a l) ∧
    (∀ v l, land ≤ l → op = .valid v → unitAt (landBeat s land addr op) addr l = { unitAt s addr l with valid := v }) ∧
    (∀ val m sv sm sp ad ap l, land ≤ l → op = .unit (some (val, m)) (some (sv, sm, sp)) (some (ad, ap)) →
      unitAt (landBeat s land addr op) addr l =
        { value := val, mask := m, sval := sv, smask := sm, spar := sp, valid := (unitAt s addr l).valid, ad := ad, adpar := ap }) ∧
    (∀ ad ap l, land ≤ l → op = .unit none none (some (ad, ap)) → unitAt (landBeat s land addr op) addr l = { unitAt s addr l with ad := ad, adpar := ap }) ∧
    (landBeat s land addr op).srch.beats.Pairwise (fun a b => a.land ≤ b.land)

/-- Words written to UPD_CMD become a command; UPD_FLUSH drops the words so far. With no pair mirror: an accepted write of UPD_CMD adds
its word to the assembly buffer of its function, and the second word of a buffer fixes the length of the command from its header; while
the buffer is shorter than two words or than that length, nothing else changes. A word that completes the command empties that buffer
alone, and: outside LAID the command is rejected with REASON 7; in LAID with too little room it is rejected with REASON 5; in LAID with
room it joins the end of the FIFO behind what waits there, and in an empty FIFO it stands alone where every check of the head passes, or
is discarded with the REASON of the check that it fails, leaving the FIFO empty. A rejection requests UPD_STAT.REJECT with OP, REASON
and ADDR in UPD_REJ. An accepted write of UPD_FLUSH with bit 0 set empties the buffer of its function, and with bit 0 clear changes
nothing; a write of either that the function does not reach changes nothing. The device state, the deckle number, the deep store and the
queue stand. Choices of the model that it may rest on: log entries 126, 145. -/
def Obligations.UpdateCommandsAreAssembled : Prop :=
  ∀ (s : State) (fn : BitVec 6) (v : Word), Canonical s → AtOnce s →
    (accessOk s fn.toNat (R.UPD_CMD 0) = true →
      let old := SMap.getD s.upd.asm fn.toNat (0, [])
      let buf := old.2 ++ [v]
      let need := if buf.length = 2 then cmdLen s (buf.headD 0) else old.1
      let u := s.setUpd { s.upd with asm := SMap.del s.upd.asm fn.toNat }
      let op := fld (buf.headD 0) 31 28
      let addr := fld (buf.headD 0) 19 0
      (buf.length < 2 ∨ buf.length < need →
        exec (.updCmdWord fn v) s = .next (s.setUpd { s.upd with asm := SMap.put s.upd.asm fn.toNat (need, buf) })) ∧
      (2 ≤ buf.length → need ≤ buf.length →
        (∃ t, exec (.updCmdWord fn v) s = .next t ∧ KeepsMain s t) ∧
        (s.dev ≠ .laid → exec (.updCmdWord fn v) s = .next (updReject u 2 op 7 addr)) ∧
        (s.dev = .laid → updFree s < buf.length → exec (.updCmdWord fn v) s = .next (updReject u 2 op 5 addr)) ∧
        (s.dev = .laid → buf.length ≤ updFree s → s.upd.fifo ≠ [] →
          exec (.updCmdWord fn v) s = .next (u.setUpd { u.upd with fifo := s.upd.fifo ++ [.cmd fn.toNat buf] })) ∧
        (s.dev = .laid → buf.length ≤ updFree s → s.upd.fifo = [] → cmdFault s fn.toNat buf = none →
          exec (.updCmdWord fn v) s = .next (u.setUpd { u.upd with fifo := [.cmd fn.toNat buf] })) ∧
        (∀ r, s.dev = .laid → buf.length ≤ updFree s → s.upd.fifo = [] → cmdFault s fn.toNat buf = some r →
          exec (.updCmdWord fn v) s = .next (updReject u 2 op r addr)))) ∧
    (accessOk s fn.toNat (R.UPD_CMD 0) = false → exec (.updCmdWord fn v) s = .next s) ∧
    (accessOk s fn.toNat R.UPD_FLUSH = true →
      (bit v 0 = true → exec (.updFlush fn v) s = .next (s.setUpd { s.upd with asm := SMap.del s.upd.asm fn.toNat })) ∧
      (bit v 0 = false → exec (.updFlush fn v) s = .next s)) ∧
    (accessOk s fn.toNat R.UPD_FLUSH = false → exec (.updFlush fn v) s = .next s)

/-- The beats of INVALIDATE, VALIDATE, WRITE_AD, WRITE, REPLACE and MOVE. Whenever the update port grants the command at the head of the
FIFO in a cycle c0, the row of its operation completes: the head has left the FIFO, and the port is taken until a cycle after c0. Take
further a device whose fault injection is off and whose scrubber has no rewrite to do. INVALIDATE clears and VALIDATE sets the valid
copies at ADDR in c0; WRITE_AD writes the associated data with its parity in c0; each frees the port at c0 + 1. WRITE writes CNT + 1
units from ADDR on, one a cycle from c0; where the quire is wider than one unit and the entry's valid bit reads 1 in c0 it requests
UPD_STAT.LIVE with the entry in UPD_LIVE. REPLACE that is not skipped invalidates in c0 + 1, writes its w units from c0 + 2 on and
validates in c0 + w + 2, and frees the port at c0 + w + 3. MOVE with good shadow parity at every unit of the source invalidates the
destination in c0 + w + 1, writes its w units from c0 + w + 2 on with the shadow words and associated data that the source held in c0,
gives it the voted valid bit that the source held in c0 in c0 + 2w + 2, and frees the port at c0 + 2w + 3; with bad parity at one of
them the array takes no beat, UPD_STAT.REJECT is requested with REASON 6, and the port is free at c0 + w. In each case the array takes
those beats and no other, the head has left the FIFO, with what behind it fails its check, and every register, the device state, the
deckle number, the deep store and the queue stand. Choices of the model that it may rest on: log entries 42, 43, 127. -/
def Obligations.UpdateCommandBeats : Prop :=
  ∀ (s : State) (cyc : BitVec 4) (fn c0 : Nat) (ws : List Word), Canonical s → hostGrant s (s.dkl.cyc + cyc.toNat) = some (.cmd fn ws, c0) →
    let addr := fld (ws.headD 0) 19 0
    let op := fld (ws.headD 0) 31 28
    (∀ o ∈ [(1, Instr.write cyc), (2, .writeAd cyc), (3, .invalidate cyc), (4, .validate cyc), (5, .replace cyc), (6, .move cyc)], op = o.1 →
      ∃ t, exec o.2 s = .next t ∧ KeepsMain s t ∧ HeadLeft s t ∧ c0 < t.upd.free) ∧
    (rd s R.WMK_INJ = 0 → s.srch.rewrite = none →
    let dst := fld ((ws[1]?).getD 0) 19 0
    let w := quireUnits s addr
    let src := fun k => unitPort s (addr + k) c0
    let body := fun k => unitOp (unitBody ws k).1 (unitBody ws k).2.1 (unitBody ws k).2.2
    (op = 3 → ∃ t, exec (.invalidate cyc) s = .next t ∧ KeepsMain s t ∧ PortFreeAt t (c0 + 1) 0 ∧ Landed s t [⟨c0, addr, .valid 0⟩] ∧ t.regs = s.regs ∧ HeadLeft s t) ∧
    (op = 4 → ∃ t, exec (.validate cyc) s = .next t ∧ KeepsMain s t ∧ PortFreeAt t (c0 + 1) 0 ∧ Landed s t [⟨c0, addr, .valid 7⟩] ∧ t.regs = s.regs ∧ HeadLeft s t) ∧
    (op = 2 → let ad := (ws.getD 2 0).toNat + (ws.getD 3 0).toNat * 2 ^ 32
      ∃ t, exec (.writeAd cyc) s = .next t ∧ KeepsMain s t ∧ PortFreeAt t (c0 + 1) 0 ∧ Landed s t [⟨c0, addr, .unit none none (some (ad, adParity ad))⟩] ∧ t.regs = s.regs ∧ HeadLeft s t) ∧
    (op = 1 → let n := fld (ws.headD 0) 25 24 + 1
      ∃ t, exec (.write cyc) s = .next t ∧ KeepsMain s t ∧ PortFreeAt t (c0 + n) 0 ∧ Landed s t ((List.range n).map (fun k => ⟨c0 + k, addr + k, body k⟩)) ∧ t.regs = s.regs ∧ HeadLeft s t ∧
        (w ≠ 1 → portValid s (entryOf w addr) c0 = true →
          HwReq.cond R.UPD_STAT 67 2 [(R.UPD_LIVE, BitVec.ofNat 32 (entryOf w addr + quireCode s (addr / 16384) * 2 ^ 20))] (regionTenant s (entryOf w addr)) .newBits ∈ t.ev.reqs)) ∧
    (op = 5 → (bit (ws.headD 0) 27 && portValid s addr c0) = false →
      ∃ t, exec (.replace cyc) s = .next t ∧ KeepsMain s t ∧ PortFreeAt t (c0 + w + 3) 0 ∧ t.regs = s.regs ∧ HeadLeft s t ∧
        Landed s t (⟨c0 + 1, addr, .valid 0⟩ :: (List.range w).map (fun k => ⟨c0 + 2 + k, addr + k, body k⟩) ++ [⟨c0 + w + 2, addr, .valid 7⟩])) ∧
    (op = 6 → (∀ k < w, shadowGood (src k)) → ∃ t, exec (.move cyc) s = .next t ∧ KeepsMain s t ∧ PortFreeAt t (c0 + 2 * w + 3) 0 ∧ t.regs = s.regs ∧ HeadLeft s t ∧
        Landed s t (⟨c0 + w + 1, dst, .valid 0⟩ ::
          (List.range w).map (fun k => ⟨c0 + w + 2 + k, dst + k, unitOp (src k).sval (src k).smask (src k).ad⟩) ++
          [⟨c0 + 2 * w + 2, dst, .valid (if portValid s addr c0 then 7 else 0)⟩])) ∧
    (op = 6 → (∃ k < w, ¬ shadowGood (src k)) → ∃ t, exec (.move cyc) s = .next t ∧ KeepsMain s t ∧ PortFreeAt t (c0 + w) 0 ∧ t.regs = s.regs ∧ HeadLeft s t ∧
        t.srch = s.srch ∧ HwReq.cond R.UPD_STAT 67 4 [(R.UPD_REJ, rejWord 6 6 addr)] (regionTenant s addr) .newBits ∈ t.ev.reqs))

/-- A REPLACE with COND = 1 on a valid entry ends after its first beat. When the port grants a REPLACE whose COND bit is 1 and the valid
bit it reads in beat 0 is 1, the command ends after that beat: the search array takes no beat, UPD_STAT.SKIP is requested with UPD_REJ
holding OP 5, REASON 8 and the address, and the port is free one cycle later; every register, the device state, the deckle number, the
deep store and the queue stand. Choices of the model that it may rest on: log entry 43. -/
def Obligations.ReplaceSkipsWithCond : Prop :=
  ∀ (s : State) (cyc : BitVec 4) (fn c0 : Nat) (ws : List Word), Canonical s → hostGrant s (s.dkl.cyc + cyc.toNat) = some (.cmd fn ws, c0) →
    fld (ws.headD 0) 31 28 = 5 → bit (ws.headD 0) 27 = true → portValid s (fld (ws.headD 0) 19 0) c0 = true →
    ∃ t, exec (.replace cyc) s = .next t ∧ KeepsMain s t ∧ t.srch = s.srch ∧ t.regs = s.regs ∧ PortFreeAt t (c0 + 1) 0 ∧
      HwReq.cond R.UPD_STAT 67 8 [(R.UPD_REJ, rejWord 5 8 (fld (ws.headD 0) 19 0))] (regionTenant s (fld (ws.headD 0) 19 0)) .newBits ∈ t.ev.reqs

/-- MARK reports to its function; a submission of the indirect port writes its unit; a row without a grant waits. With a grant in cycle
c0: MARK changes nothing in the array, leaves ARG[15:0] in UPD_DONE of the issuing function and no other register changed, and requests
UPD_STAT.MARK. With fault injection off and no scrubber rewrite waiting, a cell submission writes cells, shadow and shadow parity of its
unit in c0, and an associated-data submission writes the word and its parity in c0; the array takes no other beat and every register
stands. Each frees the port at c0 + 1, and the device state, the deckle number, the deep store and the queue stand. Without a grant,
WRITE, INVALIDATE, VALIDATE, REPLACE, MOVE, MARK and QUIRE_CELL_WRITE change nothing. Choices of the model that it may rest on: log
entry 43. -/
def Obligations.MarkAndCellBeats : Prop :=
  ∀ (s : State) (cyc : BitVec 4), Canonical s →
    let c := s.dkl.cyc + cyc.toNat
    (∀ fn ws c0, hostGrant s c = some (.cmd fn ws, c0) → fld (ws.headD 0) 31 28 = 7 →
      ∃ t, exec (.mark cyc) s = .next t ∧ KeepsMain s t ∧ t.srch = s.srch ∧ PortFreeAt t (c0 + 1) 0 ∧ RegsBut s t [regKey fn R.UPD_DONE] ∧
        rd t (regKey fn R.UPD_DONE) = BitVec.ofNat 32 (fld (ws.getD 1 0) 15 0) ∧ HwReq.cond R.UPD_STAT 67 1 [] 0 .newBits ∈ t.ev.reqs) ∧
    (∀ fn addr value mask c0, hostGrant s c = some (.cell fn addr value mask, c0) → rd s R.WMK_INJ = 0 → s.srch.rewrite = none →
      ∃ t, exec (.quireCellWrite cyc) s = .next t ∧ KeepsMain s t ∧ PortFreeAt t (c0 + 1) 0 ∧ t.regs = s.regs ∧
        Landed s t [⟨c0, addr, .unit (some (value, mask)) (some (value, mask, shadowParity value mask)) none⟩]) ∧
    (∀ fn addr ad c0, hostGrant s c = some (.adw fn addr ad, c0) → rd s R.WMK_INJ = 0 → s.srch.rewrite = none →
      ∃ t, exec (.writeAd cyc) s = .next t ∧ KeepsMain s t ∧ PortFreeAt t (c0 + 1) 0 ∧ t.regs = s.regs ∧
        Landed s t [⟨c0, addr, .unit none none (some (ad, adParity ad))⟩]) ∧
    (hostGrant s c = none → ∀ r ∈ [Instr.write cyc, .invalidate cyc, .validate cyc, .replace cyc, .move cyc, .mark cyc, .quireCellWrite cyc], exec r s = .next s)

/-- A zone descriptor and an override set are staged word by word and submitted whole. In a LAID device that no pair mirrors, a word of
a zone descriptor or override set that the function does not reach is refused, with IND_CTL.REFUSED and HOST_STAT.INDREJ, and neither
stages nor submits anything. Of one it reaches, writing word 0 of a zone descriptor, or a word of an override set before the last, only
stages it. Writing word 1 of a zone descriptor submits the staged entry d, of which nothing stays staged: one that the checks refuse is
reported with bit 1 of PTR_STAT and not taken; one that passes joins the pending submissions, which the next window boundary takes,
where it activates nothing or there is room for the activation; an activation without room is reported as a refused addition and with
bit 2. Writing word 63 of an override set submits the set, and nothing of it stays staged. No register changes but by the requested
conditions. Choices of the model that it may rest on: log entries 73, 105. -/
def Obligations.ZoneSubmissions : Prop :=
  ∀ (s : State) (fn : BitVec 6) (v : Word), Canonical s → barUp s = true → s.dev = .laid → AtOnce s →
    let put := fun a => s.setHp { s.hp with staged := SMap.put s.hp.staged (stageKey fn.toNat 6 a) v }
    (∀ (z : BitVec 12) (w : BitVec 1), reachesObj s fn.toNat 0x12 z.toNat = false → exec (.zoneDescriptorSubmit fn z w v) s = .next (indRefuse s fn.toNat)) ∧
    (∀ (n : BitVec 12) (k : BitVec 6), reachesObj s fn.toNat 0x13 n.toNat = false → exec (.overrideSetSubmit fn n k v) s = .next (indRefuse s fn.toNat)) ∧
    (∀ z : BitVec 12, reachesObj s fn.toNat 0x12 z.toNat = true → exec (.zoneDescriptorSubmit fn z 0 v) s = .next (put (4 * z.toNat))) ∧
    (∀ z : BitVec 12, reachesObj s fn.toNat 0x12 z.toNat = true →
      let u := unstage (put (4 * z.toNat + 1)) fn.toNat 6 (4 * z.toNat) 2
      let d := stagedEntry (put (4 * z.toNat + 1)) fn.toNat 6 (4 * z.toNat) 2 (zoneNow s z.toNat)
      let taken := u.setPtr { u.ptr with pend := u.ptr.pend ++ [(z.toNat, d)] }
      (zoneOk u fn.toNat z.toNat d = false → exec (.zoneDescriptorSubmit fn z 1 v) s = .next (ptrCond u 1 z.toNat)) ∧
      (zoneOk u fn.toNat z.toNat d = true → (zoneEn d = false ∨ zoneEn (zoneNow u z.toNat) = true ∨ activationRefusal u z.toNat d = none) →
        exec (.zoneDescriptorSubmit fn z 1 v) s = .next taken) ∧
      (∀ r, zoneOk u fn.toNat z.toNat d = true → zoneEn d = true → zoneEn (zoneNow u z.toNat) = false → activationRefusal u z.toNat d = some r →
        exec (.zoneDescriptorSubmit fn z 1 v) s = .next (ptrCond r 2 z.toNat))) ∧
    (∀ (n : BitVec 12) (k : BitVec 6), reachesObj s fn.toNat 0x13 n.toNat = true → k ≠ 63 → exec (.overrideSetSubmit fn n k v) s = .next (put (0x4000 + 64 * n.toNat + k.toNat))) ∧
    (∀ n : BitVec 12, reachesObj s fn.toNat 0x13 n.toNat = true →
      let u := unstage (put (0x4000 + 64 * n.toNat + 63)) fn.toNat 6 (0x4000 + 64 * n.toNat) 64
      let ws := stagedEntry (put (0x4000 + 64 * n.toNat + 63)) fn.toNat 6 (0x4000 + 64 * n.toNat) 64 (setWords s n.toNat)
      exec (.overrideSetSubmit fn n 63 v) s = .next (u.setPtr { u.ptr with setPend := u.ptr.setPend ++ [(n.toNat, ws)] }))

/-- The window opens once in a deckle; a status read latches the second word. Where the present event tick reaches cycle 512 of a deckle
whose window has not opened, PARTERRE_WINDOW takes the parity findings it is given and opens the window; otherwise it changes nothing.
In a running device an open, unfinished window lets each event tick issue the searches of the zones whose cycle has come and take the
results that arrive; a window not open, or done, changes nothing. An accepted read of PTR_ZSTAT0 answers the first status word of the
zone that PTR_ZSEL selects and latches the second for that function, both zero for a zone the function does not reach; a read of
PTR_ZSTAT1 answers the latched word, or the present one where none is latched, and empties the latch. An access not accepted answers
zero and changes nothing else. Choices of the model that it may rest on: log entries 72, 74. -/
def Obligations.ParterreWindowAndStatus : Prop :=
  ∀ s : State, Canonical s →
    (∀ gains descs, windowDue s = true → ∃ t, exec (.parterreWindow gains descs) s = .next t ∧ KeepsMain s t ∧ t.ptr.opened = true ∧
      t = (zoneUpsets (gainUpsets s gains) descs).setPtr { (zoneUpsets (gainUpsets s gains) descs).ptr with opened := true }) ∧
    (∀ gains descs, windowDue s = false → exec (.parterreWindow gains descs) s = .next s) ∧
    (∀ c, running s = true → s.dkl.started = true → s.ptr.opened = true → s.ptr.done = false → windowTick s c = takeZones (issueZones s c) c) ∧
    (∀ c, (s.ptr.opened = false ∨ s.ptr.done = true) → windowTick s c = s) ∧
    (∀ fn : BitVec 6,
      let z := rdF s (regKey fn.toNat R.PTR_ZSEL) 11 0
      let w := if reachesObj s fn.toNat 0x12 z then zoneStat s z else (0, 0)
      (accessOk s fn.toNat R.PTR_ZSTAT0 = true →
        exec (.zoneStatusRead fn false) s = .next ((s.setPtr { s.ptr with latch := SMap.put s.ptr.latch fn.toNat w.2 }).setAns w.1)) ∧
      (∀ x, accessOk s fn.toNat R.PTR_ZSTAT1 = true → SMap.get s.ptr.latch fn.toNat = some x →
        exec (.zoneStatusRead fn true) s = .next ((s.setPtr { s.ptr with latch := SMap.del s.ptr.latch fn.toNat }).setAns x)) ∧
      (accessOk s fn.toNat R.PTR_ZSTAT1 = true → SMap.get s.ptr.latch fn.toNat = none → exec (.zoneStatusRead fn true) s = .next (s.setAns w.2))) ∧
    (∀ (fn : BitVec 6) (hi : Bool), accessOk s fn.toNat (if hi then R.PTR_ZSTAT1 else R.PTR_ZSTAT0) = false → exec (.zoneStatusRead fn hi) s = .next (s.setAns 0))

/-- The six commands of the address table and their results. With no pair mirroring, a command of the address table by a function that
reaches FWD_STA_CMD ends at once with a RESULT and CMD_DONE or CMD_REJECT; it writes registers of the station commands only. By a
function that does not reach it, it changes nothing. WRITE that stores, and LOOKUP's and DELETE's search, first clear VALID in the rows
of the key that have bad parity. LOOKUP of a key in way i answers its location and data with 0, of an absent key 1. READ answers the key
and data of the entry at FWD_STA_LOC with 0 if it is valid, else 1. WRITE to a row that is free or holds the key, the key being in no
other way, stores the entry, unmarked, with 0; to another key's row 2, with the key in another way 3. DELETE of a key in way i clears
its VALID and its mark with 0, of an absent key answers 1. MOVE of a valid entry to a free row moves it and its mark with 0; of no valid
entry answers 1, to a row in use 2. HASH answers the four hashes of the key with 0. A tenant that the function does not reach answers 4;
an entry with bad parity, for READ and MOVE, loses its VALID, is reported, and answers 5. A command that writes the table takes the
RAM's write port for one cycle. Choices of the model that it may rest on: log entries 107, 144. -/
def Obligations.AddressTableCommands : Prop :=
  ∀ (s : State) (fn : BitVec 6), Canonical s → AtOnce s →
    (accessOk s fn.toNat R.FWD_STA_CMD = false → ∀ c ∈ [Instr.staLookup fn, .staRead fn, .staWrite fn, .staDelete fn, .staMove fn, .staHash fn], exec c s = .next s) ∧
    (accessOk s fn.toNat R.FWD_STA_CMD = true →
    let key := staRegKey s
    let loc := rdF s R.FWD_STA_LOC 17 0
    let dst := rdF s R.FWD_STA_DEST 17 0
    let x := staWord s loc
    let mine := staTenantOk s fn.toNat (bits key 69 60)
    let its := staTenantOk s fn.toNat (bits x 69 60)
    let elsewhere := (List.range 4).any (fun i => staLoc s i key != loc && (staLive (staWord s (staLoc s i key)) && staKey (staWord s (staLoc s i key)) == key))
    (∀ c ∈ [Instr.staLookup fn, .staRead fn, .staWrite fn, .staDelete fn, .staMove fn, .staHash fn], ∃ t, exec c s = .next t ∧ KeepsMain s t ∧ RegsBut s t staRegs) ∧
    (mine = false → exec (.staLookup fn) s = .next (staEnd (staOp s 1) 4) ∧ exec (.staWrite fn) s = .next (staEnd (staOp s 3) 4) ∧
      exec (.staDelete fn) s = .next (staEnd (staOp s 4) 4) ∧ exec (.staHash fn) s = .next (staEnd (staOp s 6) 4)) ∧
    (let u := clearBadRows (staOp s 1) key;
      (∀ i, mine = true → wayOf u key = some i → exec (.staLookup fn) s =
        .next (staEnd (wr (wr u R.FWD_STA_LOC (BitVec.ofNat 32 (2 ^ 31 + staLoc u i key))) R.FWD_STA_DATA (staDataWord (staWord u (staLoc u i key)))) 0)) ∧
      (mine = true → wayOf u key = none → exec (.staLookup fn) s = .next (staEnd (wrF u R.FWD_STA_LOC 31 31 0) 1))) ∧
    (staBad x = true → exec (.staRead fn) s = .next (staEnd (clearBad (staOp s 2) loc) 5) ∧
      exec (.staMove fn) s = .next (staEnd (clearBad (staOp s 5) loc) 5)) ∧
    (staBad x = false → its = false → exec (.staRead fn) s = .next (staEnd (staOp s 2) 4)) ∧
    (staBad x = false → its = true → exec (.staRead fn) s = .next (staEnd (wrAll (staOp s 2) [(R.FWD_STA_KEY0, BitVec.ofNat 32 x),
      (R.FWD_STA_KEY1, BitVec.ofNat 32 (bits x 47 32 + bits x 59 48 * 65536)), (R.FWD_STA_KEY2, BitVec.ofNat 32 (bits x 69 60)), (R.FWD_STA_DATA, staDataWord x)])
      (if x.testBit 76 then 0 else 1))) ∧
    (mine = true → (staLive x && staKey x != key) = true → exec (.staWrite fn) s = .next (staEnd (staOp s 3) 2)) ∧
    (mine = true → (staLive x && staKey x != key) = false → elsewhere = true → exec (.staWrite fn) s = .next (staEnd (staOp s 3) 3)) ∧
    (mine = true → (staLive x && staKey x != key) = false → elsewhere = false →
      let d := rd s R.FWD_STA_DATA
      let u := hostRam (staSet (clearBad (clearBadRows (staOp s 3) key) loc) loc (mkSta key (fld d 4 0) (bit d 5) (fld d 31 16)))
      exec (.staWrite fn) s = .next (staEnd (u.setFwd { u.fwd with marks := SMap.del u.fwd.marks loc }) 0)) ∧
    (let u := clearBadRows (staOp s 4) key;
      (∀ i, mine = true → wayOf u key = some i →
        exec (.staDelete fn) s = .next (staEnd (unmark (hostRam (staSet u (staLoc u i key) (staClear (staWord u (staLoc u i key))))) (staLoc u i key)) 0)) ∧
      (mine = true → wayOf u key = none → exec (.staDelete fn) s = .next (staEnd u 1))) ∧
    (staBad x = false → x.testBit 76 = false → exec (.staMove fn) s = .next (staEnd (staOp s 5) 1)) ∧
    (staBad x = false → x.testBit 76 = true → its = false → exec (.staMove fn) s = .next (staEnd (staOp s 5) 4)) ∧
    (staBad x = false → x.testBit 76 = true → its = true → staLive (staWord s dst) = true → exec (.staMove fn) s = .next (staEnd (staOp s 5) 2)) ∧
    (staBad x = false → x.testBit 76 = true → its = true → staLive (staWord s dst) = false →
      exec (.staMove fn) s = .next (staEnd (moveMark (hostRam (staSet (staSet (clearBad (staOp s 5) dst) loc (staClear x)) dst x)) loc dst) 0)) ∧
    (mine = true → exec (.staHash fn) s = .next (staEnd (wrAll (staOp s 6) ((List.range 4).map (fun i => (R.FWD_STA_HASHn i, BitVec.ofNat 32 (staHash s i key))))) 0)))

/-- TBL_CTL reads and writes one word of a forwarding table. With no pair mirroring, TABLE_READ of table t at index i by a function that
reaches FWD_TBL_CTL leaves the control word with the index and the table, and the word in FWD_TBL_LO and FWD_TBL_HI; a word with bad
parity is reported with its table and index. Beyond the table's size it reads zero. TABLE_WRITE within the size stores the word of those
two registers, beyond it stores nothing; it leaves the control word. No other register changes. By a function that does not reach
FWD_TBL_CTL neither changes anything. Choices of the model that it may rest on: log entry 107. -/
def Obligations.ForwardingTablesByHost : Prop :=
  ∀ (s : State) (fn : BitVec 6) (tb : BitVec 2) (i : BitVec 16), Canonical s → AtOnce s →
    (accessOk s fn.toNat R.FWD_TBL_CTL = false → exec (.tableRead fn tb i) s = .next s ∧ exec (.tableWrite fn tb i) s = .next s) ∧
    (accessOk s fn.toNat R.FWD_TBL_CTL = true →
    (let u := wr s R.FWD_TBL_CTL (BitVec.ofNat 32 (i.toNat + tb.toNat * 2 ^ 24));
      let w := if i.toNat < tblSize tb.toNat then tblRead s tb.toNat i.toNat else (0, true)
      let v := wr (wr u R.FWD_TBL_LO (BitVec.ofNat 32 w.1)) R.FWD_TBL_HI (BitVec.ofNat 32 (w.1 / 2 ^ 32))
      ∃ t, exec (.tableRead fn tb i) s = .next t ∧ KeepsMain s t ∧ RegsBut s t [R.FWD_TBL_CTL, R.FWD_TBL_LO, R.FWD_TBL_HI] ∧
        t = (if w.2 then v else fwdPerr v (tb.toNat + 1) 0 i.toNat)) ∧
    (let u := wr s R.FWD_TBL_CTL (BitVec.ofNat 32 (i.toNat + tb.toNat * 2 ^ 24 + 2 ^ 29));
      ∃ t, exec (.tableWrite fn tb i) s = .next t ∧ KeepsMain s t ∧ RegsBut s t [R.FWD_TBL_CTL] ∧
        t = (if i.toNat < tblSize tb.toNat then tblWrite u tb.toNat i.toNat ((rd s R.FWD_TBL_LO).toNat + (rd s R.FWD_TBL_HI).toNat * 2 ^ 32) else u)))

/-- HOLD empties the learning queue; a request is learned, refreshed, searched for or dropped. With no pair mirroring, an accepted write
of FWD_LEARN_CTL stores its word, and with HOLD set empties the learning queue, drops the engine's search that waits and its delivered
result, and leaves one under way without a taker; no other register changes. While HOLD is set or the device is not LAID, or with an
empty queue and no flush, LEARNING_REQUEST changes nothing. Else, with no flush, the request at the head of the queue is carried out as
its plan says, the rows of its key that have bad parity being cleared first: a station word is written once the RAM's write port is free
and, for a new entry, the pace of 1,600 cycles allows it, and the request leaves the queue; an overflow entry is written by REPLACE once
the pace allows it and rank 1 has the port; until then it waits; a class-3 lookup is asked for; or the request falls away, reported if
it is an insertion failure. The plan drops a request whose entry in a way is static, refreshes or moves a dynamic entry of a way, and
puts a new address in the lowest free way. SOURCE_LOOKUP of a running device does nothing for a port without a frame or a head frame
without a lookup; under HOLD, or on a blocked port, it takes the lookup from the head frame; else a frame whose key a way holds, or with
no overflow search, is decided at once, one that needs the search asks for it, and one that has its result is decided with it. A new
address with a free way, not queued yet and within the limit is offered to the queue. Choices of the model that it may rest on: log
entries 49, 51, 142, 143. -/
def Obligations.LearningIsPaced : Prop :=
  ∀ s : State, Canonical s →
    (∀ (fn : BitVec 6) (v : Word), AtOnce s → accessOk s fn.toNat R.FWD_LEARN_CTL = true →
      let w := newWord s fn.toNat R.FWD_LEARN_CTL .base v
      ∃ t, exec (.hold fn v) s = .next t ∧ KeepsMain s t ∧ rd t R.FWD_LEARN_CTL = w ∧ RegsBut s t [R.FWD_LEARN_CTL] ∧
        t.fwd = (if bit w 0 then { s.fwd with queue := [], relook := false } else s.fwd) ∧
        t.srch = (if bit w 0 then { s.srch with
          reqs := s.srch.reqs.filter (fun r => !ofEngine r.who)
          flights := s.srch.flights.map (fun f => if ofEngine f.who then { f with who := .lost } else f)
          done := s.srch.done.filter (fun d => !ofEngine d.1) } else s.srch)) ∧
    (∀ cyc : BitVec 4, (learnHeld s = true ∨ (s.fwd.flushes = [] ∧ s.fwd.queue = [])) → exec (.learningRequest cyc) s = .next s) ∧
    (∀ (cyc : BitVec 4) r q, learnHeld s = false → s.fwd.flushes = [] → s.fwd.queue = r :: q →
      let c := s.dkl.cyc + cyc.toNat
      let u := clearBadRows s (reqKey r)
      (learnPlan u r c = .drop → exec (.learningRequest cyc) s = .next (learnPop u)) ∧
      (learnPlan u r c = .wait → exec (.learningRequest cyc) s = .next u) ∧
      (learnPlan u r c = .look → exec (.learningRequest cyc) s = .next (engineLook u r)) ∧
      (∀ k, learnPlan u r c = .fail k → exec (.learningRequest cyc) s = .next (learnPop (insertionFailure u (reqKey r) r.port k))) ∧
      (∀ loc x, learnPlan u r c = .way loc x false → u.fwd.staFree ≤ c →
        exec (.learningRequest cyc) s = .next (learnPop (unmark (ramWrite u loc x c) loc))) ∧
      (∀ loc x, learnPlan u r c = .way loc x true → u.fwd.staFree ≤ c → u.fwd.learnFrom ≤ c →
        exec (.learningRequest cyc) s = .next (learnPace (learnPop (unmark (ramWrite u loc x c) loc)) c)) ∧
      (∀ loc x fresh, learnPlan u r c = .way loc x fresh → c < u.fwd.staFree → exec (.learningRequest cyc) s = .next u) ∧
      (∀ loc x, learnPlan u r c = .way loc x true → c < u.fwd.learnFrom → exec (.learningRequest cyc) s = .next u) ∧
      (∀ i ad, learnPlan u r c = .over i ad → (c < u.fwd.learnFrom ∨ rank1Free u c = false) → exec (.learningRequest cyc) s = .next u) ∧
      (∀ i ad, learnPlan u r c = .over i ad → u.fwd.learnFrom ≤ c → rank1Free u c = true →
        exec (.learningRequest cyc) s = .next (learnPop (learnPace (unmark (learnReplace u ((ovfBase u).getD 0 + i) c (ovfValue u (reqKey r)) ad) (2 ^ 18 + i)) c)))) ∧
    (∀ (u : State) r c, (∀ i, wayOf u (reqKey r) = some i → (staWord u (staLoc u i (reqKey r))).testBit 75 = true → learnPlan u r c = .drop) ∧
      (∀ i, wayOf u (reqKey r) = some i → (staWord u (staLoc u i (reqKey r))).testBit 75 = false →
        learnPlan u r c = .way (staLoc u i (reqKey r)) (mkSta (reqKey r) (if r.kind = 2 then bits (staWord u (staLoc u i (reqKey r))) 74 70 else r.port) false
          (rdF u R.FWD_AGE_NOW 15 0)) false) ∧
      (∀ i, wayOf u (reqKey r) = none → r.kind ≠ 2 → engineFound u (reqKey r) c = some none → freeWay u (reqKey r) = some i →
        learnPlan u r c = .way (staLoc u i (reqKey r)) (mkSta (reqKey r) r.port false (rdF u R.FWD_AGE_NOW 15 0)) true)) ∧
    (∀ port : BitVec 5, (running s = false ∨ headFrame s port.toNat = none) → exec (.sourceLookup port) s = .next s) ∧
    (∀ (port : BitVec 5) f, running s = true → headFrame s port.toNat = some f →
      (f.src ≠ .due → f.src ≠ .asked → exec (.sourceLookup port) s = .next s) ∧
      ((rdB s R.FWD_LEARN_CTL 0 = true ∨ portBlocked s port.toNat = true) → (f.src = .due ∨ f.src = .asked) → exec (.sourceLookup port) s = .next (putFrame s { f with src := .none })) ∧
      (rdB s R.FWD_LEARN_CTL 0 = false → portBlocked s port.toNat = false →
        let u := clearBadRows s (sourceKey f)
        (f.src = .due → ((wayOf u (sourceKey f)).isSome = true ∨ rdB u R.FWD_PROF 15 = false ∨ (ovfBase u).isNone = true) →
          exec (.sourceLookup port) s = .next (sourceOutcome u f none)) ∧
        (f.src = .due → wayOf u (sourceKey f) = none → rdB u R.FWD_PROF 15 = true → (ovfBase u).isSome = true → ∃ q, q.cls = 3 ∧ q.who = .learn f.id ∧
          q.prof = rdF u R.FWD_PROF 13 8 ∧ q.tenant = f.tenant ∧
          exec (.sourceLookup port) s = .next (putFrame (u.setSrch { u.srch with reqs := u.srch.reqs ++ [q] }) { f with src := .asked })) ∧
        (∀ d, f.src = .asked → s.srch.done.find? (fun d => d.1 == .learn f.id) = some d → exec (.sourceLookup port) s = .next (sourceOutcome s f (some d.2))) ∧
        (f.src = .asked → s.srch.done.find? (fun d => d.1 == .learn f.id) = none → exec (.sourceLookup port) s = .next s))) ∧
    (∀ f o, stationEntry s (sourceKey f) o = none → s.fwd.queue.any (fun x => x.mac == smac f.bytes && x.vlan == f.vlan && x.tenant == f.tenant) = false →
      (freeWay s (sourceKey f)).isSome = true → limitMet s f.port = false →
      sourceOutcome s f o = learnPush (putFrame s { f with src := .done false false }) ⟨f.tenant, f.vlan, smac f.bytes, f.port, 0⟩)

/-- The aging tick, the sweep, its removals, and a flush. An aging tick of a running device with aging configured counts the age; it
starts a sweep, which sets its marks, or, with one going on, marks it as lagging and reports it; otherwise it changes nothing. A removal
takes the first mark: a way entry that is live, not static and as it was marked loses its VALID once the RAM's write port is free and
the learning engine does not want it in that cycle, and till then nothing changes; one that has changed only drops its mark, a row of
bad parity losing its VALID; an overflow entry as it was marked is invalidated on the update port once the engine's pace and rank 2
allow it, and till then nothing changes; one that has changed only drops its mark. Without marks, or with aging off, it changes nothing.
A sweep without marks left ends, and one that lagged starts again at once; with aging off, no sweep or marks left, AGING_SWEEP_END
changes nothing. With no pair mirroring, an accepted GO of a flush while BUSY is 0 starts a flush of the selected entries and sets BUSY;
without GO, or with BUSY set, only the control word is stored. While a flush has an overflow entry to invalidate and the pace and the
port allow it, the learning engine's turn invalidates it; the oldest flush's entry with one beat of rank 1, the engine's pace starting
again and no register changing. FLUSH_DONE ends the oldest flush that is over, reports it, and leaves BUSY set only if another runs;
with none over it changes nothing. Choices of the model that it may rest on: log entry 51. -/
def Obligations.AgingAndFlush : Prop :=
  ∀ s : State, Canonical s →
    (running s = true → rdF s R.FWD_AGE_CFG 15 0 ≠ 0 →
      let u := wrF s R.FWD_AGE_NOW 15 0 (rdF s R.FWD_AGE_NOW 15 0 + 1)
      ∃ t, exec .agingTick s = .next t ∧ KeepsMain s t ∧
        (s.fwd.sweep = true → t = setCond (u.setFwd { u.fwd with lagged := true }) R.FWD_AGE_STAT 71 1) ∧
        (s.fwd.sweep = false → t = startSweep u ∧ t.fwd.sweep = true)) ∧
    ((running s = false ∨ rdF s R.FWD_AGE_CFG 15 0 = 0) → exec .agingTick s = .next s) ∧
    (∀ cyc : BitVec 4, (agingOn s = false ∨ s.fwd.marks = []) → exec (.agingRemoval cyc) s = .next s) ∧
    (∀ (cyc : BitVec 4) loc mark, agingOn s = true → s.fwd.marks.head? = some (loc, mark) →
      let c := s.dkl.cyc + cyc.toNat
      let x := staWord s loc
      let same := staLive x && !x.testBit 75 && markWord (staKey x) (bits x 95 80) == mark
      (loc < 2 ^ 18 → same = true → s.fwd.staFree ≤ c → learnRam s c = false → exec (.agingRemoval cyc) s = .next (unmark (ramWrite s loc (staClear x) c) loc)) ∧
      (loc < 2 ^ 18 → same = true → (c < s.fwd.staFree ∨ learnRam s c = true) → exec (.agingRemoval cyc) s = .next s) ∧
      (loc < 2 ^ 18 → same = false → exec (.agingRemoval cyc) s = .next (unmark (clearBad s loc) loc)) ∧
      (2 ^ 18 ≤ loc → markedOvf s loc mark c = none → exec (.agingRemoval cyc) s = .next (s.setFwd { s.fwd with marks := SMap.del s.fwd.marks loc })) ∧
      (∀ a, 2 ^ 18 ≤ loc → markedOvf s loc mark c = some a → (c < s.fwd.ageFrom ∨ rank2Free s c = false) → exec (.agingRemoval cyc) s = .next s) ∧
      (∀ a, 2 ^ 18 ≤ loc → markedOvf s loc mark c = some a → s.fwd.ageFrom ≤ c → rank2Free s c = true →
        ∃ t, exec (.agingRemoval cyc) s = .next t ∧ KeepsMain s t ∧ Landed s t [{ land := c, addr := a, op := .valid 0 }] ∧ PortFreeAt t (c + 1) 2 ∧
          t.fwd.marks = SMap.del s.fwd.marks loc ∧ t.fwd.ageFrom = c + rdF s R.FWD_AGE_CFG 27 16)) ∧
    (agingOn s = true → s.fwd.sweep = true → s.fwd.marks = [] → exec .agingSweepEnd s = .next (if s.fwd.lagged then startSweep s else s.setFwd { s.fwd with sweep := false })) ∧
    ((agingOn s = false ∨ s.fwd.sweep = false ∨ s.fwd.marks ≠ []) → exec .agingSweepEnd s = .next s) ∧
    (∀ (fn : BitVec 6) (v : Word), AtOnce s → accessOk s fn.toNat R.FWD_FLUSH_CTL = true →
      let u := plainWrite s fn.toNat R.FWD_FLUSH_CTL .base v
      (bit v 0 = false → exec (.flushGo fn v) s = .next u) ∧
      (bit v 0 = true → rdB u R.FWD_FLUSH_CTL 1 = true → exec (.flushGo fn v) s = .next u) ∧
      (bit v 0 = true → rdB u R.FWD_FLUSH_CTL 1 = false → ∃ t, exec (.flushGo fn v) s = .next t ∧ KeepsMain s t ∧
        t = flush u (rd u R.FWD_FLUSH_SEL) (rdB u R.FWD_FLUSH_CTL 2) fn.toNat ∧ rdB t R.FWD_FLUSH_CTL 1 = true)) ∧
    (∀ (cyc : BitVec 4) t, learnHeld s = false → s.fwd.learnFrom ≤ s.dkl.cyc + cyc.toNat → rank1Free s (s.dkl.cyc + cyc.toNat) = true →
      flushStep s (s.dkl.cyc + cyc.toNat) s.fwd.flushes = some t → exec (.learningRequest cyc) s = .next t) ∧
    (∀ (cyc : BitVec 4) j l addr rest, learnHeld s = false → s.fwd.learnFrom ≤ s.dkl.cyc + cyc.toNat → rank1Free s (s.dkl.cyc + cyc.toNat) = true →
      s.fwd.flushes = j :: l → flushNext s j (s.dkl.cyc + cyc.toNat) = some (addr, rest) →
      ∃ t, exec (.learningRequest cyc) s = .next t ∧ KeepsMain s t ∧ Landed s t [{ land := s.dkl.cyc + cyc.toNat, addr := addr, op := .valid 0 }] ∧
        PortFreeAt t (s.dkl.cyc + cyc.toNat + 1) 1 ∧ t.fwd.learnFrom = s.dkl.cyc + cyc.toNat + 1600 ∧ t.regs = s.regs) ∧
    (s.fwd.flushes.find? (flushOver s s.dkl.cyc) = none → exec .flushDone s = .next s) ∧
    (∀ j, s.fwd.flushes.find? (flushOver s s.dkl.cyc) = some j → ∃ t, exec .flushDone s = .next t ∧ KeepsMain s t ∧
      t.fwd = { s.fwd with flushes := s.fwd.flushes.erase j } ∧ rdB t R.FWD_FLUSH_CTL 1 = !(s.fwd.flushes.erase j).isEmpty ∧
      RegsBut s t [R.FWD_FLUSH_CTL] ∧ HwReq.cond R.FWD_STAT 68 8 [] 0 .newBits ∈ t.ev.reqs)

/-- A received Ethernet frame is dropped for the first cause that holds, or classified. A frame that arrives whole at a port which is
up, in a running device, is checked in this order: 63 bytes or less, longer than the port's limit under the JUMBO in force at its first
byte, a bad code word, forward error or frame check sequence, a MAC control frame (which is taken off without a trace), the packet
buffer of 8 MiB full, the port's FIFO full; the first cause that holds drops it under its own number. Otherwise the frame is classified,
with a receive timestamp where it is a PTP event message. At a port that is not up, or while the device does not run, nothing happens.
Classification drops a frame whose tag, VLAN or tenant fails, a table word of bad parity being reported; else the frame joins its port's
FIFO with the next number, its VLAN, priority and tenant, the media clock count of its deckle, and whether its port is blocked. Choices
of the model that it may rest on: log entries 46, 48, 50, 128, 130, 131, 132, 142. -/
def Obligations.FrameReceptionAndDrops : Prop :=
  ∀ (s : State) (port : BitVec 4) (bs : List Byte) (pcs fec : Bool) (cyc : BitVec 4), Canonical s →
    let p := port.toNat
    let body := bs.take (bs.length - 4)
    let fcs := bs.drop (bs.length - 4)
    let limit := rxLimit (jumboAt s p (s.dkl.cyc + cyc.toNat - frameCycles s p (bs.length - 20))) (fbe bs 12 2 == 0x8100)
    let bad := (pcs || fec) || leNat fcs != crc32 body
    let x := exec (.frameReceive port bs pcs fec cyc) s
    (∃ t, x = .next t ∧ KeepsMain s t) ∧ ((running s = false ∨ portUp s p = false) → x = .next s) ∧
    (running s = true → portUp s p = true →
      (bs.length ≤ 63 → x = .next (portDrop s p 0)) ∧
      (63 < bs.length → limit < bs.length → x = .next (portDrop s p 1)) ∧
      (63 < bs.length → bs.length ≤ limit → bad = true → x = .next (portDrop s p 2)) ∧
      (63 < bs.length → bs.length ≤ limit → bad = false →
        (fbe bs 12 2 = 0x8808 → x = .next s) ∧
        (fbe bs 12 2 ≠ 0x8808 → 8 * 2 ^ 20 < bufferUsed s + bs.length → x = .next (portDrop s p 4)) ∧
        (fbe bs 12 2 ≠ 0x8808 → bufferUsed s + bs.length ≤ 8 * 2 ^ 20 → fifoSize s p ≤ (s.fwd.frames.filter (fun f => f.port == p)).length → x = .next (portDrop s p 3)) ∧
        (fbe bs 12 2 ≠ 0x8808 → bufferUsed s + bs.length ≤ 8 * 2 ^ 20 → (s.fwd.frames.filter (fun f => f.port == p)).length < fifoSize s p →
          x = .next (classify s p body fcs (match ptpOffset body with
            | some _ => some (stampAt s cyc.toNat (frameCycles s p (bs.length - 20)))
            | none => none)))) ∧
      (∀ stamp, ingressTag s p body = none → classify s p body fcs stamp = fwdDrop s p) ∧
      (∀ stamp vlan pcp tagged, ingressTag s p body = some (vlan, pcp, tagged) →
        let vw := tblRead s 0 vlan
        let tw := tblRead s 1 (bits vw.1 49 40)
        ((vw.2 = false ∨ vw.1.testBit 50 = false ∨ vw.1.testBit p = false) →
          classify s p body fcs stamp = fwdDrop (if vw.2 then s else fwdPerr s 1 0 vlan) p) ∧
        (vw.2 = true → vw.1.testBit 50 = true → vw.1.testBit p = true → (tw.2 = false ∨ tw.1.testBit 48 = false) →
          classify s p body fcs stamp = fwdDrop (if tw.2 then s else fwdPerr s 2 0 (bits vw.1 49 40)) p) ∧
        (vw.2 = true → vw.1.testBit 50 = true → vw.1.testBit p = true → tw.2 = true → tw.1.testBit 48 = true →
        ∃ f, (classify s p body fcs stamp).fwd.frames = s.fwd.frames ++ [f] ∧ f.id = s.fwd.nextId ∧ f.port = p ∧ f.bytes = body ∧ f.fcs = fcs ∧ f.vlan = vlan ∧ f.pcp = pcp ∧
          f.tenant = bits vw.1 49 40 ∧ f.stamp = stamp ∧ f.mc = mcOf s s.dkl.num 0 ∧ f.blocked = portBlocked s p ∧
          (classify s p body fcs stamp).fwd.nextId = s.fwd.nextId + 1)))

/-- Port configuration, link up, link down, failed negotiation and bad code words. An accepted write of ETH_PORTp_CFG of a running
device with a legal configuration within the power class stores it, keeps the former JUMBO for frames that have begun where it changes,
and takes the link down if a field of bits 10:6 changes; one above the power class is refused as a runtime addition; an illegal one, or
one while the device does not run, stores nothing. A link comes up only with ETH_REFCLK present, at an enabled, present port that is
down: the link register shows it with the negotiated and resolved forward error correction, and STAT bit 0 is requested; otherwise
nothing happens. A link that goes down clears the link register. A failed negotiation of an enabled, negotiating port that is down
requests STAT bit 2, and an uncorrectable code word STAT bit 3 of a port that is up, or bit 5 of an Edarlink port in UP; the registers
stand. Choices of the model that it may rest on: log entries 8, 57, 119. -/
def Obligations.EthernetPortsComeAndGo : Prop :=
  ∀ s : State, Canonical s →
    (∀ (fn : BitVec 6) (p : BitVec 4) (v : Word),
      let o := R.ETH_PORTp_CFG p.toNat
      let w := newWord s fn.toNat o .base v
      let u := if bit (rd s o) 11 = bit w 11 then wr s o w else noteJumbo (wr s o w) p.toNat (bit (rd s o) 11)
      (accessOk s fn.toNat o = false → exec (.ethPortCfgWrite fn p v) s = .next s) ∧
      (accessOk s fn.toNat o = true →
        ((running s = false ∨ portCfgOk s w = false) → exec (.ethPortCfgWrite fn p v) s = .next s) ∧
        (∀ r, running s = true → portCfgOk s w = true → powerRefusal s u 5 0 = some r → exec (.ethPortCfgWrite fn p v) s = .next r) ∧
        (running s = true → portCfgOk s w = true → powerRefusal s u 5 0 = none → fld (rd s o) 10 6 = fld w 10 6 → ∃ t, exec (.ethPortCfgWrite fn p v) s = .next t ∧
          KeepsMain s t ∧ t = u ∧ rd t o = w ∧ RegsBut s t [o]) ∧
        (running s = true → portCfgOk s w = true → powerRefusal s u 5 0 = none → fld (rd s o) 10 6 ≠ fld w 10 6 → ∃ t, exec (.ethPortCfgWrite fn p v) s = .next t ∧
          KeepsMain s t ∧ t = linkDown u p.toNat ∧ rd t (R.ETH_PORTp_LINK p.toNat) = 0))) ∧
    (∀ (p : BitVec 4) (fec : BitVec 2),
      let cfg := rd s (R.ETH_PORTp_CFG p.toNat)
      (running s = true → s.pwr.ethRef = true → bit cfg 10 = true → fld cfg 2 0 ≠ 0 → portAbsent s p.toNat = false →
        rdB s (R.ETH_PORTp_LINK p.toNat) 0 = false → ∃ t, exec (.ethLinkUp p fec) s = .next t ∧ KeepsMain s t ∧ RegsBut s t [R.ETH_PORTp_LINK p.toNat] ∧
          rd t (R.ETH_PORTp_LINK p.toNat) = BitVec.ofNat 32 (3 + (if fld cfg 7 6 ≠ 0 then 4 else 0) + resolveFec s p.toNat (min 2 fec.toNat) * 8) ∧
          HwReq.cond (R.ETH_PORTp_STAT p.toNat) (128 + 2 * p.toNat) 1 [] 0 .newBits ∈ t.ev.reqs) ∧
      ((running s = false ∨ s.pwr.ethRef = false ∨ bit cfg 10 = false ∨ fld cfg 2 0 = 0 ∨ portAbsent s p.toNat = true ∨ rdB s (R.ETH_PORTp_LINK p.toNat) 0 = true) →
        exec (.ethLinkUp p fec) s = .next s)) ∧
    (∀ p : BitVec 4, (running s = true → ∃ t, exec (.ethLinkDown p) s = .next t ∧ KeepsMain s t ∧ t = linkDown s p.toNat ∧ rd t (R.ETH_PORTp_LINK p.toNat) = 0 ∧
      portUp t p.toNat = false) ∧ (running s = false → exec (.ethLinkDown p) s = .next s)) ∧
    (∀ p : BitVec 4,
      let cfg := rd s (R.ETH_PORTp_CFG p.toNat)
      (running s = true → bit cfg 10 = true → fld cfg 7 6 ≠ 0 → rdB s (R.ETH_PORTp_LINK p.toNat) 0 = false →
        exec (.anFail p) s = .next (setCond s (R.ETH_PORTp_STAT p.toNat) (128 + 2 * p.toNat) 4)) ∧
      ((running s = false ∨ bit cfg 10 = false ∨ fld cfg 7 6 = 0 ∨ rdB s (R.ETH_PORTp_LINK p.toNat) 0 = true) → exec (.anFail p) s = .next s)) ∧
    (∀ port : BitVec 5,
      (running s = true → port.toNat < 16 → portUp s port.toNat = true →
        exec (.uncorrectableCodeword port) s = .next (setCond s (R.ETH_PORTp_STAT port.toNat) (128 + 2 * port.toNat) 8)) ∧
      (running s = true → 16 ≤ port.toNat → port.toNat < 20 → rdF s (R.EDL_PORTn_LINK (port.toNat - 16)) 2 0 = 4 →
        exec (.uncorrectableCodeword port) s = .next (edlCond s (port.toNat - 16) 5)) ∧
      ((running s = false ∨ 20 ≤ port.toNat ∨ (port.toNat < 16 ∧ portUp s port.toNat = false)) → exec (.uncorrectableCodeword port) s = .next s))

/-- The head frame of a port is decided when its results are there; a port sends its next frame when idle. A forwarding decision of a
running device acts on the oldest frame of the port when its source lookup and every search it asked for are done, and changes nothing
before that or without a frame. A frame whose port is blocked, or was when it was accepted, goes to the host port with reason 6 and
leaves its FIFO; one that the learning limit drops, or whose VLAN or tenant word has bad parity, is dropped, the latter with a report.
Else the bad words it met are reported; the decision is the flood that its source lookup asked for, nothing for a frame that a stream
consumes without PASS, or that of the destination rows; where that needs a next-hop search the frame asks for it and stays; else the
stream that it hits, if any, takes its packet, the decision is carried out, and the frame leaves its FIFO. A launch at an Ethernet port
that is up and idle takes the frame of the highest-numbered queue that may leave out of its queue and sends it: it is handed out with
its frame check sequence, spoiled if the frame was bad, the port is busy until its last bit and the gap are out, and a stream whose
packet it is has sent one. At a tunnel port that is up, has no chunk waiting and is idle, a launch hands the frame over in chunks, and
completes the descriptor of a host frame. With no such frame, or a port that is busy or not up, nothing happens. Choices of the model
that it may rest on: log entries 47, 48, 54, 114, 115, 129, 132, 133, 142. -/
def Obligations.FramesAreDecidedAndLaunched : Prop :=
  ∀ s : State, Canonical s →
    (∀ port : BitVec 5, headFrame s port.toNat = none → exec (.forwardDecision port) s = .next s) ∧
    (∀ (port : BitVec 5) f, headFrame s port.toNat = some f →
      (running s = true → frameReady s f = true → ∃ t, exec (.forwardDecision port) s = .next t ∧ KeepsButStore s t ∧ t = decideFrame s f) ∧
      ((running s = false ∨ frameReady s f = false) → exec (.forwardDecision port) s = .next s)) ∧
    (∀ f, (f.blocked = true ∨ portBlocked s f.port = true) → decideFrame s f = retireFrame (toHostPort s f 6) f) ∧
    (∀ f, f.blocked = false → portBlocked s f.port = false →
      let flood := match f.src with | .done b _ => b | _ => false
      let u := decisionPerr s f
      let hit := streamHit u f
      let d := if flood then floodDecision u f else match hit with | some (_, false) => .drop | _ => destDecision u f
      (∀ fl, f.src = .done fl true → decideFrame s f = retireFrame (fwdDrop s f.port) f) ∧
      ((∀ fl, f.src ≠ .done fl true) →
        (∀ t i, badEntry s f = some (t, i) → decideFrame s f = retireFrame (fwdDrop (fwdPerr s t 0 i) f.port) f) ∧
        (∀ g, badEntry s f = none → d = .ask g →
          decideFrame s f = putFrame (askFrame u g 4 0 (rdF u R.FWD_PROF 5 0) (frameSrc g)) { f with asked := f.asked ++ [4] }) ∧
        (badEntry s f = none → (∀ g, d ≠ .ask g) → hit = none → decideFrame s f = retireFrame (carryDecision u f false d) f) ∧
        (∀ n pass, badEntry s f = none → (∀ g, d ≠ .ask g) → hit = some (n, pass) →
          decideFrame s f = retireFrame (carryDecision (rxPacket u n f.port f.mc f.bytes f.l4off) f true d) f))) ∧
    (∀ (port : BitVec 5) (cyc : BitVec 4) (bad : Bool),
      let p := port.toNat
      let c := cyc.toNat
      ((running s = false ∨ portUp s p = false ∨ s.dkl.cyc + c < SMap.getD s.eth.idle p 0 ∨ nextFrame s p c = none) → exec (.frameLaunch port cyc bad) s = .next s) ∧
      (∀ f, running s = true → portUp s p = true → SMap.getD s.eth.idle p 0 ≤ s.dkl.cyc + c → nextFrame s p c = some f →
        (p < 16 → ∃ t, exec (.frameLaunch port cyc bad) s = .next t ∧ KeepsMain s t ∧ t = sendFrame (streamSent (dequeue s f) f) p c { f with bad := f.bad || bad } ∧
          (f.host = none → t.eth.egress = s.eth.egress.erase f ∧ t.out = s.out ++ [.frame p (withFcs (match f.ingress with
              | some i => if rdB s R.TB_TC 0 then correctFrame f.bytes i (txStamp s p c) else f.bytes
              | none => f.bytes) (f.bad || bad))] ∧
            t.eth.idle = SMap.put s.eth.idle p (s.dkl.cyc + c + frameCycles s p (f.bytes.length + 4)))) ∧
        (16 ≤ p → p < 20 → (edlTx s (p - 16)).frames.any (fun x => x.cls == 6) = true → exec (.frameLaunch port cyc bad) s = .next s) ∧
        (16 ≤ p → p < 20 → (edlTx s (p - 16)).frames.any (fun x => x.cls == 6) = false →
          let u := sendTunnel (streamSent (dequeue s f) f) (p - 16) (withFcs f.bytes (f.bad || bad))
          (∃ t, exec (.frameLaunch port cyc bad) s = .next t ∧ KeepsMain s t) ∧
          (f.host = none → exec (.frameLaunch port cyc bad) s = .next u) ∧
          (∀ ch w, f.host = some (ch, w) → exec (.frameLaunch port cyc bad) s = .next (txComplete u ch (BitVec.ofNat 32 w) none)))))

/-- Each stage of the pipeline runs once in a deckle, in order. While the device runs and its first deckle has begun, STAGE_A takes the
inputs of the block behind it - streams, flows, carried sums, generators, players - runs the input strips and the captures of its stage,
and has then run; STAGE_C runs the output strips and the captures behind the mix and has then run; each is done with no enabled strip of
its stage left unfinished. PACKETISE, once STAGE_C has run, packs the block, keeping what it was packed from, and has then packed; a mix
tier runs when the window is done, it has not run in the deckle, every lower tier in use has, and the event tick lies in its part of the
deckle: it reaches past the first class-gain read and begins before the next tier's start; it is then counted as run. Run already, too
early, too late or not running, a stage changes nothing. No stage changes the queue, the device state or the deckle number; a tier and
PACKETISE leave the deep store. Choices of the model that it may rest on: log entries 11, 52, 53, 54, 58, 59, 68, 134, 135, 136. -/
def Obligations.StagesRunOncePerDeckle : Prop :=
  ∀ s : State, Canonical s →
    (∀ up ecc full, (running s = true → s.dkl.started = true → s.aud.ranA = false → ∃ t, exec (.stageA up ecc full) s = .next t ∧ KeepsButStore s t ∧
        t.aud.ranA = true ∧ t.aud.doneA = allFinished s false up ∧
        ∃ u, u = capStage (inputStrips (blockBehind s 1) (playersStageA (generators (sumsStageA (flowsStageA (streamsStageA s (blockBehind s 1) ecc) (blockBehind s 1)))) (blockBehind s 1) ecc) up)
            true (blockBehind s 1) full ∧ t = u.setAud { u.aud with ranA := true, doneA := allFinished s false up }) ∧
      ((running s = false ∨ s.dkl.started = false ∨ s.aud.ranA = true) → exec (.stageA up ecc full) s = .next s)) ∧
    (∀ up full, (running s = true → s.dkl.started = true → s.aud.ranC = false → ∃ t, exec (.stageC up full) s = .next t ∧ KeepsButStore s t ∧
        t.aud.ranC = true ∧ t.aud.doneC = allFinished s true up ∧
        ∃ u, u = capStage (outputStrips (blockBehind s 3) s up) false (blockBehind s 3) full ∧ t = u.setAud { u.aud with ranC := true, doneC := allFinished s true up }) ∧
      ((running s = false ∨ s.dkl.started = false ∨ s.aud.ranC = true) → exec (.stageC up full) s = .next s)) ∧
    (running s = true → s.dkl.started = true → s.aud.ranC = true → s.aud.packed = false → ∃ t, exec .packetise s = .next t ∧ KeepsMain s t ∧
      t.aud.packed = true ∧ t = (packBlock s).setAud { (packBlock s).aud with packed := true, undo := some (s.strm, s.trl, s.edl) }) ∧
    ((running s = false ∨ s.dkl.started = false ∨ s.aud.ranC = false ∨ s.aud.packed = true) → exec .packetise s = .next s) ∧
    (∀ (k : BitVec 2) (up : List MixUpset),
      let reached := decide (tierStart s k.toNat + 29 < deckleCycle s (s.dkl.cyc + tickCycles s)) && decide (deckleCycle s s.dkl.cyc < tierStart s (k.toNat + 1))
      (running s = true → s.dkl.started = true → s.ptr.done = true → s.aud.tiers.testBit k.toNat = false →
        (∀ j, j < k.toNat → s.aud.tiers.testBit j = true ∨ rdF s (R.MIX_TIERk_M j) 19 0 = 0) → reached = true → ∃ t, exec (.mixTier k up) s = .next t ∧ KeepsMain s t ∧
          t.aud.tiers.testBit k.toNat = true ∧ t = runTier s (mixBlock s) k.toNat up) ∧
      ((running s = false ∨ s.dkl.started = false ∨ s.ptr.done = false ∨ s.aud.tiers.testBit k.toNat = true ∨
        (∃ j, j < k.toNat ∧ s.aud.tiers.testBit j = false ∧ rdF s (R.MIX_TIERk_M j) 19 0 ≠ 0) ∨ reached = false) → exec (.mixTier k up) s = .next s))

/-- A stream descriptor is read into, or written from, the descriptor registers of the function. With no pair mirroring,
STREAM_DESC_READ and STREAM_DESC_WRITE of descriptor n of a table by a function that reaches STRM_DESC_CTL leave the control register
with what was asked for and the RESULT. A read of a receive or transmit descriptor whose tenant the function reaches, in a LAID device,
fills the function's descriptor registers with RESULT 0; of table 3 it answers 1, of another tenant 2, in a device not LAID 8. A write
that the checks pass joins the pending descriptors with RESULT 0; one that they refuse answers their code and changes no descriptor.
Without access nothing changes. Choices of the model that it may rest on: log entries 55, 56, 57, 107. -/
def Obligations.StreamDescriptorsByHost : Prop :=
  ∀ (s : State) (fn : BitVec 6) (tb : BitVec 2) (n : BitVec 12), Canonical s → AtOnce s →
    (accessOk s fn.toNat R.STRM_DESC_CTL = false → exec (.streamDescRead fn tb n) s = .next s ∧ exec (.streamDescWrite fn tb n) s = .next s) ∧
    (accessOk s fn.toNat R.STRM_DESC_CTL = true →
      let key := regKey fn.toNat R.STRM_DESC_CTL
      let u := wr s key (BitVec.ofNat 32 (n.toNat + tb.toNat * 2 ^ 16))
      let w := wr s key (BitVec.ofNat 32 (n.toNat + tb.toNat * 2 ^ 16 + 2 ^ 29))
      let tenant := if tb.toNat = 0 then rxTenant (rxDesc u n.toNat) else txTenant (txDesc u n.toNat)
      let ws := descData w fn.toNat (if tb.toNat = 2 then 24 else 4)
      let c := descCheck w fn.toNat tb.toNat n.toNat ws
      (∃ t, exec (.streamDescRead fn tb n) s = .next t ∧ KeepsMain s t ∧
        (tb = 3 → t = wrF u key 27 24 1) ∧
        (tb ≠ 3 → reachesTenant u fn.toNat tenant = false → t = wrF u key 27 24 2) ∧
        (tb ≠ 3 → reachesTenant u fn.toNat tenant = true → s.dev ≠ .laid → t = wrF u key 27 24 8) ∧
        (tb ≠ 3 → reachesTenant u fn.toNat tenant = true → s.dev = .laid →
          t = wrF (wrAll u (((List.range 24).zip (descView u tb.toNat n.toNat)).map (fun e => (regKey fn.toNat (R.STRM_DESC_Dm e.1), e.2)))) key 27 24 0)) ∧
      (∃ t, exec (.streamDescWrite fn tb n) s = .next t ∧ KeepsMain s t ∧
        (c.1 ≠ 0 → t = wrF c.2 key 27 24 c.1) ∧
        (c.1 = 0 → ∃ x, x = wrF c.2 key 27 24 0 ∧ t = x.setStrm { x.strm with pend := x.strm.pend ++ [(tb.toNat, n.toNat, ws)] })))

/-- Live words, plane words and the couch check, from the host. With no pair mirroring: the first word that a function writes to
MIX_LIVE_CMD waits in its assembly buffer, the second completes the command, which is taken for the next block if the device is LAID and
the function reaches the slot, else reported; an accepted flush with bit 0 set empties the buffer. A write of a word in a mix plane of a
running device is stored if its plane is idle and no hold protects it, and the check result is no longer valid; a write into the active
plane, or during a hold, only reports; a word of no plane is not written. A check that is asked for in a running device while none runs
shows BUSY, and the plane counts as unwritten from then on; the end of a check disables every lane and segment that it refused,
MIX_CHK_FIRST names the first of them, MIX_CHK_CTL shows VALID alone, or nothing where the plane was written meanwhile, no register but
those and MIX_CHK_TIERk changes, and the end is requested with bit 3 of MIX_STAT, a refusal with bit 4; without a finding the plane
stays as it was. With no check running the end changes nothing; neither does a command that is not accepted. Choices of the model that
it may rest on: log entries 60, 61, 147. -/
def Obligations.MixByHost : Prop :=
  ∀ s : State, Canonical s → AtOnce s →
    (∀ (fn : BitVec 6) (v : Word),
      (accessOk s fn.toNat R.MIX_LIVE_CMD = false → exec (.liveCommand fn v) s = .next s) ∧
      (accessOk s fn.toNat R.MIX_LIVE_FLUSH = false → exec (.mixLiveFlush fn v) s = .next s) ∧
      (accessOk s fn.toNat R.MIX_CHK_CTL = false → exec (.couchCheck fn v) s = .next s)) ∧
    (∀ (a : BitVec 26) (v : Word), (barUp s = false ∨ running s = false) → exec (.couchWrite a v) s = .next s) ∧
    (∀ (fn : BitVec 6) (v : Word), accessOk s fn.toNat R.MIX_LIVE_CMD = true →
      (SMap.get s.mix.asm fn.toNat = none → exec (.liveCommand fn v) s = .next (s.setMix { s.mix with asm := SMap.put s.mix.asm fn.toNat v })) ∧
      (∀ w, SMap.get s.mix.asm fn.toNat = some w →
        let u := s.setMix { s.mix with asm := SMap.del s.mix.asm fn.toNat }
        (s.dev = .laid → reachesObj s fn.toNat 0x14 (fld w 13 0) = true →
          exec (.liveCommand fn v) s = .next (u.setMix { u.mix with pend := SMap.put u.mix.pend (fld w 13 0) (fld w 18 16, v.toInt) })) ∧
        ((s.dev ≠ .laid ∨ reachesObj s fn.toNat 0x14 (fld w 13 0) = false) → exec (.liveCommand fn v) s = .next (setCond u R.MIX_STAT 192 4)))) ∧
    (∀ (fn : BitVec 6) (v : Word), accessOk s fn.toNat R.MIX_LIVE_FLUSH = true → exec (.mixLiveFlush fn v) s =
      .next (if bit v 0 then s.setMix { s.mix with asm := SMap.del s.mix.asm fn.toNat } else s)) ∧
    (∀ (a : BitVec 26) (v : Word), barUp s = true → running s = true →
      (inPlaneTable a.toNat = false → exec (.couchWrite a v) s = .next s) ∧
      (inPlaneTable a.toNat = true → a.toNat / 0x1000000 = activePlane s → exec (.couchWrite a v) s = .next (setCond s R.MIX_STAT 192 2)) ∧
      (inPlaneTable a.toNat = true → a.toNat / 0x1000000 ≠ activePlane s → rdB s R.SCN_PLANE 1 = true → exec (.couchWrite a v) s = .next (setCond s R.SCN_STAT 194 8)) ∧
      (inPlaneTable a.toNat = true → a.toNat / 0x1000000 ≠ activePlane s → rdB s R.SCN_PLANE 1 = false → ∃ t, exec (.couchWrite a v) s = .next t ∧ KeepsMain s t ∧
        t.mix.words = SMap.putD 0 s.mix.words a.toNat v ∧ t.mix.dirty = true ∧ rdB t R.MIX_CHK_CTL 29 = false ∧ RegsBut s t [R.MIX_CHK_CTL])) ∧
    (∀ (fn : BitVec 6) (v : Word), accessOk s fn.toNat R.MIX_CHK_CTL = true →
      ((bit v 31 = false ∨ rdB s R.MIX_CHK_CTL 30 = true ∨ running s = false) → exec (.couchCheck fn v) s = .next s) ∧
      (bit v 31 = true → rdB s R.MIX_CHK_CTL 30 = false → running s = true → ∃ t, exec (.couchCheck fn v) s = .next t ∧ KeepsMain s t ∧
        rdB t R.MIX_CHK_CTL 30 = true ∧ t.mix.dirty = false ∧ RegsBut s t [R.MIX_CHK_CTL])) ∧
    (rdB s R.MIX_CHK_CTL 30 = false → exec .couchCheckDone s = .next s) ∧
    (rdB s R.MIX_CHK_CTL 30 = true →
      let l := planeCheck (walkView s (1 - activePlane s)) (1 - activePlane s)
      ∃ t, exec .couchCheckDone s = .next t ∧ KeepsMain s t ∧ t = couchChecked s ∧ rd t R.MIX_CHK_CTL = (if s.mix.dirty then 0 else 0x20000000) ∧
        rd t R.MIX_CHK_FIRST = (match l with
          | [] => 0
          | r :: _ => BitVec.ofNat 32 (2 ^ 31 + r.reason * 2 ^ 16 + b2n r.lane * 2 ^ 15 + r.idx)) ∧
        RegsBut s t [R.MIX_CHK_CTL, R.MIX_CHK_FIRST, R.MIX_CHK_TIERk 0, R.MIX_CHK_TIERk 1, R.MIX_CHK_TIERk 2, R.MIX_CHK_TIERk 3] ∧
        HwReq.cond R.MIX_STAT 192 (if l.isEmpty then 8 else 24) [] 0 .newBits ∈ t.ev.reqs ∧
        t.mix.words = (planeDisable s (1 - activePlane s) l).mix.words)

/-- A strip-space word is staged or submitted; a meter record is read in two parts. In a LAID device that no pair mirrors, a word of a
strip-space entry within the function's reach is only staged if it is not the entry's last; the last word submits the entry, which
leaves nothing of it staged; an address with no place changes nothing. In a running device a read of word 0 of a meter record within
reach answers it and latches the other word with the strip for the function; a read of word 1 answers the latched word and empties the
latch if it is of that strip, else answers the present word. A write or read out of the function's reach sets REFUSED and requests
INDREJ, and the read answers zero. While the device accepts no access, a submission changes nothing and a read answers zero. Choices of
the model that it may rest on: log entries 57, 69, 70, 71. -/
def Obligations.StripsByHost : Prop :=
  ∀ s : State, Canonical s →
    (∀ (fn : BitVec 6) (a : BitVec 21) (v : Word) (n : BitVec 15) (w : BitVec 1), barUp s = false →
      exec (.stripSubmit fn a v) s = .next s ∧ exec (.meterRecordRead fn n w) s = .next (s.setAns 0)) ∧
    (barUp s = true →
    (∀ (fn : BitVec 6) (a : BitVec 21) (v : Word), s.dev = .laid → AtOnce s → indReach s fn.toNat 5 a.toNat = true →
      let u := s.setHp { s.hp with staged := SMap.put s.hp.staged (stageKey fn.toNat 5 a.toNat) v }
      (stripPlace a.toNat = none → exec (.stripSubmit fn a v) s = .next s) ∧
      (∀ kind idx w n, stripPlace a.toNat = some (kind, idx, w, n) → w + 1 ≠ n → exec (.stripSubmit fn a v) s = .next u) ∧
      (∀ kind idx w n, stripPlace a.toNat = some (kind, idx, w, n) → w + 1 = n → ∃ t, exec (.stripSubmit fn a v) s = .next t ∧ KeepsMain s t ∧
        t = stripSubmit (unstage u fn.toNat 5 (a.toNat - w) n) fn.toNat kind idx (stagedEntry u fn.toNat 5 (a.toNat - w) n (stripNow u kind idx)) ∧
        t.hp = (unstage u fn.toNat 5 (a.toNat - w) n).hp)) ∧
    (∀ (fn : BitVec 6) (a : BitVec 21) (v : Word), indReach s fn.toNat 5 a.toNat = false → exec (.stripSubmit fn a v) s = .next (indRefuse s fn.toNat)) ∧
    (∀ (fn : BitVec 6) (n : BitVec 15), running s = true →
      (indReach s fn.toNat 5 (0x120000 + 2 * n.toNat) = true → exec (.meterRecordRead fn n 0) s =
        .next ((s.setStrp { s.strp with latch := SMap.put s.strp.latch fn.toNat (n.toNat, (meterWords s n.toNat).2) }).setAns (meterWords s n.toNat).1)) ∧
      (indReach s fn.toNat 5 (0x120000 + 2 * n.toNat + 1) = true →
        (∀ w, SMap.get s.strp.latch fn.toNat = some (n.toNat, w) → exec (.meterRecordRead fn n 1) s =
          .next ((s.setStrp { s.strp with latch := SMap.del s.strp.latch fn.toNat }).setAns w)) ∧
        (∀ k w, SMap.get s.strp.latch fn.toNat = some (k, w) → k ≠ n.toNat → exec (.meterRecordRead fn n 1) s = .next (s.setAns (meterWords s n.toNat).2)) ∧
        (SMap.get s.strp.latch fn.toNat = none → exec (.meterRecordRead fn n 1) s = .next (s.setAns (meterWords s n.toNat).2)))) ∧
    (∀ (fn : BitVec 6) (n : BitVec 15) (w : BitVec 1), indReach s fn.toNat 5 (0x120000 + 2 * n.toNat + w.toNat) = false →
      exec (.meterRecordRead fn n w) s = .next ((indRefuse s fn.toNat).setAns 0)))

/-- A commit is judged when it arrives, carried out at its boundary or dropped there; a hold ends at its boundary. An accepted write of
SCN_COMMIT_CTL stores the word; with GO the commit waits for the end of the writes of its event tick and is then judged with the
registers as they stand, copied to the partner of a pair, and with FWD sent on to the device named. A COMMIT frame that an open port
accepts is carried on, and, delivered, waits likewise. A commit judged outside LAID fails with cause 8, one with an epoch that is not
newer with cause 6, one whose target misses the margin with cause 1; any other is accepted. A generation-1 commit, of a frame or under
the strap, takes the deckle before this one as its target and the next epoch, without the margin. COMMIT_CARRY_OUT and HOLD_END, where
the boundary is due and opens the deckle two after the target, or the one at which the hold ends, are that boundary with all its
actions; otherwise they change nothing. A boundary of a LAID device with no ramped block sent does step 3 to the structure that step 2
leaves: first a hold due there ends, HOLD reading 0; then the commit that is due is dropped with cause 5 in a hold and with cause 4
without a valid check, and otherwise carried out: no commit waits, the other plane is active, the epoch and SCN_DONE_T are the commit's,
and the tier figures of the plane are those of its check. Choices of the model that it may rest on: log entries 1, 7, 140, 147. -/
def Obligations.CommitsAreJudgedAndCarriedOut : Prop :=
  ∀ s : State, Canonical s →
    (∀ (fn : BitVec 6) (v : Word),
      let u := plainWrite s fn.toNat R.SCN_COMMIT_CTL .base v
      (accessOk s fn.toNat R.SCN_COMMIT_CTL = false → exec (.hostCommit fn v) s = .next s) ∧
      (accessOk s fn.toNat R.SCN_COMMIT_CTL = true → bit v 31 = false → exec (.hostCommit fn v) s = .next u) ∧
      (accessOk s fn.toNat R.SCN_COMMIT_CTL = true → bit v 31 = true → exec (.hostCommit fn v) s = .next (later u 0 .hostCommit))) ∧
    (let tg := extendTarget s (rd s R.SCN_COMMIT).toNat
      let e := rdF s R.SCN_COMMIT_CTL 15 0
      let own := if s.pwr.cmpt then gen1Commit s 0 else submitCommit s tg e 0 true
      let u := pairCopy own 1 (leBytes 6 tg ++ leBytes 2 e)
      landAct s (0, .hostCommit) = if rdB s R.SCN_COMMIT_CTL 30 then sendCommit u (rdF s R.SCN_COMMIT_CTL 27 16) tg e else u) ∧
    (∀ (n : BitVec 2) (bytes : List Byte) g, Accepted s n.toNat bytes g → g.type = 3 → g.sub = 1 →
      let r := routeFrame s n.toNat g.src g.dst
      let u := if r.1 then later s (160 + 8 * n.toNat) (.frameCommit (edlGen1 s n.toNat) (lef g.payload 0 6) (lef g.payload 6 2)) else s
      ∃ t, exec (.commitFrame n bytes false) s = .next t ∧ KeepsMain s t ∧ TakenAs s n.toNat bytes t (forwardOn u (edlGen1 s n.toNat) g r.2)) ∧
    (∀ src target epoch, landAct s (src, .frameCommit false target epoch) = submitCommit s target epoch 2 true ∧
      landAct s (src, .frameCommit true target epoch) = gen1Commit s 2) ∧
    (∀ src, gen1Commit s src = submitCommit s (modDist 48 s.dkl.num 1) ((sceneEpoch s + 1) % 65536) src false) ∧
    (∀ tg e src, s.dev = .laid → newerEpoch s e = true → submitCommit s tg e src false = acceptCommit s tg e src) ∧
    (∀ tg e src margin, (s.dev ≠ .laid → submitCommit s tg e src margin = commitFail s 8 tg e src) ∧
      (s.dev = .laid → newerEpoch s e = false → submitCommit s tg e src margin = commitFail s 6 tg e src) ∧
      (s.dev = .laid → newerEpoch s e = true → modDist 48 tg s.dkl.num < rdF s R.SCN_CFG 7 0 ∨ 2 ^ 47 ≤ modDist 48 tg s.dkl.num → submitCommit s tg e src true = commitFail s 1 tg e src) ∧
      (s.dev = .laid → newerEpoch s e = true → rdF s R.SCN_CFG 7 0 ≤ modDist 48 tg s.dkl.num → modDist 48 tg s.dkl.num < 2 ^ 47 → submitCommit s tg e src true = acceptCommit s tg e src)) ∧
    (boundaryDue s = true → commitDue s (tickNumber s) = true → exec .commitCarryOut s = .next (boundary s [])) ∧
    ((boundaryDue s = false ∨ commitDue s (tickNumber s) = false) → exec .commitCarryOut s = .next s) ∧
    (boundaryDue s = true → s.scn.holdEnd = some (tickNumber s) → exec .holdEnd s = .next (boundary s [])) ∧
    ((boundaryDue s = false ∨ s.scn.holdEnd ≠ some (tickNumber s)) → exec .holdEnd s = .next s) ∧
    (GoesOn s → boundary s [] = boundaryClosed s (stepRest (boundaryMarked s)) ∧
      (commitDue s (tickNumber s) = true → exec .commitCarryOut s = .next (boundaryClosed s (stepRest (boundaryMarked s)))) ∧
      (s.scn.holdEnd = some (tickNumber s) → exec .holdEnd s = .next (boundaryClosed s (stepRest (boundaryMarked s))))) ∧
    stepRest s = ptrSnapshot (seqBoundary (inputsBoundary (sceneBoundary s s.dkl.num)) s.dkl.num
      (rdB (sceneBoundary s s.dkl.num) R.SCN_PLANE 0 != rdB s R.SCN_PLANE 0)) ∧
    (∀ e, sceneBoundary s e = commitBoundary (holdBoundary (s.setScn { s.scn with mixEpoch := sceneEpoch s }) e) e) ∧
    (∀ h e, s.scn.holdEnd = some h → (h = e % 2 ^ 48 → (holdBoundary s e).scn.holdEnd = none ∧ rdB (holdBoundary s e) R.SCN_PLANE 1 = false ∧ RegsBut s (holdBoundary s e) [R.SCN_PLANE]) ∧
      (h ≠ e % 2 ^ 48 → holdBoundary s e = s)) ∧
    (∀ tg ep o e, s.scn.pend = some (tg, ep, o) → commitDue s e = true →
      (rdB s R.SCN_PLANE 1 = true → commitBoundary s e = dropCommit s 5) ∧
      (rdB s R.SCN_PLANE 1 = false → (rdB s R.MIX_CHK_CTL 29 = false ∨ rdB s R.MIX_CHK_CTL 30 = true) → commitBoundary s e = dropCommit s 4) ∧
      (rdB s R.SCN_PLANE 1 = false → rdB s R.MIX_CHK_CTL 29 = true → rdB s R.MIX_CHK_CTL 30 = false → commitBoundary s e = carryOut s tg ep ∧
        (carryOut s tg ep).scn.pend = none ∧ activePlane (carryOut s tg ep) = 1 - activePlane s ∧ rdF (carryOut s tg ep) R.SCN_EPOCH 15 0 = ep % 65536 ∧
        rd (carryOut s tg ep) R.SCN_DONE_T = BitVec.ofNat 32 tg ∧
        (∀ k < 4, rd (carryOut s tg ep) (R.MIX_TIERk_M k) = rd s (R.MIX_CHK_TIERk k) ∧ rd (carryOut s tg ep) (R.MIX_CHK_TIERk k) = rd s (R.MIX_TIERk_M k))))

/-- A port of Edarlink parleys, trains, and loses its link. In LAID a port of role 1 or 2 in state OFF starts a parley, and no other
does; a port in NOMODE retries with no mode marked as failed. In TRAINING with the reference clock present a success goes to state
ABSENT with no mode marked as failed and nothing waiting to be sent; a timeout marks the mode in use as failed and parleys again. A
trained port that loses its signal, its lock or its markers drops the frame it joins, sends ABORT for one it forwards, records the
deckle number and the cause in EDL_PORTn_LOSS, requests STAT bit 1, and parleys; untrained, it changes nothing. A page is heeded in a
LAID device during a parley, in NOMODE and after a doubled ID only. On another lane than 0 a good page marks its lane and a bad one
unmarks it. On lane 0 a bad one restarts the count of equal pages unless a page is accepted; a good one becomes the page, counted as
equal if it repeats the last, and is accepted at the third, its device then the partner's ID, unless it carries the own ID, which
requests HEAL bit 6; its ACK is kept. Where a page is accepted and both sides have acknowledged, the modes are judged, save in NOMODE. A
change of lock of the disciplined time base is counted and reported where the LOCKED bit changes, and is nothing otherwise. Choices of
the model that it may rest on: log entries 80, 81, 82, 88, 89, 91, 119, 137. -/
def Obligations.EdarlinkLinkStates : Prop :=
  ∀ (s : State) (n : BitVec 2), Canonical s →
    let i := n.toNat
    (s.dev = .laid → (edlRole s i = 1 ∨ edlRole s i = 2) → edlState s i = 0 → ∃ t, exec (.parleyStart n) s = .next t ∧ KeepsMain s t ∧ t = parley s i) ∧
    ((s.dev ≠ .laid ∨ edlState s i ≠ 0 ∨ (edlRole s i ≠ 1 ∧ edlRole s i ≠ 2)) → exec (.parleyStart n) s = .next s) ∧
    (∀ (lane : BitVec 2) (page : List Byte),
      let st := edlState s i
      let p := edlP s i
      let good := page.length == 64 && crcGood page && lef page 0 1 == 0xA5
      let lanes := if good then p.lanes ||| 2 ^ lane.toNat else p.lanes - (p.lanes &&& 2 ^ lane.toNat)
      ((s.dev ≠ .laid ∨ (st ≠ 1 ∧ st ≠ 5 ∧ st ≠ 6)) → exec (.capabilityPage n lane page) s = .next s) ∧
      (s.dev = .laid → (st = 1 ∨ st = 5 ∨ st = 6) →
        (lane ≠ 0 → ∃ t, exec (.capabilityPage n lane page) s = .next t ∧ KeepsMain s t ∧
          t = (if parleyDone { p with lanes := lanes } && st != 5 then judgePages (setEdl s i { p with lanes := lanes }) i else setEdl s i { p with lanes := lanes })) ∧
        (lane = 0 → good = false → exec (.capabilityPage n lane page) s = .next (setEdl s i { p with lanes := lanes, equal := if p.accepted then p.equal else 0 })) ∧
        (lane = 0 → good = true →
          let same := p.page == pageNorm page
          let eq := if same then min 3 (p.equal + 1) else 1
          let dup := lef page 2 2 % 4096 == devId s
          let acc := !dup && ((same && p.accepted) || decide (3 ≤ eq))
          let q : EdlPort := { p with lanes := lanes, page := pageNorm page, equal := eq, accepted := acc, ackSent := acc && p.ackSent, gotAck := bit (BitVec.ofNat 32 (lef page 1 1)) 6 }
          let u := wrF (setEdl s i q) (R.EDL_PORTn_LINK i) 7 7 0
          let w := if dup then healCond u i 6 else u
          let v := if acc then wrF w (R.EDL_PORTn_LINK i) 27 16 (lef page 2 2) else w
          ∃ t, exec (.capabilityPage n lane page) s = .next t ∧ KeepsMain s t ∧
            t = (if parleyDone q && st != 5 then judgePages v i else if st = 6 then wrF v (R.EDL_PORTn_LINK i) 2 0 1 else v)))) ∧
    (s.dev = .laid → edlState s i = 5 → ∃ t, exec (.nomodeRetry n) s = .next t ∧ KeepsMain s t ∧ t = parley (setEdl s i { edlP s i with failed := 0 }) i) ∧
    ((s.dev ≠ .laid ∨ edlState s i ≠ 5) → exec (.nomodeRetry n) s = .next s) ∧
    (edlState s i = 2 → s.pwr.edlRef = true → exec (.trainingSuccess n) s = .next (wrF (setEdlTx (setEdl s i { edlP s i with failed := 0 }) i edlTx0) (R.EDL_PORTn_LINK i) 2 0 3)) ∧
    (edlState s i = 2 → ∃ t, exec (.trainingTimeout n) s = .next t ∧ KeepsMain s t ∧
      t = parley (setEdl s i { edlP s i with failed := (edlP s i).failed ||| 2 ^ (edlMode s i - 1) }) i) ∧
    ((edlState s i ≠ 2 ∨ s.pwr.edlRef = false) → exec (.trainingSuccess n) s = .next s) ∧
    (edlState s i ≠ 2 → exec (.trainingTimeout n) s = .next s) ∧
    (∀ (cut : Option (List Byte)), ∀ q ∈ [(Instr.lossOfSignal n cut, 1), (.lossOfLock n cut, 2), (.markerMissing n cut, 3)],
      (trained s i = false → exec q.1 s = .next s) ∧
      (trained s i = true → ∃ t, exec q.1 s = .next t ∧ KeepsMain s t ∧
        t = parley (edlCond (wr (dropJoin (cutHeader s i cut) i) (R.EDL_PORTn_LOSS i) (BitVec.ofNat 32 (s.dkl.num % 65536 * 65536 + q.2))) i 1) i)) ∧
    ((tbDisc s ≠ 3 ∨ (tbDstate s ≠ 2 ∧ tbDstate s ≠ 4) ∨ rdB (countLock s) R.TB_DISC 8 = rdB s R.TB_DISC 8) → exec .lockChange s = .next s) ∧
    (tbDisc s = 3 → (tbDstate s = 2 ∨ tbDstate s = 4) → rdB (countLock s) R.TB_DISC 8 ≠ rdB s R.TB_DISC 8 → ∃ t, exec .lockChange s = .next t ∧ KeepsMain s t ∧
      t = lockReport (rdB s R.TB_DISC 8) (countLock s))

/-- A frame from the ring is taken by an open port only, checked, and then delivered and carried on. A frame that reaches a port which
does not carry frames now (not UP and taking part, or a bypass of a primary that is UP) changes nothing, but that an uncorrectable chunk
at a port that is UP drops the frame it belongs to; an uncorrectable one requests STAT bit 5 and ends with ABORT where it is being
forwarded, and at a tunnel drops the frame it belongs to; a malformed one requests bit 4; and one bound to an older lease epoch requests
bit 4 of the pair. An accepted frame of a type the row names is taken: an audio frame goes to the flows if its destination delivers it,
and is carried on; a chunk joins the tunnel's frame; a loop request is answered to the partner; a loop response ends at the port, with
no other effect; a mailbox frame fills the receive box with its words, its length and FULL, requesting bit 8, or requests bit 9 when the
box is full. What lies beyond the last granule of an accepted frame requests bit 4. Choices of the model that it may rest on: log
entries 89, 90. -/
def Obligations.RingFramesAreChecked : Prop :=
  ∀ (s : State) (n : BitVec 2) (bytes : List Byte), Canonical s →
    let i := n.toNat
    let f := frameOf (edlGen1 s i) bytes
    (carries s i = false → ∀ u, (∀ c ∈ ringRows n bytes u, exec c s = .next s) ∧ exec (.ethChunk n bytes u) s = .next (if edlUp s i && u then dropJoin s i else s)) ∧
    (carries s i = true → (∀ c ∈ ringRows n bytes true, exec c s = .next (edlCond (cutFrame s i f) i 5)) ∧
      exec (.ethChunk n bytes true) s = .next (edlCond (cutFrame (dropJoin s i) i f) i 5)) ∧
    (carries s i = true → malformed s i f = true → ∀ c ∈ Instr.ethChunk n bytes false :: ringRows n bytes false, exec c s = .next (edlCond s i 4)) ∧
    (carries s i = true → malformed s i f = false → (epochBound (normFrame s i f) && !edlGen1 s i && leaseStale s (normFrame s i f).src (normFrame s i f).lepoch) = true →
      ∀ c ∈ Instr.ethChunk n bytes false :: ringRows n bytes false, exec c s = .next (strayGranules i f (pairCond s 4))) ∧
    (∀ g, Accepted s i bytes g →
      (g.type = 1 →
        let r := routeFrame s i g.src g.dst
        ∃ t, exec (.audio n bytes false) s = .next t ∧ KeepsMain s t ∧ TakenAs s i bytes t (forwardOn (if r.1 then flowTake i s g else s) (edlGen1 s i) g r.2)) ∧
      (g.type = 4 → ∃ t, exec (.ethChunk n bytes false) s = .next t ∧ KeepsMain s t ∧ TakenAs s i bytes t (chunkTake s i g)) ∧
      (g.type = 5 → g.sub = 1 → ∃ t, exec (.loopReq n bytes false) s = .next t ∧ KeepsMain s t ∧
        TakenAs s i bytes t (sendOn s false { g with src := devId s, dst := edlPartner s i, hops := 0, sub := 2, lepoch := ownLease s % 65536 } i)) ∧
      (∃ t, exec (.loopRsp n bytes false) s = .next t ∧ KeepsMain s t ∧ TakenAs s i bytes t s) ∧
      (g.type = 5 → g.sub = 3 → rdB s (R.EDL_PORTn_MBOX i) 28 = true → exec (.mailbox n bytes false) s = .next (strayGranules i f (edlCond s i 9))) ∧
      (g.type = 5 → g.sub = 3 → rdB s (R.EDL_PORTn_MBOX i) 28 = false → ∃ t, exec (.mailbox n bytes false) s = .next t ∧ KeepsMain s t ∧
        (let words := (List.range (4 * g.len)).foldl (fun m w => SMap.putD 0 m w (BitVec.ofNat 32 (lef g.payload (4 * w) 4))) ([] : SMap Word)
         let u := setEdl s i { edlP s i with rxBox := words }
         TakenAs s i bytes t (edlCond (wr u (R.EDL_PORTn_MBOX i) (setFld (setFld (rd u (R.EDL_PORTn_MBOX i)) 28 28 1) 24 16 g.len)) i 8)) ∧
        RegsBut s t [R.EDL_PORTn_MBOX i] ∧ rd t (R.EDL_PORTn_MBOX i) = setFld (setFld (rd s (R.EDL_PORTn_MBOX i)) 28 28 1) 24 16 g.len ∧
        ∀ w, w < 4 * g.len → SMap.getD (edlP t i).rxBox w 0 = BitVec.ofNat 32 (lef g.payload (4 * w) 4)))

/-- Markers, echoes, PNP, LEAVE and ABORT of a trained port. A MARKER with a good check and layout that reaches a trained port is taken,
in its cycle of the event tick; any other changes nothing. An ECHO of the deckle last sent, with a good check, at a trained port
measures the delay of the link from the four stamps and is kept for the next MARKER; any other changes nothing. A PNP set with a bad
check, length or kind changes nothing; at the parley rate it sets PBARE of a port in the parley, and on a role 2 port that carries the
pair it counts as heard from the partner and takes the partner out of the pair; at a trained port it counts as heard from the device it
names, gives its reason in the link register, takes that device out of the pair at reasons 0 to 2, and a port that is UP is lost with
cause 5, the frame in progress ended. LEAVE at a trained port takes the device it names out of the pair and ends the link with cause 4.
ABORT ends and discards the frame in progress: a chunk with the frame it joins, another by ABORT where it is being forwarded. At an
untrained port none of these does anything, a PNP at the parley rate aside. Choices of the model that it may rest on: log entries 22,
83, 84, 85, 86, 87, 89, 90. -/
def Obligations.EdarlinkExchange : Prop :=
  ∀ (s : State) (n : BitVec 2) (bs : List Byte) (cyc : BitVec 4) (cut : Option (List Byte)), Canonical s →
    let i := n.toNat
    let src := lef bs 2 2 % 4096
    (∀ m, trained s i = true → markerIn s i bs = some m → ∃ t, exec (.marker n bs cyc) s = .next t ∧ KeepsMain s t ∧ t = markerArrives s i cyc.toNat m) ∧
    ((trained s i = false ∨ markerIn s i bs = none) → exec (.marker n bs cyc) s = .next s) ∧
    (∀ d t1, (edlP s i).sent = some (d, t1) → trained s i = true → bs.length = 32 → crcGood bs = true → lef bs 0 1 = 2 → lef bs 4 6 = d →
      ∃ t, exec (.echo n bs cyc) s = .next t ∧ KeepsMain s t ∧ RegsBut s t [R.EDL_PORTn_DELAY i] ∧
        rd t (R.EDL_PORTn_DELAY i) = linkDelay t1 (stampOf bs 10) (stampOf bs 16) (stamp40 s cyc.toNat) ∧
        (edlP t i).echo = some (stampOf bs 16, stamp40 s cyc.toNat)) ∧
    (((edlP s i).sent = none ∨ trained s i = false ∨ bs.length ≠ 32 ∨ crcGood bs = false ∨ lef bs 0 1 ≠ 2) → exec (.echo n bs cyc) s = .next s) ∧
    (∀ d t1, (edlP s i).sent = some (d, t1) → lef bs 4 6 ≠ d → exec (.echo n bs cyc) s = .next s) ∧
    ((bs.length ≠ 16 ∨ crcGood bs = false ∨ lef bs 0 1 ≠ 3 ∨ edlState s i ≠ 1) → exec (.pnp n bs .parley) s = .next s) ∧
    ((bs.length ≠ 16 ∨ crcGood bs = false ∨ lef bs 0 1 ≠ 3 ∨ trained s i = false) → exec (.pnp n bs (.mode cut)) s = .next s) ∧
    (bs.length = 16 → crcGood bs = true → lef bs 0 1 = 3 →
      (edlState s i = 1 → (edlRole s i ≠ 2 ∨ rdF s R.PAIR_CFG 2 1 ≠ i) → exec (.pnp n bs .parley) s = .next (wrF s (R.EDL_PORTn_LINK i) 7 7 1)) ∧
      (edlState s i = 1 → edlRole s i = 2 → rdF s R.PAIR_CFG 2 1 = i → ∃ t, exec (.pnp n bs .parley) s = .next t ∧ KeepsMain s t ∧
        t = pairDisarm (pairHeard (wrF s (R.EDL_PORTn_LINK i) 7 7 1) (rdF s R.PAIR_CFG 27 16)) (rdF s R.PAIR_CFG 27 16)) ∧
      (trained s i = true →
        let u := wrF (pairHeard s src) (R.EDL_PORTn_LINK i) 11 8 (lef bs 1 1)
        let v := if lef bs 1 1 ≤ 2 then pairDisarm u src else u
        ∃ t, exec (.pnp n bs (.mode cut)) s = .next t ∧ KeepsMain s t ∧
          (edlState v i = 4 → t = loss v i 5 cut) ∧ (edlState v i ≠ 4 → t = setEdl v i { edlP v i with marker := false }))) ∧
    (trained s i = true → bs.length = 16 → crcGood bs = true →
      (lef bs 0 1 = 4 → ∃ t, exec (.leave n bs cut) s = .next t ∧ KeepsMain s t ∧ t = loss (pairDisarm (pairHeard s src) src) i 4 cut) ∧
      (∀ h, lef bs 0 1 = 5 → cut = some h → ∃ t, exec (.abortSet n bs cut) s = .next t ∧ KeepsMain s t ∧
        t = (if (frameOf (edlGen1 s i) h).type = 4 then dropJoin s i else cutFrame s i (frameOf (edlGen1 s i) h)))) ∧
    ((trained s i = false ∨ bs.length ≠ 16 ∨ crcGood bs = false ∨ lef bs 0 1 ≠ 4) → exec (.leave n bs cut) s = .next s) ∧
    ((trained s i = false ∨ bs.length ≠ 16 ∨ crcGood bs = false ∨ lef bs 0 1 ≠ 5 ∨ cut = none) → exec (.abortSet n bs cut) s = .next s)

/-- RESTART, PNP and GEN1 writes, the mailbox, and the flow descriptors. An accepted write of EDL_PORTn_CTL, whichever row brings it,
stores the word, with GEN1 kept as it was under the CMPT strap or where generation 1 is forbidden, which is then reported unless the
strap is set; in LAID it parleys a port of role 1 or 2, no mode marked as failed, if RESTART is set or GEN1 changes, and otherwise the
paths are healed. An accepted write of EDL_PORTn_MBOX stores the word; SEND of 1 to 256 granules sends the transmit box to the partner
as a frame of type 5, sub-type 3, of any other length nothing; RELEASE then empties the receive box and clears FULL and the length. With
no pair mirroring, FLOW_DESC_READ and FLOW_DESC_WRITE by a function that reaches EDL_FLOW_CTL leave the function's control register with
the RESULT. A read of a flow whose tenant the function does not reach answers 2; outside LAID 8; else the descriptor with 0. A write of
an enabled descriptor answers the code of the first check that refuses it; one of a disabled descriptor answers 2 where the function
does not reach the tenant of the descriptor in force, or of the one written where none is; past these it answers 8 outside LAID, and in
LAID 0 and joins the pending descriptors. Without access none of these changes anything. Choices of the model that it may rest on: log
entry 107. -/
def Obligations.EdarlinkByHost : Prop :=
  ∀ (s : State) (fn : BitVec 6) (n : BitVec 2) (v : Word), Canonical s →
    let i := n.toNat
    let ctl := R.EDL_PORTn_CTL i
    let box := R.EDL_PORTn_MBOX i
    (∀ c ∈ [Instr.restart fn n v, .edlPnpWrite fn n v, .gen1Write fn n v],
      (accessOk s fn.toNat ctl = false → exec c s = .next s) ∧
      (accessOk s fn.toNat ctl = true →
        let w := newWord s fn.toNat ctl .base v
        let gen := bit w 11 != bit (rd s ctl) 11
        let bad := gen && bit w 11 && gen1Forbidden s i
        let x := if s.pwr.cmpt || bad then setFld w 11 11 (b2n (bit (rd s ctl) 11)) else w
        let y := if bad && !s.pwr.cmpt then edlCond (wr s ctl x) i 10 else wr s ctl x
        ∃ t, exec c s = .next t ∧ KeepsMain s t ∧
          (s.dev = .laid → (edlRole s i = 1 ∨ edlRole s i = 2) → (bit v 31 = true ∨ (gen = true ∧ s.pwr.cmpt = false ∧ bad = false)) →
            t = parley (setEdl y i { edlP y i with failed := 0 }) i) ∧
          ((s.dev ≠ .laid ∨ (edlRole s i ≠ 1 ∧ edlRole s i ≠ 2) ∨ (bit v 31 = false ∧ (gen = false ∨ s.pwr.cmpt = true ∨ bad = true))) → t = heal y))) ∧
    (∀ c ∈ [Instr.mailboxSend fn n v, .mailboxRelease fn n v],
      (accessOk s fn.toNat box = false → exec c s = .next s) ∧
      (accessOk s fn.toNat box = true →
        let u := plainWrite s fn.toNat box .base v
        let len := rdF u box 8 0
        let body := ((List.range (4 * len)).map (fun w => leBytes 4 (SMap.getD (edlP u i).txBox w 0).toNat)).flatten
        let sent := sendOn u false { type := 5, len := len, src := devId u, dst := edlPartner u i, block := u.dkl.num % 2 ^ 32, epoch := sceneEpoch u
                                     lepoch := ownLease u % 65536, hops := 0, emix := false, late := false, sub := 3, payload := body } i
        let released := fun (x : State) => wr (setEdl x i { edlP x i with rxBox := [] }) box (setFld (rd (setEdl x i { edlP x i with rxBox := [] }) box) 28 16 0)
        ∃ t, exec c s = .next t ∧ KeepsMain s t ∧
          ((bit v 31 = false ∨ len = 0 ∨ 256 < len) → t = (if bit v 30 then released u else u)) ∧
          (bit v 31 = true → 1 ≤ len → len ≤ 256 → t = (if bit v 30 then released sent else sent)))) ∧
    (∀ (rx : Bool) (k : BitVec 10), AtOnce s → accessOk s fn.toNat R.EDL_FLOW_CTL = true →
      let key := regKey fn.toNat R.EDL_FLOW_CTL
      let u := wr s key (BitVec.ofNat 32 (k.toNat + (if rx then 2 ^ 16 else 0)))
      let w := wr s key (BitVec.ofNat 32 (k.toNat + (if rx then 2 ^ 16 else 0) + 2 ^ 29))
      let cur := SMap.getD (if rx then s.edl.rx else s.edl.tx) k.toNat []
      let ten := if rx then rxFlowTenant cur else txFlowTenant cur
      (∃ t, exec (.flowDescRead fn rx k) s = .next t ∧ KeepsMain s t ∧
        (reachesTenant u fn.toNat ten = false → t = wrF u key 27 24 2) ∧
        (reachesTenant u fn.toNat ten = true → s.dev ≠ .laid → t = wrF u key 27 24 8) ∧
        (reachesTenant u fn.toNat ten = true → s.dev = .laid →
          t = wrF (wrAll u ((List.range 4).map (fun m => (regKey fn.toNat (R.EDL_FLOW_Dm m), dw cur m)))) key 27 24 0)) ∧
      (let ws := (List.range (if rx then 3 else 2)).map (fun m => rd w (regKey fn.toNat (R.EDL_FLOW_Dm m)))
        let old := entryNow (if rx then w.edl.rx else w.edl.tx) ((w.edl.pend.filter (fun e => e.1 == b2n rx)).map Prod.snd) k.toNat
        let was := if bit (dw old 0) 0 then old else ws
        let c := if bit (dw ws 0) 0 then flowCheck w fn.toNat (b2n rx) k.toNat ws
          else if reachesTenant w fn.toNat (if rx then rxFlowTenant was else txFlowTenant was) then (0, w) else (2, w)
        ∃ t, exec (.flowDescWrite fn rx k) s = .next t ∧ KeepsMain s t ∧
          (c.1 ≠ 0 → t = wrF w key 27 24 c.1) ∧
          (c.1 = 0 → s.dev ≠ .laid → t = wrF w key 27 24 8) ∧
          (c.1 = 0 → s.dev = .laid →
            t = (wrF w key 27 24 0).setEdl { (wrF w key 27 24 0).edl with pend := (wrF w key 27 24 0).edl.pend ++ [(b2n rx, k.toNat, ws)] }))) ∧
    (∀ (rx : Bool) (k : BitVec 10), accessOk s fn.toNat R.EDL_FLOW_CTL = false → exec (.flowDescRead fn rx k) s = .next s ∧ exec (.flowDescWrite fn rx k) s = .next s)

/-- LDI, LDIH, ALU, ADDI and RDIN put their value into the destination register. A sequencer that is ready (its device runs, it is
RUNNING, has not yielded, has instructions left in the deckle, stands in the event tick of its slot, and its next word holds the
operation) and executes LDI puts the sign-extended immediate into the destination register, LDIH the immediate into its upper half, ALU
the sum, difference, and, or, exclusive or, left shift or logical right shift (by the amount modulo 32) of its two source registers,
ADDI the source plus the sign-extended immediate, RDIN the input that its word selects: the deckle number, the conditions, the zone
signals, the taken inputs, the lower and the upper samples, the flags of a sequencer as last snapshot, its own flags with the FLAGS
instructions of the event tick counted in, the scene epoch, a player's status. It then stands at the next word, with one more
instruction counted. A sequencer that is not ready changes nothing. Choices of the model that it may rest on: log entry 1. -/
def Obligations.SequencerComputes : Prop :=
  ∀ (s : State) (n : BitVec 7), Canonical s →
    let i := n.toNat
    let w := seqWord s i
    let imm : Word := (BitVec.ofNat 16 (fld w 15 0)).signExtend 32
    let a := rd s (R.SEQn_Vk i (fld w 19 17))
    let b := rd s (R.SEQn_Vk i (fld w 16 14))
    (SeqReady s i 0x09 → ∃ t, exec (.ldi n) s = .next t ∧ SeqSets s t i imm) ∧
    (SeqReady s i 0x0A → ∃ t, exec (.ldih n) s = .next t ∧
      SeqSets s t i ((BitVec.ofNat 16 (fld w 15 0) ++ (rd s (R.SEQn_Vk i (fld w 22 20))).extractLsb' 0 16 : BitVec 32))) ∧
    (SeqReady s i 0x0B → ∃ t, exec (.alu n) s = .next t ∧ SeqSets s t i (aluResult (fld w 25 23) a b)) ∧
    (∀ x y : Word, aluResult 0 x y = x + y ∧ aluResult 1 x y = x - y ∧ aluResult 2 x y = x &&& y ∧ aluResult 3 x y = x ||| y ∧
      aluResult 4 x y = x ^^^ y ∧ aluResult 5 x y = x <<< (y.toNat % 32) ∧ aluResult 6 x y = x >>> (y.toNat % 32)) ∧
    (SeqReady s i 0x0C → ∃ t, exec (.addi n) s = .next t ∧ SeqSets s t i (a + imm)) ∧
    (SeqReady s i 0x0D → ∃ t v, exec (.rdin n) s = .next t ∧ SeqSets s t i v ∧ v = seqInput s i w ∧
      (fld w 11 8 = 0 → v = BitVec.ofNat 32 s.dkl.num) ∧ (fld w 11 8 = 1 → v = rd s (R.SEQn_COND i)) ∧ (fld w 11 8 = 2 → v = rd s (R.SEQn_ZSIG i)) ∧
      (fld w 11 8 = 3 → v = BitVec.ofNat 32 (dciTaken s)) ∧ (fld w 11 8 = 4 → v = BitVec.ofNat 32 s.inp.samp) ∧
      (fld w 11 8 = 5 → v = BitVec.ofNat 32 (s.inp.samp / 2 ^ 32)) ∧ (fld w 11 8 = 6 → v = BitVec.ofNat 32 (SMap.getD s.ptr.flags (fld w 6 0) 0)) ∧
      (fld w 11 8 = 7 → v = flagsNow s i) ∧ (fld w 11 8 = 8 → v = BitVec.ofNat 32 (sceneEpoch s)) ∧ (fld w 11 8 = 9 → v = playerStat s (fld w 5 0))) ∧
    (∀ q ∈ [(Instr.ldi n, 0x09), (.ldih n, 0x0A), (.alu n, 0x0B), (.addi n, 0x0C), (.rdin n, 0x0D)], ¬ SeqReady s i q.2 → exec q.1 s = .next s)

/-- NOP, BR, BRB, CLRC, FLAGS and YIELD move the program counter and what they name. A ready sequencer that executes NOP goes to the
next word. BR goes to its target when its condition holds of its two registers (always, equal, unequal, signed less, signed not less,
unsigned less, unsigned not less), else to the next word; BRB when the bit it names of its register has the value it names. CLRC clears
in the conditions the bits of its second word and goes two words on. FLAGS goes on, and after the register writes of its event tick it
sets, clears or toggles flags of its immediate, in the lower or the upper half, or replaces them all by the value its register held.
YIELD goes to the next word and executes nothing more in the deckle. A sequencer that is not ready changes nothing. Choices of the model
that it may rest on: log entry 77. -/
def Obligations.SequencerBranches : Prop :=
  ∀ (s : State) (n : BitVec 7), Canonical s →
    let i := n.toNat
    let w := seqWord s i
    let pc := seqPc s i
    let a := rd s (R.SEQn_Vk i (fld w 22 20))
    let b := rd s (R.SEQn_Vk i (fld w 19 17))
    (SeqReady s i 0x00 → ∃ t, exec (.nop n) s = .next t ∧ SeqGoesTo s t (Counted s i) i (pc + 1) []) ∧
    (SeqReady s i 0x02 → ∃ t, exec (.yieldRow n) s = .next t ∧ SeqRests s t i 1 (pc + 1) { seqSt (Counted s i) i with yielded := true }) ∧
    (SeqReady s i 0x10 → ∃ t, exec (.br n) s = .next t ∧ SeqGoesTo s t (Counted s i) i (if brTaken (fld w 25 23) a b then fld w 16 0 else pc + 1) []) ∧
    (∀ x y : Word, brTaken 0 x y = true ∧ (brTaken 1 x y = true ↔ x = y) ∧ (brTaken 2 x y = true ↔ x ≠ y) ∧ (brTaken 3 x y = true ↔ x.toInt < y.toInt) ∧
      (brTaken 4 x y = true ↔ y.toInt ≤ x.toInt) ∧ (brTaken 5 x y = true ↔ x.toNat < y.toNat) ∧ (brTaken 6 x y = true ↔ y.toNat ≤ x.toNat)) ∧
    (SeqReady s i 0x11 → ∃ t, exec (.brb n) s = .next t ∧ SeqGoesTo s t (Counted s i) i (if bit b (fld w 24 20) = bit w 25 then fld w 16 0 else pc + 1) []) ∧
    (SeqReady s i 0x06 → ∃ t, exec (.clrc n) s = .next t ∧ SeqGoesTo s t (wr (Counted s i) (R.SEQn_COND i) (rd s (R.SEQn_COND i) &&& ~~~(progWord s i (pc + 1)))) i (pc + 2) [R.SEQn_COND i] ∧
      rd t (R.SEQn_COND i) = rd s (R.SEQn_COND i) &&& ~~~(progWord s i (pc + 1))) ∧
    (SeqReady s i 0x08 → ∃ t, exec (.flags n) s = .next t ∧ SeqSends s t i (.flags i w a)) ∧
    (∀ (src : Nat) (x v : Word), let m := BitVec.ofNat 32 (fld x 15 0 * (if bit x 23 then 65536 else 1));
      landAct s (src, .flags i x v) = wr s (R.SEQn_FLAGS i) (match fld x 25 24 with
        | 0 => rd s (R.SEQn_FLAGS i) ||| m
        | 1 => rd s (R.SEQn_FLAGS i) &&& ~~~m
        | 2 => rd s (R.SEQn_FLAGS i) ^^^ m
        | _ => v)) ∧
    (∀ q ∈ [(Instr.nop n, 0x00), (.yieldRow n, 0x02), (.br n, 0x10), (.brb n, 0x11), (.clrc n, 0x06), (.flags n, 0x08)], ¬ SeqReady s i q.2 → exec q.1 s = .next s)

/-- HALT and the waits, and what ends a wait. A ready sequencer that executes HALT executes nothing more in the deckle, and after the
register writes of its event tick it is IDLE at the word of the HALT and its event source fires with that word; WAITD waits for the
deckle so many on, WAITU for the deckle number in its register, WAITE for conditions of its mask, all or any of them, to be cleared or
not, with or without a limit; each wait stands at the word after its own. A sequencer that is not ready changes nothing. WAITD_EXPIRY,
WAITU_REACHED and WAITE_TIMEOUT, where the boundary is due and opens the deckle that ends the wait or reaches the limit, are that
boundary with all its actions, and in a LAID device with no ramped block sent the steps in their order; otherwise they change nothing.
In step 5 of a boundary a wait that is due resumes: RUNNING, its word as before, the limit gone. A WAITE that ends has its conditions
cleared if so asked, and at its limit without its condition it gets condition bit 30; a wait that is not due stands. Choices of the
model that it may rest on: log entries 7, 79, 140. -/
def Obligations.SequencerWaits : Prop :=
  ∀ (s : State) (n : BitVec 7), Canonical s →
    let i := n.toNat
    let w := seqWord s i
    let pc := seqPc s i
    (SeqReady s i 0x01 → exec (.halt n) s = .next (later (setSeq (Counted s i) i { seqSt (Counted s i) i with yielded := true }) (256 + i) (.halt i pc))) ∧
    (∀ src k, let t := landAct s (src, .halt i k)
      t = request (seqEnter s i 0 k) (.fire (256 + i) (seqTenant s i) (BitVec.ofNat 32 (0x80000000 + k))) ∧ KeepsMain s t ∧ seqPc t i = k % 2 ^ 17 ∧ seqState t i = 0 ∧ RegsBut s t [R.SEQn_STATE i]) ∧
    (SeqReady s i 0x03 → ∃ t, exec (.waitd n) s = .next t ∧ SeqRests s t i 2 (pc + 1) { seqSt (Counted s i) i with until_ := some ((s.dkl.num + fld w 15 0) % 2 ^ 48) }) ∧
    (SeqReady s i 0x04 → ∃ t, exec (.waitu n) s = .next t ∧
      (let v := (rd s (R.SEQn_Vk i (fld w 22 20))).toNat; SeqRests s t i 3 (pc + 1) { seqSt (Counted s i) i with target := v, passed := inPast 32 v s.dkl.num })) ∧
    (SeqReady s i 0x05 → ∃ t, exec (.waite n) s = .next t ∧ SeqRests s t i 4 (pc + 2) { seqSt (Counted s i) i with all := bit w 25, clr := bit w 24, mask := (progWord s i (pc + 1)).toNat, until_ := if fld w 15 0 = 0 then none else some ((s.dkl.num + fld w 15 0) % 2 ^ 48) }) ∧
    (∀ q ∈ [(Instr.halt n, 0x01), (.waitd n, 0x03), (.waitu n, 0x04), (.waite n, 0x05)], ¬ SeqReady s i q.2 → exec q.1 s = .next s) ∧
    (∀ q ∈ [(Instr.waitdExpiry n, seqState s i == 2 && waitDue s i (tickNumber s)), (.waituReached n, seqState s i == 3 && waitDue s i (tickNumber s)),
        (.waiteTimeout n, seqState s i == 4 && untilCome (seqSt s i) (tickNumber s))],
      (boundaryDue s = true → q.2 = true → exec q.1 s = .next (boundary s [])) ∧
      (GoesOn s → q.2 = true → exec q.1 s = .next (boundaryClosed s (stepRest (boundaryMarked s)))) ∧
      ((boundaryDue s = false ∨ q.2 = false) → exec q.1 s = .next s)) ∧
    (∀ e, (waitDue s i e = false → seqWait e s i = s) ∧
      (waitDue s i e = true → seqWait e s i = (if seqState s i = 4 then waiteEnd s i (!waiteHolds s i) else seqResume s i) ∧ KeepsMain s (seqWait e s i) ∧ seqState (seqWait e s i) i = 1 ∧ seqPc (seqWait e s i) i = pc ∧ (seqSt (seqWait e s i) i).until_ = none ∧
        (seqState s i ≠ 4 → RegsBut s (seqWait e s i) [R.SEQn_STATE i]) ∧
        (seqState s i = 4 → RegsBut s (seqWait e s i) [R.SEQn_STATE i, R.SEQn_COND i] ∧
          rd (seqWait e s i) (R.SEQn_COND i) = (if (seqSt s i).clr then rd s (R.SEQn_COND i) &&& ~~~(BitVec.ofNat 32 (seqSt s i).mask) else rd s (R.SEQn_COND i)) |||
            (if waiteHolds s i then 0 else 0x40000000))))

/-- SIG, COMMIT, LIVE, PLAY and RAISE act on the other units and go on. A ready sequencer that executes RAISE fires the sequencer's own
event source with its code. SIG, COMMIT, LIVE and PLAY land as hardware events of its source, after the register writes of their event
tick: SIG with the condition bit it names and the sequencer it names; COMMIT for so many deckles on as its register says, forwarded to
the device it names or not; LIVE with its word and its register's value, at the slot that its register or its word names; PLAY as a
start of its player on the message its register holds, or as a stop. When they land, a signal is posted, unless its sequencer is IDLE; a
commit is submitted with the next epoch (in generation-1 operation as a generation-1 commit), and forwarded first if so asked; a live
command is taken for its slot if the device is LAID and the slot is its tenant's, else reported; a start is the player's last command of
the deckle and names its issuer; a stop of a player that is not idle falls due at the next deckle, unless one is under way, and holds
for the starts before it. Each instruction goes to the next word. A sequencer that is not ready changes nothing. Choices of the model
that it may rest on: log entry 1. -/
def Obligations.SequencerActs : Prop :=
  ∀ (s : State) (n : BitVec 7), Canonical s →
    let i := n.toNat
    let w := seqWord s i
    let pc := seqPc s i
    let v := fun k => rd s (R.SEQn_Vk i k)
    (SeqReady s i 0x07 → ∃ t, exec (.sig n) s = .next t ∧ SeqSends s t i (.sig (fld w 22 16) (2 ^ fld w 2 0))) ∧
    (∀ src m b, (seqState s m ≠ 0 → landAct s (src, .sig m b) = s.setSeq { s.seq with posted := SMap.upd s.seq.posted m 0 (· ||| b) }) ∧
      (seqState s m = 0 → landAct s (src, .sig m b) = s)) ∧
    (SeqReady s i 0x17 → ∃ t, exec (.raise n) s = .next t ∧ SeqGoesTo s t (request (Counted s i) (.fire (256 + i) (seqTenant s i) (BitVec.ofNat 32 (fld w 15 0)))) i (pc + 1) []) ∧
    (SeqReady s i 0x14 → ∃ t, exec (.commit n) s = .next t ∧ SeqSends s t i (.commit i (bit w 25) (fld w 11 0) ((s.dkl.num + (v (fld w 22 20)).toNat) % 2 ^ 48))) ∧
    (SeqReady s i 0x15 → ∃ t slot, exec (.live n) s = .next t ∧ slot = (if bit w 19 then fld (v (fld w 18 16)) 13 0 else fld w 13 0) ∧
      SeqSends s t i (.live i (BitVec.ofNat 32 (slot + fld w 25 23 * 65536)) (v (fld w 22 20)))) ∧
    (SeqReady s i 0x16 → ∃ t, exec (.play n) s = .next t ∧ SeqSends s t i (.play i (fld w 24 19) (if bit w 25 then none else some (fld (v (fld w 18 16)) 15 0)))) ∧
    (∀ q ∈ [(Instr.sig n, 0x07), (.raise n, 0x17), (.commit n, 0x14), (.live n, 0x15), (.play n, 0x16)], ¬ SeqReady s i q.2 → exec q.1 s = .next s) ∧
    (∀ src fwd d tg, landAct s (src, .commit i fwd d tg) =
      (let t := if fwd then sendCommit s d tg ((sceneEpoch s + 1) % 65536) else s;
        if t.pwr.cmpt then gen1Commit t 1 else submitCommit t tg ((sceneEpoch s + 1) % 65536) 1 true)) ∧
    (∀ src w0 w1, (owner s 0x14 (fld w0 13 0) = some (seqTenant s i) → s.dev = .laid → landAct s (src, .live i w0 w1) =
        s.setMix { s.mix with pend := SMap.put s.mix.pend (fld w0 13 0) (fld w0 18 16, w1.toInt) }) ∧
      ((owner s 0x14 (fld w0 13 0) ≠ some (seqTenant s i) ∨ s.dev ≠ .laid) → landAct s (src, .live i w0 w1) = setCond s R.MIX_STAT 192 4)) ∧
    (∀ src p, let x := player s p
      (∀ m, landAct s (src, .play i p (some m)) = setPlayer s p { x with
        cmds := x.cmds.filter (fun c => c.at_ != s.dkl.num) ++ [{ at_ := s.dkl.num, msg := m, clear := x.stop.isSome }], issuer := some i }) ∧
      (playerState x ≠ 0 → landAct s (src, .play i p none) = setPlayer s p { x with
        stop := some (x.stop.getD ((s.dkl.num + 1) % 2 ^ 48, 0)), cmds := x.cmds.map (fun c => { c with clear := false }), next := x.next.map (fun e => ({ e.1 with clear := false }, e.2)) }) ∧
      (playerState x = 0 → landAct s (src, .play i p none) = s))

/-- START, STOP and KICK, the end of a program check, and a stalled group. Where no pair mirrors it, an accepted write of SEQn_CTL with
START to an IDLE sequencer whose check is not running begins the check: BUSY; to one that is not IDLE it is rejected with REASON 1. STOP
asks for the stop at the next boundary. An accepted write of SEQn_KICK is stored, and with bit 0 set posts condition bit 9. A write that
the function may not make changes nothing. The end of a check clears BUSY: outside LAID, or of a sequencer that is not IDLE, the start
is rejected with REASON 1; a program without fault is to start at the boundary, another is rejected with its reason, and one whose
longest path is too long is also refused as a runtime addition with code 0x0D, the instructions needed, and limit 64. With no check
running, its end changes nothing. In step 5 a start clears the conditions and enters RUN at ENTRY, a stop, one with a start too, enters
IDLE. STALL_RELEASE, where the boundary is due and the group stands stalled for the last boundary of its count, is that boundary with
all its actions; otherwise nothing changes. There a group that still is stalled is counted; at the limit its first waiting sequencer
resumes with condition bit 31, SEQ_STAT and the event source tell it, and the count is zero; a group not stalled has count zero. Choices
of the model that it may rest on: log entries 7, 76, 78, 140. -/
def Obligations.SequencerControl : Prop :=
  ∀ (s : State) (fn : BitVec 6) (n : BitVec 7) (v : Word), Canonical s →
    let i := n.toNat
    (AtOnce s → accessOk s fn.toNat (R.SEQn_CTL i) = true → ∀ c ∈ [Instr.start fn n v, .stop fn n v],
      ∃ t, exec c s = .next t ∧ KeepsMain s t ∧ t = seqWrite s fn.toNat (R.SEQn_CTL i) .base v ∧
        (bit v 31 = true → seqState s i = 0 → rdB s (R.SEQn_CTL i) 29 = false → rdB t (R.SEQn_CTL i) 29 = true) ∧
        (bit v 31 = true → seqState s i ≠ 0 → rdB s (R.SEQn_CTL i) 29 = false →
          .fire (256 + i) (seqTenant s i) 0xC0000001 ∈ t.ev.reqs ∧ HwReq.cond R.SEQ_STAT 512 0x100 [(R.SEQ_LAST, BitVec.ofNat 32 (256 + i))] 0 .newBits ∈ t.ev.reqs) ∧
        (bit v 30 = true → (seqSt t i).stop = true)) ∧
    (AtOnce s → accessOk s fn.toNat (R.SEQn_KICK i) = true → ∃ t, exec (.kick fn n v) s = .next t ∧ KeepsMain s t ∧
      (let u := plainWrite s fn.toNat (R.SEQn_KICK i) .base v;
        t = if bit v 0 then u.setSeq { u.seq with posted := SMap.upd u.seq.posted i 0 (· ||| 0x200) } else u)) ∧
    (accessOk s fn.toNat (R.SEQn_CTL i) = false → exec (.start fn n v) s = .next s ∧ exec (.stop fn n v) s = .next s) ∧
    (accessOk s fn.toNat (R.SEQn_KICK i) = false → exec (.kick fn n v) s = .next s) ∧
    (rdB s (R.SEQn_CTL i) 29 = false → exec (.programCheckEnd n) s = .next s) ∧
    (rdB s (R.SEQn_CTL i) 29 = true → ∃ t, exec (.programCheckEnd n) s = .next t ∧ KeepsMain s t ∧ (let u := wrF s (R.SEQn_CTL i) 29 29 0;
      (s.dev ≠ .laid ∨ seqState s i ≠ 0 → t = seqReject u i 1) ∧
      (s.dev = .laid → seqState s i = 0 → (programCheck u i).1 = 0 → t = setSeq u i { seqSt u i with start := true }) ∧
      (s.dev = .laid → seqState s i = 0 → (programCheck u i).1 = 6 → t = seqReject (rtRefuse u 0xA (seqTenant u i) 0x0D (programCheck u i).2 64) i 6) ∧
      (s.dev = .laid → seqState s i = 0 → (programCheck u i).1 ≠ 0 → (programCheck u i).1 ≠ 6 → t = seqReject u i (programCheck u i).1))) ∧
    (let x := { seqSt s i with start := false, stop := false, until_ := none }
      let run := seqEnter (wr s (R.SEQn_COND i) 0) i 1 (rdF s (R.SEQn_CTL i) 16 0)
      let t := seqStartStop s i
      ((seqSt s i).start = true → (seqSt s i).stop = false → t = setSeq run i x ∧ seqState t i = 1 ∧ seqPc t i = rdF s (R.SEQn_CTL i) 16 0 ∧ rd t (R.SEQn_COND i) = 0) ∧
      ((seqSt s i).stop = true → t = setSeq (wrF (if (seqSt s i).start then run else s) (R.SEQn_STATE i) 2 0 0) i x ∧ seqState t i = 0) ∧
      ((seqSt s i).start = false → (seqSt s i).stop = false → t = s)) ∧
    (∀ g : BitVec 3, let c := groupStalled s g.toNat [] && decide (rdF s R.SEQ_CFG 7 0 ≤ rdF s (R.SEQ_GRPg_CNT g.toNat) 7 0 + 1);
      (boundaryDue s = true → c = true → exec (.stallRelease g) s = .next (boundary s [])) ∧
      (GoesOn s → c = true → exec (.stallRelease g) s = .next (boundaryClosed s (stepRest (boundaryMarked s)))) ∧
      ((boundaryDue s = false ∨ c = false) → exec (.stallRelease g) s = .next s) ∧
      (∀ l, groupStalled s g.toNat l = false → seqGroup l s g.toNat = wr s (R.SEQ_GRPg_CNT g.toNat) 0) ∧
      (∀ l, groupStalled s g.toNat l = true → rdF s (R.SEQ_GRPg_CNT g.toNat) 7 0 + 1 < rdF s R.SEQ_CFG 7 0 →
        seqGroup l s g.toNat = wr s (R.SEQ_GRPg_CNT g.toNat) (BitVec.ofNat 32 (rdF s (R.SEQ_GRPg_CNT g.toNat) 7 0 + 1))) ∧
      (∀ l m, groupStalled s g.toNat l = true → rdF s R.SEQ_CFG 7 0 ≤ rdF s (R.SEQ_GRPg_CNT g.toNat) 7 0 + 1 →
        ((List.range 16).map (16 * g.toNat + ·)).find? (fun n => seqState s n == 4) = some m →
        let t := seqGroup l s g.toNat
        t = stallRelease s g.toNat ∧ RegsBut s t [R.SEQn_COND m, R.SEQn_STATE m, R.SEQ_GRPg_CNT g.toNat] ∧ seqState t m = 1 ∧ rd t (R.SEQn_COND m) = rd s (R.SEQn_COND m) ||| 0x80000000 ∧ rd t (R.SEQ_GRPg_CNT g.toNat) = 0 ∧
          HwReq.cond R.SEQ_STAT 512 (BitVec.ofNat 32 (2 ^ g.toNat)) [] 0 .newBits ∈ t.ev.reqs ∧ .fire (256 + m) (seqTenant s m) (BitVec.ofNat 32 (0x40000000 + g.toNat * 65536)) ∈ t.ev.reqs))

/-- Sums of a trellis bus: arrival, deadline, substitute, migration and the bus entries. A TSUM frame that an open port accepts goes the
way of the topology. On a forward path in a tree a frame whose first bus has no entry requests STAT bit 4; a frame past its deadline, or
of a bus already sent by its substitute, only reports; of any other the tail takes the sum of each bus, another device adds what it
holds of the bus, with saturation, unless a pair keeps it silent, and holds it no more, and the frame goes on unless its first bus ends
here. TRELLIS_DEADLINE, SUBSTITUTE_LAUNCH and MIGRATION_EFFECT, where the boundary is due and the device tails the bus, the substitute
is due, or the migration takes effect there, are that boundary with all its actions, and in a LAID device with no ramped block sent the
steps in their order; otherwise they change nothing. In step 2 a tail without a sum places silence and reports it, one with a sum places
it with what it holds added, narrowed, and reports clipping, lateness and mixed epochs; a substitute that is due is sent late and
marked, with what the device holds of the bus, or silence, and what it held is given up; a migration whose deckle has come, or that came
late, sets or clears OWN in the devices it names, is forgotten and reported, and the pipeline epoch counts one. A migration outside
LAID, of one device, of no device or already known changes nothing; one to a device without the bus reports; one in time waits; one that
comes late waits for the next boundary, tells so in the devices it names, and takes from the old owner at once the sums of its blocks.
TRL_MIG_CTL with GO starts one once the writes of its event tick are done, copied to the partner of a pair and sent on with FWD; without
GO it is only written. A bus entry is read into the function's data registers, or written from them to take effect at a boundary, with
its RESULT: the first check that fails, 8 outside LAID after every other. Choices of the model that it may rest on: log entries 7, 94,
95, 96, 97, 107, 138, 140, 149. -/
def Obligations.TrellisBuses : Prop :=
  ∀ s : State, Canonical s →
    (∀ (n : BitVec 2) (bytes : List Byte) g, Accepted s n.toNat bytes g → g.type = 2 →
      ∃ t, exec (.tsum n bytes false) s = .next t ∧ KeepsMain s t ∧ TakenAs s n.toNat bytes t (sumArrives s n.toNat g)) ∧
    (∀ n ring g out, let k := extend48 s g.block; let b := g.dst % 2048; let ws := busEntry s b;
      let gone := (List.range (g.sub + 1)).find? (fun j => s.trl.substs.contains ((b + j) % 2048, k, ring));
      let r := (List.range (g.sub + 1)).foldl (passBus n k ring g) { s := s, sums := [], added := false };
      (topoKind s = 1 → busEn ws = false → sumForward s n ring g out = edlCond s n 4) ∧
      ((topoKind s = 1 → busEn ws = true) →
        (deadlinePast s k s.dkl.num = true → sumForward s n ring g out = trlCond s false 3 b k) ∧
        (∀ j, deadlinePast s k s.dkl.num = false → gone = some j → sumForward s n ring g out = trlCond s false 3 ((b + j) % 2048) k) ∧
        (deadlinePast s k s.dkl.num = false → gone = none → sumForward s n ring g out = (if busEn ws && busTail ws then r.s
          else forwardOn r.s false { g with payload := sumBytes r.sums, emix := g.emix || (r.added && blockEpoch s k != g.epoch) } out)))) ∧
    (∀ n k ring g sums added j, let b := (g.dst % 2048 + j) % 2048; let v := sumOf s g.payload j; let a : SumPass := { s := s, sums := sums, added := added };
      let u := s.setTrl { s.trl with passed := (b, k, ring) :: s.trl.passed };
      let w := u.setTrl { u.trl with held := SMap.del u.trl.held (busKey b k ring) };
      (busEn (busEntry s b) = false → passBus n k ring g a j = { a with s := u, sums := sums ++ [v] }) ∧
      (busEn (busEntry s b) = true → busTail (busEntry s b) = true →
        passBus n k ring g a j = { a with s := tailTake u b k { sum := v, late := g.late, emix := g.emix, port := n, epoch := g.epoch }, sums := sums ++ [v] }) ∧
      (busEn (busEntry s b) = true → busTail (busEntry s b) = false →
        (SMap.get s.trl.held (busKey b k ring) = none → passBus n k ring g a j = { a with s := u, sums := sums ++ [v] }) ∧
        (∀ c, SMap.get s.trl.held (busKey b k ring) = some c →
          (pairAdds w = false → passBus n k ring g a j = { a with s := w, sums := sums ++ [v] }) ∧
          (pairAdds w = true → passBus n k ring g a j = { s := if (addSums v c).2 then trlCond w false 4 b k else w, sums := sums ++ [(addSums v c).1], added := true })))) ∧
    (∀ q ∈ (List.range 2048).flatMap (fun b => [(Instr.trellisDeadline (BitVec.ofNat 11 b), busEn (busEntry s b) && busTail (busEntry s b)),
        (.substituteLaunch (BitVec.ofNat 11 b) 0, substituteDue s (tickNumber s) b 0), (.substituteLaunch (BitVec.ofNat 11 b) 1, substituteDue s (tickNumber s) b 1),
        (.migrationEffect (BitVec.ofNat 11 b), migDue s (tickNumber s) b)]),
      (boundaryDue s = true → q.2 = true → exec q.1 s = .next (boundary s [])) ∧
      (GoesOn s → q.2 = true → exec q.1 s = .next (boundaryClosed s (stepRest (boundaryMarked s)))) ∧
      ((boundaryDue s = false ∨ q.2 = false) → exec q.1 s = .next s)) ∧
    (∀ e b, (busEn (busEntry s b) && busTail (busEntry s b)) = false → tailBus s e b = s) ∧
    (∀ e b k plane, busEn (busEntry s b) = true → busTail (busEntry s b) = true → k = (e + 2 ^ 48 - transitA s - 1) % 2 ^ 48 → plane = fld (dw (busEntry s b) 1) 29 16 →
      (SMap.get s.trl.arrived (busKey b k 0) = none → tailBus s e b =
        (trlCond s true 0 b k).setTrl { s.trl with placed := SMap.put s.trl.placed plane (List.replicate (nSamples s) 0) }) ∧
      (∀ x, SMap.get s.trl.arrived (busKey b k 0) = some x →
        let own := (busRings s).findSome? (fun r => SMap.get s.trl.held (busKey b k r))
        let r := match own with | some c => addSums x.sum c | none => (x.sum, false)
        let nar := r.1.map narrowSum
        let s1 := if r.2 || nar.any Prod.snd then trlCond s false 4 b k else s
        let s2 := if x.late then trlCond s1 false 1 b k else s1
        let s3 := if x.emix || (own.isSome && blockEpoch s k != x.epoch) then
            setCondAgain s2 R.SCN_STAT 194 4 [(R.SCN_EMIX, BitVec.ofNat 32 (b + x.port * 4096 + k % 65536 * 65536))] 0
          else s2
        tailBus s e b = s3.setTrl { s3.trl with placed := SMap.put s3.trl.placed plane (nar.map Prod.fst) })) ∧
    (∀ e b r, (substituteDue s e b r = false → substitute s e b r = s) ∧
      (substituteDue s e b r = true → ∀ k, k = (e + 2 ^ 48 - transitA s) % 2 ^ 48 →
        let u := trlCond (s.setTrl { s.trl with held := SMap.del s.trl.held (busKey b k r), substs := (b, k, r) :: s.trl.substs }) false 2 b k
        substitute s e b r = ((if topoKind s = 1 then [fld (dw (busEntry s b) 2) 21 20] else ringOut s (r == 1)).foldl
          (fun t p => sendOn t false (sumFrame s b k (blockEpoch s k) true [SMap.getD s.trl.held (busKey b k r) (List.replicate (nSamples s) 0)]) p) u))) ∧
    (∀ e b x, SMap.get s.trl.migs b = some x → (x.late = true ∨ (x.m + 3) % 2 ^ 48 = e % 2 ^ 48) → let t := migEffect s e b;
      t.trl.migs = SMap.del s.trl.migs b ∧ rdF t R.EDL_PEPOCH 15 0 = (rdF s R.EDL_PEPOCH 15 0 + 1) % 2 ^ 16 ∧
        (x.old = devId s → t.trl.bus = SMap.put s.trl.bus b (setFld (dw (busEntry s b) 0) 3 3 0 :: (busEntry s b).drop 1)) ∧
        (x.old ≠ devId s → x.new = devId s → t.trl.bus = SMap.put s.trl.bus b (setFld (dw (busEntry s b) 0) 3 3 1 :: (busEntry s b).drop 1)) ∧
        (x.old ≠ devId s → x.new ≠ devId s → t.trl.bus = s.trl.bus) ∧ RegsBut s t [R.EDL_PEPOCH] ∧
        t.ev.reqs = (trlCond s false 7 b x.m).ev.reqs) ∧
    (∀ e b, (∀ x, SMap.get s.trl.migs b = some x → x.late = false ∧ (x.m + 3) % 2 ^ 48 ≠ e % 2 ^ 48) → migEffect s e b = s) ∧
    (∀ b m old new, let at_ := (m + 3) % 2 ^ 48
      let late := decide (at_ = s.dkl.num) || inPast 48 at_ s.dkl.num
      let same := match SMap.get s.trl.migs b with | some x => x.m == m && x.old == old && x.new == new | none => false
      let known := s.setTrl { s.trl with migs := SMap.put s.trl.migs b { m := m, old := old, new := new, late := late } }
      let told := if old = devId s ∨ new = devId s then trlCond known false 6 b m else known
      let mine := fun (x : Nat × List Int) => x.1 / 2 ^ 49 == b && !inPast 48 (x.1 % 2 ^ 49 / 2) m
      let given := told.setTrl { told.trl with held := told.trl.held.filter (fun x => !mine x), ownTo := SMap.put told.trl.ownTo b m }
      ((s.dev ≠ .laid ∨ old = new ∨ 4094 < old ∨ 4094 < new ∨ same = true) → migrate s b m old new = s) ∧
      (s.dev = .laid → old ≠ new → old ≤ 4094 → new ≤ 4094 → same = false →
        (new = devId s → busEn (busEntry s b) = false → migrate s b m old new = trlCond s false 5 b m) ∧
        ((new = devId s → busEn (busEntry s b) = true) →
          (late = false → migrate s b m old new = known) ∧
          (late = true → old ≠ devId s → migrate s b m old new = told) ∧
          (late = true → old = devId s → migrate s b m old new = (match told.trl.held.filter mine with
            | x :: _ => trlCond given false 5 b (x.1 % 2 ^ 49 / 2)
            | [] => given))))) ∧
    (∀ (fn : BitVec 6) (v : Word), (accessOk s fn.toNat R.TRL_MIG_CTL = false → exec (.hostMigration fn v) s = .next s) ∧
      (accessOk s fn.toNat R.TRL_MIG_CTL = true → ∃ t, exec (.hostMigration fn v) s = .next t ∧ KeepsMain s t ∧
        (bit v 31 = false → t = plainWrite s fn.toNat R.TRL_MIG_CTL .base v) ∧ (bit v 31 = true → t = later (plainWrite s fn.toNat R.TRL_MIG_CTL .base v) 0 .hostMigrate))) ∧
    (∀ src, let c := rd s R.TRL_MIG_CTL
      let d := rd s R.TRL_MIG_DEV
      let m := extendTarget s (rd s R.TRL_MIG_M).toNat
      let payload := leBytes 2 (fld c 10 0) ++ leBytes 2 (fld d 11 0) ++ leBytes 2 (fld d 27 16) ++ leBytes 6 m
      let u := pairCopy (migrate s (fld c 10 0) m (fld d 11 0) (fld d 27 16)) 2 payload
      landAct s (src, .hostMigrate) = (if bit c 30 && mayOriginate u then
        (originPorts u (fld c 27 16)).foldl (fun t p => sendOn t false (ctrlFrame t (fld c 27 16) 2 payload) p) u else u)) ∧
    (∀ (n : BitVec 2) (bytes : List Byte) g, Accepted s n.toNat bytes g → g.type = 3 → g.sub = 2 →
      let r := routeFrame s n.toNat g.src g.dst
      let u := if r.1 then migrate s (lef g.payload 0 2 % 2048) (lef g.payload 6 6) (lef g.payload 2 2) (lef g.payload 4 2) else s
      ∃ t, exec (.migrate n bytes false) s = .next t ∧ KeepsMain s t ∧ TakenAs s n.toNat bytes t (forwardOn u (edlGen1 s n.toNat) g r.2)) ∧
    (∀ (fn : BitVec 6) (b : BitVec 11), AtOnce s → accessOk s fn.toNat R.TRL_BUS_CTL = true →
      let key := regKey fn.toNat R.TRL_BUS_CTL
      let u := wr s key (BitVec.ofNat 32 b.toNat)
      let w := wr s key (BitVec.ofNat 32 (b.toNat + 2 ^ 29))
      let ws := (List.range 3).map (fun m => rd w (regKey fn.toNat (R.TRL_BUS_Dm m)))
      let x := entryNow w.trl.bus w.trl.pend b.toNat
      let c := if busEn ws then busCheck w fn.toNat b.toNat ws
        else if reachesTenant w fn.toNat (busTenant (if busEn x then x else ws)) then (0, w) else (2, w)
      (reachesTenant u fn.toNat (busTenant (busEntry u b.toNat)) = false → exec (.busEntryRead fn b) s = .next (wrF u key 27 24 2)) ∧
      (reachesTenant u fn.toNat (busTenant (busEntry u b.toNat)) = true → s.dev ≠ .laid → exec (.busEntryRead fn b) s = .next (wrF u key 27 24 8)) ∧
      (reachesTenant u fn.toNat (busTenant (busEntry u b.toNat)) = true → s.dev = .laid → exec (.busEntryRead fn b) s =
        .next (wrF (wrAll u (((List.range 4).zip (busView u b.toNat)).map (fun e => (regKey fn.toNat (R.TRL_BUS_Dm e.1), e.2)))) key 27 24 0)) ∧
      (c.1 ≠ 0 → exec (.busEntryWrite fn b) s = .next (wrF w key 27 24 c.1)) ∧
      (c.1 = 0 → s.dev ≠ .laid → exec (.busEntryWrite fn b) s = .next (wrF w key 27 24 8)) ∧
      (c.1 = 0 → s.dev = .laid → exec (.busEntryWrite fn b) s = .next ((wrF w key 27 24 0).setTrl { s.trl with pend := s.trl.pend ++ [(b.toNat, ws)] }))) ∧
    (∀ (fn : BitVec 6) (b : BitVec 11), accessOk s fn.toNat R.TRL_BUS_CTL = false → exec (.busEntryRead fn b) s = .next s ∧ exec (.busEntryWrite fn b) s = .next s)

/-- The pair: leases, acknowledgements, mirror frames, fencing, takeover and PAIR_CTL. LEASE, LEASE_ACK and MIRROR frames that an open
port accepts are taken, the first two where they are addressed here, and then forwarded. A LEASE of the partner with a newer epoch is
acknowledged and waits for the boundary as a newer epoch; with the own epoch it renews a standby that is in time, is reported as late to
one that is not, is a conflict for an active device, and is only heard by another; an older one only reports. A LEASE_ACK of the partner
waits for the boundary; a MIRROR frame of the partner joins the set of its deckle in a standby, END closing it; neither does anything
outside the pair. FENCE and TAKEOVER, where the boundary is due and the device fences or takes over there, are that boundary with all
its actions, and in a LAID device with no ramped block sent the steps in their order; otherwise they change nothing. In step 1 of a
boundary of a LAID pair member a newer epoch is adopted, an active or fenced device becoming a silent standby; an acknowledgement of the
own epoch, of a LEASE sent in it, is counted in an active device and arms it, unless the partner left after it came, and one that does
not count only reports in an armed device; then a device that is due to fence is FENCED, its outputs silent from that deckle on, and a
standby that is due to take over is ACTIVE with the next epoch, its outputs taken from that deckle on; any other stays as it is. Outside
a LAID pair step 1 does nothing. An accepted write of PAIR_CTL stores its word, and YIELD of an active device of a pair is remembered.
Choices of the model that it may rest on: log entries 7, 98, 99, 100, 140. -/
def Obligations.PairLeaseProtocol : Prop :=
  ∀ s : State, Canonical s →
    (∀ (n : BitVec 2) (bytes : List Byte) g, Accepted s n.toNat bytes g →
      let r := routeFrame s n.toNat g.src g.dst
      (g.type = 3 → g.sub = 3 → ∃ t, exec (.lease n bytes false) s = .next t ∧ KeepsMain s t ∧
        TakenAs s n.toNat bytes t (forwardOn (if r.1 then leaseTake n.toNat s g else s) (edlGen1 s n.toNat) g r.2)) ∧
      (g.type = 3 → g.sub = 4 → ∃ t, exec (.leaseAck n bytes false) s = .next t ∧ KeepsMain s t ∧
        TakenAs s n.toNat bytes t (forwardOn (if r.1 then ackTake s g else s) (edlGen1 s n.toNat) g r.2)) ∧
      (g.type = 5 → g.sub = 4 → ∃ t, exec (.mirror n bytes false) s = .next t ∧ KeepsMain s t ∧ TakenAs s n.toNat bytes t (mirrorTake s g))) ∧
    (∀ (n : Nat) (g : EdlFrame), let e := lef g.payload 0 4; let r := lef g.payload 4 6; let d := dirTake s g.src e; let u := pairHeard d g.src; let m := modDist 32 e (pairEpoch u);
      ((pairEn d = false ∨ g.src ≠ pairPartner d) → leaseTake n s g = d) ∧
      (pairEn d = true → g.src = pairPartner d →
        (m = 0 → pairState u ≠ 1 → pairState u ≠ 3 → leaseTake n s g = u) ∧
        (m = 0 → pairState u = 1 → leaseTake n s g = pairMsg (pairCond u 6) .conflict) ∧
        (m = 0 → pairState u = 3 → r = u.dkl.num ∨ (r + 1) % 2 ^ 48 = u.dkl.num → leaseTake n s g = pairMsg (leaseAck u n e r) (.renewal r)) ∧
        (m = 0 → pairState u = 3 → r ≠ u.dkl.num → (r + 1) % 2 ^ 48 ≠ u.dkl.num → leaseTake n s g = pairCond u 5) ∧
        (m ≠ 0 → m < 2 ^ 31 → leaseTake n s g = pairMsg (leaseAck u n e r) (.newer e r)) ∧
        (2 ^ 31 ≤ m → leaseTake n s g = pairCond u 4))) ∧
    (∀ g : EdlFrame, (pairEn s = true → g.src = pairPartner s → ackTake s g = pairMsg (pairHeard s g.src) (.ack (lef g.payload 0 4) (lef g.payload 4 6) true)) ∧
      ((pairEn s = false ∨ g.src ≠ pairPartner s) → ackTake s g = s ∧ mirrorTake s g = s) ∧ (pairState s ≠ 3 → mirrorTake s g = s) ∧
      (pairEn s = true → pairState s = 3 → g.src = pairPartner s → let x := SMap.getD s.pair.sets (extend48 s g.block) { recs := [], done := none }
        mirrorTake s g = s.setPair { s.pair with sets := SMap.put s.pair.sets (extend48 s g.block) ({ recs := x.recs ++ (List.range (min 255 (lef g.payload 0 2))).map (mirrorRec g.payload), done := if lef g.payload 2 1 % 2 == 1 && x.done.isNone then some s.dkl.num else x.done } : MirrorSet) })) ∧
    (∀ e r, s.pair.msgs = [.newer e r] → let u := setSeen (putPairEpoch s e) r
      ((pairState s = 1 ∨ pairState s = 2) → adopt s = pairTurn ((putPairState u (setFld (setFld (setFld (rd u R.PAIR_STATE) 2 0 3) 3 3 0) 4 4 0)).setPair { u.pair with out := .silent }) 2) ∧
      (pairState s ≠ 1 → pairState s ≠ 2 → adopt s = u)) ∧
    (∀ f e r arms, s.pair.msgs = [.ack e r arms] →
      let counts := pairState s = 1 ∧ e = pairEpoch s ∧ ((s.pair.firstSent == r || !inPast 48 r s.pair.firstSent) && inPast 48 r f) = true
      let t := setA s (laterDeckle s.pair.a r)
      (counts → takeMsgs s f = (if arms then wrF t R.PAIR_STATE 4 4 1 else t).setPair { t.pair with msgs := [] }) ∧
      (¬ counts → takeMsgs s f = (if pairState s = 1 ∧ rdB s R.PAIR_STATE 4 = true then pairCond s 3 else s).setPair { s.pair with msgs := [] })) ∧
    (∀ q ∈ [(Instr.fence, fenceComes s), (.takeover, decide (s.dev = .laid) && takeoverDue (takeMsgs (adopt s) (tickNumber s)) (tickNumber s))],
      (boundaryDue s = true → q.2 = true → exec q.1 s = .next (boundary s [])) ∧
      (GoesOn s → q.2 = true → exec q.1 s = .next (boundaryClosed s (stepRest (boundaryMarked s)))) ∧
      ((boundaryDue s = false ∨ q.2 = false) → exec q.1 s = .next s)) ∧
    (∀ e, (pairEn s = false ∨ s.dev ≠ .laid) → pairBoundary s e = s) ∧
    (∀ e, s.dev = .laid → pairEn s = true → let u := takeMsgs (adopt s) e; let t := pairBoundary s e;
      (fenceDue u e (s.pair.msgs.any (fun m => m == .conflict)) = true → pairState t = 2 ∧ t.pair.out = .fenced (e % 2 ^ 48) ∧ t.pair.yield_ = false) ∧
      (takeoverDue u e = true → pairState t = 1 ∧ t.pair.out = .taken (e % 2 ^ 48) ∧ rd t R.PAIR_EPOCH = BitVec.ofNat 32 (pairEpoch u + 1)) ∧
      (fenceDue u e (s.pair.msgs.any (fun m => m == .conflict)) = false → takeoverDue u e = false → pairState t = pairState u ∧ t.pair.out = u.pair.out ∧ rd t R.PAIR_EPOCH = rd u R.PAIR_EPOCH)) ∧
    (∀ (fn : BitVec 6) (v : Word), ∀ c ∈ [Instr.yieldPair fn v, .pairHold fn v, .alone fn v],
      (accessOk s fn.toNat R.PAIR_CTL = false → exec c s = .next s) ∧
      (accessOk s fn.toNat R.PAIR_CTL = true → ∀ w, w = newWord s fn.toNat R.PAIR_CTL .base v → ∃ t, exec c s = .next t ∧ KeepsMain s t ∧ rd t R.PAIR_CTL = w ∧ RegsBut s t [R.PAIR_CTL] ∧
        t.pair = (if (bit v 0 && pairEn s && pairState s == 1) = true then { s.pair with yield_ := true } else s.pair)))

/-- A write of a register and of its set, clear and toggle aliases, and reads of them. A place that the function's BAR0 does not map and
an offset that the function does not reach are left as they are, by every row; a write with fewer than four byte enables changes nothing
but, with the host port up, requests HOST_STAT bit 0. A read at an alias, of an unmapped place or of one out of reach answers zero
without an effect; another answers the register as it reads then, a voted field voted. A write that the function may make, by the full
form or by an alias, is the register write of its form, under the mirror rule where an active pair mirrors the block. A register write
of a place that holds no register, or by an alias of a register without an RW field, changes nothing; of a sequencer register it is the
sequencer's write; of a register in a locked block with lockable bits it first reports the violation; where a unit gives the write an
effect of its own it is that effect. Any other writes the register alone: with m the bits that a write may change, a full write replaces
the bits of m by the written ones, the set alias sets, the clear alias clears and the toggle alias toggles the bits of m that are 1 in
the value; a full write of a status register, by whichever row, follows the clear-by-sequence rule, and the clear-by-sequence row does
nothing to another. Every other register and all else stand. Choices of the model that it may rest on: log entries 14, 100, 146. -/
def Obligations.RegisterWritesAndAliases : Prop :=
  ∀ (s : State) (fn : BitVec 6) (word : BitVec 20) (v : Word) (cyc : BitVec 4) (off : Nat), Canonical s →
    let rows := [(Instr.registerWrite fn word v 15 cyc, Quarter.base), (.setAliasWrite fn word v cyc, .set), (.clearAliasWrite fn word v cyc, .clear), (.toggleAliasWrite fn word v cyc, .toggle)]
    (barOffset fn.toNat (4 * word.toNat) = none → (∀ q ∈ rows, exec q.1 s = .next s) ∧ exec (.clearBySequence fn word v) s = .next s) ∧
    (∀ be : BitVec 4, be ≠ 15 → exec (.registerWrite fn word v be cyc) s = .next (if barUp s then setCond s R.HOST_STAT 16 1 else s)) ∧
    (∀ a c, (∀ q : Quarter, q ≠ .base → barRead s fn.toNat a q c = (0, s)) ∧ (barOffset fn.toNat a = none → barRead s fn.toNat a .base c = (0, s)) ∧
      (∀ o, barOffset fn.toNat a = some o → barRead s fn.toNat a .base c = (if reach s fn.toNat o then (readWord (voteRead s o) fn.toNat o c, voteRead s o) else (0, s)))) ∧
    (barOffset fn.toNat (4 * word.toNat) = some off →
    (accessOk s fn.toNat off = false → (∀ q ∈ rows, exec q.1 s = .next s) ∧ exec (.clearBySequence fn word v) s = .next s) ∧
    (accessOk s fn.toNat off = true → (∀ q ∈ rows, (mirrorBar0 off = false → exec q.1 s = .next (regWrite s fn.toNat off q.2 v cyc.toNat)) ∧
        (mirrorBar0 off = true → exec q.1 s = .next (mirrored s { addr := quarterAt q.2 + off, data := v, kind := 0, sel := 0, fn := fn.toNat } (fun t => regWrite t fn.toNat off q.2 v cyc.toNat)))) ∧
      (∀ r, regFind off = some r → r.sc ≠ 0 → mirrorBar0 off = false → exec (.clearBySequence fn word v) s = .next (regWrite s fn.toNat off .base v 0))) ∧
    ((∀ r, regFind off = some r → r.sc = 0) → exec (.clearBySequence fn word v) s = .next s)) ∧
    (∀ (q : Quarter) (c : Nat), (regFind off = none → regWrite s fn.toNat off q v c = s) ∧
      (∀ r, regFind off = some r → (q ≠ .base → r.rw = 0 → regWrite s fn.toNat off q v c = s) ∧
        (q = .base ∨ r.rw ≠ 0 → off / 0x10000 = 0xA → regWrite s fn.toNat off q v c = seqWrite s fn.toNat off q v) ∧
        (q = .base ∨ r.rw ≠ 0 → off / 0x10000 ≠ 0xA → ∀ u, u = (if locked s off = true ∧ r.lk ≠ 0 then lockViolation s fn.toNat off else s) →
          (∀ t, unitWrite u fn.toNat off q (newWord u fn.toNat off q v) v c = some t → regWrite s fn.toNat off q v c = t) ∧
          (unitWrite u fn.toNat off q (newWord u fn.toNat off q v) v c = none → ∀ k m w, k = keyFor fn.toNat off → m = BitVec.ofNat 32 (writable u r off) →
            w = (match q with
              | .base => (rd s k &&& ~~~m) ||| (v &&& m)
              | .set => rd s k ||| (v &&& m)
              | .clear => rd s k &&& ~~~(v &&& m)
              | .toggle => rd s k ^^^ (v &&& m)) →
            let t := regWrite s fn.toNat off q v c
            t = u.setRegs t.regs ∧ RegsBut s t [k] ∧ rd t k = (if q = .base ∧ r.sc ≠ 0 then scClear w v else w)))))

/-- Locks, wide reads, OUTEN and MUTE, indirect accesses, and a mirrored write. An access that the function may not make changes
nothing, and a read answers zero. A write of GLB_LOCK_SET sets the lock bits that are 1 in the value and clears none. OUTEN and MUTE
take the word a write leaves; a tenant partition, written in a running device with its tenant in range, waits for the boundary, else
nothing changes. A wide request in wide mode takes two words, or four, of the address it names and becomes valid; outside wide mode it
changes nothing; a read of the last wide word answers it and takes the valid bit off. Accesses of one function's indirect port take
effect in their order: a read of IND_DATA while a fetch is under way waits for it, and every access behind a waiting one waits. A read
else answers the word, and advances where the port has a place. A write of IND_DATA writes the word of its space, mirrored where a pair
mirrors it, and advances, or is refused. A write of IND_SEL or IND_ADDR starts the fetch there. A fetch ends with the word of its space,
that of a quire space with its grant of the port, and what waited takes effect; a grant of a fetch given up ends with nothing; a fetch
not granted waits, and a timeout answers zero with its condition. An active pair member mirrors a write to its partner, and under MSYNC
holds it until its deckle; any other device makes it at once. MIRROR_SET_APPLY does nothing outside a LAID pair. In its deckle it
applies the held writes of the set, whatever the member has become; else it does nothing in the active, and in another member it applies
the records of a received set in its deckle, or a late one in the deckle in which it was complete, one late or after a gap with its
condition and no longer in step. Choices of the model that it may rest on: log entries 12, 54, 105, 106, 139. -/
def Obligations.GlobalControlsAndIndirect : Prop :=
  ∀ (s : State) (fn : BitVec 6) (v : Word) (cyc : BitVec 4), Canonical s →
    let f := fn.toNat
    (∀ q ∈ [(Instr.lockSet fn v, R.GLB_LOCK_SET), (.outenWrite fn v, R.GLB_OUTEN), (.muteWrite fn v, R.GLB_MUTE), (.tpartWrite fn v, R.GLB_TPART), (.wideReq fn v cyc, R.GLB_WIDE_REQ),
        (.indDataWrite fn v, R.IND_DATA), (.indSelAddrWrite fn true v, R.IND_ADDR), (.indSelAddrWrite fn false v, R.IND_SEL)],
      (accessOk s f q.2 = false → exec q.1 s = .next s) ∧ (accessOk s f q.2 = true → exec q.1 s = .next (regWrite s f q.2 .base v (if q.2 = R.GLB_WIDE_REQ then cyc.toNat else 0)))) ∧
    (accessOk s f (R.GLB_WIDE_DATAm 3) = false → exec (.wideData3Read fn) s = .next (s.setAns 0)) ∧ (accessOk s f R.IND_DATA = false → exec (.indDataRead fn) s = .next (s.setAns 0)) ∧
    (accessOk s f R.GLB_LOCK_SET = true → ∃ t, exec (.lockSet fn v) s = .next t ∧ t = (s.setRegs t.regs).setEv t.ev ∧ RegsBut s t [R.GLB_LOCK] ∧
      rdF t R.GLB_LOCK 15 0 = rdF s R.GLB_LOCK 15 0 ||| fld v 15 0) ∧
    (∀ q ∈ [(Instr.outenWrite fn v, R.GLB_OUTEN, 4), (.muteWrite fn v, R.GLB_MUTE, 5)], accessOk s f q.2.1 = true → locked s q.2.1 = false →
      exec q.1 s = .next (voteClean (wr s q.2.1 (newWord s f q.2.1 .base v)) q.2.2 0)) ∧
    (accessOk s f R.GLB_TPART = true → locked s R.GLB_TPART = false → let n := rdF s R.GLB_TPART_SEL 9 0;
      (running s = true → n < item s (declKey 0x10 0) → exec (.tpartWrite fn v) s = .next (s.setHp { s.hp with tpartPend := s.hp.tpartPend ++ [(n, fld v 5 0)] })) ∧
      ((running s = false ∨ item s (declKey 0x10 0) ≤ n) → exec (.tpartWrite fn v) s = .next s)) ∧
    (accessOk s f R.GLB_WIDE_REQ = true → locked s R.GLB_WIDE_REQ = false → ((running s = false ∨ rdB s R.GLB_CFG 0 = false) → exec (.wideReq fn v cyc) s = .next s) ∧
      (running s = true → rdB s R.GLB_CFG 0 = true → ∀ w n a u, w = newWord s f R.GLB_WIDE_REQ .base v → n = (if bit w 20 then 4 else 2) → a = 4 * fld w 19 2 →
        u = (List.range n).foldl (fun t m => voteRead t (a + 4 * m)) s → exec (.wideReq fn v cyc) s = .next (wrAll u ((R.GLB_WIDE_REQ, setFld w 31 31 1) ::
          (List.range 4).map (fun m => (R.GLB_WIDE_DATAm m, if m < n then readWord u 0 (a + 4 * m) cyc.toNat else 0)))))) ∧
    (accessOk s f (R.GLB_WIDE_DATAm 3) = true → exec (.wideData3Read fn) s = .next ((wrF s R.GLB_WIDE_REQ 31 31 0).setAns (rd s (R.GLB_WIDE_DATAm 3)))) ∧
    (accessOk s f R.IND_DATA = true →
      ((indOf s f).waiting ≠ [] → exec (.indDataRead fn) s = .next (setWaiting s f ((indOf s f).waiting ++ [.read]))) ∧
      ((indOf s f).waiting = [] → (indOf s f).pend.isSome = true → exec (.indDataRead fn) s = .next (setWaiting s f [.read])) ∧
      ((indOf s f).waiting = [] → (indOf s f).pend = none → ∃ t, exec (.indDataRead fn) s = .next t ∧ KeepsMain s t ∧
        t = setWaiting (if (indOf s f).zero then s.setAns (indOf s f).data else indAdvance (s.setAns (indOf s f).data) f) f [])) ∧
    (∀ sp a, sp = rdF s (regKey f R.IND_SEL) 7 0 → a = (rd s (regKey f R.IND_ADDR)).toNat → accessOk s f R.IND_DATA = true → locked s R.IND_DATA = false →
      ((indOf s f).waiting ≠ [] → exec (.indDataWrite fn v) s = .next (setWaiting s f ((indOf s f).waiting ++ [.write R.IND_DATA .base v]))) ∧
      ((indOf s f).waiting = [] → indReach s f sp a = false → exec (.indDataWrite fn v) s = .next (setWaiting (indRefuse s f) f [])) ∧
      ((indOf s f).waiting = [] → indReach s f sp a = true → ∃ t, exec (.indDataWrite fn v) s = .next t ∧
        t = setWaiting (indAdvance (if sp = 8 ∨ sp = 10 then indWord s f sp a v
          else mirrored s { addr := a, data := v, kind := 2, sel := sp, fn := f } (fun u => indWord u f sp a v)) f) f [])) ∧
    (∀ a : Bool, ∀ off, off = (if a then R.IND_ADDR else R.IND_SEL) → accessOk s f off = true → locked s off = false →
      ((indOf s f).waiting ≠ [] → exec (.indSelAddrWrite fn a v) s = .next (setWaiting s f ((indOf s f).waiting ++ [.write off .base v]))) ∧
      ((indOf s f).waiting = [] → exec (.indSelAddrWrite fn a v) s = .next (setWaiting (indFetchGo (wr s (regKey f off) (newWord s f off .base v)) f) f []))) ∧
    (∀ corr unc sp a, (indOf s f).pend = some (sp, a) → 4 ≤ sp → ∃ t, exec (.indFetch fn cyc corr unc) s = .next t ∧ KeepsMain s t ∧
      t = indFetched (indRead s f sp a corr.toNat unc.toNat).2 f (indRead s f sp a corr.toNat unc.toNat).1) ∧
    (∀ corr unc sp a, (indOf s f).pend = some (sp, a) → sp < 4 → let u := indQueue s f;
      (∀ c, hostGrant u (u.dkl.cyc + cyc.toNat) = some (.fetch f sp a, c) → ∃ t, exec (.indFetch fn cyc corr unc) s = .next t ∧ KeepsMain s t ∧
        t = indFetched (endTransfer u (c + 1)) f (quireRead u sp a c)) ∧
      (∀ sp' a' c, hostGrant u (u.dkl.cyc + cyc.toNat) = some (.fetch f sp' a', c) → (sp' ≠ sp ∨ a' ≠ a) → exec (.indFetch fn cyc corr unc) s = .next (endTransfer u (c + 1))) ∧
      ((∀ sp' a' c, hostGrant u (u.dkl.cyc + cyc.toNat) ≠ some (.fetch f sp' a', c)) → exec (.indFetch fn cyc corr unc) s = .next u)) ∧
    (∀ corr unc, (indOf s f).pend = none →
      (∀ sp a c, hostGrant s (s.dkl.cyc + cyc.toNat) = some (.fetch f sp a, c) → exec (.indFetch fn cyc corr unc) s = .next (endTransfer s (c + 1))) ∧
      ((∀ sp a c, hostGrant s (s.dkl.cyc + cyc.toNat) ≠ some (.fetch f sp a, c)) → exec (.indFetch fn cyc corr unc) s = .next s)) ∧
    (∀ w, indFetched s f w = indDrain f (indOf s f).waiting (setInd s f { indOf s f with data := w, pend := none, queued := false, waiting := [] })) ∧
    ((indOf s f).pend = none → exec (.indtmo fn) s = .next s) ∧
    (∀ sp a, (indOf s f).pend = some (sp, a) → ∃ t, exec (.indtmo fn) s = .next t ∧ KeepsMain s t ∧ t = indFetched (if sp = 8 then dstCond s 6 [] else hostCond s 1) f 0) ∧
    (∀ (r : MirrorRec) (go : State → State), let u := mirrorSend s s.dkl.num [r] false
      (AtOnce s → mirrored s r go = go s) ∧
      (rdB s R.PAIR_CFG 0 = true → pairState s = 1 → rdB s R.PAIR_CFG 4 = false → mirrored s r go = go u) ∧
      (rdB s R.PAIR_CFG 0 = true → pairState s = 1 → rdB s R.PAIR_CFG 4 = true → mirrored s r go = u.setPair { u.pair with heldWrites := u.pair.heldWrites ++ [(s.dkl.num, r)] })) ∧
    (rdB s R.PAIR_CFG 0 = true → pairState s = 1 → rdB s R.PAIR_CFG 4 = true → accessOk s f R.FWD_LEARN_CTL = true → ∃ t, exec (.hold fn v) s = .next t ∧ KeepsMain s t ∧ t.fwd = s.fwd ∧
      t.pair.heldWrites = s.pair.heldWrites ++ [(s.dkl.num, { addr := R.FWD_LEARN_CTL, data := v, kind := 0, sel := 0, fn := f })]) ∧
    (∀ e : BitVec 48, let d := (e.toNat + 1) % 2 ^ 48; let own := s.pair.heldWrites.filter (fun h => h.1 == e.toNat);
      ((pairEn s = false ∨ s.dev ≠ .laid) → exec (.mirrorSetApply e) s = .next s) ∧
      (pairEn s = true → s.dev = .laid → s.dkl.num = d → own ≠ [] → exec (.mirrorSetApply e) s = .next (own.foldl (fun t h => applyRec t h.2)
          (s.setPair { s.pair with heldWrites := s.pair.heldWrites.filter (fun h => h.1 != e.toNat) }))) ∧
      (pairEn s = true → s.dev = .laid → (s.dkl.num ≠ d ∨ own = []) → pairState s = 1 → exec (.mirrorSetApply e) s = .next s) ∧
      (pairEn s = true → s.dev = .laid → (s.dkl.num ≠ d ∨ own = []) → pairState s ≠ 1 → (SMap.get s.pair.sets e.toNat = none → exec (.mirrorSetApply e) s = .next s) ∧
        (∀ recs, SMap.get s.pair.sets e.toNat = some { recs := recs, done := none } → exec (.mirrorSetApply e) s = .next s) ∧
        (∀ recs b, SMap.get s.pair.sets e.toNat = some { recs := recs, done := some b } → let late := decide (b ≠ d) && inPast 48 d b;
          (s.dkl.num ≠ (if late then b else d) → exec (.mirrorSetApply e) s = .next s) ∧
          let x := if late then wrF (pairCond s 7) R.PAIR_STATE 3 3 0 else s
          let y := match s.pair.nextSet with | some m => if m = e.toNat then x else wrF (pairCond x 8) R.PAIR_STATE 3 3 0 | none => x
          (s.dkl.num = (if late then b else d) → exec (.mirrorSetApply e) s = .next (recs.foldl applyRec
            (y.setPair { y.pair with sets := SMap.del y.pair.sets e.toNat, nextSet := some d }))))))

/-- Rates, steps, reads, pulses and captures of the time bases. A rate beyond the range is clamped and reported; of a base other than
TB0, or outside the running device, it takes effect at once; in holdover of a discipline of its own TB0 refuses it, else the rate is
stored for the next boundary, reported too where the host's slew would exceed the limit, and the watchdog starts anew. TB0 of a running
device refuses a step; another base moves on by STEP_NS and STEP_FRAC, which its converters and pulses take up. A read of TBn_NS answers
the nanoseconds of its cycle and latches the fraction in TBn_FRAC. ACQ where it may not be used only reports; in the acquisition of the
host discipline TB0 takes the count and the rate of TB1 at that cycle, enters tracking, and the boundaries are placed on it. A watchdog
expiry is noted in its discipline, a loss of word clock in its own where four edges can have failed. The pulse of an armed base, while
pulses run, starts at its instant, falls after its width, at most half a period, and PNEXT moves on by the period; an instant that lies
in the past is moved out of it by whole periods and reported; before it, or with no pulses, nothing happens. PSTART sets both registers
and arms the generator. A capture edge of the kind configured is held with the time of both bases and requests its condition, with bit 5
where the one before was not yet read; one within 160 cycles of the last only requests bit 6; another edge, or one with the input off,
does nothing. Reading NS0 answers and latches the capture; reading INFO answers it and clears VALID, unless a capture came after the
latch. An access that the function may not make changes nothing, and a read answers zero. Choices of the model that it may rest on: log
entries 8, 18, 19, 20, 21, 22, 150, 151. -/
def Obligations.TimeBases : Prop :=
  ∀ (s : State) (fn : BitVec 6) (n : BitVec 3) (v : Word) (cyc : BitVec 4), Canonical s →
    let i := n.toNat
    let c := cyc.toNat
    let req := clampInt (-rateMax) rateMax v.toInt
    let rate := wr s (R.TBn_RATE i) (BitVec.ofInt 32 req)
    let moves := setApplied rate i c req
    let kept := rate.setTb { rate.tb with hostLost := false }
    (accessOk s fn.toNat (R.TBn_RATE i) = true →
      ((i ≠ 0 ∨ running s = false) → ∃ t, exec (.tbRateWrite fn n v cyc) s = .next t ∧ KeepsMain s t ∧ t = (if req = v.toInt then moves else tbCond moves i 1) ∧ rd t (R.TBn_RATE i) = BitVec.ofInt 32 req) ∧
      (i = 0 → running s = true → 2 ≤ tbDisc s → tbDstate s = 3 → exec (.tbRateWrite fn n v cyc) s = .next (tbCond s 0 9)) ∧
      (i = 0 → running s = true → (tbDisc s < 2 ∨ tbDstate s ≠ 3) → exec (.tbRateWrite fn n v cyc) s =
        .next (if req ≠ v.toInt ∨ (tbDisc s ≤ 1 ∧ beyondSlew s req = true) then tbCond kept 0 1 else kept))) ∧
    (accessOk s fn.toNat (R.TBn_RATE i) = false → exec (.tbRateWrite fn n v cyc) s = .next s) ∧
    (let st : Int := (rd s (R.TBn_STEP_NS i)).toInt * (2 ^ 43 : Nat) + ((rd s (R.TBn_STEP_FRAC i)).toNat * 2 ^ 11 : Nat);
      let u := setTbase s i { tbase s i with t := ((((tbase s i).t : Int) + st) % (2 ^ 75 : Nat)).toNat, steps := (tbase s i).steps ++ [(s.dkl.cyc + c, st)] };
      (accessOk s fn.toNat (R.TBn_CTL i) = true → bit v 0 = true →
        (i = 0 → running s = true → exec (.tbStep fn n v cyc) s = .next (tbCond s 0 2)) ∧
        ((i ≠ 0 ∨ running s = false) → ∃ t, exec (.tbStep fn n v cyc) s = .next t ∧ KeepsMain s t ∧
          t = pulseCatchUp (u.setTb { u.tb with stepped := u.tb.stepped ||| 2 ^ i }) i (c + 1)))) ∧
    (accessOk s fn.toNat (R.TBn_CTL i) = false ∨ bit v 0 = false → exec (.tbStep fn n v cyc) s = .next s) ∧
    (accessOk s fn.toNat (R.TBn_NS i) = true →
      exec (.tbNsRead fn n cyc) s = .next ((wr s (R.TBn_FRAC i) (BitVec.ofNat 32 (tbFrac s i c))).setAns (BitVec.ofNat 32 (tbNs s i c)))) ∧
    (accessOk s fn.toNat (R.TBn_NS i) = false → exec (.tbNsRead fn n cyc) s = .next (s.setAns 0)) ∧
    (accessOk s fn.toNat R.TB_CTL = true → bit v 0 = true →
      ((s.dev ≠ .laid ∨ tbDisc s ≠ 1 ∨ tbAcquiring s = false) → exec (.acq fn v cyc) s = .next (tbCond s 0 10)) ∧
      (s.dev = .laid → tbDisc s = 1 → tbAcquiring s = true →
        let u := setDstate (wr s (R.TBn_APPLIED 0) (BitVec.ofInt 32 (tbApplied s 1))) 2
        ∃ t, exec (.acq fn v cyc) s = .next t ∧ KeepsMain s t ∧
          t = placeBoundaries (setTbase u 0 { tbase s 0 with t := (((tbAt s 1 c : Int) - (c : Int) * tbInc u 0) % (2 ^ 75 : Nat)).toNat, steps := [] }) c ∧ tbAt t 0 c = tbAt s 1 c ∧ tbDstate t = 2)) ∧
    ((accessOk s fn.toNat R.TB_CTL = false ∨ bit v 0 = false) → exec (.acq fn v cyc) s = .next s) ∧
    exec .hostWatchdogExpiry s = .next (if tbDisc s = 1 then s.setTb { s.tb with hostLost := true } else s) ∧
    exec .wordClockLoss s = .next (if tbDisc s = 2 ∧ 8 ≤ 2 * s.tb.wckBad + wckHalves s + 2 then s.setTb { s.tb with wckLost := true } else s) ∧
    (∀ k, let next := (rd s (R.TBn_PNEXT i)).toNat
      ((tbase s i).armed = true → nsPast next (tbNs s i k) = true → pulseCatchUp s i k =
        tbCond (wr s (R.TBn_PNEXT i) (BitVec.ofNat 32 (advanceInstant next (rd s (R.TBn_PPER i)).toNat (tbNs s i k)))) i 3) ∧
      (((tbase s i).armed = false ∨ nsPast next (tbNs s i k) = false) → pulseCatchUp s i k = s)) ∧
    (let at_ := (rd s (R.TBn_PNEXT i)).toNat;
      let per := (rd s (R.TBn_PPER i)).toNat;
      let fallen := setTbase s i { tbase s i with fall := some ((at_ + min (rdF s (R.TBn_PCFG i) 15 0 * 1000) (per / 2)) % 2 ^ 32) };
      let moved := wr fallen (R.TBn_PNEXT i) (BitVec.ofNat 32 ((at_ + per) % 2 ^ 32));
      ((pulsesRun s i = false ∨ (tbase s i).armed = false) → exec (.pulse n cyc) s = .next s) ∧
      (pulsesRun s i = true → (tbase s i).armed = true →
        (nsPast at_ (tbNs s i 0) = true → exec (.pulse n cyc) s = .next (pulseCatchUp s i c)) ∧
        (nsPast at_ (tbNs s i 0) = false → at_ ≠ tbNs s i c → nsPast (tbNs s i c) at_ = true → exec (.pulse n cyc) s = .next s) ∧
        (nsPast at_ (tbNs s i 0) = false → (at_ = tbNs s i c ∨ nsPast (tbNs s i c) at_ = false) →
          exec (.pulse n cyc) s = .next (if rdB s (R.TBn_PCFG i) 30 then fireSrc moved (33 + 2 * i) 0 (BitVec.ofNat 32 at_) else moved)))) ∧
    (accessOk s fn.toNat (R.TBn_PSTART i) = false → exec (.pstartWrite fn n v cyc) s = .next s) ∧
    (accessOk s fn.toNat (R.TBn_PSTART i) = true →
      exec (.pstartWrite fn n v cyc) s = .next (pulseCatchUp (setTbase (wr (wr s (R.TBn_PSTART i) v) (R.TBn_PNEXT i) v) i { tbase s i with armed := true }) i c)) ∧
    (∀ falling, let cfg := rd s (R.TB_CAPk_CFG i)
      let b := fld cfg 26 24
      let old := SMap.getD s.tb.cap i capture0
      let now := s.dkl.cyc + c
      let info := 2 ^ 31 + b2n falling * 2 ^ 30 + b2n (tbAcquiring s) * 2 ^ 29 + tbFrac s (captureBase s b) c / 2 ^ 24 * 256 + tbFrac s (stampBase s) c / 2 ^ 24
      let taken := s.setTb { s.tb with cap := SMap.put s.tb.cap i { old with valid := true, ns0 := tbNs s (stampBase s) c, nsb := tbNs s (captureBase s b) c, info := info, seen := false, last := some now } }
      let counts := running s = true ∧ bit cfg 31 = true ∧ (fld cfg 29 28 = 2 ∨ fld cfg 29 28 = (if falling then 1 else 0))
      (¬ counts → exec (.capture n falling cyc) s = .next s) ∧
      (counts → (∀ l, old.last = some l → now - l < 160 → exec (.capture n falling cyc) s = .next (setCondWith s (R.TBn_STAT b) (32 + 2 * b) 64 [] 0 (.capture i))) ∧
        ((∀ l, old.last = some l → 160 ≤ now - l) →
          exec (.capture n falling cyc) s = .next (setCondWith taken (R.TBn_STAT b) (32 + 2 * b) (if old.valid then 48 else 16) [] 0 (.capture i))))) ∧
    (let x := SMap.getD s.tb.cap i capture0;
      let u := wrAll s [(R.TB_CAPk_NS0 i, BitVec.ofNat 32 x.ns0), (R.TB_CAPk_NSB i, BitVec.ofNat 32 x.nsb), (R.TB_CAPk_INFO i, BitVec.ofNat 32 (if x.valid then x.info else x.info - 2 ^ 31))];
      (accessOk s fn.toNat (R.TB_CAPk_NS0 i) = true → exec (.captureNs0Read fn n) s =
        .next ((u.setTb { u.tb with cap := SMap.put u.tb.cap i { x with seen := true, latched := true } }).setAns (BitVec.ofNat 32 x.ns0))) ∧
      (accessOk s fn.toNat (R.TB_CAPk_NS0 i) = false → exec (.captureNs0Read fn n) s = .next (s.setAns 0)) ∧
      (let w := (wrF s (R.TB_CAPk_INFO i) 31 31 0).setAns (rd s (R.TB_CAPk_INFO i));
        (accessOk s fn.toNat (R.TB_CAPk_INFO i) = true → exec (.captureInfoRead fn n) s =
          .next (w.setTb { w.tb with cap := SMap.put w.tb.cap i { x with valid := x.valid && x.latched && !x.seen, latched := false } })) ∧
        (accessOk s fn.toNat (R.TB_CAPk_INFO i) = false → exec (.captureInfoRead fn n) s = .next (s.setAns 0))))

/-- Players, misses, the scrubber and the aperture of the deep store. In a running device a player start that the function may write is
the player's last command of the deckle, with the message and no issuer; a stop of a player that is not idle falls due at the next
boundary, unless one is under way, and holds for the starts before it; outside it the word is only stored. A missed request of a running
device, whose unit is the request's, reports its unit and rank, and is abandoned: a line or stream read gives silence for its eight
samples, a write leaves in its unit what was there before, as far as the model still holds it, a player is noted as missed; any other
changes nothing. Where its arbiter may grant it - its rank not masked and no lower rank waiting - the scrubber reads its unit, reports
what it finds, goes to the next, remembers one to be written back when an error was corrected, and at the end of the store begins anew
and reports the pass; the oldest remembered unit that may be granted is written back unchanged; 4096 deckles without a grant are
reported. An aperture write joins the queue of 64, or is reported when it is full, each word it touches mirrored where a pair mirrors
it; when it is granted the bytes it holds are written to its unit, an uncorrectable word that it covers in part keeps zeros, the
findings are reported, and no byte outside the unit changes. A read that is granted answers the word of the store and reports the
findings, waits where a lower rank is before it, and answers zero of a store that does not serve; a timeout answers zero and reports;
with the register interface closed a write changes nothing and a read answers zero. Choices of the model that it may rest on: log
entries 1, 7, 11, 102, 103, 104, 121. -/
def Obligations.DeepStoreServesAndReports : Prop :=
  ∀ s : State, Canonical s →
    (∀ (fn n : BitVec 6) (msg : BitVec 16), let off := R.DST_PLAYn_CTL n.toNat
      let go := plainWrite s fn.toNat off .base (BitVec.ofNat 32 (2 ^ 31 + msg.toNat))
      let halt := plainWrite s fn.toNat off .base (BitVec.ofNat 32 (2 ^ 30 + msg.toNat))
      let p := player go n.toNat
      let q := player halt n.toNat
      (accessOk s fn.toNat off = false → exec (.playerStart fn n msg) s = .next s ∧ exec (.playerStop fn n msg) s = .next s) ∧
      (accessOk s fn.toNat off = true → running s = false → exec (.playerStart fn n msg) s = .next go ∧ exec (.playerStop fn n msg) s = .next halt) ∧
      (accessOk s fn.toNat off = true → running s = true →
        (exec (.playerStart fn n msg) s = .next (setPlayer go n.toNat { p with
          cmds := p.cmds.filter (fun c => c.at_ != s.dkl.num) ++ [{ at_ := s.dkl.num, msg := rdF go off 15 0, clear := p.stop.isSome }], issuer := none })) ∧
        (playerState q = 0 → exec (.playerStop fn n msg) s = .next halt) ∧
        (playerState q ≠ 0 → exec (.playerStop fn n msg) s = .next (setPlayer halt n.toNat { q with
          stop := some (q.stop.getD ((s.dkl.num + 1) % 2 ^ 48, 0)), cmds := q.cmds.map (fun c => { c with clear := false }), next := q.next.map (fun e => ({ e.1 with clear := false }, e.2)) })))) ∧
    (∀ req (unit : BitVec 29), ((running s = false ∨ reqUnit s req unit.toNat ≠ some unit.toNat) → exec (.deadlineMiss req unit) s = .next s) ∧
      (running s = true → reqUnit s req unit.toNat = some unit.toNat → ∃ t, exec (.deadlineMiss req unit) s = .next t ∧ KeepsButStore s t ∧
        t = dstCond (missRequest s req unit.toNat) 2 [(R.DST_MISS, BitVec.ofNat 32 (unit.toNat / 8 % 32 + reqRank req * 32 + s.dkl.num % 65536 * 65536))])) ∧
    (∀ n age c slot u unit, (agedUnit s n age = some u → missRequest s (.line false n age) unit =
          setStrip s n { stripSt s n with ahead := (u, List.replicate 8 0) :: (stripSt s n).ahead }) ∧
      missRequest s (.felt false n c slot) unit = ringChannel s n c (slot / 8) (fun _ => 0) ∧
      (missRequest s (.line true n age) unit).dst = dstPutBytes s.dst (32 * unit) (unitBytes ((List.range 8).map (fun m =>
        ((List.range 8).foldl (fun l i => lineSet l (age + i) (l.getD (age + i + longRing (stDmax (stripDesc s n))) 0)) (stripSt s n).line).getD (age + 7 - m) 0))) ∧
      (missRequest s (.felt true n c slot) unit).dst = dstPutBytes s.dst (32 * unit) (unitBytes ((List.range 8).map (fun i =>
        ((SMap.getD s.strm.was (n * 65536 + 8 * (slot / 8) + i) [])[c]?).getD (unitSample s unit i)))) ∧
      missRequest s (.player n) unit = s.setDste { s.dste with missed := s.dste.missed ++ [(n, unit)] }) ∧
    (∀ (corr unc : BitVec 4), let u := rdF s R.DST_SCRUB_POS 28 0
      let r := granted (eccReports s 5 u corr.toNat unc.toNat) u 5
      let k := r.setDste { r.dste with writeBack := if corr ≠ 0 ∧ unc = 0 then r.dste.writeBack ++ [u] else r.dste.writeBack, granted := true }
      (mayGrant s u 5 = false → exec (.dstScrubRead corr unc) s = .next s) ∧
      (mayGrant s u 5 = true → ∃ t, exec (.dstScrubRead corr unc) s = .next t ∧ KeepsMain s t ∧
        (u + 1 ≠ 2 ^ 29 → t = wrF k R.DST_SCRUB_POS 28 0 (u + 1)) ∧
        (u + 1 = 2 ^ 29 → t = dstCond (wr k R.DST_SCRUB_POS (BitVec.ofNat 32 (if rdB s R.DST_SCRUB_POS 31 then 0 else 2 ^ 31))) 3 []))) ∧
    (s.dste.writeBack.find? (fun u => mayGrant s u 5) = none → exec .dstScrubWriteback s = .next s) ∧
    (∀ u, s.dste.writeBack.find? (fun u => mayGrant s u 5) = some u → ∃ t, exec .dstScrubWriteback s = .next t ∧ KeepsMain s t ∧
      t = granted (s.setDste { s.dste with writeBack := s.dste.writeBack.erase u, granted := true }) u 5) ∧
    (s.dste.noGrant < 4096 → exec .dstScrubStall s = .next s) ∧
    (4096 ≤ s.dste.noGrant → exec .dstScrubStall s = .next (dstCond (s.setDste { s.dste with noGrant := s.dste.noGrant - 4096 }) 4 [])) ∧
    (barUp s = true → ∀ (unit : BitVec 29) (off : BitVec 5) data, let new := hostBytes off.toNat data
      let take := fun (t : State) => if 64 ≤ t.dste.queue.length then dstCond t 7 [] else t.setDste { t.dste with queue := t.dste.queue ++ [(unit.toNat, new)] }
      exec (.apertureWrite unit off data) s = .next (mirrorAll s (barWords s unit.toNat new) take) ∧
      (AtOnce s → exec (.apertureWrite unit off data) s = .next (take s)) ∧
      new.length = min data.length (32 - off.toNat) ∧ ∀ i, i < new.length → new[i]? = some (off.toNat + i, data.getD i 0)) ∧
    (∀ (addr : BitVec 32) (corr unc : BitVec 4), barUp s = true →
      (dstServes s = false → exec (.apertureRead addr corr unc) s = .next (s.setAns 0)) ∧
      (dstServes s = true → mayGrant s (addr.toNat / 8) 4 = false → exec (.apertureRead addr corr unc) s = .next s) ∧
      (dstServes s = true → mayGrant s (addr.toNat / 8) 4 = true → exec (.apertureRead addr corr unc) s =
        .next ((granted (eccReports s 4 (addr.toNat / 8) corr.toNat unc.toNat) (addr.toNat / 8) 4).setAns (apertureWord s addr.toNat unc.toNat)))) ∧
    (barUp s = false → (∀ unit off data, exec (.apertureWrite unit off data) s = .next s) ∧ (∀ addr corr unc, exec (.apertureRead addr corr unc) s = .next (s.setAns 0)) ∧
      exec .apertureReadTimeout s = .next (s.setAns 0)) ∧
    (barUp s = true → exec .apertureReadTimeout s = .next (dstCond (s.setAns 0) 6 [])) ∧
    (∀ corr unc, s.dste.queue = [] → exec (.apertureWriteServed corr unc) s = .next s) ∧
    (∀ (corr unc : BitVec 4) u new q, s.dste.queue = (u, new) :: q →
      (mayGrant s u 4 = false → exec (.apertureWriteServed corr unc) s = .next s) ∧
      (mayGrant s u 4 = true → let t := s.setDste { s.dste with queue := q }
        let r := if partWords new = 0 then t else eccReports (granted t u 4) 4 u corr.toNat unc.toNat
        let bytes := mergeUnit (dstBytes s.dst (32 * u) 32) new (unc.toNat &&& partWords new)
        ∃ x, exec (.apertureWriteServed corr unc) s = .next x ∧ KeepsButStore s x ∧ x = unitRewritten (writeUnit r u 4 bytes) u ∧ x.dst = dstPutBytes s.dst (32 * u) bytes)) ∧
    (∀ corr u new q, s.dste.queue = (u, new) :: q → mayGrant s u 4 = true → ∃ t, exec (.apertureWriteServed corr 0) s = .next t ∧ KeepsButStore s t ∧ t.dste.queue = q ∧
      (∀ a, a < 32 * u ∨ 32 * u + 32 ≤ a → dstByte t.dst a = dstByte s.dst a) ∧
      (u < 2 ^ 29 → ∀ i, i < 32 → dstByte t.dst (32 * u + i) = match new.find? (fun e => e.1 == i) with
        | some e => e.2
        | none => dstByte s.dst (32 * u + i)))

/-- The DMA channels, and the dual-channel and general inputs. A channel that is off, or has no descriptor waiting, or finds one it does
not own, does nothing. A transmit descriptor whose frame could not be fetched completes with status 6, one for a port that is absent or
down with status 3, one whose host memory gave too few bytes with 6, one with a frame over the limit with 2; a frame that finds no room
completes with 1, else it joins its queue and completes at once or, with a timestamp asked for, when it has left. A received frame that
no channel takes, or whose channel has no descriptor or too little room, is dropped from the host port; a host memory error completes
its descriptor with status 6, else its bytes go to host memory and the descriptor completes with 0. A copy of a length that is no whole
number of words, or out of range, completes with status 2, one whose host memory failed with 6; otherwise its portion is moved in its
direction, and the descriptor completes with status 5 where a word is refused, with 7 or 0 when all are moved, bad words among them or
not, else it goes on. TAIL takes the written word. A pin change of a dual-channel input stands at the pin, and the event tick shifts it
through the synchroniser, from the clock of the present tick on or, for a late one, from the next; a filter takes a level against its
own that has held for its time. FAULTN and REARM, where the boundary is due and the pair comes to its fault or leaves it there, are that
boundary with all its actions, otherwise nothing; step 4 gives an enabled pair its counts, fault and value and reports them. A GPIO
level is the pin's own. Choices of the model that it may rest on: log entries 7, 108, 109, 110, 122, 140, 151. -/
def Obligations.DmaChannelsAndInputs : Prop :=
  ∀ s : State, Canonical s →
    (∀ (fn : BitVec 6) (c : BitVec 3) (v : Word), accessOk s fn.toNat (R.HOST_DMAc_TAIL c.toNat) = false → exec (.dmaTailWrite fn c v) s = .next s) ∧
    (∀ (fn : BitVec 6) (c : BitVec 3) (v : Word), accessOk s fn.toNat (R.HOST_DMAc_TAIL c.toNat) = true → locked s (R.HOST_DMAc_TAIL c.toNat) = false → ∃ t, exec (.dmaTailWrite fn c v) s = .next t ∧
      t = s.setRegs t.regs ∧ RegsBut s t [R.HOST_DMAc_TAIL c.toNat] ∧ rd t (R.HOST_DMAc_TAIL c.toNat) = newWord s fn.toNat (R.HOST_DMAc_TAIL c.toNat) .base v) ∧
    (∀ (c : BitVec 3) (d : List Word), (dmaOn s c.toNat 1 = false ∨ dmaWaits s c.toNat = false) → ∀ f, exec (.dmaTransmit c d f) s = .next s) ∧
    (∀ (c : BitVec 3) (d : List Word), dmaOn s c.toNat 1 = true → dmaWaits s c.toNat = true → bit (dw d 7) 31 = true → txPending s c.toNat = false →
      (exec (.dmaTransmit c d none) s = .next (txComplete s c.toNat (doneWord (dw d 7) 6) none)) ∧
      (∀ b, 20 ≤ fld (dw d 2) 20 16 ∨ running s = false ∨ portUp s (fld (dw d 2) 20 16) = false → exec (.dmaTransmit c d (some b)) s = .next (txComplete s c.toNat (doneWord (dw d 7) 3) none)) ∧
      (∀ b p, p = fld (dw d 2) 20 16 → p < 20 → running s = true → portUp s p = true →
        (b.length < fld (dw d 2) 13 0 → exec (.dmaTransmit c d (some b)) s = .next (txComplete s c.toNat (doneWord (dw d 7) 6) none)) ∧
        (∀ body, fld (dw d 2) 13 0 ≤ b.length → body = padFrame (b.take (fld (dw d 2) 13 0)) →
          (frameLimit s p (fbe body 12 2 == 0x8100) < body.length + 4 → exec (.dmaTransmit c d (some b)) s = .next (txComplete s c.toNat (doneWord (dw d 7) 2) none)) ∧
          (body.length + 4 ≤ frameLimit s p (fbe body 12 2 == 0x8100) → ∀ launch w t, launch = (if bit (dw d 2) 29 then some (dw d 3).toNat else none) →
            w = doneWord (dw d 7) (if (match launch with | some x => nsPast x (tbNs s 0 0) | none => false) = true then 4 else 0) →
            t = enqueue s { port := p, queue := fld (dw d 2) 26 24, bytes := body, launch := launch, deckle := none, ingress := none, host := if bit (dw d 2) 28 then some (c.toNat, w.toNat) else none, bad := false } →
            (t.eth.egress.length = s.eth.egress.length → exec (.dmaTransmit c d (some b)) s = .next (txComplete t c.toNat (doneWord (dw d 7) 1) none)) ∧
            (t.eth.egress.length ≠ s.eth.egress.length → bit (dw d 2) 28 = true → exec (.dmaTransmit c d (some b)) s = .next t) ∧
            (t.eth.egress.length ≠ s.eth.egress.length → bit (dw d 2) 28 = false → exec (.dmaTransmit c d (some b)) s = .next (txComplete t c.toNat w none)))))) ∧
    (∀ (c : BitVec 3) (d : List Word) f, (bit (dw d 7) 31 = false ∨ txPending s c.toNat = true) → exec (.dmaTransmit c d f) s = .next s) ∧
    (s.eth.toHost = [] → ∀ d m, exec (.dmaReceive d m) s = .next s) ∧
    (∀ f rsn rest t, s.eth.toHost = (f, rsn) :: rest → t = s.setEth { s.eth with toHost := rest } → ∀ d m,
      (rxChannel t (tenantFn t f.tenant) f.pcp = none → exec (.dmaReceive d m) s = .next (rxDrop t)) ∧
      (∀ c, rxChannel t (tenantFn t f.tenant) f.pcp = some c → (dmaWaits t c = false ∨ bit (dw d 7) 31 = false ∨ fld (dw d 2) 13 0 < f.bytes.length) → exec (.dmaReceive d m) s = .next (rxDrop t)) ∧
      (∀ c, rxChannel t (tenantFn t f.tenant) f.pcp = some c → dmaWaits t c = true → bit (dw d 7) 31 = true → f.bytes.length ≤ fld (dw d 2) 13 0 →
        (m = true → exec (.dmaReceive d m) s = .next (dmaComplete t c 2 (rxWords d f rsn) (doneWord (dw d 7) 6))) ∧
        (m = false → ∃ u, exec (.dmaReceive d m) s = .next u ∧ KeepsMain s u ∧
          u = dmaComplete (emit t (.hostBytes (dmaFn t c) ((dw d 0).toNat + (dw d 1).toNat * 2 ^ 32) f.bytes)) c 2 (rxWords d f rsn) (doneWord (dw d 7) 0)))) ∧
    (∀ (c : BitVec 3) (d data : List Word) n m corr unc, dmaOn s c.toNat 3 = true → dmaWaits s c.toNat = true → bit (dw d 7) 31 = true →
      ((dw d 2).toNat % 4 ≠ 0 ∨ (dw d 2).toNat < 4 ∨ 2 ^ 24 < (dw d 2).toNat → exec (.dmaCopy c d data n m corr unc) s =
        .next (dmaComplete (s.setHp { s.hp with copying := SMap.del s.hp.copying c.toNat }) c.toNat 7 [] (doneWord (dw d 7) 2))) ∧
      ((dw d 2).toNat % 4 = 0 → 4 ≤ (dw d 2).toNat → (dw d 2).toNat ≤ 2 ^ 24 → m = true → exec (.dmaCopy c d data n m corr unc) s =
        .next (dmaComplete (s.setHp { s.hp with copying := SMap.del s.hp.copying c.toNat }) c.toNat 7 [] (doneWord (dw d 7) 6))) ∧
      ((dw d 2).toNat % 4 = 0 → 4 ≤ (dw d 2).toNat → (dw d 2).toNat ≤ 2 ^ 24 → m = false → ∀ old u moved refused bad, old = SMap.getD s.hp.copying c.toNat (0, false) →
        (bit (dw d 4) 8 = true → ∀ r, r = copyOut s (dmaFn s c.toNat) (fld (dw d 4) 7 0) ((dw d 3).toNat + old.1) corr.toNat unc.toNat false (min n.toNat ((dw d 2).toNat / 4 - old.1)) →
          u = (if r.2.1.isEmpty then r.1 else emit r.1 (.hostWrite (dmaFn s c.toNat) ((dw d 0).toNat + (dw d 1).toNat * 2 ^ 32 + 4 * old.1) r.2.1)) ∧ moved = r.2.1.length ∧ refused = r.2.2 ∧
            bad = copyBad (fld (dw d 4) 7 0) ((dw d 3).toNat + old.1) r.2.1.length unc.toNat) →
        (bit (dw d 4) 8 = false → ∀ r, r = copyIn s (dmaFn s c.toNat) (fld (dw d 4) 7 0) ((dw d 3).toNat + old.1) (data.take ((dw d 2).toNat / 4 - old.1)) →
          u = r.1 ∧ moved = r.2.1 ∧ refused = r.2.2 ∧ bad = false) →
        (refused = true → exec (.dmaCopy c d data n m corr unc) s = .next (dmaComplete (u.setHp { u.hp with copying := SMap.del u.hp.copying c.toNat }) c.toNat 7 [] (doneWord (dw d 7) 5))) ∧
        (refused = false → (dw d 2).toNat / 4 ≤ old.1 + moved → exec (.dmaCopy c d data n m corr unc) s =
          .next (dmaComplete (u.setHp { u.hp with copying := SMap.del u.hp.copying c.toNat }) c.toNat 7 [] (doneWord (dw d 7) (if (old.2 || bad) = true then 7 else 0)))) ∧
        (refused = false → old.1 + moved < (dw d 2).toNat / 4 → exec (.dmaCopy c d data n m corr unc) s = .next (u.setHp { u.hp with copying := SMap.put u.hp.copying c.toNat (old.1 + moved, old.2 || bad) })))) ∧
    (∀ (c : BitVec 3) (d data : List Word) n m corr unc, (dmaOn s c.toNat 3 = false ∨ dmaWaits s c.toNat = false ∨ bit (dw d 7) 31 = false) → exec (.dmaCopy c d data n m corr unc) s = .next s) ∧
    (∀ (n : BitVec 4) (b level late : Bool), let i := n.toNat + (if b then 16 else 0)
      let put := fun (x : Nat) => x - (if x.testBit i then 2 ^ i else 0) + (if level then 2 ^ i else 0)
      exec (.dciFilterChange n b level late) s = .next (s.setInp { s.inp with dciPin := put s.inp.dciPin, dciSeen := if late then s.inp.dciSeen else put s.inp.dciSeen })) ∧
    ((syncPins s).inp.dciSt1 = s.inp.dciSeen ∧ (syncPins s).inp.dciSeen = s.inp.dciPin ∧ (syncPins s).inp.dciSt2 = s.inp.dciSt1 ∧ (syncPins s).inp.dciLvl = s.inp.dciRaw) ∧
    (∀ filt lvl raw held, (lvl = raw → filterStep filt lvl raw held = (raw, 0)) ∧ (lvl ≠ raw → filt * 100 ≤ held + 1 → filterStep filt lvl raw held = (lvl, 0)) ∧
      (lvl ≠ raw → held + 1 < filt * 100 → filterStep filt lvl raw held = (raw, held + 1))) ∧
    (∀ n : BitVec 4, ∀ q ∈ [(Instr.faultn n, faultDue s n.toNat), (.rearm n, rearmDue s n.toNat)],
      (boundaryDue s = true → q.2 = true → exec q.1 s = .next (boundary s [])) ∧
      (GoesOn s → q.2 = true → exec q.1 s = .next (boundaryClosed s (stepRest (boundaryMarked s)))) ∧
      ((boundaryDue s = false ∨ q.2 = false) → exec q.1 s = .next s)) ∧
    (∀ n, n < 16 → (rdB s (R.DCI_PAIRn_CFG n) 0 = false → runPair s n = s) ∧
      (rdB s (R.DCI_PAIRn_CFG n) 0 = true → let e := evalPair s n; let t := runPair s n;
        RegsBut s t [R.DCI_PAIRn_CNT n, R.DCI_STATE] ∧ rd t (R.DCI_PAIRn_CNT n) = BitVec.ofNat 32 (e.dis + e.ra * 65536) ∧
        rdB t R.DCI_STATE n = e.taken ∧ rdB t R.DCI_STATE (16 + n) = e.fault ∧
        (∀ b, e.report = some b → HwReq.cond R.DCI_STAT 243 (BitVec.ofNat 32 (2 ^ b)) [(R.DCI_LAST, BitVec.ofNat 32 (n + b * 65536))] 0 .newBits ∈ t.ev.reqs) ∧ (e.report = none → t.ev = s.ev))) ∧
    (∀ (p : BitVec 6) level, exec (.gpioLevelChange p level) s = .next (s.setInp { s.inp with
      ext := s.inp.ext - (if s.inp.ext.testBit p.toNat then 2 ^ p.toNat else 0) + (if level then 2 ^ p.toNat else 0) }))

/-- Pending bits, doorbells, acknowledges, rings, sources, bindings and MSI-X vectors. An access that the function may not make changes
nothing, and an acknowledge answers zero. A write of PCLR forgets the firings of the sources whose bits are 1; SETP fires its sources,
and a doorbell of the function the target is bound to asks for its event; another function's does nothing. ACK answers the priority of
the best ring with its count, and puts that priority onto the stack; with none it answers zero. A ring base of a size that is not
allowed only reports; one that arms the ring also takes its producer and consumer to zero and its sequence back to the start. A consumer
index beyond the ring's content only reports. A source configuration with a sense that the source does not allow only reports; the same
word changes nothing, and a new one ends the active state; a locked block reports the violation and keeps its word. A target whose
function or enable changes has its rings disarmed and its stack emptied; the others keep theirs. A write of an MSI-X entry keeps its
address and data, its mask and whether messages of the function are enabled, in PF0 also how many virtual functions are; one that
unmasks an entry with a message held sends it, where messages are enabled and the function is; with messages disabled none is sent and
none kept. Choices of the model that it may rest on: log entries 16, 17, 152. -/
def Obligations.EventControllerAccesses : Prop :=
  ∀ (s : State) (fn : BitVec 6) (v : Word), Canonical s →
    (∀ (w p : BitVec 4) (t : BitVec 3) (m : BitVec 9) (hi : Bool), ∀ q ∈ [(Instr.pclr fn w v, R.EVC_PCLRw w.toNat), (.setPending fn w v, R.EVC_SETPw w.toNat), (.doorbell fn t v, R.EVC_TGTt_DB t.toNat), (.eoi fn t, R.EVC_TGTt_EOI t.toNat),
        (.ringBaseWrite fn t p v, R.EVC_TGTt_RINGp_BASE_LO t.toNat p.toNat), (.consWrite fn t p v, R.EVC_TGTt_RINGp_CONS t.toNat p.toNat), (.sourceConfigWrite fn m v, R.EVC_SRCn_CFG m.toNat),
        (.targetBindWrite fn hi v, if hi then R.EVC_TGTBIND1 else R.EVC_TGTBIND0)], accessOk s fn.toNat q.2 = false → exec q.1 s = .next s) ∧
    (∀ t : BitVec 3, accessOk s fn.toNat (R.EVC_TGTt_ACK t.toNat) = false → exec (.ack fn t) s = .next (s.setAns 0)) ∧
    (∀ w : BitVec 4, accessOk s fn.toNat (R.EVC_PCLRw w.toNat) = true → ∃ t, exec (.pclr fn w v) s = .next t ∧ KeepsMain s t ∧
      t = (wordSources w.toNat v).foldl (fun u n => u.setEv { u.ev with firings := SMap.del u.ev.firings n }) s ∧ t.regs = s.regs ∧ t.ev.reqs = s.ev.reqs ∧
      ∀ n, n ∈ wordSources w.toNat v → SMap.sorted s.ev.firings = true → SMap.get t.ev.firings n = none) ∧
    (∀ w : BitVec 4, accessOk s fn.toNat (R.EVC_SETPw w.toNat) = true → exec (.setPending fn w v) s = .next (s.setEv { s.ev with setp := s.ev.setp ++ wordSources w.toNat v })) ∧
    (∀ t : BitVec 3, accessOk s fn.toNat (R.EVC_TGTt_DB t.toNat) = true →
      (tgtBoundTo s t.toNat fn.toNat = true → exec (.doorbell fn t v) s = .next (request s (.bell (448 + fld v 5 0) (BitVec.ofNat 32 (fld v 31 8 + fn.toNat % 64 * 2 ^ 24))))) ∧
      (tgtBoundTo s t.toNat fn.toNat = false → exec (.doorbell fn t v) s = .next s)) ∧
    (∀ t : BitVec 3, accessOk s fn.toNat (R.EVC_TGTt_ACK t.toNat) = true → ∃ u, exec (.ack fn t) s = .next u ∧ KeepsMain s u ∧
      (∀ p, bestRing s t.toNat 16 = some p → u = (setStack s t.toNat (stackLevels s t.toNat ||| 2 ^ p)).setAns (BitVec.ofNat 32 (2 ^ 31 + p * 2 ^ 20 + ringCount s t.toNat p % 2 ^ 17)) ∧
        (p < 16 → stackLevels u t.toNat = stackLevels s t.toNat ||| 2 ^ p)) ∧
      (bestRing s t.toNat 16 = none → u = s.setAns 0)) ∧
    (∀ (t : BitVec 3) (p : BitVec 4) (w : Word), accessOk s fn.toNat (R.EVC_TGTt_RINGp_BASE_LO t.toNat p.toNat) = true → w = newWord s fn.toNat (R.EVC_TGTt_RINGp_BASE_LO t.toNat p.toNat) .base v →
      (10 < fld w 3 0 → exec (.ringBaseWrite fn t p v) s = .next (evcCond s 3 t.toNat p.toNat 0)) ∧
      (fld w 3 0 ≤ 10 → bit w 9 = false → exec (.ringBaseWrite fn t p v) s = .next (wr s (R.EVC_TGTt_RINGp_BASE_LO t.toNat p.toNat) w)) ∧
      (fld w 3 0 ≤ 10 → bit w 9 = true → ∃ u, exec (.ringBaseWrite fn t p v) s = .next u ∧ KeepsMain s u ∧ u = (s.setRegs u.regs).setEv { s.ev with rseq := SMap.del s.ev.rseq (16 * t.toNat + p.toNat) } ∧ rd u (R.EVC_TGTt_RINGp_BASE_LO t.toNat p.toNat) = w ∧
        rd u (R.EVC_TGTt_RINGp_PROD t.toNat p.toNat) = 0 ∧ rd u (R.EVC_TGTt_RINGp_CONS t.toNat p.toNat) = 0 ∧
        RegsBut s u [R.EVC_TGTt_RINGp_BASE_LO t.toNat p.toNat, R.EVC_TGTt_RINGp_PROD t.toNat p.toNat, R.EVC_TGTt_RINGp_CONS t.toNat p.toNat])) ∧
    (∀ (t : BitVec 3) (p : BitVec 4), accessOk s fn.toNat (R.EVC_TGTt_RINGp_CONS t.toNat p.toNat) = true →
      (ringSize s t.toNat p.toNat < (rd s (R.EVC_TGTt_RINGp_PROD t.toNat p.toNat) - v).toNat → exec (.consWrite fn t p v) s = .next (evcCond s 2 t.toNat p.toNat 0)) ∧
      ((rd s (R.EVC_TGTt_RINGp_PROD t.toNat p.toNat) - v).toNat ≤ ringSize s t.toNat p.toNat → exec (.consWrite fn t p v) s = .next (wr s (R.EVC_TGTt_RINGp_CONS t.toNat p.toNat) v))) ∧
    (∀ (n : BitVec 9) (w : Word), accessOk s fn.toNat (R.EVC_SRCn_CFG n.toNat) = true → w = newWord s fn.toNat (R.EVC_SRCn_CFG n.toNat) .base v →
      (locked s (R.EVC_SRCn_CFG n.toNat) = true → exec (.sourceConfigWrite fn n v) s = .next (lockViolation s fn.toNat (R.EVC_SRCn_CFG n.toNat))) ∧
      (locked s (R.EVC_SRCn_CFG n.toNat) = false → senseAllowed n.toNat (fld w 2 0) = false → exec (.sourceConfigWrite fn n v) s = .next (evcCond s 3 (srcTarget s n.toNat) (srcPrio s n.toNat) n.toNat)) ∧
      (locked s (R.EVC_SRCn_CFG n.toNat) = false → senseAllowed n.toNat (fld w 2 0) = true → w = rd s (R.EVC_SRCn_CFG n.toNat) → exec (.sourceConfigWrite fn n v) s = .next s) ∧
      (locked s (R.EVC_SRCn_CFG n.toNat) = false → senseAllowed n.toNat (fld w 2 0) = true → w ≠ rd s (R.EVC_SRCn_CFG n.toNat) →
        exec (.sourceConfigWrite fn n v) s = .next (setActive (wr s (R.EVC_SRCn_CFG n.toNat) w) n.toNat false))) ∧
    (∀ hi : Bool, ∀ off, off = (if hi then R.EVC_TGTBIND1 else R.EVC_TGTBIND0) → accessOk s fn.toNat off = true → locked s off = true → exec (.targetBindWrite fn hi v) s = .next (lockViolation s fn.toNat off)) ∧
    (∀ (hi : Bool) (w : Word), ∀ off, off = (if hi then R.EVC_TGTBIND1 else R.EVC_TGTBIND0) → accessOk s fn.toNat off = true → locked s off = false → w = newWord s fn.toNat off .base v →
      ∃ u, exec (.targetBindWrite fn hi v) s = .next u ∧ KeepsMain s u ∧ rd u off = w ∧ u = s.setRegs u.regs ∧ (∀ o, ¬ TargetReg o → o ≠ off → rd u o = rd s o) ∧
        ∀ k, k < 4 → let t := k + if hi then 4 else 0
          let same := bit (rd s off) (8 * k + 7) = bit w (8 * k + 7) ∧ fld (rd s off) (8 * k + 5) (8 * k) = fld w (8 * k + 5) (8 * k)
          (same → rd u (R.EVC_TGTt_RUN t) = rd s (R.EVC_TGTt_RUN t) ∧ ∀ p, p < 16 → rd u (R.EVC_TGTt_RINGp_BASE_LO t p) = rd s (R.EVC_TGTt_RINGp_BASE_LO t p)) ∧
          (¬ same → stackLevels u t = 0 ∧ ∀ p, p < 16 → rdB u (R.EVC_TGTt_RINGp_BASE_LO t p) 9 = false)) ∧
    (∀ (t : BitVec 3) (w : MsixWrite), let f := fn.toNat
      let k := 8 * f + t.toNat
      let vfs := if f = 0 then w.vfs.toNat else s.hp.vfs
      ∃ u z, exec (.msixVectorUnmask fn t w) s = .next z ∧ KeepsMain s z ∧ u = (s.setEv u.ev).setHp { s.hp with vfs := vfs } ∧
        u.ev = { s.ev with msixOn := u.ev.msixOn, msixOpen := u.ev.msixOpen, msixPend := u.ev.msixPend, msixTab := SMap.put s.ev.msixTab k (w.addr.toNat, w.data) } ∧
        (∀ x, x ∈ u.ev.msixOn ↔ (x = f ∧ w.on = true) ∨ (x ≠ f ∧ x ∈ s.ev.msixOn)) ∧
        (∀ x, x ∈ u.ev.msixOpen ↔ (x = k ∧ w.mask = false) ∨ (x ≠ k ∧ x ∈ s.ev.msixOpen)) ∧
        (∀ x, x ∈ u.ev.msixPend ↔ x ∈ s.ev.msixPend ∧ (x ≠ k ∨ (w.on = true ∧ w.mask = true))) ∧
        z = (if w.on = true ∧ w.mask = false ∧ f ≤ vfs ∧ k ∈ s.ev.msixPend then emit u (.msix f t.toNat w.addr.toNat w.data) else u))

/-- A write of EOI pops the top of the stack; on an empty stack it is ignored and sets EOIERR. A write of any value to EVC_TGTt_EOI by a
function that reaches it pops the highest priority from the running-priority stack of target t: the stack keeps the other priorities.
The active bits of the sources of that target and priority are cleared, no other, and nothing else changes but the note of the pop for
the event tick. On an empty stack the write changes nothing but asks for EVC_STAT.EOIERR. Choices of the model that it may rest on: log
entry 17. -/
def Obligations.EndOfInterruptPopsTheStack : Prop :=
  ∀ (s : State) (fn : BitVec 6) (t : BitVec 3), Canonical s → accessOk s fn.toNat (R.EVC_TGTt_EOI t.toNat) = true →
    (stackLevels s t.toNat = 0 → ∃ u, exec (.eoi fn t) s = .next u ∧ KeepsMain s u ∧ u = evcCond s 1 t.toNat 0 0 ∧ ∃ l d, HwReq.cond R.EVC_STAT 19 2 l 0 d ∈ u.ev.reqs) ∧
    (∀ p, p < 16 → (stackLevels s t.toNat).testBit p = true → (∀ q, q < 16 → p < q → (stackLevels s t.toNat).testBit q = false) →
      ∃ u, exec (.eoi fn t) s = .next u ∧ KeepsMain s u ∧ stackLevels u t.toNat = stackLevels s t.toNat - 2 ^ p ∧
        u.ev = { s.ev with pops := s.ev.pops ++ [(t.toNat, p)] } ∧ u = (s.setRegs u.regs).setEv u.ev ∧
        (∀ n, n < 512 → srcActive u n = (srcActive s n && !(srcTarget s n == t.toNat && srcPrio s n == p))) ∧
        RegsBut s u (R.EVC_TGTt_RUN t.toNat :: (List.range 16).map R.EVC_ACTw))
end

