-- ==== Sys2Proof/Laws/State.lean ====
section
/-! SUPPORT. One lemma per field per update of the state, so that no proof unfolds a record update. -/

namespace Sys2Proof.Machine

@[simp] theorem State.setRegs_regs (s : State) (v : SMap Word) : (s.setRegs v).regs = v := rfl
@[simp] theorem State.setRegs_pwr (s : State) (v : SMap Word) : (s.setRegs v).pwr = s.pwr := rfl
@[simp] theorem State.setRegs_dev (s : State) (v : SMap Word) : (s.setRegs v).dev = s.dev := rfl
@[simp] theorem State.setRegs_mld (s : State) (v : SMap Word) : (s.setRegs v).mld = s.mld := rfl
@[simp] theorem State.setRegs_dkl (s : State) (v : SMap Word) : (s.setRegs v).dkl = s.dkl := rfl
@[simp] theorem State.setRegs_ev (s : State) (v : SMap Word) : (s.setRegs v).ev = s.ev := rfl
@[simp] theorem State.setRegs_hp (s : State) (v : SMap Word) : (s.setRegs v).hp = s.hp := rfl
@[simp] theorem State.setRegs_inp (s : State) (v : SMap Word) : (s.setRegs v).inp = s.inp := rfl
@[simp] theorem State.setRegs_tb (s : State) (v : SMap Word) : (s.setRegs v).tb = s.tb := rfl
@[simp] theorem State.setRegs_srch (s : State) (v : SMap Word) : (s.setRegs v).srch = s.srch := rfl
@[simp] theorem State.setRegs_upd (s : State) (v : SMap Word) : (s.setRegs v).upd = s.upd := rfl
@[simp] theorem State.setRegs_fwd (s : State) (v : SMap Word) : (s.setRegs v).fwd = s.fwd := rfl
@[simp] theorem State.setRegs_eth (s : State) (v : SMap Word) : (s.setRegs v).eth = s.eth := rfl
@[simp] theorem State.setRegs_strm (s : State) (v : SMap Word) : (s.setRegs v).strm = s.strm := rfl
@[simp] theorem State.setRegs_aud (s : State) (v : SMap Word) : (s.setRegs v).aud = s.aud := rfl
@[simp] theorem State.setRegs_mix (s : State) (v : SMap Word) : (s.setRegs v).mix = s.mix := rfl
@[simp] theorem State.setRegs_strp (s : State) (v : SMap Word) : (s.setRegs v).strp = s.strp := rfl
@[simp] theorem State.setRegs_dste (s : State) (v : SMap Word) : (s.setRegs v).dste = s.dste := rfl
@[simp] theorem State.setRegs_seq (s : State) (v : SMap Word) : (s.setRegs v).seq = s.seq := rfl
@[simp] theorem State.setRegs_edl (s : State) (v : SMap Word) : (s.setRegs v).edl = s.edl := rfl
@[simp] theorem State.setRegs_trl (s : State) (v : SMap Word) : (s.setRegs v).trl = s.trl := rfl
@[simp] theorem State.setRegs_pair (s : State) (v : SMap Word) : (s.setRegs v).pair = s.pair := rfl
@[simp] theorem State.setRegs_scn (s : State) (v : SMap Word) : (s.setRegs v).scn = s.scn := rfl
@[simp] theorem State.setRegs_ptr (s : State) (v : SMap Word) : (s.setRegs v).ptr = s.ptr := rfl
@[simp] theorem State.setRegs_mgt (s : State) (v : SMap Word) : (s.setRegs v).mgt = s.mgt := rfl
@[simp] theorem State.setRegs_dst (s : State) (v : SMap Word) : (s.setRegs v).dst = s.dst := rfl
@[simp] theorem State.setRegs_ans (s : State) (v : SMap Word) : (s.setRegs v).ans = s.ans := rfl
@[simp] theorem State.setRegs_out (s : State) (v : SMap Word) : (s.setRegs v).out = s.out := rfl
@[simp] theorem State.setRegs_free (s : State) (v : SMap Word) : (s.setRegs v).free = s.free := rfl
@[simp] theorem State.setRegs_pending (s : State) (v : SMap Word) : (s.setRegs v).pending = s.pending := rfl
@[simp] theorem State.setPwr_regs (s : State) (v : Pwr) : (s.setPwr v).regs = s.regs := rfl
@[simp] theorem State.setPwr_pwr (s : State) (v : Pwr) : (s.setPwr v).pwr = v := rfl
@[simp] theorem State.setPwr_dev (s : State) (v : Pwr) : (s.setPwr v).dev = s.dev := rfl
@[simp] theorem State.setPwr_mld (s : State) (v : Pwr) : (s.setPwr v).mld = s.mld := rfl
@[simp] theorem State.setPwr_dkl (s : State) (v : Pwr) : (s.setPwr v).dkl = s.dkl := rfl
@[simp] theorem State.setPwr_ev (s : State) (v : Pwr) : (s.setPwr v).ev = s.ev := rfl
@[simp] theorem State.setPwr_hp (s : State) (v : Pwr) : (s.setPwr v).hp = s.hp := rfl
@[simp] theorem State.setPwr_inp (s : State) (v : Pwr) : (s.setPwr v).inp = s.inp := rfl
@[simp] theorem State.setPwr_tb (s : State) (v : Pwr) : (s.setPwr v).tb = s.tb := rfl
@[simp] theorem State.setPwr_srch (s : State) (v : Pwr) : (s.setPwr v).srch = s.srch := rfl
@[simp] theorem State.setPwr_upd (s : State) (v : Pwr) : (s.setPwr v).upd = s.upd := rfl
@[simp] theorem State.setPwr_fwd (s : State) (v : Pwr) : (s.setPwr v).fwd = s.fwd := rfl
@[simp] theorem State.setPwr_eth (s : State) (v : Pwr) : (s.setPwr v).eth = s.eth := rfl
@[simp] theorem State.setPwr_strm (s : State) (v : Pwr) : (s.setPwr v).strm = s.strm := rfl
@[simp] theorem State.setPwr_aud (s : State) (v : Pwr) : (s.setPwr v).aud = s.aud := rfl
@[simp] theorem State.setPwr_mix (s : State) (v : Pwr) : (s.setPwr v).mix = s.mix := rfl
@[simp] theorem State.setPwr_strp (s : State) (v : Pwr) : (s.setPwr v).strp = s.strp := rfl
@[simp] theorem State.setPwr_dste (s : State) (v : Pwr) : (s.setPwr v).dste = s.dste := rfl
@[simp] theorem State.setPwr_seq (s : State) (v : Pwr) : (s.setPwr v).seq = s.seq := rfl
@[simp] theorem State.setPwr_edl (s : State) (v : Pwr) : (s.setPwr v).edl = s.edl := rfl
@[simp] theorem State.setPwr_trl (s : State) (v : Pwr) : (s.setPwr v).trl = s.trl := rfl
@[simp] theorem State.setPwr_pair (s : State) (v : Pwr) : (s.setPwr v).pair = s.pair := rfl
@[simp] theorem State.setPwr_scn (s : State) (v : Pwr) : (s.setPwr v).scn = s.scn := rfl
@[simp] theorem State.setPwr_ptr (s : State) (v : Pwr) : (s.setPwr v).ptr = s.ptr := rfl
@[simp] theorem State.setPwr_mgt (s : State) (v : Pwr) : (s.setPwr v).mgt = s.mgt := rfl
@[simp] theorem State.setPwr_dst (s : State) (v : Pwr) : (s.setPwr v).dst = s.dst := rfl
@[simp] theorem State.setPwr_ans (s : State) (v : Pwr) : (s.setPwr v).ans = s.ans := rfl
@[simp] theorem State.setPwr_out (s : State) (v : Pwr) : (s.setPwr v).out = s.out := rfl
@[simp] theorem State.setPwr_free (s : State) (v : Pwr) : (s.setPwr v).free = s.free := rfl
@[simp] theorem State.setPwr_pending (s : State) (v : Pwr) : (s.setPwr v).pending = s.pending := rfl
@[simp] theorem State.setDev_regs (s : State) (v : DevState) : (s.setDev v).regs = s.regs := rfl
@[simp] theorem State.setDev_pwr (s : State) (v : DevState) : (s.setDev v).pwr = s.pwr := rfl
@[simp] theorem State.setDev_dev (s : State) (v : DevState) : (s.setDev v).dev = v := rfl
@[simp] theorem State.setDev_mld (s : State) (v : DevState) : (s.setDev v).mld = s.mld := rfl
@[simp] theorem State.setDev_dkl (s : State) (v : DevState) : (s.setDev v).dkl = s.dkl := rfl
@[simp] theorem State.setDev_ev (s : State) (v : DevState) : (s.setDev v).ev = s.ev := rfl
@[simp] theorem State.setDev_hp (s : State) (v : DevState) : (s.setDev v).hp = s.hp := rfl
@[simp] theorem State.setDev_inp (s : State) (v : DevState) : (s.setDev v).inp = s.inp := rfl
@[simp] theorem State.setDev_tb (s : State) (v : DevState) : (s.setDev v).tb = s.tb := rfl
@[simp] theorem State.setDev_srch (s : State) (v : DevState) : (s.setDev v).srch = s.srch := rfl
@[simp] theorem State.setDev_upd (s : State) (v : DevState) : (s.setDev v).upd = s.upd := rfl
@[simp] theorem State.setDev_fwd (s : State) (v : DevState) : (s.setDev v).fwd = s.fwd := rfl
@[simp] theorem State.setDev_eth (s : State) (v : DevState) : (s.setDev v).eth = s.eth := rfl
@[simp] theorem State.setDev_strm (s : State) (v : DevState) : (s.setDev v).strm = s.strm := rfl
@[simp] theorem State.setDev_aud (s : State) (v : DevState) : (s.setDev v).aud = s.aud := rfl
@[simp] theorem State.setDev_mix (s : State) (v : DevState) : (s.setDev v).mix = s.mix := rfl
@[simp] theorem State.setDev_strp (s : State) (v : DevState) : (s.setDev v).strp = s.strp := rfl
@[simp] theorem State.setDev_dste (s : State) (v : DevState) : (s.setDev v).dste = s.dste := rfl
@[simp] theorem State.setDev_seq (s : State) (v : DevState) : (s.setDev v).seq = s.seq := rfl
@[simp] theorem State.setDev_edl (s : State) (v : DevState) : (s.setDev v).edl = s.edl := rfl
@[simp] theorem State.setDev_trl (s : State) (v : DevState) : (s.setDev v).trl = s.trl := rfl
@[simp] theorem State.setDev_pair (s : State) (v : DevState) : (s.setDev v).pair = s.pair := rfl
@[simp] theorem State.setDev_scn (s : State) (v : DevState) : (s.setDev v).scn = s.scn := rfl
@[simp] theorem State.setDev_ptr (s : State) (v : DevState) : (s.setDev v).ptr = s.ptr := rfl
@[simp] theorem State.setDev_mgt (s : State) (v : DevState) : (s.setDev v).mgt = s.mgt := rfl
@[simp] theorem State.setDev_dst (s : State) (v : DevState) : (s.setDev v).dst = s.dst := rfl
@[simp] theorem State.setDev_ans (s : State) (v : DevState) : (s.setDev v).ans = s.ans := rfl
@[simp] theorem State.setDev_out (s : State) (v : DevState) : (s.setDev v).out = s.out := rfl
@[simp] theorem State.setDev_free (s : State) (v : DevState) : (s.setDev v).free = s.free := rfl
@[simp] theorem State.setDev_pending (s : State) (v : DevState) : (s.setDev v).pending = s.pending := rfl
@[simp] theorem State.setMld_regs (s : State) (v : Mld) : (s.setMld v).regs = s.regs := rfl
@[simp] theorem State.setMld_pwr (s : State) (v : Mld) : (s.setMld v).pwr = s.pwr := rfl
@[simp] theorem State.setMld_dev (s : State) (v : Mld) : (s.setMld v).dev = s.dev := rfl
@[simp] theorem State.setMld_mld (s : State) (v : Mld) : (s.setMld v).mld = v := rfl
@[simp] theorem State.setMld_dkl (s : State) (v : Mld) : (s.setMld v).dkl = s.dkl := rfl
@[simp] theorem State.setMld_ev (s : State) (v : Mld) : (s.setMld v).ev = s.ev := rfl
@[simp] theorem State.setMld_hp (s : State) (v : Mld) : (s.setMld v).hp = s.hp := rfl
@[simp] theorem State.setMld_inp (s : State) (v : Mld) : (s.setMld v).inp = s.inp := rfl
@[simp] theorem State.setMld_tb (s : State) (v : Mld) : (s.setMld v).tb = s.tb := rfl
@[simp] theorem State.setMld_srch (s : State) (v : Mld) : (s.setMld v).srch = s.srch := rfl
@[simp] theorem State.setMld_upd (s : State) (v : Mld) : (s.setMld v).upd = s.upd := rfl
@[simp] theorem State.setMld_fwd (s : State) (v : Mld) : (s.setMld v).fwd = s.fwd := rfl
@[simp] theorem State.setMld_eth (s : State) (v : Mld) : (s.setMld v).eth = s.eth := rfl
@[simp] theorem State.setMld_strm (s : State) (v : Mld) : (s.setMld v).strm = s.strm := rfl
@[simp] theorem State.setMld_aud (s : State) (v : Mld) : (s.setMld v).aud = s.aud := rfl
@[simp] theorem State.setMld_mix (s : State) (v : Mld) : (s.setMld v).mix = s.mix := rfl
@[simp] theorem State.setMld_strp (s : State) (v : Mld) : (s.setMld v).strp = s.strp := rfl
@[simp] theorem State.setMld_dste (s : State) (v : Mld) : (s.setMld v).dste = s.dste := rfl
@[simp] theorem State.setMld_seq (s : State) (v : Mld) : (s.setMld v).seq = s.seq := rfl
@[simp] theorem State.setMld_edl (s : State) (v : Mld) : (s.setMld v).edl = s.edl := rfl
@[simp] theorem State.setMld_trl (s : State) (v : Mld) : (s.setMld v).trl = s.trl := rfl
@[simp] theorem State.setMld_pair (s : State) (v : Mld) : (s.setMld v).pair = s.pair := rfl
@[simp] theorem State.setMld_scn (s : State) (v : Mld) : (s.setMld v).scn = s.scn := rfl
@[simp] theorem State.setMld_ptr (s : State) (v : Mld) : (s.setMld v).ptr = s.ptr := rfl
@[simp] theorem State.setMld_mgt (s : State) (v : Mld) : (s.setMld v).mgt = s.mgt := rfl
@[simp] theorem State.setMld_dst (s : State) (v : Mld) : (s.setMld v).dst = s.dst := rfl
@[simp] theorem State.setMld_ans (s : State) (v : Mld) : (s.setMld v).ans = s.ans := rfl
@[simp] theorem State.setMld_out (s : State) (v : Mld) : (s.setMld v).out = s.out := rfl
@[simp] theorem State.setMld_free (s : State) (v : Mld) : (s.setMld v).free = s.free := rfl
@[simp] theorem State.setMld_pending (s : State) (v : Mld) : (s.setMld v).pending = s.pending := rfl
@[simp] theorem State.setDkl_regs (s : State) (v : Dkl) : (s.setDkl v).regs = s.regs := rfl
@[simp] theorem State.setDkl_pwr (s : State) (v : Dkl) : (s.setDkl v).pwr = s.pwr := rfl
@[simp] theorem State.setDkl_dev (s : State) (v : Dkl) : (s.setDkl v).dev = s.dev := rfl
@[simp] theorem State.setDkl_mld (s : State) (v : Dkl) : (s.setDkl v).mld = s.mld := rfl
@[simp] theorem State.setDkl_dkl (s : State) (v : Dkl) : (s.setDkl v).dkl = v := rfl
@[simp] theorem State.setDkl_ev (s : State) (v : Dkl) : (s.setDkl v).ev = s.ev := rfl
@[simp] theorem State.setDkl_hp (s : State) (v : Dkl) : (s.setDkl v).hp = s.hp := rfl
@[simp] theorem State.setDkl_inp (s : State) (v : Dkl) : (s.setDkl v).inp = s.inp := rfl
@[simp] theorem State.setDkl_tb (s : State) (v : Dkl) : (s.setDkl v).tb = s.tb := rfl
@[simp] theorem State.setDkl_srch (s : State) (v : Dkl) : (s.setDkl v).srch = s.srch := rfl
@[simp] theorem State.setDkl_upd (s : State) (v : Dkl) : (s.setDkl v).upd = s.upd := rfl
@[simp] theorem State.setDkl_fwd (s : State) (v : Dkl) : (s.setDkl v).fwd = s.fwd := rfl
@[simp] theorem State.setDkl_eth (s : State) (v : Dkl) : (s.setDkl v).eth = s.eth := rfl
@[simp] theorem State.setDkl_strm (s : State) (v : Dkl) : (s.setDkl v).strm = s.strm := rfl
@[simp] theorem State.setDkl_aud (s : State) (v : Dkl) : (s.setDkl v).aud = s.aud := rfl
@[simp] theorem State.setDkl_mix (s : State) (v : Dkl) : (s.setDkl v).mix = s.mix := rfl
@[simp] theorem State.setDkl_strp (s : State) (v : Dkl) : (s.setDkl v).strp = s.strp := rfl
@[simp] theorem State.setDkl_dste (s : State) (v : Dkl) : (s.setDkl v).dste = s.dste := rfl
@[simp] theorem State.setDkl_seq (s : State) (v : Dkl) : (s.setDkl v).seq = s.seq := rfl
@[simp] theorem State.setDkl_edl (s : State) (v : Dkl) : (s.setDkl v).edl = s.edl := rfl
@[simp] theorem State.setDkl_trl (s : State) (v : Dkl) : (s.setDkl v).trl = s.trl := rfl
@[simp] theorem State.setDkl_pair (s : State) (v : Dkl) : (s.setDkl v).pair = s.pair := rfl
@[simp] theorem State.setDkl_scn (s : State) (v : Dkl) : (s.setDkl v).scn = s.scn := rfl
@[simp] theorem State.setDkl_ptr (s : State) (v : Dkl) : (s.setDkl v).ptr = s.ptr := rfl
@[simp] theorem State.setDkl_mgt (s : State) (v : Dkl) : (s.setDkl v).mgt = s.mgt := rfl
@[simp] theorem State.setDkl_dst (s : State) (v : Dkl) : (s.setDkl v).dst = s.dst := rfl
@[simp] theorem State.setDkl_ans (s : State) (v : Dkl) : (s.setDkl v).ans = s.ans := rfl
@[simp] theorem State.setDkl_out (s : State) (v : Dkl) : (s.setDkl v).out = s.out := rfl
@[simp] theorem State.setDkl_free (s : State) (v : Dkl) : (s.setDkl v).free = s.free := rfl
@[simp] theorem State.setDkl_pending (s : State) (v : Dkl) : (s.setDkl v).pending = s.pending := rfl
@[simp] theorem State.setEv_regs (s : State) (v : Ev) : (s.setEv v).regs = s.regs := rfl
@[simp] theorem State.setEv_pwr (s : State) (v : Ev) : (s.setEv v).pwr = s.pwr := rfl
@[simp] theorem State.setEv_dev (s : State) (v : Ev) : (s.setEv v).dev = s.dev := rfl
@[simp] theorem State.setEv_mld (s : State) (v : Ev) : (s.setEv v).mld = s.mld := rfl
@[simp] theorem State.setEv_dkl (s : State) (v : Ev) : (s.setEv v).dkl = s.dkl := rfl
@[simp] theorem State.setEv_ev (s : State) (v : Ev) : (s.setEv v).ev = v := rfl
@[simp] theorem State.setEv_hp (s : State) (v : Ev) : (s.setEv v).hp = s.hp := rfl
@[simp] theorem State.setEv_inp (s : State) (v : Ev) : (s.setEv v).inp = s.inp := rfl
@[simp] theorem State.setEv_tb (s : State) (v : Ev) : (s.setEv v).tb = s.tb := rfl
@[simp] theorem State.setEv_srch (s : State) (v : Ev) : (s.setEv v).srch = s.srch := rfl
@[simp] theorem State.setEv_upd (s : State) (v : Ev) : (s.setEv v).upd = s.upd := rfl
@[simp] theorem State.setEv_fwd (s : State) (v : Ev) : (s.setEv v).fwd = s.fwd := rfl
@[simp] theorem State.setEv_eth (s : State) (v : Ev) : (s.setEv v).eth = s.eth := rfl
@[simp] theorem State.setEv_strm (s : State) (v : Ev) : (s.setEv v).strm = s.strm := rfl
@[simp] theorem State.setEv_aud (s : State) (v : Ev) : (s.setEv v).aud = s.aud := rfl
@[simp] theorem State.setEv_mix (s : State) (v : Ev) : (s.setEv v).mix = s.mix := rfl
@[simp] theorem State.setEv_strp (s : State) (v : Ev) : (s.setEv v).strp = s.strp := rfl
@[simp] theorem State.setEv_dste (s : State) (v : Ev) : (s.setEv v).dste = s.dste := rfl
@[simp] theorem State.setEv_seq (s : State) (v : Ev) : (s.setEv v).seq = s.seq := rfl
@[simp] theorem State.setEv_edl (s : State) (v : Ev) : (s.setEv v).edl = s.edl := rfl
@[simp] theorem State.setEv_trl (s : State) (v : Ev) : (s.setEv v).trl = s.trl := rfl
@[simp] theorem State.setEv_pair (s : State) (v : Ev) : (s.setEv v).pair = s.pair := rfl
@[simp] theorem State.setEv_scn (s : State) (v : Ev) : (s.setEv v).scn = s.scn := rfl
@[simp] theorem State.setEv_ptr (s : State) (v : Ev) : (s.setEv v).ptr = s.ptr := rfl
@[simp] theorem State.setEv_mgt (s : State) (v : Ev) : (s.setEv v).mgt = s.mgt := rfl
@[simp] theorem State.setEv_dst (s : State) (v : Ev) : (s.setEv v).dst = s.dst := rfl
@[simp] theorem State.setEv_ans (s : State) (v : Ev) : (s.setEv v).ans = s.ans := rfl
@[simp] theorem State.setEv_out (s : State) (v : Ev) : (s.setEv v).out = s.out := rfl
@[simp] theorem State.setEv_free (s : State) (v : Ev) : (s.setEv v).free = s.free := rfl
@[simp] theorem State.setEv_pending (s : State) (v : Ev) : (s.setEv v).pending = s.pending := rfl
@[simp] theorem State.setHp_regs (s : State) (v : HostPort) : (s.setHp v).regs = s.regs := rfl
@[simp] theorem State.setHp_pwr (s : State) (v : HostPort) : (s.setHp v).pwr = s.pwr := rfl
@[simp] theorem State.setHp_dev (s : State) (v : HostPort) : (s.setHp v).dev = s.dev := rfl
@[simp] theorem State.setHp_mld (s : State) (v : HostPort) : (s.setHp v).mld = s.mld := rfl
@[simp] theorem State.setHp_dkl (s : State) (v : HostPort) : (s.setHp v).dkl = s.dkl := rfl
@[simp] theorem State.setHp_ev (s : State) (v : HostPort) : (s.setHp v).ev = s.ev := rfl
@[simp] theorem State.setHp_hp (s : State) (v : HostPort) : (s.setHp v).hp = v := rfl
@[simp] theorem State.setHp_inp (s : State) (v : HostPort) : (s.setHp v).inp = s.inp := rfl
@[simp] theorem State.setHp_tb (s : State) (v : HostPort) : (s.setHp v).tb = s.tb := rfl
@[simp] theorem State.setHp_srch (s : State) (v : HostPort) : (s.setHp v).srch = s.srch := rfl
@[simp] theorem State.setHp_upd (s : State) (v : HostPort) : (s.setHp v).upd = s.upd := rfl
@[simp] theorem State.setHp_fwd (s : State) (v : HostPort) : (s.setHp v).fwd = s.fwd := rfl
@[simp] theorem State.setHp_eth (s : State) (v : HostPort) : (s.setHp v).eth = s.eth := rfl
@[simp] theorem State.setHp_strm (s : State) (v : HostPort) : (s.setHp v).strm = s.strm := rfl
@[simp] theorem State.setHp_aud (s : State) (v : HostPort) : (s.setHp v).aud = s.aud := rfl
@[simp] theorem State.setHp_mix (s : State) (v : HostPort) : (s.setHp v).mix = s.mix := rfl
@[simp] theorem State.setHp_strp (s : State) (v : HostPort) : (s.setHp v).strp = s.strp := rfl
@[simp] theorem State.setHp_dste (s : State) (v : HostPort) : (s.setHp v).dste = s.dste := rfl
@[simp] theorem State.setHp_seq (s : State) (v : HostPort) : (s.setHp v).seq = s.seq := rfl
@[simp] theorem State.setHp_edl (s : State) (v : HostPort) : (s.setHp v).edl = s.edl := rfl
@[simp] theorem State.setHp_trl (s : State) (v : HostPort) : (s.setHp v).trl = s.trl := rfl
@[simp] theorem State.setHp_pair (s : State) (v : HostPort) : (s.setHp v).pair = s.pair := rfl
@[simp] theorem State.setHp_scn (s : State) (v : HostPort) : (s.setHp v).scn = s.scn := rfl
@[simp] theorem State.setHp_ptr (s : State) (v : HostPort) : (s.setHp v).ptr = s.ptr := rfl
@[simp] theorem State.setHp_mgt (s : State) (v : HostPort) : (s.setHp v).mgt = s.mgt := rfl
@[simp] theorem State.setHp_dst (s : State) (v : HostPort) : (s.setHp v).dst = s.dst := rfl
@[simp] theorem State.setHp_ans (s : State) (v : HostPort) : (s.setHp v).ans = s.ans := rfl
@[simp] theorem State.setHp_out (s : State) (v : HostPort) : (s.setHp v).out = s.out := rfl
@[simp] theorem State.setHp_free (s : State) (v : HostPort) : (s.setHp v).free = s.free := rfl
@[simp] theorem State.setHp_pending (s : State) (v : HostPort) : (s.setHp v).pending = s.pending := rfl
@[simp] theorem State.setInp_regs (s : State) (v : Inp) : (s.setInp v).regs = s.regs := rfl
@[simp] theorem State.setInp_pwr (s : State) (v : Inp) : (s.setInp v).pwr = s.pwr := rfl
@[simp] theorem State.setInp_dev (s : State) (v : Inp) : (s.setInp v).dev = s.dev := rfl
@[simp] theorem State.setInp_mld (s : State) (v : Inp) : (s.setInp v).mld = s.mld := rfl
@[simp] theorem State.setInp_dkl (s : State) (v : Inp) : (s.setInp v).dkl = s.dkl := rfl
@[simp] theorem State.setInp_ev (s : State) (v : Inp) : (s.setInp v).ev = s.ev := rfl
@[simp] theorem State.setInp_hp (s : State) (v : Inp) : (s.setInp v).hp = s.hp := rfl
@[simp] theorem State.setInp_inp (s : State) (v : Inp) : (s.setInp v).inp = v := rfl
@[simp] theorem State.setInp_tb (s : State) (v : Inp) : (s.setInp v).tb = s.tb := rfl
@[simp] theorem State.setInp_srch (s : State) (v : Inp) : (s.setInp v).srch = s.srch := rfl
@[simp] theorem State.setInp_upd (s : State) (v : Inp) : (s.setInp v).upd = s.upd := rfl
@[simp] theorem State.setInp_fwd (s : State) (v : Inp) : (s.setInp v).fwd = s.fwd := rfl
@[simp] theorem State.setInp_eth (s : State) (v : Inp) : (s.setInp v).eth = s.eth := rfl
@[simp] theorem State.setInp_strm (s : State) (v : Inp) : (s.setInp v).strm = s.strm := rfl
@[simp] theorem State.setInp_aud (s : State) (v : Inp) : (s.setInp v).aud = s.aud := rfl
@[simp] theorem State.setInp_mix (s : State) (v : Inp) : (s.setInp v).mix = s.mix := rfl
@[simp] theorem State.setInp_strp (s : State) (v : Inp) : (s.setInp v).strp = s.strp := rfl
@[simp] theorem State.setInp_dste (s : State) (v : Inp) : (s.setInp v).dste = s.dste := rfl
@[simp] theorem State.setInp_seq (s : State) (v : Inp) : (s.setInp v).seq = s.seq := rfl
@[simp] theorem State.setInp_edl (s : State) (v : Inp) : (s.setInp v).edl = s.edl := rfl
@[simp] theorem State.setInp_trl (s : State) (v : Inp) : (s.setInp v).trl = s.trl := rfl
@[simp] theorem State.setInp_pair (s : State) (v : Inp) : (s.setInp v).pair = s.pair := rfl
@[simp] theorem State.setInp_scn (s : State) (v : Inp) : (s.setInp v).scn = s.scn := rfl
@[simp] theorem State.setInp_ptr (s : State) (v : Inp) : (s.setInp v).ptr = s.ptr := rfl
@[simp] theorem State.setInp_mgt (s : State) (v : Inp) : (s.setInp v).mgt = s.mgt := rfl
@[simp] theorem State.setInp_dst (s : State) (v : Inp) : (s.setInp v).dst = s.dst := rfl
@[simp] theorem State.setInp_ans (s : State) (v : Inp) : (s.setInp v).ans = s.ans := rfl
@[simp] theorem State.setInp_out (s : State) (v : Inp) : (s.setInp v).out = s.out := rfl
@[simp] theorem State.setInp_free (s : State) (v : Inp) : (s.setInp v).free = s.free := rfl
@[simp] theorem State.setInp_pending (s : State) (v : Inp) : (s.setInp v).pending = s.pending := rfl
@[simp] theorem State.setTb_regs (s : State) (v : Tb) : (s.setTb v).regs = s.regs := rfl
@[simp] theorem State.setTb_pwr (s : State) (v : Tb) : (s.setTb v).pwr = s.pwr := rfl
@[simp] theorem State.setTb_dev (s : State) (v : Tb) : (s.setTb v).dev = s.dev := rfl
@[simp] theorem State.setTb_mld (s : State) (v : Tb) : (s.setTb v).mld = s.mld := rfl
@[simp] theorem State.setTb_dkl (s : State) (v : Tb) : (s.setTb v).dkl = s.dkl := rfl
@[simp] theorem State.setTb_ev (s : State) (v : Tb) : (s.setTb v).ev = s.ev := rfl
@[simp] theorem State.setTb_hp (s : State) (v : Tb) : (s.setTb v).hp = s.hp := rfl
@[simp] theorem State.setTb_inp (s : State) (v : Tb) : (s.setTb v).inp = s.inp := rfl
@[simp] theorem State.setTb_tb (s : State) (v : Tb) : (s.setTb v).tb = v := rfl
@[simp] theorem State.setTb_srch (s : State) (v : Tb) : (s.setTb v).srch = s.srch := rfl
@[simp] theorem State.setTb_upd (s : State) (v : Tb) : (s.setTb v).upd = s.upd := rfl
@[simp] theorem State.setTb_fwd (s : State) (v : Tb) : (s.setTb v).fwd = s.fwd := rfl
@[simp] theorem State.setTb_eth (s : State) (v : Tb) : (s.setTb v).eth = s.eth := rfl
@[simp] theorem State.setTb_strm (s : State) (v : Tb) : (s.setTb v).strm = s.strm := rfl
@[simp] theorem State.setTb_aud (s : State) (v : Tb) : (s.setTb v).aud = s.aud := rfl
@[simp] theorem State.setTb_mix (s : State) (v : Tb) : (s.setTb v).mix = s.mix := rfl
@[simp] theorem State.setTb_strp (s : State) (v : Tb) : (s.setTb v).strp = s.strp := rfl
@[simp] theorem State.setTb_dste (s : State) (v : Tb) : (s.setTb v).dste = s.dste := rfl
@[simp] theorem State.setTb_seq (s : State) (v : Tb) : (s.setTb v).seq = s.seq := rfl
@[simp] theorem State.setTb_edl (s : State) (v : Tb) : (s.setTb v).edl = s.edl := rfl
@[simp] theorem State.setTb_trl (s : State) (v : Tb) : (s.setTb v).trl = s.trl := rfl
@[simp] theorem State.setTb_pair (s : State) (v : Tb) : (s.setTb v).pair = s.pair := rfl
@[simp] theorem State.setTb_scn (s : State) (v : Tb) : (s.setTb v).scn = s.scn := rfl
@[simp] theorem State.setTb_ptr (s : State) (v : Tb) : (s.setTb v).ptr = s.ptr := rfl
@[simp] theorem State.setTb_mgt (s : State) (v : Tb) : (s.setTb v).mgt = s.mgt := rfl
@[simp] theorem State.setTb_dst (s : State) (v : Tb) : (s.setTb v).dst = s.dst := rfl
@[simp] theorem State.setTb_ans (s : State) (v : Tb) : (s.setTb v).ans = s.ans := rfl
@[simp] theorem State.setTb_out (s : State) (v : Tb) : (s.setTb v).out = s.out := rfl
@[simp] theorem State.setTb_free (s : State) (v : Tb) : (s.setTb v).free = s.free := rfl
@[simp] theorem State.setTb_pending (s : State) (v : Tb) : (s.setTb v).pending = s.pending := rfl
@[simp] theorem State.setSrch_regs (s : State) (v : Srch) : (s.setSrch v).regs = s.regs := rfl
@[simp] theorem State.setSrch_pwr (s : State) (v : Srch) : (s.setSrch v).pwr = s.pwr := rfl
@[simp] theorem State.setSrch_dev (s : State) (v : Srch) : (s.setSrch v).dev = s.dev := rfl
@[simp] theorem State.setSrch_mld (s : State) (v : Srch) : (s.setSrch v).mld = s.mld := rfl
@[simp] theorem State.setSrch_dkl (s : State) (v : Srch) : (s.setSrch v).dkl = s.dkl := rfl
@[simp] theorem State.setSrch_ev (s : State) (v : Srch) : (s.setSrch v).ev = s.ev := rfl
@[simp] theorem State.setSrch_hp (s : State) (v : Srch) : (s.setSrch v).hp = s.hp := rfl
@[simp] theorem State.setSrch_inp (s : State) (v : Srch) : (s.setSrch v).inp = s.inp := rfl
@[simp] theorem State.setSrch_tb (s : State) (v : Srch) : (s.setSrch v).tb = s.tb := rfl
@[simp] theorem State.setSrch_srch (s : State) (v : Srch) : (s.setSrch v).srch = v := rfl
@[simp] theorem State.setSrch_upd (s : State) (v : Srch) : (s.setSrch v).upd = s.upd := rfl
@[simp] theorem State.setSrch_fwd (s : State) (v : Srch) : (s.setSrch v).fwd = s.fwd := rfl
@[simp] theorem State.setSrch_eth (s : State) (v : Srch) : (s.setSrch v).eth = s.eth := rfl
@[simp] theorem State.setSrch_strm (s : State) (v : Srch) : (s.setSrch v).strm = s.strm := rfl
@[simp] theorem State.setSrch_aud (s : State) (v : Srch) : (s.setSrch v).aud = s.aud := rfl
@[simp] theorem State.setSrch_mix (s : State) (v : Srch) : (s.setSrch v).mix = s.mix := rfl
@[simp] theorem State.setSrch_strp (s : State) (v : Srch) : (s.setSrch v).strp = s.strp := rfl
@[simp] theorem State.setSrch_dste (s : State) (v : Srch) : (s.setSrch v).dste = s.dste := rfl
@[simp] theorem State.setSrch_seq (s : State) (v : Srch) : (s.setSrch v).seq = s.seq := rfl
@[simp] theorem State.setSrch_edl (s : State) (v : Srch) : (s.setSrch v).edl = s.edl := rfl
@[simp] theorem State.setSrch_trl (s : State) (v : Srch) : (s.setSrch v).trl = s.trl := rfl
@[simp] theorem State.setSrch_pair (s : State) (v : Srch) : (s.setSrch v).pair = s.pair := rfl
@[simp] theorem State.setSrch_scn (s : State) (v : Srch) : (s.setSrch v).scn = s.scn := rfl
@[simp] theorem State.setSrch_ptr (s : State) (v : Srch) : (s.setSrch v).ptr = s.ptr := rfl
@[simp] theorem State.setSrch_mgt (s : State) (v : Srch) : (s.setSrch v).mgt = s.mgt := rfl
@[simp] theorem State.setSrch_dst (s : State) (v : Srch) : (s.setSrch v).dst = s.dst := rfl
@[simp] theorem State.setSrch_ans (s : State) (v : Srch) : (s.setSrch v).ans = s.ans := rfl
@[simp] theorem State.setSrch_out (s : State) (v : Srch) : (s.setSrch v).out = s.out := rfl
@[simp] theorem State.setSrch_free (s : State) (v : Srch) : (s.setSrch v).free = s.free := rfl
@[simp] theorem State.setSrch_pending (s : State) (v : Srch) : (s.setSrch v).pending = s.pending := rfl
@[simp] theorem State.setUpd_regs (s : State) (v : Upd) : (s.setUpd v).regs = s.regs := rfl
@[simp] theorem State.setUpd_pwr (s : State) (v : Upd) : (s.setUpd v).pwr = s.pwr := rfl
@[simp] theorem State.setUpd_dev (s : State) (v : Upd) : (s.setUpd v).dev = s.dev := rfl
@[simp] theorem State.setUpd_mld (s : State) (v : Upd) : (s.setUpd v).mld = s.mld := rfl
@[simp] theorem State.setUpd_dkl (s : State) (v : Upd) : (s.setUpd v).dkl = s.dkl := rfl
@[simp] theorem State.setUpd_ev (s : State) (v : Upd) : (s.setUpd v).ev = s.ev := rfl
@[simp] theorem State.setUpd_hp (s : State) (v : Upd) : (s.setUpd v).hp = s.hp := rfl
@[simp] theorem State.setUpd_inp (s : State) (v : Upd) : (s.setUpd v).inp = s.inp := rfl
@[simp] theorem State.setUpd_tb (s : State) (v : Upd) : (s.setUpd v).tb = s.tb := rfl
@[simp] theorem State.setUpd_srch (s : State) (v : Upd) : (s.setUpd v).srch = s.srch := rfl
@[simp] theorem State.setUpd_upd (s : State) (v : Upd) : (s.setUpd v).upd = v := rfl
@[simp] theorem State.setUpd_fwd (s : State) (v : Upd) : (s.setUpd v).fwd = s.fwd := rfl
@[simp] theorem State.setUpd_eth (s : State) (v : Upd) : (s.setUpd v).eth = s.eth := rfl
@[simp] theorem State.setUpd_strm (s : State) (v : Upd) : (s.setUpd v).strm = s.strm := rfl
@[simp] theorem State.setUpd_aud (s : State) (v : Upd) : (s.setUpd v).aud = s.aud := rfl
@[simp] theorem State.setUpd_mix (s : State) (v : Upd) : (s.setUpd v).mix = s.mix := rfl
@[simp] theorem State.setUpd_strp (s : State) (v : Upd) : (s.setUpd v).strp = s.strp := rfl
@[simp] theorem State.setUpd_dste (s : State) (v : Upd) : (s.setUpd v).dste = s.dste := rfl
@[simp] theorem State.setUpd_seq (s : State) (v : Upd) : (s.setUpd v).seq = s.seq := rfl
@[simp] theorem State.setUpd_edl (s : State) (v : Upd) : (s.setUpd v).edl = s.edl := rfl
@[simp] theorem State.setUpd_trl (s : State) (v : Upd) : (s.setUpd v).trl = s.trl := rfl
@[simp] theorem State.setUpd_pair (s : State) (v : Upd) : (s.setUpd v).pair = s.pair := rfl
@[simp] theorem State.setUpd_scn (s : State) (v : Upd) : (s.setUpd v).scn = s.scn := rfl
@[simp] theorem State.setUpd_ptr (s : State) (v : Upd) : (s.setUpd v).ptr = s.ptr := rfl
@[simp] theorem State.setUpd_mgt (s : State) (v : Upd) : (s.setUpd v).mgt = s.mgt := rfl
@[simp] theorem State.setUpd_dst (s : State) (v : Upd) : (s.setUpd v).dst = s.dst := rfl
@[simp] theorem State.setUpd_ans (s : State) (v : Upd) : (s.setUpd v).ans = s.ans := rfl
@[simp] theorem State.setUpd_out (s : State) (v : Upd) : (s.setUpd v).out = s.out := rfl
@[simp] theorem State.setUpd_free (s : State) (v : Upd) : (s.setUpd v).free = s.free := rfl
@[simp] theorem State.setUpd_pending (s : State) (v : Upd) : (s.setUpd v).pending = s.pending := rfl
@[simp] theorem State.setFwd_regs (s : State) (v : Fwd) : (s.setFwd v).regs = s.regs := rfl
@[simp] theorem State.setFwd_pwr (s : State) (v : Fwd) : (s.setFwd v).pwr = s.pwr := rfl
@[simp] theorem State.setFwd_dev (s : State) (v : Fwd) : (s.setFwd v).dev = s.dev := rfl
@[simp] theorem State.setFwd_mld (s : State) (v : Fwd) : (s.setFwd v).mld = s.mld := rfl
@[simp] theorem State.setFwd_dkl (s : State) (v : Fwd) : (s.setFwd v).dkl = s.dkl := rfl
@[simp] theorem State.setFwd_ev (s : State) (v : Fwd) : (s.setFwd v).ev = s.ev := rfl
@[simp] theorem State.setFwd_hp (s : State) (v : Fwd) : (s.setFwd v).hp = s.hp := rfl
@[simp] theorem State.setFwd_inp (s : State) (v : Fwd) : (s.setFwd v).inp = s.inp := rfl
@[simp] theorem State.setFwd_tb (s : State) (v : Fwd) : (s.setFwd v).tb = s.tb := rfl
@[simp] theorem State.setFwd_srch (s : State) (v : Fwd) : (s.setFwd v).srch = s.srch := rfl
@[simp] theorem State.setFwd_upd (s : State) (v : Fwd) : (s.setFwd v).upd = s.upd := rfl
@[simp] theorem State.setFwd_fwd (s : State) (v : Fwd) : (s.setFwd v).fwd = v := rfl
@[simp] theorem State.setFwd_eth (s : State) (v : Fwd) : (s.setFwd v).eth = s.eth := rfl
@[simp] theorem State.setFwd_strm (s : State) (v : Fwd) : (s.setFwd v).strm = s.strm := rfl
@[simp] theorem State.setFwd_aud (s : State) (v : Fwd) : (s.setFwd v).aud = s.aud := rfl
@[simp] theorem State.setFwd_mix (s : State) (v : Fwd) : (s.setFwd v).mix = s.mix := rfl
@[simp] theorem State.setFwd_strp (s : State) (v : Fwd) : (s.setFwd v).strp = s.strp := rfl
@[simp] theorem State.setFwd_dste (s : State) (v : Fwd) : (s.setFwd v).dste = s.dste := rfl
@[simp] theorem State.setFwd_seq (s : State) (v : Fwd) : (s.setFwd v).seq = s.seq := rfl
@[simp] theorem State.setFwd_edl (s : State) (v : Fwd) : (s.setFwd v).edl = s.edl := rfl
@[simp] theorem State.setFwd_trl (s : State) (v : Fwd) : (s.setFwd v).trl = s.trl := rfl
@[simp] theorem State.setFwd_pair (s : State) (v : Fwd) : (s.setFwd v).pair = s.pair := rfl
@[simp] theorem State.setFwd_scn (s : State) (v : Fwd) : (s.setFwd v).scn = s.scn := rfl
@[simp] theorem State.setFwd_ptr (s : State) (v : Fwd) : (s.setFwd v).ptr = s.ptr := rfl
@[simp] theorem State.setFwd_mgt (s : State) (v : Fwd) : (s.setFwd v).mgt = s.mgt := rfl
@[simp] theorem State.setFwd_dst (s : State) (v : Fwd) : (s.setFwd v).dst = s.dst := rfl
@[simp] theorem State.setFwd_ans (s : State) (v : Fwd) : (s.setFwd v).ans = s.ans := rfl
@[simp] theorem State.setFwd_out (s : State) (v : Fwd) : (s.setFwd v).out = s.out := rfl
@[simp] theorem State.setFwd_free (s : State) (v : Fwd) : (s.setFwd v).free = s.free := rfl
@[simp] theorem State.setFwd_pending (s : State) (v : Fwd) : (s.setFwd v).pending = s.pending := rfl
@[simp] theorem State.setEth_regs (s : State) (v : Eth) : (s.setEth v).regs = s.regs := rfl
@[simp] theorem State.setEth_pwr (s : State) (v : Eth) : (s.setEth v).pwr = s.pwr := rfl
@[simp] theorem State.setEth_dev (s : State) (v : Eth) : (s.setEth v).dev = s.dev := rfl
@[simp] theorem State.setEth_mld (s : State) (v : Eth) : (s.setEth v).mld = s.mld := rfl
@[simp] theorem State.setEth_dkl (s : State) (v : Eth) : (s.setEth v).dkl = s.dkl := rfl
@[simp] theorem State.setEth_ev (s : State) (v : Eth) : (s.setEth v).ev = s.ev := rfl
@[simp] theorem State.setEth_hp (s : State) (v : Eth) : (s.setEth v).hp = s.hp := rfl
@[simp] theorem State.setEth_inp (s : State) (v : Eth) : (s.setEth v).inp = s.inp := rfl
@[simp] theorem State.setEth_tb (s : State) (v : Eth) : (s.setEth v).tb = s.tb := rfl
@[simp] theorem State.setEth_srch (s : State) (v : Eth) : (s.setEth v).srch = s.srch := rfl
@[simp] theorem State.setEth_upd (s : State) (v : Eth) : (s.setEth v).upd = s.upd := rfl
@[simp] theorem State.setEth_fwd (s : State) (v : Eth) : (s.setEth v).fwd = s.fwd := rfl
@[simp] theorem State.setEth_eth (s : State) (v : Eth) : (s.setEth v).eth = v := rfl
@[simp] theorem State.setEth_strm (s : State) (v : Eth) : (s.setEth v).strm = s.strm := rfl
@[simp] theorem State.setEth_aud (s : State) (v : Eth) : (s.setEth v).aud = s.aud := rfl
@[simp] theorem State.setEth_mix (s : State) (v : Eth) : (s.setEth v).mix = s.mix := rfl
@[simp] theorem State.setEth_strp (s : State) (v : Eth) : (s.setEth v).strp = s.strp := rfl
@[simp] theorem State.setEth_dste (s : State) (v : Eth) : (s.setEth v).dste = s.dste := rfl
@[simp] theorem State.setEth_seq (s : State) (v : Eth) : (s.setEth v).seq = s.seq := rfl
@[simp] theorem State.setEth_edl (s : State) (v : Eth) : (s.setEth v).edl = s.edl := rfl
@[simp] theorem State.setEth_trl (s : State) (v : Eth) : (s.setEth v).trl = s.trl := rfl
@[simp] theorem State.setEth_pair (s : State) (v : Eth) : (s.setEth v).pair = s.pair := rfl
@[simp] theorem State.setEth_scn (s : State) (v : Eth) : (s.setEth v).scn = s.scn := rfl
@[simp] theorem State.setEth_ptr (s : State) (v : Eth) : (s.setEth v).ptr = s.ptr := rfl
@[simp] theorem State.setEth_mgt (s : State) (v : Eth) : (s.setEth v).mgt = s.mgt := rfl
@[simp] theorem State.setEth_dst (s : State) (v : Eth) : (s.setEth v).dst = s.dst := rfl
@[simp] theorem State.setEth_ans (s : State) (v : Eth) : (s.setEth v).ans = s.ans := rfl
@[simp] theorem State.setEth_out (s : State) (v : Eth) : (s.setEth v).out = s.out := rfl
@[simp] theorem State.setEth_free (s : State) (v : Eth) : (s.setEth v).free = s.free := rfl
@[simp] theorem State.setEth_pending (s : State) (v : Eth) : (s.setEth v).pending = s.pending := rfl
@[simp] theorem State.setStrm_regs (s : State) (v : Strm) : (s.setStrm v).regs = s.regs := rfl
@[simp] theorem State.setStrm_pwr (s : State) (v : Strm) : (s.setStrm v).pwr = s.pwr := rfl
@[simp] theorem State.setStrm_dev (s : State) (v : Strm) : (s.setStrm v).dev = s.dev := rfl
@[simp] theorem State.setStrm_mld (s : State) (v : Strm) : (s.setStrm v).mld = s.mld := rfl
@[simp] theorem State.setStrm_dkl (s : State) (v : Strm) : (s.setStrm v).dkl = s.dkl := rfl
@[simp] theorem State.setStrm_ev (s : State) (v : Strm) : (s.setStrm v).ev = s.ev := rfl
@[simp] theorem State.setStrm_hp (s : State) (v : Strm) : (s.setStrm v).hp = s.hp := rfl
@[simp] theorem State.setStrm_inp (s : State) (v : Strm) : (s.setStrm v).inp = s.inp := rfl
@[simp] theorem State.setStrm_tb (s : State) (v : Strm) : (s.setStrm v).tb = s.tb := rfl
@[simp] theorem State.setStrm_srch (s : State) (v : Strm) : (s.setStrm v).srch = s.srch := rfl
@[simp] theorem State.setStrm_upd (s : State) (v : Strm) : (s.setStrm v).upd = s.upd := rfl
@[simp] theorem State.setStrm_fwd (s : State) (v : Strm) : (s.setStrm v).fwd = s.fwd := rfl
@[simp] theorem State.setStrm_eth (s : State) (v : Strm) : (s.setStrm v).eth = s.eth := rfl
@[simp] theorem State.setStrm_strm (s : State) (v : Strm) : (s.setStrm v).strm = v := rfl
@[simp] theorem State.setStrm_aud (s : State) (v : Strm) : (s.setStrm v).aud = s.aud := rfl
@[simp] theorem State.setStrm_mix (s : State) (v : Strm) : (s.setStrm v).mix = s.mix := rfl
@[simp] theorem State.setStrm_strp (s : State) (v : Strm) : (s.setStrm v).strp = s.strp := rfl
@[simp] theorem State.setStrm_dste (s : State) (v : Strm) : (s.setStrm v).dste = s.dste := rfl
@[simp] theorem State.setStrm_seq (s : State) (v : Strm) : (s.setStrm v).seq = s.seq := rfl
@[simp] theorem State.setStrm_edl (s : State) (v : Strm) : (s.setStrm v).edl = s.edl := rfl
@[simp] theorem State.setStrm_trl (s : State) (v : Strm) : (s.setStrm v).trl = s.trl := rfl
@[simp] theorem State.setStrm_pair (s : State) (v : Strm) : (s.setStrm v).pair = s.pair := rfl
@[simp] theorem State.setStrm_scn (s : State) (v : Strm) : (s.setStrm v).scn = s.scn := rfl
@[simp] theorem State.setStrm_ptr (s : State) (v : Strm) : (s.setStrm v).ptr = s.ptr := rfl
@[simp] theorem State.setStrm_mgt (s : State) (v : Strm) : (s.setStrm v).mgt = s.mgt := rfl
@[simp] theorem State.setStrm_dst (s : State) (v : Strm) : (s.setStrm v).dst = s.dst := rfl
@[simp] theorem State.setStrm_ans (s : State) (v : Strm) : (s.setStrm v).ans = s.ans := rfl
@[simp] theorem State.setStrm_out (s : State) (v : Strm) : (s.setStrm v).out = s.out := rfl
@[simp] theorem State.setStrm_free (s : State) (v : Strm) : (s.setStrm v).free = s.free := rfl
@[simp] theorem State.setStrm_pending (s : State) (v : Strm) : (s.setStrm v).pending = s.pending := rfl
@[simp] theorem State.setAud_regs (s : State) (v : Aud) : (s.setAud v).regs = s.regs := rfl
@[simp] theorem State.setAud_pwr (s : State) (v : Aud) : (s.setAud v).pwr = s.pwr := rfl
@[simp] theorem State.setAud_dev (s : State) (v : Aud) : (s.setAud v).dev = s.dev := rfl
@[simp] theorem State.setAud_mld (s : State) (v : Aud) : (s.setAud v).mld = s.mld := rfl
@[simp] theorem State.setAud_dkl (s : State) (v : Aud) : (s.setAud v).dkl = s.dkl := rfl
@[simp] theorem State.setAud_ev (s : State) (v : Aud) : (s.setAud v).ev = s.ev := rfl
@[simp] theorem State.setAud_hp (s : State) (v : Aud) : (s.setAud v).hp = s.hp := rfl
@[simp] theorem State.setAud_inp (s : State) (v : Aud) : (s.setAud v).inp = s.inp := rfl
@[simp] theorem State.setAud_tb (s : State) (v : Aud) : (s.setAud v).tb = s.tb := rfl
@[simp] theorem State.setAud_srch (s : State) (v : Aud) : (s.setAud v).srch = s.srch := rfl
@[simp] theorem State.setAud_upd (s : State) (v : Aud) : (s.setAud v).upd = s.upd := rfl
@[simp] theorem State.setAud_fwd (s : State) (v : Aud) : (s.setAud v).fwd = s.fwd := rfl
@[simp] theorem State.setAud_eth (s : State) (v : Aud) : (s.setAud v).eth = s.eth := rfl
@[simp] theorem State.setAud_strm (s : State) (v : Aud) : (s.setAud v).strm = s.strm := rfl
@[simp] theorem State.setAud_aud (s : State) (v : Aud) : (s.setAud v).aud = v := rfl
@[simp] theorem State.setAud_mix (s : State) (v : Aud) : (s.setAud v).mix = s.mix := rfl
@[simp] theorem State.setAud_strp (s : State) (v : Aud) : (s.setAud v).strp = s.strp := rfl
@[simp] theorem State.setAud_dste (s : State) (v : Aud) : (s.setAud v).dste = s.dste := rfl
@[simp] theorem State.setAud_seq (s : State) (v : Aud) : (s.setAud v).seq = s.seq := rfl
@[simp] theorem State.setAud_edl (s : State) (v : Aud) : (s.setAud v).edl = s.edl := rfl
@[simp] theorem State.setAud_trl (s : State) (v : Aud) : (s.setAud v).trl = s.trl := rfl
@[simp] theorem State.setAud_pair (s : State) (v : Aud) : (s.setAud v).pair = s.pair := rfl
@[simp] theorem State.setAud_scn (s : State) (v : Aud) : (s.setAud v).scn = s.scn := rfl
@[simp] theorem State.setAud_ptr (s : State) (v : Aud) : (s.setAud v).ptr = s.ptr := rfl
@[simp] theorem State.setAud_mgt (s : State) (v : Aud) : (s.setAud v).mgt = s.mgt := rfl
@[simp] theorem State.setAud_dst (s : State) (v : Aud) : (s.setAud v).dst = s.dst := rfl
@[simp] theorem State.setAud_ans (s : State) (v : Aud) : (s.setAud v).ans = s.ans := rfl
@[simp] theorem State.setAud_out (s : State) (v : Aud) : (s.setAud v).out = s.out := rfl
@[simp] theorem State.setAud_free (s : State) (v : Aud) : (s.setAud v).free = s.free := rfl
@[simp] theorem State.setAud_pending (s : State) (v : Aud) : (s.setAud v).pending = s.pending := rfl
@[simp] theorem State.setMix_regs (s : State) (v : Mix) : (s.setMix v).regs = s.regs := rfl
@[simp] theorem State.setMix_pwr (s : State) (v : Mix) : (s.setMix v).pwr = s.pwr := rfl
@[simp] theorem State.setMix_dev (s : State) (v : Mix) : (s.setMix v).dev = s.dev := rfl
@[simp] theorem State.setMix_mld (s : State) (v : Mix) : (s.setMix v).mld = s.mld := rfl
@[simp] theorem State.setMix_dkl (s : State) (v : Mix) : (s.setMix v).dkl = s.dkl := rfl
@[simp] theorem State.setMix_ev (s : State) (v : Mix) : (s.setMix v).ev = s.ev := rfl
@[simp] theorem State.setMix_hp (s : State) (v : Mix) : (s.setMix v).hp = s.hp := rfl
@[simp] theorem State.setMix_inp (s : State) (v : Mix) : (s.setMix v).inp = s.inp := rfl
@[simp] theorem State.setMix_tb (s : State) (v : Mix) : (s.setMix v).tb = s.tb := rfl
@[simp] theorem State.setMix_srch (s : State) (v : Mix) : (s.setMix v).srch = s.srch := rfl
@[simp] theorem State.setMix_upd (s : State) (v : Mix) : (s.setMix v).upd = s.upd := rfl
@[simp] theorem State.setMix_fwd (s : State) (v : Mix) : (s.setMix v).fwd = s.fwd := rfl
@[simp] theorem State.setMix_eth (s : State) (v : Mix) : (s.setMix v).eth = s.eth := rfl
@[simp] theorem State.setMix_strm (s : State) (v : Mix) : (s.setMix v).strm = s.strm := rfl
@[simp] theorem State.setMix_aud (s : State) (v : Mix) : (s.setMix v).aud = s.aud := rfl
@[simp] theorem State.setMix_mix (s : State) (v : Mix) : (s.setMix v).mix = v := rfl
@[simp] theorem State.setMix_strp (s : State) (v : Mix) : (s.setMix v).strp = s.strp := rfl
@[simp] theorem State.setMix_dste (s : State) (v : Mix) : (s.setMix v).dste = s.dste := rfl
@[simp] theorem State.setMix_seq (s : State) (v : Mix) : (s.setMix v).seq = s.seq := rfl
@[simp] theorem State.setMix_edl (s : State) (v : Mix) : (s.setMix v).edl = s.edl := rfl
@[simp] theorem State.setMix_trl (s : State) (v : Mix) : (s.setMix v).trl = s.trl := rfl
@[simp] theorem State.setMix_pair (s : State) (v : Mix) : (s.setMix v).pair = s.pair := rfl
@[simp] theorem State.setMix_scn (s : State) (v : Mix) : (s.setMix v).scn = s.scn := rfl
@[simp] theorem State.setMix_ptr (s : State) (v : Mix) : (s.setMix v).ptr = s.ptr := rfl
@[simp] theorem State.setMix_mgt (s : State) (v : Mix) : (s.setMix v).mgt = s.mgt := rfl
@[simp] theorem State.setMix_dst (s : State) (v : Mix) : (s.setMix v).dst = s.dst := rfl
@[simp] theorem State.setMix_ans (s : State) (v : Mix) : (s.setMix v).ans = s.ans := rfl
@[simp] theorem State.setMix_out (s : State) (v : Mix) : (s.setMix v).out = s.out := rfl
@[simp] theorem State.setMix_free (s : State) (v : Mix) : (s.setMix v).free = s.free := rfl
@[simp] theorem State.setMix_pending (s : State) (v : Mix) : (s.setMix v).pending = s.pending := rfl
@[simp] theorem State.setStrp_regs (s : State) (v : Strp) : (s.setStrp v).regs = s.regs := rfl
@[simp] theorem State.setStrp_pwr (s : State) (v : Strp) : (s.setStrp v).pwr = s.pwr := rfl
@[simp] theorem State.setStrp_dev (s : State) (v : Strp) : (s.setStrp v).dev = s.dev := rfl
@[simp] theorem State.setStrp_mld (s : State) (v : Strp) : (s.setStrp v).mld = s.mld := rfl
@[simp] theorem State.setStrp_dkl (s : State) (v : Strp) : (s.setStrp v).dkl = s.dkl := rfl
@[simp] theorem State.setStrp_ev (s : State) (v : Strp) : (s.setStrp v).ev = s.ev := rfl
@[simp] theorem State.setStrp_hp (s : State) (v : Strp) : (s.setStrp v).hp = s.hp := rfl
@[simp] theorem State.setStrp_inp (s : State) (v : Strp) : (s.setStrp v).inp = s.inp := rfl
@[simp] theorem State.setStrp_tb (s : State) (v : Strp) : (s.setStrp v).tb = s.tb := rfl
@[simp] theorem State.setStrp_srch (s : State) (v : Strp) : (s.setStrp v).srch = s.srch := rfl
@[simp] theorem State.setStrp_upd (s : State) (v : Strp) : (s.setStrp v).upd = s.upd := rfl
@[simp] theorem State.setStrp_fwd (s : State) (v : Strp) : (s.setStrp v).fwd = s.fwd := rfl
@[simp] theorem State.setStrp_eth (s : State) (v : Strp) : (s.setStrp v).eth = s.eth := rfl
@[simp] theorem State.setStrp_strm (s : State) (v : Strp) : (s.setStrp v).strm = s.strm := rfl
@[simp] theorem State.setStrp_aud (s : State) (v : Strp) : (s.setStrp v).aud = s.aud := rfl
@[simp] theorem State.setStrp_mix (s : State) (v : Strp) : (s.setStrp v).mix = s.mix := rfl
@[simp] theorem State.setStrp_strp (s : State) (v : Strp) : (s.setStrp v).strp = v := rfl
@[simp] theorem State.setStrp_dste (s : State) (v : Strp) : (s.setStrp v).dste = s.dste := rfl
@[simp] theorem State.setStrp_seq (s : State) (v : Strp) : (s.setStrp v).seq = s.seq := rfl
@[simp] theorem State.setStrp_edl (s : State) (v : Strp) : (s.setStrp v).edl = s.edl := rfl
@[simp] theorem State.setStrp_trl (s : State) (v : Strp) : (s.setStrp v).trl = s.trl := rfl
@[simp] theorem State.setStrp_pair (s : State) (v : Strp) : (s.setStrp v).pair = s.pair := rfl
@[simp] theorem State.setStrp_scn (s : State) (v : Strp) : (s.setStrp v).scn = s.scn := rfl
@[simp] theorem State.setStrp_ptr (s : State) (v : Strp) : (s.setStrp v).ptr = s.ptr := rfl
@[simp] theorem State.setStrp_mgt (s : State) (v : Strp) : (s.setStrp v).mgt = s.mgt := rfl
@[simp] theorem State.setStrp_dst (s : State) (v : Strp) : (s.setStrp v).dst = s.dst := rfl
@[simp] theorem State.setStrp_ans (s : State) (v : Strp) : (s.setStrp v).ans = s.ans := rfl
@[simp] theorem State.setStrp_out (s : State) (v : Strp) : (s.setStrp v).out = s.out := rfl
@[simp] theorem State.setStrp_free (s : State) (v : Strp) : (s.setStrp v).free = s.free := rfl
@[simp] theorem State.setStrp_pending (s : State) (v : Strp) : (s.setStrp v).pending = s.pending := rfl
@[simp] theorem State.setDste_regs (s : State) (v : DstE) : (s.setDste v).regs = s.regs := rfl
@[simp] theorem State.setDste_pwr (s : State) (v : DstE) : (s.setDste v).pwr = s.pwr := rfl
@[simp] theorem State.setDste_dev (s : State) (v : DstE) : (s.setDste v).dev = s.dev := rfl
@[simp] theorem State.setDste_mld (s : State) (v : DstE) : (s.setDste v).mld = s.mld := rfl
@[simp] theorem State.setDste_dkl (s : State) (v : DstE) : (s.setDste v).dkl = s.dkl := rfl
@[simp] theorem State.setDste_ev (s : State) (v : DstE) : (s.setDste v).ev = s.ev := rfl
@[simp] theorem State.setDste_hp (s : State) (v : DstE) : (s.setDste v).hp = s.hp := rfl
@[simp] theorem State.setDste_inp (s : State) (v : DstE) : (s.setDste v).inp = s.inp := rfl
@[simp] theorem State.setDste_tb (s : State) (v : DstE) : (s.setDste v).tb = s.tb := rfl
@[simp] theorem State.setDste_srch (s : State) (v : DstE) : (s.setDste v).srch = s.srch := rfl
@[simp] theorem State.setDste_upd (s : State) (v : DstE) : (s.setDste v).upd = s.upd := rfl
@[simp] theorem State.setDste_fwd (s : State) (v : DstE) : (s.setDste v).fwd = s.fwd := rfl
@[simp] theorem State.setDste_eth (s : State) (v : DstE) : (s.setDste v).eth = s.eth := rfl
@[simp] theorem State.setDste_strm (s : State) (v : DstE) : (s.setDste v).strm = s.strm := rfl
@[simp] theorem State.setDste_aud (s : State) (v : DstE) : (s.setDste v).aud = s.aud := rfl
@[simp] theorem State.setDste_mix (s : State) (v : DstE) : (s.setDste v).mix = s.mix := rfl
@[simp] theorem State.setDste_strp (s : State) (v : DstE) : (s.setDste v).strp = s.strp := rfl
@[simp] theorem State.setDste_dste (s : State) (v : DstE) : (s.setDste v).dste = v := rfl
@[simp] theorem State.setDste_seq (s : State) (v : DstE) : (s.setDste v).seq = s.seq := rfl
@[simp] theorem State.setDste_edl (s : State) (v : DstE) : (s.setDste v).edl = s.edl := rfl
@[simp] theorem State.setDste_trl (s : State) (v : DstE) : (s.setDste v).trl = s.trl := rfl
@[simp] theorem State.setDste_pair (s : State) (v : DstE) : (s.setDste v).pair = s.pair := rfl
@[simp] theorem State.setDste_scn (s : State) (v : DstE) : (s.setDste v).scn = s.scn := rfl
@[simp] theorem State.setDste_ptr (s : State) (v : DstE) : (s.setDste v).ptr = s.ptr := rfl
@[simp] theorem State.setDste_mgt (s : State) (v : DstE) : (s.setDste v).mgt = s.mgt := rfl
@[simp] theorem State.setDste_dst (s : State) (v : DstE) : (s.setDste v).dst = s.dst := rfl
@[simp] theorem State.setDste_ans (s : State) (v : DstE) : (s.setDste v).ans = s.ans := rfl
@[simp] theorem State.setDste_out (s : State) (v : DstE) : (s.setDste v).out = s.out := rfl
@[simp] theorem State.setDste_free (s : State) (v : DstE) : (s.setDste v).free = s.free := rfl
@[simp] theorem State.setDste_pending (s : State) (v : DstE) : (s.setDste v).pending = s.pending := rfl
@[simp] theorem State.setSeq_regs (s : State) (v : Seq) : (s.setSeq v).regs = s.regs := rfl
@[simp] theorem State.setSeq_pwr (s : State) (v : Seq) : (s.setSeq v).pwr = s.pwr := rfl
@[simp] theorem State.setSeq_dev (s : State) (v : Seq) : (s.setSeq v).dev = s.dev := rfl
@[simp] theorem State.setSeq_mld (s : State) (v : Seq) : (s.setSeq v).mld = s.mld := rfl
@[simp] theorem State.setSeq_dkl (s : State) (v : Seq) : (s.setSeq v).dkl = s.dkl := rfl
@[simp] theorem State.setSeq_ev (s : State) (v : Seq) : (s.setSeq v).ev = s.ev := rfl
@[simp] theorem State.setSeq_hp (s : State) (v : Seq) : (s.setSeq v).hp = s.hp := rfl
@[simp] theorem State.setSeq_inp (s : State) (v : Seq) : (s.setSeq v).inp = s.inp := rfl
@[simp] theorem State.setSeq_tb (s : State) (v : Seq) : (s.setSeq v).tb = s.tb := rfl
@[simp] theorem State.setSeq_srch (s : State) (v : Seq) : (s.setSeq v).srch = s.srch := rfl
@[simp] theorem State.setSeq_upd (s : State) (v : Seq) : (s.setSeq v).upd = s.upd := rfl
@[simp] theorem State.setSeq_fwd (s : State) (v : Seq) : (s.setSeq v).fwd = s.fwd := rfl
@[simp] theorem State.setSeq_eth (s : State) (v : Seq) : (s.setSeq v).eth = s.eth := rfl
@[simp] theorem State.setSeq_strm (s : State) (v : Seq) : (s.setSeq v).strm = s.strm := rfl
@[simp] theorem State.setSeq_aud (s : State) (v : Seq) : (s.setSeq v).aud = s.aud := rfl
@[simp] theorem State.setSeq_mix (s : State) (v : Seq) : (s.setSeq v).mix = s.mix := rfl
@[simp] theorem State.setSeq_strp (s : State) (v : Seq) : (s.setSeq v).strp = s.strp := rfl
@[simp] theorem State.setSeq_dste (s : State) (v : Seq) : (s.setSeq v).dste = s.dste := rfl
@[simp] theorem State.setSeq_seq (s : State) (v : Seq) : (s.setSeq v).seq = v := rfl
@[simp] theorem State.setSeq_edl (s : State) (v : Seq) : (s.setSeq v).edl = s.edl := rfl
@[simp] theorem State.setSeq_trl (s : State) (v : Seq) : (s.setSeq v).trl = s.trl := rfl
@[simp] theorem State.setSeq_pair (s : State) (v : Seq) : (s.setSeq v).pair = s.pair := rfl
@[simp] theorem State.setSeq_scn (s : State) (v : Seq) : (s.setSeq v).scn = s.scn := rfl
@[simp] theorem State.setSeq_ptr (s : State) (v : Seq) : (s.setSeq v).ptr = s.ptr := rfl
@[simp] theorem State.setSeq_mgt (s : State) (v : Seq) : (s.setSeq v).mgt = s.mgt := rfl
@[simp] theorem State.setSeq_dst (s : State) (v : Seq) : (s.setSeq v).dst = s.dst := rfl
@[simp] theorem State.setSeq_ans (s : State) (v : Seq) : (s.setSeq v).ans = s.ans := rfl
@[simp] theorem State.setSeq_out (s : State) (v : Seq) : (s.setSeq v).out = s.out := rfl
@[simp] theorem State.setSeq_free (s : State) (v : Seq) : (s.setSeq v).free = s.free := rfl
@[simp] theorem State.setSeq_pending (s : State) (v : Seq) : (s.setSeq v).pending = s.pending := rfl
@[simp] theorem State.setEdl_regs (s : State) (v : Edl) : (s.setEdl v).regs = s.regs := rfl
@[simp] theorem State.setEdl_pwr (s : State) (v : Edl) : (s.setEdl v).pwr = s.pwr := rfl
@[simp] theorem State.setEdl_dev (s : State) (v : Edl) : (s.setEdl v).dev = s.dev := rfl
@[simp] theorem State.setEdl_mld (s : State) (v : Edl) : (s.setEdl v).mld = s.mld := rfl
@[simp] theorem State.setEdl_dkl (s : State) (v : Edl) : (s.setEdl v).dkl = s.dkl := rfl
@[simp] theorem State.setEdl_ev (s : State) (v : Edl) : (s.setEdl v).ev = s.ev := rfl
@[simp] theorem State.setEdl_hp (s : State) (v : Edl) : (s.setEdl v).hp = s.hp := rfl
@[simp] theorem State.setEdl_inp (s : State) (v : Edl) : (s.setEdl v).inp = s.inp := rfl
@[simp] theorem State.setEdl_tb (s : State) (v : Edl) : (s.setEdl v).tb = s.tb := rfl
@[simp] theorem State.setEdl_srch (s : State) (v : Edl) : (s.setEdl v).srch = s.srch := rfl
@[simp] theorem State.setEdl_upd (s : State) (v : Edl) : (s.setEdl v).upd = s.upd := rfl
@[simp] theorem State.setEdl_fwd (s : State) (v : Edl) : (s.setEdl v).fwd = s.fwd := rfl
@[simp] theorem State.setEdl_eth (s : State) (v : Edl) : (s.setEdl v).eth = s.eth := rfl
@[simp] theorem State.setEdl_strm (s : State) (v : Edl) : (s.setEdl v).strm = s.strm := rfl
@[simp] theorem State.setEdl_aud (s : State) (v : Edl) : (s.setEdl v).aud = s.aud := rfl
@[simp] theorem State.setEdl_mix (s : State) (v : Edl) : (s.setEdl v).mix = s.mix := rfl
@[simp] theorem State.setEdl_strp (s : State) (v : Edl) : (s.setEdl v).strp = s.strp := rfl
@[simp] theorem State.setEdl_dste (s : State) (v : Edl) : (s.setEdl v).dste = s.dste := rfl
@[simp] theorem State.setEdl_seq (s : State) (v : Edl) : (s.setEdl v).seq = s.seq := rfl
@[simp] theorem State.setEdl_edl (s : State) (v : Edl) : (s.setEdl v).edl = v := rfl
@[simp] theorem State.setEdl_trl (s : State) (v : Edl) : (s.setEdl v).trl = s.trl := rfl
@[simp] theorem State.setEdl_pair (s : State) (v : Edl) : (s.setEdl v).pair = s.pair := rfl
@[simp] theorem State.setEdl_scn (s : State) (v : Edl) : (s.setEdl v).scn = s.scn := rfl
@[simp] theorem State.setEdl_ptr (s : State) (v : Edl) : (s.setEdl v).ptr = s.ptr := rfl
@[simp] theorem State.setEdl_mgt (s : State) (v : Edl) : (s.setEdl v).mgt = s.mgt := rfl
@[simp] theorem State.setEdl_dst (s : State) (v : Edl) : (s.setEdl v).dst = s.dst := rfl
@[simp] theorem State.setEdl_ans (s : State) (v : Edl) : (s.setEdl v).ans = s.ans := rfl
@[simp] theorem State.setEdl_out (s : State) (v : Edl) : (s.setEdl v).out = s.out := rfl
@[simp] theorem State.setEdl_free (s : State) (v : Edl) : (s.setEdl v).free = s.free := rfl
@[simp] theorem State.setEdl_pending (s : State) (v : Edl) : (s.setEdl v).pending = s.pending := rfl
@[simp] theorem State.setTrl_regs (s : State) (v : Trl) : (s.setTrl v).regs = s.regs := rfl
@[simp] theorem State.setTrl_pwr (s : State) (v : Trl) : (s.setTrl v).pwr = s.pwr := rfl
@[simp] theorem State.setTrl_dev (s : State) (v : Trl) : (s.setTrl v).dev = s.dev := rfl
@[simp] theorem State.setTrl_mld (s : State) (v : Trl) : (s.setTrl v).mld = s.mld := rfl
@[simp] theorem State.setTrl_dkl (s : State) (v : Trl) : (s.setTrl v).dkl = s.dkl := rfl
@[simp] theorem State.setTrl_ev (s : State) (v : Trl) : (s.setTrl v).ev = s.ev := rfl
@[simp] theorem State.setTrl_hp (s : State) (v : Trl) : (s.setTrl v).hp = s.hp := rfl
@[simp] theorem State.setTrl_inp (s : State) (v : Trl) : (s.setTrl v).inp = s.inp := rfl
@[simp] theorem State.setTrl_tb (s : State) (v : Trl) : (s.setTrl v).tb = s.tb := rfl
@[simp] theorem State.setTrl_srch (s : State) (v : Trl) : (s.setTrl v).srch = s.srch := rfl
@[simp] theorem State.setTrl_upd (s : State) (v : Trl) : (s.setTrl v).upd = s.upd := rfl
@[simp] theorem State.setTrl_fwd (s : State) (v : Trl) : (s.setTrl v).fwd = s.fwd := rfl
@[simp] theorem State.setTrl_eth (s : State) (v : Trl) : (s.setTrl v).eth = s.eth := rfl
@[simp] theorem State.setTrl_strm (s : State) (v : Trl) : (s.setTrl v).strm = s.strm := rfl
@[simp] theorem State.setTrl_aud (s : State) (v : Trl) : (s.setTrl v).aud = s.aud := rfl
@[simp] theorem State.setTrl_mix (s : State) (v : Trl) : (s.setTrl v).mix = s.mix := rfl
@[simp] theorem State.setTrl_strp (s : State) (v : Trl) : (s.setTrl v).strp = s.strp := rfl
@[simp] theorem State.setTrl_dste (s : State) (v : Trl) : (s.setTrl v).dste = s.dste := rfl
@[simp] theorem State.setTrl_seq (s : State) (v : Trl) : (s.setTrl v).seq = s.seq := rfl
@[simp] theorem State.setTrl_edl (s : State) (v : Trl) : (s.setTrl v).edl = s.edl := rfl
@[simp] theorem State.setTrl_trl (s : State) (v : Trl) : (s.setTrl v).trl = v := rfl
@[simp] theorem State.setTrl_pair (s : State) (v : Trl) : (s.setTrl v).pair = s.pair := rfl
@[simp] theorem State.setTrl_scn (s : State) (v : Trl) : (s.setTrl v).scn = s.scn := rfl
@[simp] theorem State.setTrl_ptr (s : State) (v : Trl) : (s.setTrl v).ptr = s.ptr := rfl
@[simp] theorem State.setTrl_mgt (s : State) (v : Trl) : (s.setTrl v).mgt = s.mgt := rfl
@[simp] theorem State.setTrl_dst (s : State) (v : Trl) : (s.setTrl v).dst = s.dst := rfl
@[simp] theorem State.setTrl_ans (s : State) (v : Trl) : (s.setTrl v).ans = s.ans := rfl
@[simp] theorem State.setTrl_out (s : State) (v : Trl) : (s.setTrl v).out = s.out := rfl
@[simp] theorem State.setTrl_free (s : State) (v : Trl) : (s.setTrl v).free = s.free := rfl
@[simp] theorem State.setTrl_pending (s : State) (v : Trl) : (s.setTrl v).pending = s.pending := rfl
@[simp] theorem State.setPair_regs (s : State) (v : Pair) : (s.setPair v).regs = s.regs := rfl
@[simp] theorem State.setPair_pwr (s : State) (v : Pair) : (s.setPair v).pwr = s.pwr := rfl
@[simp] theorem State.setPair_dev (s : State) (v : Pair) : (s.setPair v).dev = s.dev := rfl
@[simp] theorem State.setPair_mld (s : State) (v : Pair) : (s.setPair v).mld = s.mld := rfl
@[simp] theorem State.setPair_dkl (s : State) (v : Pair) : (s.setPair v).dkl = s.dkl := rfl
@[simp] theorem State.setPair_ev (s : State) (v : Pair) : (s.setPair v).ev = s.ev := rfl
@[simp] theorem State.setPair_hp (s : State) (v : Pair) : (s.setPair v).hp = s.hp := rfl
@[simp] theorem State.setPair_inp (s : State) (v : Pair) : (s.setPair v).inp = s.inp := rfl
@[simp] theorem State.setPair_tb (s : State) (v : Pair) : (s.setPair v).tb = s.tb := rfl
@[simp] theorem State.setPair_srch (s : State) (v : Pair) : (s.setPair v).srch = s.srch := rfl
@[simp] theorem State.setPair_upd (s : State) (v : Pair) : (s.setPair v).upd = s.upd := rfl
@[simp] theorem State.setPair_fwd (s : State) (v : Pair) : (s.setPair v).fwd = s.fwd := rfl
@[simp] theorem State.setPair_eth (s : State) (v : Pair) : (s.setPair v).eth = s.eth := rfl
@[simp] theorem State.setPair_strm (s : State) (v : Pair) : (s.setPair v).strm = s.strm := rfl
@[simp] theorem State.setPair_aud (s : State) (v : Pair) : (s.setPair v).aud = s.aud := rfl
@[simp] theorem State.setPair_mix (s : State) (v : Pair) : (s.setPair v).mix = s.mix := rfl
@[simp] theorem State.setPair_strp (s : State) (v : Pair) : (s.setPair v).strp = s.strp := rfl
@[simp] theorem State.setPair_dste (s : State) (v : Pair) : (s.setPair v).dste = s.dste := rfl
@[simp] theorem State.setPair_seq (s : State) (v : Pair) : (s.setPair v).seq = s.seq := rfl
@[simp] theorem State.setPair_edl (s : State) (v : Pair) : (s.setPair v).edl = s.edl := rfl
@[simp] theorem State.setPair_trl (s : State) (v : Pair) : (s.setPair v).trl = s.trl := rfl
@[simp] theorem State.setPair_pair (s : State) (v : Pair) : (s.setPair v).pair = v := rfl
@[simp] theorem State.setPair_scn (s : State) (v : Pair) : (s.setPair v).scn = s.scn := rfl
@[simp] theorem State.setPair_ptr (s : State) (v : Pair) : (s.setPair v).ptr = s.ptr := rfl
@[simp] theorem State.setPair_mgt (s : State) (v : Pair) : (s.setPair v).mgt = s.mgt := rfl
@[simp] theorem State.setPair_dst (s : State) (v : Pair) : (s.setPair v).dst = s.dst := rfl
@[simp] theorem State.setPair_ans (s : State) (v : Pair) : (s.setPair v).ans = s.ans := rfl
@[simp] theorem State.setPair_out (s : State) (v : Pair) : (s.setPair v).out = s.out := rfl
@[simp] theorem State.setPair_free (s : State) (v : Pair) : (s.setPair v).free = s.free := rfl
@[simp] theorem State.setPair_pending (s : State) (v : Pair) : (s.setPair v).pending = s.pending := rfl
@[simp] theorem State.setScn_regs (s : State) (v : Scn) : (s.setScn v).regs = s.regs := rfl
@[simp] theorem State.setScn_pwr (s : State) (v : Scn) : (s.setScn v).pwr = s.pwr := rfl
@[simp] theorem State.setScn_dev (s : State) (v : Scn) : (s.setScn v).dev = s.dev := rfl
@[simp] theorem State.setScn_mld (s : State) (v : Scn) : (s.setScn v).mld = s.mld := rfl
@[simp] theorem State.setScn_dkl (s : State) (v : Scn) : (s.setScn v).dkl = s.dkl := rfl
@[simp] theorem State.setScn_ev (s : State) (v : Scn) : (s.setScn v).ev = s.ev := rfl
@[simp] theorem State.setScn_hp (s : State) (v : Scn) : (s.setScn v).hp = s.hp := rfl
@[simp] theorem State.setScn_inp (s : State) (v : Scn) : (s.setScn v).inp = s.inp := rfl
@[simp] theorem State.setScn_tb (s : State) (v : Scn) : (s.setScn v).tb = s.tb := rfl
@[simp] theorem State.setScn_srch (s : State) (v : Scn) : (s.setScn v).srch = s.srch := rfl
@[simp] theorem State.setScn_upd (s : State) (v : Scn) : (s.setScn v).upd = s.upd := rfl
@[simp] theorem State.setScn_fwd (s : State) (v : Scn) : (s.setScn v).fwd = s.fwd := rfl
@[simp] theorem State.setScn_eth (s : State) (v : Scn) : (s.setScn v).eth = s.eth := rfl
@[simp] theorem State.setScn_strm (s : State) (v : Scn) : (s.setScn v).strm = s.strm := rfl
@[simp] theorem State.setScn_aud (s : State) (v : Scn) : (s.setScn v).aud = s.aud := rfl
@[simp] theorem State.setScn_mix (s : State) (v : Scn) : (s.setScn v).mix = s.mix := rfl
@[simp] theorem State.setScn_strp (s : State) (v : Scn) : (s.setScn v).strp = s.strp := rfl
@[simp] theorem State.setScn_dste (s : State) (v : Scn) : (s.setScn v).dste = s.dste := rfl
@[simp] theorem State.setScn_seq (s : State) (v : Scn) : (s.setScn v).seq = s.seq := rfl
@[simp] theorem State.setScn_edl (s : State) (v : Scn) : (s.setScn v).edl = s.edl := rfl
@[simp] theorem State.setScn_trl (s : State) (v : Scn) : (s.setScn v).trl = s.trl := rfl
@[simp] theorem State.setScn_pair (s : State) (v : Scn) : (s.setScn v).pair = s.pair := rfl
@[simp] theorem State.setScn_scn (s : State) (v : Scn) : (s.setScn v).scn = v := rfl
@[simp] theorem State.setScn_ptr (s : State) (v : Scn) : (s.setScn v).ptr = s.ptr := rfl
@[simp] theorem State.setScn_mgt (s : State) (v : Scn) : (s.setScn v).mgt = s.mgt := rfl
@[simp] theorem State.setScn_dst (s : State) (v : Scn) : (s.setScn v).dst = s.dst := rfl
@[simp] theorem State.setScn_ans (s : State) (v : Scn) : (s.setScn v).ans = s.ans := rfl
@[simp] theorem State.setScn_out (s : State) (v : Scn) : (s.setScn v).out = s.out := rfl
@[simp] theorem State.setScn_free (s : State) (v : Scn) : (s.setScn v).free = s.free := rfl
@[simp] theorem State.setScn_pending (s : State) (v : Scn) : (s.setScn v).pending = s.pending := rfl
@[simp] theorem State.setPtr_regs (s : State) (v : Ptr) : (s.setPtr v).regs = s.regs := rfl
@[simp] theorem State.setPtr_pwr (s : State) (v : Ptr) : (s.setPtr v).pwr = s.pwr := rfl
@[simp] theorem State.setPtr_dev (s : State) (v : Ptr) : (s.setPtr v).dev = s.dev := rfl
@[simp] theorem State.setPtr_mld (s : State) (v : Ptr) : (s.setPtr v).mld = s.mld := rfl
@[simp] theorem State.setPtr_dkl (s : State) (v : Ptr) : (s.setPtr v).dkl = s.dkl := rfl
@[simp] theorem State.setPtr_ev (s : State) (v : Ptr) : (s.setPtr v).ev = s.ev := rfl
@[simp] theorem State.setPtr_hp (s : State) (v : Ptr) : (s.setPtr v).hp = s.hp := rfl
@[simp] theorem State.setPtr_inp (s : State) (v : Ptr) : (s.setPtr v).inp = s.inp := rfl
@[simp] theorem State.setPtr_tb (s : State) (v : Ptr) : (s.setPtr v).tb = s.tb := rfl
@[simp] theorem State.setPtr_srch (s : State) (v : Ptr) : (s.setPtr v).srch = s.srch := rfl
@[simp] theorem State.setPtr_upd (s : State) (v : Ptr) : (s.setPtr v).upd = s.upd := rfl
@[simp] theorem State.setPtr_fwd (s : State) (v : Ptr) : (s.setPtr v).fwd = s.fwd := rfl
@[simp] theorem State.setPtr_eth (s : State) (v : Ptr) : (s.setPtr v).eth = s.eth := rfl
@[simp] theorem State.setPtr_strm (s : State) (v : Ptr) : (s.setPtr v).strm = s.strm := rfl
@[simp] theorem State.setPtr_aud (s : State) (v : Ptr) : (s.setPtr v).aud = s.aud := rfl
@[simp] theorem State.setPtr_mix (s : State) (v : Ptr) : (s.setPtr v).mix = s.mix := rfl
@[simp] theorem State.setPtr_strp (s : State) (v : Ptr) : (s.setPtr v).strp = s.strp := rfl
@[simp] theorem State.setPtr_dste (s : State) (v : Ptr) : (s.setPtr v).dste = s.dste := rfl
@[simp] theorem State.setPtr_seq (s : State) (v : Ptr) : (s.setPtr v).seq = s.seq := rfl
@[simp] theorem State.setPtr_edl (s : State) (v : Ptr) : (s.setPtr v).edl = s.edl := rfl
@[simp] theorem State.setPtr_trl (s : State) (v : Ptr) : (s.setPtr v).trl = s.trl := rfl
@[simp] theorem State.setPtr_pair (s : State) (v : Ptr) : (s.setPtr v).pair = s.pair := rfl
@[simp] theorem State.setPtr_scn (s : State) (v : Ptr) : (s.setPtr v).scn = s.scn := rfl
@[simp] theorem State.setPtr_ptr (s : State) (v : Ptr) : (s.setPtr v).ptr = v := rfl
@[simp] theorem State.setPtr_mgt (s : State) (v : Ptr) : (s.setPtr v).mgt = s.mgt := rfl
@[simp] theorem State.setPtr_dst (s : State) (v : Ptr) : (s.setPtr v).dst = s.dst := rfl
@[simp] theorem State.setPtr_ans (s : State) (v : Ptr) : (s.setPtr v).ans = s.ans := rfl
@[simp] theorem State.setPtr_out (s : State) (v : Ptr) : (s.setPtr v).out = s.out := rfl
@[simp] theorem State.setPtr_free (s : State) (v : Ptr) : (s.setPtr v).free = s.free := rfl
@[simp] theorem State.setPtr_pending (s : State) (v : Ptr) : (s.setPtr v).pending = s.pending := rfl
@[simp] theorem State.setMgt_regs (s : State) (v : Mgt) : (s.setMgt v).regs = s.regs := rfl
@[simp] theorem State.setMgt_pwr (s : State) (v : Mgt) : (s.setMgt v).pwr = s.pwr := rfl
@[simp] theorem State.setMgt_dev (s : State) (v : Mgt) : (s.setMgt v).dev = s.dev := rfl
@[simp] theorem State.setMgt_mld (s : State) (v : Mgt) : (s.setMgt v).mld = s.mld := rfl
@[simp] theorem State.setMgt_dkl (s : State) (v : Mgt) : (s.setMgt v).dkl = s.dkl := rfl
@[simp] theorem State.setMgt_ev (s : State) (v : Mgt) : (s.setMgt v).ev = s.ev := rfl
@[simp] theorem State.setMgt_hp (s : State) (v : Mgt) : (s.setMgt v).hp = s.hp := rfl
@[simp] theorem State.setMgt_inp (s : State) (v : Mgt) : (s.setMgt v).inp = s.inp := rfl
@[simp] theorem State.setMgt_tb (s : State) (v : Mgt) : (s.setMgt v).tb = s.tb := rfl
@[simp] theorem State.setMgt_srch (s : State) (v : Mgt) : (s.setMgt v).srch = s.srch := rfl
@[simp] theorem State.setMgt_upd (s : State) (v : Mgt) : (s.setMgt v).upd = s.upd := rfl
@[simp] theorem State.setMgt_fwd (s : State) (v : Mgt) : (s.setMgt v).fwd = s.fwd := rfl
@[simp] theorem State.setMgt_eth (s : State) (v : Mgt) : (s.setMgt v).eth = s.eth := rfl
@[simp] theorem State.setMgt_strm (s : State) (v : Mgt) : (s.setMgt v).strm = s.strm := rfl
@[simp] theorem State.setMgt_aud (s : State) (v : Mgt) : (s.setMgt v).aud = s.aud := rfl
@[simp] theorem State.setMgt_mix (s : State) (v : Mgt) : (s.setMgt v).mix = s.mix := rfl
@[simp] theorem State.setMgt_strp (s : State) (v : Mgt) : (s.setMgt v).strp = s.strp := rfl
@[simp] theorem State.setMgt_dste (s : State) (v : Mgt) : (s.setMgt v).dste = s.dste := rfl
@[simp] theorem State.setMgt_seq (s : State) (v : Mgt) : (s.setMgt v).seq = s.seq := rfl
@[simp] theorem State.setMgt_edl (s : State) (v : Mgt) : (s.setMgt v).edl = s.edl := rfl
@[simp] theorem State.setMgt_trl (s : State) (v : Mgt) : (s.setMgt v).trl = s.trl := rfl
@[simp] theorem State.setMgt_pair (s : State) (v : Mgt) : (s.setMgt v).pair = s.pair := rfl
@[simp] theorem State.setMgt_scn (s : State) (v : Mgt) : (s.setMgt v).scn = s.scn := rfl
@[simp] theorem State.setMgt_ptr (s : State) (v : Mgt) : (s.setMgt v).ptr = s.ptr := rfl
@[simp] theorem State.setMgt_mgt (s : State) (v : Mgt) : (s.setMgt v).mgt = v := rfl
@[simp] theorem State.setMgt_dst (s : State) (v : Mgt) : (s.setMgt v).dst = s.dst := rfl
@[simp] theorem State.setMgt_ans (s : State) (v : Mgt) : (s.setMgt v).ans = s.ans := rfl
@[simp] theorem State.setMgt_out (s : State) (v : Mgt) : (s.setMgt v).out = s.out := rfl
@[simp] theorem State.setMgt_free (s : State) (v : Mgt) : (s.setMgt v).free = s.free := rfl
@[simp] theorem State.setMgt_pending (s : State) (v : Mgt) : (s.setMgt v).pending = s.pending := rfl
@[simp] theorem State.setDst_regs (s : State) (v : List Host.Cell) : (s.setDst v).regs = s.regs := rfl
@[simp] theorem State.setDst_pwr (s : State) (v : List Host.Cell) : (s.setDst v).pwr = s.pwr := rfl
@[simp] theorem State.setDst_dev (s : State) (v : List Host.Cell) : (s.setDst v).dev = s.dev := rfl
@[simp] theorem State.setDst_mld (s : State) (v : List Host.Cell) : (s.setDst v).mld = s.mld := rfl
@[simp] theorem State.setDst_dkl (s : State) (v : List Host.Cell) : (s.setDst v).dkl = s.dkl := rfl
@[simp] theorem State.setDst_ev (s : State) (v : List Host.Cell) : (s.setDst v).ev = s.ev := rfl
@[simp] theorem State.setDst_hp (s : State) (v : List Host.Cell) : (s.setDst v).hp = s.hp := rfl
@[simp] theorem State.setDst_inp (s : State) (v : List Host.Cell) : (s.setDst v).inp = s.inp := rfl
@[simp] theorem State.setDst_tb (s : State) (v : List Host.Cell) : (s.setDst v).tb = s.tb := rfl
@[simp] theorem State.setDst_srch (s : State) (v : List Host.Cell) : (s.setDst v).srch = s.srch := rfl
@[simp] theorem State.setDst_upd (s : State) (v : List Host.Cell) : (s.setDst v).upd = s.upd := rfl
@[simp] theorem State.setDst_fwd (s : State) (v : List Host.Cell) : (s.setDst v).fwd = s.fwd := rfl
@[simp] theorem State.setDst_eth (s : State) (v : List Host.Cell) : (s.setDst v).eth = s.eth := rfl
@[simp] theorem State.setDst_strm (s : State) (v : List Host.Cell) : (s.setDst v).strm = s.strm := rfl
@[simp] theorem State.setDst_aud (s : State) (v : List Host.Cell) : (s.setDst v).aud = s.aud := rfl
@[simp] theorem State.setDst_mix (s : State) (v : List Host.Cell) : (s.setDst v).mix = s.mix := rfl
@[simp] theorem State.setDst_strp (s : State) (v : List Host.Cell) : (s.setDst v).strp = s.strp := rfl
@[simp] theorem State.setDst_dste (s : State) (v : List Host.Cell) : (s.setDst v).dste = s.dste := rfl
@[simp] theorem State.setDst_seq (s : State) (v : List Host.Cell) : (s.setDst v).seq = s.seq := rfl
@[simp] theorem State.setDst_edl (s : State) (v : List Host.Cell) : (s.setDst v).edl = s.edl := rfl
@[simp] theorem State.setDst_trl (s : State) (v : List Host.Cell) : (s.setDst v).trl = s.trl := rfl
@[simp] theorem State.setDst_pair (s : State) (v : List Host.Cell) : (s.setDst v).pair = s.pair := rfl
@[simp] theorem State.setDst_scn (s : State) (v : List Host.Cell) : (s.setDst v).scn = s.scn := rfl
@[simp] theorem State.setDst_ptr (s : State) (v : List Host.Cell) : (s.setDst v).ptr = s.ptr := rfl
@[simp] theorem State.setDst_mgt (s : State) (v : List Host.Cell) : (s.setDst v).mgt = s.mgt := rfl
@[simp] theorem State.setDst_dst (s : State) (v : List Host.Cell) : (s.setDst v).dst = v := rfl
@[simp] theorem State.setDst_ans (s : State) (v : List Host.Cell) : (s.setDst v).ans = s.ans := rfl
@[simp] theorem State.setDst_out (s : State) (v : List Host.Cell) : (s.setDst v).out = s.out := rfl
@[simp] theorem State.setDst_free (s : State) (v : List Host.Cell) : (s.setDst v).free = s.free := rfl
@[simp] theorem State.setDst_pending (s : State) (v : List Host.Cell) : (s.setDst v).pending = s.pending := rfl
@[simp] theorem State.setAns_regs (s : State) (v : Word) : (s.setAns v).regs = s.regs := rfl
@[simp] theorem State.setAns_pwr (s : State) (v : Word) : (s.setAns v).pwr = s.pwr := rfl
@[simp] theorem State.setAns_dev (s : State) (v : Word) : (s.setAns v).dev = s.dev := rfl
@[simp] theorem State.setAns_mld (s : State) (v : Word) : (s.setAns v).mld = s.mld := rfl
@[simp] theorem State.setAns_dkl (s : State) (v : Word) : (s.setAns v).dkl = s.dkl := rfl
@[simp] theorem State.setAns_ev (s : State) (v : Word) : (s.setAns v).ev = s.ev := rfl
@[simp] theorem State.setAns_hp (s : State) (v : Word) : (s.setAns v).hp = s.hp := rfl
@[simp] theorem State.setAns_inp (s : State) (v : Word) : (s.setAns v).inp = s.inp := rfl
@[simp] theorem State.setAns_tb (s : State) (v : Word) : (s.setAns v).tb = s.tb := rfl
@[simp] theorem State.setAns_srch (s : State) (v : Word) : (s.setAns v).srch = s.srch := rfl
@[simp] theorem State.setAns_upd (s : State) (v : Word) : (s.setAns v).upd = s.upd := rfl
@[simp] theorem State.setAns_fwd (s : State) (v : Word) : (s.setAns v).fwd = s.fwd := rfl
@[simp] theorem State.setAns_eth (s : State) (v : Word) : (s.setAns v).eth = s.eth := rfl
@[simp] theorem State.setAns_strm (s : State) (v : Word) : (s.setAns v).strm = s.strm := rfl
@[simp] theorem State.setAns_aud (s : State) (v : Word) : (s.setAns v).aud = s.aud := rfl
@[simp] theorem State.setAns_mix (s : State) (v : Word) : (s.setAns v).mix = s.mix := rfl
@[simp] theorem State.setAns_strp (s : State) (v : Word) : (s.setAns v).strp = s.strp := rfl
@[simp] theorem State.setAns_dste (s : State) (v : Word) : (s.setAns v).dste = s.dste := rfl
@[simp] theorem State.setAns_seq (s : State) (v : Word) : (s.setAns v).seq = s.seq := rfl
@[simp] theorem State.setAns_edl (s : State) (v : Word) : (s.setAns v).edl = s.edl := rfl
@[simp] theorem State.setAns_trl (s : State) (v : Word) : (s.setAns v).trl = s.trl := rfl
@[simp] theorem State.setAns_pair (s : State) (v : Word) : (s.setAns v).pair = s.pair := rfl
@[simp] theorem State.setAns_scn (s : State) (v : Word) : (s.setAns v).scn = s.scn := rfl
@[simp] theorem State.setAns_ptr (s : State) (v : Word) : (s.setAns v).ptr = s.ptr := rfl
@[simp] theorem State.setAns_mgt (s : State) (v : Word) : (s.setAns v).mgt = s.mgt := rfl
@[simp] theorem State.setAns_dst (s : State) (v : Word) : (s.setAns v).dst = s.dst := rfl
@[simp] theorem State.setAns_ans (s : State) (v : Word) : (s.setAns v).ans = v := rfl
@[simp] theorem State.setAns_out (s : State) (v : Word) : (s.setAns v).out = s.out := rfl
@[simp] theorem State.setAns_free (s : State) (v : Word) : (s.setAns v).free = s.free := rfl
@[simp] theorem State.setAns_pending (s : State) (v : Word) : (s.setAns v).pending = s.pending := rfl
@[simp] theorem State.setOut_regs (s : State) (v : List Output) : (s.setOut v).regs = s.regs := rfl
@[simp] theorem State.setOut_pwr (s : State) (v : List Output) : (s.setOut v).pwr = s.pwr := rfl
@[simp] theorem State.setOut_dev (s : State) (v : List Output) : (s.setOut v).dev = s.dev := rfl
@[simp] theorem State.setOut_mld (s : State) (v : List Output) : (s.setOut v).mld = s.mld := rfl
@[simp] theorem State.setOut_dkl (s : State) (v : List Output) : (s.setOut v).dkl = s.dkl := rfl
@[simp] theorem State.setOut_ev (s : State) (v : List Output) : (s.setOut v).ev = s.ev := rfl
@[simp] theorem State.setOut_hp (s : State) (v : List Output) : (s.setOut v).hp = s.hp := rfl
@[simp] theorem State.setOut_inp (s : State) (v : List Output) : (s.setOut v).inp = s.inp := rfl
@[simp] theorem State.setOut_tb (s : State) (v : List Output) : (s.setOut v).tb = s.tb := rfl
@[simp] theorem State.setOut_srch (s : State) (v : List Output) : (s.setOut v).srch = s.srch := rfl
@[simp] theorem State.setOut_upd (s : State) (v : List Output) : (s.setOut v).upd = s.upd := rfl
@[simp] theorem State.setOut_fwd (s : State) (v : List Output) : (s.setOut v).fwd = s.fwd := rfl
@[simp] theorem State.setOut_eth (s : State) (v : List Output) : (s.setOut v).eth = s.eth := rfl
@[simp] theorem State.setOut_strm (s : State) (v : List Output) : (s.setOut v).strm = s.strm := rfl
@[simp] theorem State.setOut_aud (s : State) (v : List Output) : (s.setOut v).aud = s.aud := rfl
@[simp] theorem State.setOut_mix (s : State) (v : List Output) : (s.setOut v).mix = s.mix := rfl
@[simp] theorem State.setOut_strp (s : State) (v : List Output) : (s.setOut v).strp = s.strp := rfl
@[simp] theorem State.setOut_dste (s : State) (v : List Output) : (s.setOut v).dste = s.dste := rfl
@[simp] theorem State.setOut_seq (s : State) (v : List Output) : (s.setOut v).seq = s.seq := rfl
@[simp] theorem State.setOut_edl (s : State) (v : List Output) : (s.setOut v).edl = s.edl := rfl
@[simp] theorem State.setOut_trl (s : State) (v : List Output) : (s.setOut v).trl = s.trl := rfl
@[simp] theorem State.setOut_pair (s : State) (v : List Output) : (s.setOut v).pair = s.pair := rfl
@[simp] theorem State.setOut_scn (s : State) (v : List Output) : (s.setOut v).scn = s.scn := rfl
@[simp] theorem State.setOut_ptr (s : State) (v : List Output) : (s.setOut v).ptr = s.ptr := rfl
@[simp] theorem State.setOut_mgt (s : State) (v : List Output) : (s.setOut v).mgt = s.mgt := rfl
@[simp] theorem State.setOut_dst (s : State) (v : List Output) : (s.setOut v).dst = s.dst := rfl
@[simp] theorem State.setOut_ans (s : State) (v : List Output) : (s.setOut v).ans = s.ans := rfl
@[simp] theorem State.setOut_out (s : State) (v : List Output) : (s.setOut v).out = v := rfl
@[simp] theorem State.setOut_free (s : State) (v : List Output) : (s.setOut v).free = s.free := rfl
@[simp] theorem State.setOut_pending (s : State) (v : List Output) : (s.setOut v).pending = s.pending := rfl
@[simp] theorem State.setFree_regs (s : State) (v : Nat) : (s.setFree v).regs = s.regs := rfl
@[simp] theorem State.setFree_pwr (s : State) (v : Nat) : (s.setFree v).pwr = s.pwr := rfl
@[simp] theorem State.setFree_dev (s : State) (v : Nat) : (s.setFree v).dev = s.dev := rfl
@[simp] theorem State.setFree_mld (s : State) (v : Nat) : (s.setFree v).mld = s.mld := rfl
@[simp] theorem State.setFree_dkl (s : State) (v : Nat) : (s.setFree v).dkl = s.dkl := rfl
@[simp] theorem State.setFree_ev (s : State) (v : Nat) : (s.setFree v).ev = s.ev := rfl
@[simp] theorem State.setFree_hp (s : State) (v : Nat) : (s.setFree v).hp = s.hp := rfl
@[simp] theorem State.setFree_inp (s : State) (v : Nat) : (s.setFree v).inp = s.inp := rfl
@[simp] theorem State.setFree_tb (s : State) (v : Nat) : (s.setFree v).tb = s.tb := rfl
@[simp] theorem State.setFree_srch (s : State) (v : Nat) : (s.setFree v).srch = s.srch := rfl
@[simp] theorem State.setFree_upd (s : State) (v : Nat) : (s.setFree v).upd = s.upd := rfl
@[simp] theorem State.setFree_fwd (s : State) (v : Nat) : (s.setFree v).fwd = s.fwd := rfl
@[simp] theorem State.setFree_eth (s : State) (v : Nat) : (s.setFree v).eth = s.eth := rfl
@[simp] theorem State.setFree_strm (s : State) (v : Nat) : (s.setFree v).strm = s.strm := rfl
@[simp] theorem State.setFree_aud (s : State) (v : Nat) : (s.setFree v).aud = s.aud := rfl
@[simp] theorem State.setFree_mix (s : State) (v : Nat) : (s.setFree v).mix = s.mix := rfl
@[simp] theorem State.setFree_strp (s : State) (v : Nat) : (s.setFree v).strp = s.strp := rfl
@[simp] theorem State.setFree_dste (s : State) (v : Nat) : (s.setFree v).dste = s.dste := rfl
@[simp] theorem State.setFree_seq (s : State) (v : Nat) : (s.setFree v).seq = s.seq := rfl
@[simp] theorem State.setFree_edl (s : State) (v : Nat) : (s.setFree v).edl = s.edl := rfl
@[simp] theorem State.setFree_trl (s : State) (v : Nat) : (s.setFree v).trl = s.trl := rfl
@[simp] theorem State.setFree_pair (s : State) (v : Nat) : (s.setFree v).pair = s.pair := rfl
@[simp] theorem State.setFree_scn (s : State) (v : Nat) : (s.setFree v).scn = s.scn := rfl
@[simp] theorem State.setFree_ptr (s : State) (v : Nat) : (s.setFree v).ptr = s.ptr := rfl
@[simp] theorem State.setFree_mgt (s : State) (v : Nat) : (s.setFree v).mgt = s.mgt := rfl
@[simp] theorem State.setFree_dst (s : State) (v : Nat) : (s.setFree v).dst = s.dst := rfl
@[simp] theorem State.setFree_ans (s : State) (v : Nat) : (s.setFree v).ans = s.ans := rfl
@[simp] theorem State.setFree_out (s : State) (v : Nat) : (s.setFree v).out = s.out := rfl
@[simp] theorem State.setFree_free (s : State) (v : Nat) : (s.setFree v).free = v := rfl
@[simp] theorem State.setFree_pending (s : State) (v : Nat) : (s.setFree v).pending = s.pending := rfl
@[simp] theorem State.setPending_regs (s : State) (v : List Instr) : (s.setPending v).regs = s.regs := rfl
@[simp] theorem State.setPending_pwr (s : State) (v : List Instr) : (s.setPending v).pwr = s.pwr := rfl
@[simp] theorem State.setPending_dev (s : State) (v : List Instr) : (s.setPending v).dev = s.dev := rfl
@[simp] theorem State.setPending_mld (s : State) (v : List Instr) : (s.setPending v).mld = s.mld := rfl
@[simp] theorem State.setPending_dkl (s : State) (v : List Instr) : (s.setPending v).dkl = s.dkl := rfl
@[simp] theorem State.setPending_ev (s : State) (v : List Instr) : (s.setPending v).ev = s.ev := rfl
@[simp] theorem State.setPending_hp (s : State) (v : List Instr) : (s.setPending v).hp = s.hp := rfl
@[simp] theorem State.setPending_inp (s : State) (v : List Instr) : (s.setPending v).inp = s.inp := rfl
@[simp] theorem State.setPending_tb (s : State) (v : List Instr) : (s.setPending v).tb = s.tb := rfl
@[simp] theorem State.setPending_srch (s : State) (v : List Instr) : (s.setPending v).srch = s.srch := rfl
@[simp] theorem State.setPending_upd (s : State) (v : List Instr) : (s.setPending v).upd = s.upd := rfl
@[simp] theorem State.setPending_fwd (s : State) (v : List Instr) : (s.setPending v).fwd = s.fwd := rfl
@[simp] theorem State.setPending_eth (s : State) (v : List Instr) : (s.setPending v).eth = s.eth := rfl
@[simp] theorem State.setPending_strm (s : State) (v : List Instr) : (s.setPending v).strm = s.strm := rfl
@[simp] theorem State.setPending_aud (s : State) (v : List Instr) : (s.setPending v).aud = s.aud := rfl
@[simp] theorem State.setPending_mix (s : State) (v : List Instr) : (s.setPending v).mix = s.mix := rfl
@[simp] theorem State.setPending_strp (s : State) (v : List Instr) : (s.setPending v).strp = s.strp := rfl
@[simp] theorem State.setPending_dste (s : State) (v : List Instr) : (s.setPending v).dste = s.dste := rfl
@[simp] theorem State.setPending_seq (s : State) (v : List Instr) : (s.setPending v).seq = s.seq := rfl
@[simp] theorem State.setPending_edl (s : State) (v : List Instr) : (s.setPending v).edl = s.edl := rfl
@[simp] theorem State.setPending_trl (s : State) (v : List Instr) : (s.setPending v).trl = s.trl := rfl
@[simp] theorem State.setPending_pair (s : State) (v : List Instr) : (s.setPending v).pair = s.pair := rfl
@[simp] theorem State.setPending_scn (s : State) (v : List Instr) : (s.setPending v).scn = s.scn := rfl
@[simp] theorem State.setPending_ptr (s : State) (v : List Instr) : (s.setPending v).ptr = s.ptr := rfl
@[simp] theorem State.setPending_mgt (s : State) (v : List Instr) : (s.setPending v).mgt = s.mgt := rfl
@[simp] theorem State.setPending_dst (s : State) (v : List Instr) : (s.setPending v).dst = s.dst := rfl
@[simp] theorem State.setPending_ans (s : State) (v : List Instr) : (s.setPending v).ans = s.ans := rfl
@[simp] theorem State.setPending_out (s : State) (v : List Instr) : (s.setPending v).out = s.out := rfl
@[simp] theorem State.setPending_free (s : State) (v : List Instr) : (s.setPending v).free = s.free := rfl
@[simp] theorem State.setPending_pending (s : State) (v : List Instr) : (s.setPending v).pending = v := rfl

end Sys2Proof.Machine
end

