-- ==== Sys2Proof/Laws/Store.lean ====
section
/-! SUPPORT. The laws of the sparse stores, of the registers and of the deep store's bytes: what is written is read back,
every other place reads as before, and the canonical form is kept. -/

namespace Sys2Proof.Machine

variable {α : Type}

/-! ## Sparse stores -/

theorem SMap.sorted_cons (k : Nat) (v : α) (m : SMap α) :
    SMap.sorted ((k, v) :: m) = true ↔ (∀ e ∈ m, k < e.1) ∧ SMap.sorted m = true := by
  induction m generalizing k v with
  | nil => simp [SMap.sorted]
  | cons e m ih =>
    obtain ⟨k', v'⟩ := e
    have h := ih k' v'
    simp only [SMap.sorted, Bool.and_eq_true, decide_eq_true_eq, List.mem_cons, forall_eq_or_imp]
    constructor
    · rintro ⟨a, b⟩
      exact ⟨⟨a, fun e he => Nat.lt_trans a ((h.1 b).1 e he)⟩, b⟩
    · rintro ⟨⟨a, _⟩, b⟩
      exact ⟨a, b⟩

theorem SMap.get_eq_none_of_lt {m : SMap α} {i : Nat} (h : ∀ e ∈ m, i < e.1) : SMap.get m i = none := by
  induction m with
  | nil => rfl
  | cons e m ih =>
    obtain ⟨k, v⟩ := e
    have hk : i < k := h (k, v) (by simp)
    simp only [SMap.get, Nat.ne_of_lt hk, if_false]
    exact ih (fun e he => h e (by simp [he]))

@[simp] theorem SMap.get_put_same (m : SMap α) (i : Nat) (a : α) : SMap.get (SMap.put m i a) i = some a := by
  induction m with
  | nil => simp [SMap.put, SMap.get]
  | cons e m ih =>
    obtain ⟨k, v⟩ := e
    simp only [SMap.put]
    split
    · next h => simp [SMap.get, h]
    · split
      · simp [SMap.get]
      · next h _ => simp [SMap.get, h, ih]

theorem SMap.get_put_ne (m : SMap α) {i j : Nat} (a : α) (h : j ≠ i) : SMap.get (SMap.put m i a) j = SMap.get m j := by
  induction m with
  | nil => simp [SMap.put, SMap.get, h]
  | cons e m ih =>
    obtain ⟨k, v⟩ := e
    simp only [SMap.put]
    split
    · next hk => subst hk; simp [SMap.get, h]
    · split
      · simp [SMap.get, h]
      · simp only [SMap.get]
        split
        · rfl
        · exact ih

theorem SMap.get_del_ne (m : SMap α) {i j : Nat} (h : j ≠ i) : SMap.get (SMap.del m i) j = SMap.get m j := by
  induction m with
  | nil => rfl
  | cons e m ih =>
    obtain ⟨k, v⟩ := e
    simp only [SMap.del]
    split
    · next hk => subst hk; simp [SMap.get, h]
    · split
      · rfl
      · simp only [SMap.get]
        split
        · rfl
        · exact ih

theorem SMap.get_del_same {m : SMap α} {i : Nat} (h : SMap.sorted m = true) : SMap.get (SMap.del m i) i = none := by
  induction m with
  | nil => rfl
  | cons e m ih =>
    obtain ⟨k, v⟩ := e
    have hs := (SMap.sorted_cons k v m).1 h
    simp only [SMap.del]
    split
    · next hk => subst hk; exact SMap.get_eq_none_of_lt hs.1
    · next hk =>
      split
      · next hl =>
        apply SMap.get_eq_none_of_lt
        intro e he
        rcases List.mem_cons.1 he with rfl | he
        · exact hl
        · exact Nat.lt_trans hl (hs.1 e he)
      · simp only [SMap.get, hk, if_false]
        exact ih hs.2

theorem SMap.mem_put {m : SMap α} {i : Nat} {a : α} {e : Nat × α} (h : e ∈ SMap.put m i a) : e = (i, a) ∨ e ∈ m := by
  induction m with
  | nil => simpa [SMap.put] using h
  | cons x m ih =>
    obtain ⟨k, v⟩ := x
    simp only [SMap.put] at h
    split at h
    · next hk =>
      subst hk
      rcases List.mem_cons.1 h with rfl | h
      · exact .inl rfl
      · exact .inr (by simp [h])
    · split at h
      · rcases List.mem_cons.1 h with rfl | h
        · exact .inl rfl
        · exact .inr h
      · rcases List.mem_cons.1 h with rfl | h
        · exact .inr (by simp)
        · rcases ih h with rfl | h
          · exact .inl rfl
          · exact .inr (by simp [h])

theorem SMap.mem_del {m : SMap α} {i : Nat} {e : Nat × α} (h : e ∈ SMap.del m i) : e ∈ m := by
  induction m with
  | nil => simp [SMap.del] at h
  | cons x m ih =>
    obtain ⟨k, v⟩ := x
    simp only [SMap.del] at h
    split at h
    · simp [h]
    · split at h
      · exact h
      · rcases List.mem_cons.1 h with rfl | h
        · simp
        · simp [ih h]

theorem SMap.sorted_put {m : SMap α} (i : Nat) (a : α) (h : SMap.sorted m = true) : SMap.sorted (SMap.put m i a) = true := by
  induction m with
  | nil => rfl
  | cons e m ih =>
    obtain ⟨k, v⟩ := e
    have hs := (SMap.sorted_cons k v m).1 h
    simp only [SMap.put]
    split
    · exact (SMap.sorted_cons _ _ _).2 hs
    · next hk =>
      split
      · next hl =>
        refine (SMap.sorted_cons _ _ _).2 ⟨?_, h⟩
        intro e he
        rcases List.mem_cons.1 he with rfl | he
        · exact hl
        · exact Nat.lt_trans hl (hs.1 e he)
      · next hl =>
        refine (SMap.sorted_cons _ _ _).2 ⟨?_, ih hs.2⟩
        intro e he
        rcases SMap.mem_put he with rfl | he
        · show k < i
          omega
        · exact hs.1 e he

theorem SMap.sorted_del {m : SMap α} (i : Nat) (h : SMap.sorted m = true) : SMap.sorted (SMap.del m i) = true := by
  induction m with
  | nil => rfl
  | cons e m ih =>
    obtain ⟨k, v⟩ := e
    have hs := (SMap.sorted_cons k v m).1 h
    simp only [SMap.del]
    split
    · exact hs.2
    · split
      · exact h
      · exact (SMap.sorted_cons _ _ _).2 ⟨fun e he => hs.1 e (SMap.mem_del he), ih hs.2⟩

theorem SMap.sorted_filter {m : SMap α} (p : Nat × α → Bool) (h : SMap.sorted m = true) :
    SMap.sorted (m.filter p) = true := by
  induction m with
  | nil => rfl
  | cons e m ih =>
    obtain ⟨k, v⟩ := e
    have hs := (SMap.sorted_cons k v m).1 h
    rw [List.filter_cons]
    split
    · exact (SMap.sorted_cons _ _ _).2 ⟨fun e he => hs.1 e (List.mem_filter.1 he).1, ih hs.2⟩
    · exact ih hs.2

theorem SMap.getD_putD_same [DecidableEq α] {m : SMap α} (d : α) (i : Nat) (a : α) (h : SMap.sorted m = true) :
    SMap.getD (SMap.putD d m i a) i d = a := by
  unfold SMap.putD SMap.getD
  split
  · next e => rw [SMap.get_del_same h, e]; rfl
  · simp

theorem SMap.getD_putD_ne [DecidableEq α] (m : SMap α) (d b : α) {i j : Nat} (a : α) (h : j ≠ i) :
    SMap.getD (SMap.putD d m i a) j b = SMap.getD m j b := by
  unfold SMap.putD SMap.getD
  split
  · rw [SMap.get_del_ne m h]
  · rw [SMap.get_put_ne m a h]

theorem SMap.sorted_putD [DecidableEq α] {m : SMap α} (d : α) (i : Nat) (a : α) (h : SMap.sorted m = true) :
    SMap.sorted (SMap.putD d m i a) = true := by
  unfold SMap.putD
  split
  · exact SMap.sorted_del i h
  · exact SMap.sorted_put i a h

/-! ## Registers -/

theorem rd_wr_same {s : State} (off : Nat) (w : Word) (h : SMap.sorted s.regs = true) : rd (wr s off w) off = w := by
  unfold rd wr
  exact SMap.getD_putD_same _ off w h

theorem rd_wr_ne (s : State) {off o : Nat} (w : Word) (h : o ≠ off) : rd (wr s off w) o = rd s o := by
  unfold rd wr
  exact SMap.getD_putD_ne _ _ _ w h

theorem sorted_wr {s : State} (off : Nat) (w : Word) (h : SMap.sorted s.regs = true) :
    SMap.sorted (wr s off w).regs = true := SMap.sorted_putD _ off w h

/-- A write of a register changes nothing but the registers. -/
theorem wr_frame (s : State) (off : Nat) (w : Word) : wr s off w = s.setRegs (wr s off w).regs := rfl

/-! ## The deep store -/

theorem dstPut_wf {m : List Host.Cell} (a : Nat) (b : BitVec 8) (h : Memory.wf m = true) : Memory.wf (dstPut m a b) = true := by
  unfold Memory.wf at h ⊢
  rw [Bool.and_eq_true] at h ⊢
  refine ⟨SMap.sorted_putD _ a b h.1, ?_⟩
  rw [List.all_eq_true] at *
  intro c hc
  unfold dstPut SMap.putD at hc
  split at hc
  · exact h.2 c (SMap.mem_del hc)
  · next hb =>
    rcases SMap.mem_put hc with rfl | hc
    · exact decide_eq_true hb
    · exact h.2 c hc

theorem dstPutBytes_wf {m : List Host.Cell} (a : Nat) (l : List Byte) (h : Memory.wf m = true) :
    Memory.wf (dstPutBytes m a l) = true := by
  induction l generalizing m a with
  | nil => exact h
  | cons b l ih => exact ih (a + 1) (dstPut_wf a b h)

theorem Memory.sorted_of_wf {m : List Host.Cell} (h : Memory.wf m = true) : SMap.sorted m = true := by
  unfold Memory.wf at h
  rw [Bool.and_eq_true] at h
  exact h.1

theorem dstByte_put_same {m : List Host.Cell} (a : Nat) (b : BitVec 8) (h : Memory.wf m = true) :
    dstByte (dstPut m a b) a = b := SMap.getD_putD_same 0 a b (Memory.sorted_of_wf h)

theorem dstByte_put_ne (m : List Host.Cell) {a c : Nat} (b : BitVec 8) (h : c ≠ a) : dstByte (dstPut m a b) c = dstByte m c :=
  SMap.getD_putD_ne m 0 0 b h

/-- Bytes outside the run written read as before. -/
theorem dstByte_putBytes_ne (m : List Host.Cell) (a c : Nat) (l : List Byte) (h : c < a ∨ a + l.length ≤ c) :
    dstByte (dstPutBytes m a l) c = dstByte m c := by
  induction l generalizing m a with
  | nil => rfl
  | cons b l ih =>
    simp only [List.length_cons] at h
    rw [dstPutBytes, ih (dstPut m a b) (a + 1) (by omega), dstByte_put_ne m b (by omega)]

/-- The bytes written read back. -/
theorem dstByte_putBytes_same {m : List Host.Cell} (a i : Nat) (l : List Byte) (hi : i < l.length)
    (h : Memory.wf m = true) : dstByte (dstPutBytes m a l) (a + i) = l[i] := by
  induction l generalizing m a i with
  | nil => simp at hi
  | cons b l ih =>
    rw [dstPutBytes]
    cases i with
    | zero =>
      rw [dstByte_putBytes_ne _ _ _ _ (by omega)]
      exact dstByte_put_same a b h
    | succ i =>
      have := ih (a + 1) i (by simpa using hi) (dstPut_wf a b h)
      rw [show a + (i + 1) = a + 1 + i by omega, this]
      rfl

end Sys2Proof.Machine
end

