-- ==== Sys2Proof/Laws/Keep.lean ====
section
/-! SUPPORT. What every operation keeps: the queue of waiting commands, and the canonical form of the stored registers and of the deep
store. Here stand the rules over which the lemma of each definition is proved in the files beside this one. -/

namespace Sys2Proof.Machine

/-- What is to be kept: the queue of waiting commands, and what is said of the device state, of the deckle number, of the deep
store, of the loader and of the thermal state. -/
structure Keep where
  queue : List Instr
  dev : DevState → Prop
  num : Nat → Prop
  mem : List Host.Cell → Prop
  mld : Mld → Prop
  mgt : Mgt → Prop

/-- The same with nothing said of the device state. -/
def Keep.anyDev (q : Keep) : Keep := { q with dev := fun _ => True }

/-- The same with nothing said of the deckle number. -/
def Keep.anyNum (q : Keep) : Keep := { q with num := fun _ => True }

/-- What is said of the device state outlasts the commands of `MLD_CTL` (R70). -/
structure Keep.Mld (q : Keep) : Prop where
  bare : q.dev .bare → q.dev .laying
  refused : q.dev .refused → q.dev .laying
  clear : q.dev .refused → q.dev .bare
  abort : q.dev .laying → q.dev .bare

/-- What is said of the deep store outlasts a write of bytes. -/
def Keep.Stores (q : Keep) : Prop := ∀ m a l, q.mem m → q.mem (dstPutBytes m a l)

/-- The queue is q's, what the state stores is in canonical form, and what q says of the state holds. -/
structure Kept (q : Keep) (s : State) : Prop where
  queue : s.pending = q.queue
  regs : Registers.wf s.regs = true
  mem : Memory.wf s.dst = true
  dev : q.dev s.dev
  num : q.num s.dkl.num
  store : q.mem s.dst
  mld : q.mld s.mld
  mgt : q.mgt s.mgt

/-- The same of the second part of a pair. -/
structure Kept2 {α : Type} (q : Keep) (p : α × State) : Prop where
  kept : Kept q p.2

/-- The same of the first part of a pair. -/
structure Kept1 {α : Type} (q : Keep) (p : State × α) : Prop where
  kept : Kept q p.1

/-- The same of the middle part of a triple. -/
structure KeptM {α β : Type} (q : Keep) (p : α × State × β) : Prop where
  kept : Kept q p.2.1

/-- The same of an answer that may be absent. -/
structure KeptO (q : Keep) (o : Option State) : Prop where
  kept : ∀ t, o = some t → Kept q t

/-- The same of a pair that may be absent. -/
structure KeptP {α : Type} (q : Keep) (o : Option (α × State)) : Prop where
  kept : ∀ r, o = some r → Kept q r.2

/-- The same of an answer beside which a report may stand. -/
structure KeptS {α : Type} (q : Keep) (o : α ⊕ State) : Prop where
  kept : ∀ t, o = .inr t → Kept q t

/-- The same of the next state of a command. -/
structure KeptN (q : Keep) (o : Host.Outcome State Fault Refusal) : Prop where
  kept : ∀ t, o = .next t → Kept q t

variable {q : Keep} {s t : State} {α β γ : Type}

theorem Kept.ite {c : Prop} [Decidable c] (a : Kept q s) (b : Kept q t) : Kept q (if c then s else t) := by split <;> assumption
theorem Kept1.ite {c : Prop} [Decidable c] {x y : State × α} (a : Kept1 q x) (b : Kept1 q y) : Kept1 q (if c then x else y) := by
  split <;> assumption
theorem Kept2.ite {c : Prop} [Decidable c] {x y : α × State} (a : Kept2 q x) (b : Kept2 q y) : Kept2 q (if c then x else y) := by
  split <;> assumption
theorem KeptM.ite {c : Prop} [Decidable c] {x y : α × State × β} (a : KeptM q x) (b : KeptM q y) :
    KeptM q (if c then x else y) := by split <;> assumption
theorem KeptO.ite {c : Prop} [Decidable c] {x y : Option State} (a : KeptO q x) (b : KeptO q y) : KeptO q (if c then x else y) := by
  split <;> assumption
theorem KeptP.ite {c : Prop} [Decidable c] {x y : Option (α × State)} (a : KeptP q x) (b : KeptP q y) :
    KeptP q (if c then x else y) := by split <;> assumption
theorem KeptS.ite {c : Prop} [Decidable c] {x y : α ⊕ State} (a : KeptS q x) (b : KeptS q y) :
    KeptS q (if c then x else y) := by split <;> assumption
theorem KeptN.ite {c : Prop} [Decidable c] {x y : Host.Outcome State Fault Refusal} (a : KeptN q x) (b : KeptN q y) :
    KeptN q (if c then x else y) := by split <;> assumption

theorem Kept1.iff {a : α} : Kept1 q (s, a) ↔ Kept q s := ⟨fun h => h.kept, fun h => ⟨h⟩⟩
theorem Kept2.iff {a : α} : Kept2 q (a, s) ↔ Kept q s := ⟨fun h => h.kept, fun h => ⟨h⟩⟩
theorem KeptM.iff {a : α} {b : β} : KeptM q (a, s, b) ↔ Kept q s := ⟨fun h => h.kept, fun h => ⟨h⟩⟩
theorem KeptO.none : KeptO q Option.none := ⟨fun _ e => by simp at e⟩
theorem KeptO.some (h : Kept q s) : KeptO q (Option.some s) := ⟨fun _ e => Option.some.inj e ▸ h⟩
theorem KeptP.none : KeptP q (Option.none : Option (α × State)) := ⟨fun _ e => by simp at e⟩
theorem KeptP.some {a : α} (h : Kept q s) : KeptP q (Option.some (a, s)) := ⟨fun _ e => Option.some.inj e ▸ h⟩
theorem KeptS.inl {a : α} : KeptS q (Sum.inl a : α ⊕ State) := ⟨fun _ e => by simp at e⟩
theorem KeptS.inr (h : Kept q s) : KeptS q (Sum.inr s : α ⊕ State) := ⟨fun _ e => Sum.inr.inj e ▸ h⟩
theorem KeptN.next (h : Kept q s) : KeptN q (.next s) := ⟨fun _ e => Host.Outcome.next.inj e ▸ h⟩
theorem KeptN.refused {r : Refusal} : KeptN q (.refused r) := ⟨fun _ e => by simp at e⟩

theorem Kept.of_some {o : Option State} (h : KeptO q o) (e : o = .some s) : Kept q s := h.kept s e
theorem Kept.of_someP {o : Option (α × State)} {a : α} (h : KeptP q o) (e : o = .some (a, s)) : Kept q s := h.kept _ e
theorem Kept.of_inr {o : α ⊕ State} (h : KeptS q o) (e : o = .inr s) : Kept q s := h.kept s e
theorem Kept.of_eq1 {p : State × α} {a : α} (h : Kept1 q p) (e : p = (s, a)) : Kept q s := by subst e; exact h.kept
theorem Kept.of_eq2 {p : α × State} {a : α} (h : Kept2 q p) (e : p = (a, s)) : Kept q s := by subst e; exact h.kept
theorem Kept.of_eqM {p : α × State × β} {a : α} {b : β} (h : KeptM q p) (e : p = (a, s, b)) : Kept q s := by subst e; exact h.kept
theorem Kept.of_fst {p : State × α} (h : Kept1 q p) : Kept q p.1 := h.kept
theorem Kept.of_snd {p : α × State} (h : Kept2 q p) : Kept q p.2 := h.kept
theorem Kept.of_mid {p : α × State × β} (h : KeptM q p) : Kept q p.2.1 := h.kept
theorem Kept.of_getD {o : Option State} (h : KeptO q o) (hs : Kept q s) : Kept q (o.getD s) := by
  cases o with
  | none => exact hs
  | some t => exact h.kept t rfl

theorem Kept.foldl {f : State → α → State} {l : List α} (hf : ∀ t a, Kept q t → Kept q (f t a)) (h : Kept q s) :
    Kept q (l.foldl f s) := by
  induction l generalizing s with
  | nil => exact h
  | cons a l ih => exact ih (hf s a h)
theorem Kept1.foldl {f : State × β → α → State × β} {l : List α} {p : State × β}
    (hf : ∀ t b a, Kept q t → Kept1 q (f (t, b) a)) (h : Kept1 q p) : Kept1 q (l.foldl f p) := by
  induction l generalizing p with
  | nil => exact h
  | cons a l ih => exact ih (hf p.1 p.2 a h.kept)
theorem Kept2.foldl {f : β × State → α → β × State} {l : List α} {p : β × State}
    (hf : ∀ b t a, Kept q t → Kept2 q (f (b, t) a)) (h : Kept2 q p) : Kept2 q (l.foldl f p) := by
  induction l generalizing p with
  | nil => exact h
  | cons a l ih => exact ih (hf p.1 p.2 a h.kept)

/-- The same of a list of answers that may be absent. -/
structure KeptL (q : Keep) (l : List (Option State)) : Prop where
  kept : ∀ o ∈ l, KeptO q o

theorem KeptL.nil : KeptL q [] := ⟨fun _ h => by simp at h⟩
theorem KeptL.cons {o : Option State} {l : List (Option State)} (h : KeptO q o) (hl : KeptL q l) : KeptL q (o :: l) :=
  ⟨fun _ hm => (List.mem_cons.1 hm).elim (fun e => e ▸ h) (hl.kept _)⟩
theorem KeptL.append {k l : List (Option State)} (hk : KeptL q k) (hl : KeptL q l) : KeptL q (k ++ l) :=
  ⟨fun _ hm => (List.mem_append.1 hm).elim (hk.kept _) (hl.kept _)⟩
theorem KeptL.map {f : α → Option State} {l : List α} (h : ∀ a, KeptO q (f a)) : KeptL q (l.map f) :=
  ⟨fun _ hm => by obtain ⟨a, _, e⟩ := List.mem_map.1 hm; exact e ▸ h a⟩

theorem KeptM.foldl {f : β × State × γ → α → β × State × γ} {l : List α} {p : β × State × γ}
    (hf : ∀ b t c a, Kept q t → KeptM q (f (b, t, c) a)) (h : KeptM q p) : KeptM q (l.foldl f p) := by
  induction l generalizing p with
  | nil => exact h
  | cons a l ih => exact ih (hf p.1 p.2.1 p.2.2 a h.kept)
theorem Kept1.of_snd {p : α × State × β} (h : KeptM q p) : Kept1 q p.2 := ⟨h.kept⟩

theorem Registers.sorted_of_wf {m : SMap Word} (h : Registers.wf m = true) : SMap.sorted m = true := by
  simp only [Registers.wf, Bool.and_eq_true] at h
  exact h.1

theorem Registers.wf_putD {m : SMap Word} (off : Nat) (w : Word) (h : Registers.wf m = true) :
    Registers.wf (SMap.putD (regReset (off % 0x400000)) m off w) = true := by
  simp only [Registers.wf, Bool.and_eq_true, List.all_eq_true, decide_eq_true_eq] at h ⊢
  refine ⟨SMap.sorted_putD _ _ _ h.1, ?_⟩
  intro e he
  unfold SMap.putD at he
  split at he
  · exact h.2 e (SMap.mem_del he)
  · next hn =>
    rcases SMap.mem_put he with rfl | he
    · exact hn
    · exact h.2 e he

theorem Registers.wf_filter {m : SMap Word} (p : Nat × Word → Bool) (h : Registers.wf m = true) :
    Registers.wf (m.filter p) = true := by
  simp only [Registers.wf, Bool.and_eq_true, List.all_eq_true, decide_eq_true_eq] at h ⊢
  exact ⟨SMap.sorted_filter _ h.1, fun e he => h.2 e (List.mem_filter.1 he).1⟩

theorem wr_kept (h : Kept q s) (o : Nat) (w : Word) : Kept q (wr s o w) :=
  ⟨h.queue, Registers.wf_putD o w h.regs, h.mem, h.dev, h.num, h.store, h.mld, h.mgt⟩
theorem State.setDst_kept (h : Kept q s) (v : List Host.Cell) (hv : Memory.wf v = true) (hm : q.mem v) : Kept q (s.setDst v) :=
  ⟨h.queue, h.regs, hv, h.dev, h.num, hm, h.mld, h.mgt⟩
theorem State.setDstPut_kept (h : Kept q s) (hS : q.Stores) (a : Nat) (l : List Byte) : Kept q (s.setDst (dstPutBytes s.dst a l)) :=
  State.setDst_kept h _ (dstPutBytes_wf a l h.mem) (hS _ a l h.store)
theorem State.setRegs_kept (h : Kept q s) (v : SMap Word) (hv : Registers.wf v = true) : Kept q (s.setRegs v) :=
  ⟨h.queue, hv, h.mem, h.dev, h.num, h.store, h.mld, h.mgt⟩
theorem State.setDev_kept (h : Kept q s) (v : DevState) (hv : q.dev v) : Kept q (s.setDev v) :=
  ⟨h.queue, h.regs, h.mem, hv, h.num, h.store, h.mld, h.mgt⟩
theorem State.setDkl_kept (h : Kept q s) (v : Dkl) (hv : q.num v.num) : Kept q (s.setDkl v) :=
  ⟨h.queue, h.regs, h.mem, h.dev, hv, h.store, h.mld, h.mgt⟩
theorem State.setDkl_keep (h : Kept q s) (v : Dkl) (hv : v.num = s.dkl.num) : Kept q (s.setDkl v) :=
  State.setDkl_kept h v (hv ▸ h.num)
theorem State.setEvt_kept (h : Kept q s) (a b : Nat) : Kept q (s.setDkl { s.dkl with evt := a, free := b }) :=
  State.setDkl_keep h _ rfl
theorem State.setMld_kept (h : Kept q s) (v : Mld) (hv : q.mld v) : Kept q (s.setMld v) :=
  ⟨h.queue, h.regs, h.mem, h.dev, h.num, h.store, hv, h.mgt⟩
theorem State.setMgt_kept (h : Kept q s) (v : Mgt) (hv : q.mgt v) : Kept q (s.setMgt v) :=
  ⟨h.queue, h.regs, h.mem, h.dev, h.num, h.store, h.mld, hv⟩
theorem Kept.setDev (h : Kept q.anyDev s) (v : DevState) (hv : q.dev v) : Kept q (s.setDev v) :=
  ⟨h.queue, h.regs, h.mem, hv, h.num, h.store, h.mld, h.mgt⟩
theorem Kept.setDkl (h : Kept q.anyNum s) (v : Dkl) (hv : q.num v.num) : Kept q (s.setDkl v) :=
  ⟨h.queue, h.regs, h.mem, h.dev, hv, h.store, h.mld, h.mgt⟩
theorem Kept.anyDev (h : Kept q s) : Kept q.anyDev s := ⟨h.queue, h.regs, h.mem, trivial, h.num, h.store, h.mld, h.mgt⟩
theorem Kept.anyNum (h : Kept q s) : Kept q.anyNum s := ⟨h.queue, h.regs, h.mem, h.dev, trivial, h.store, h.mld, h.mgt⟩
theorem State.setPwr_kept (h : Kept q s) (v : Pwr) : Kept q (s.setPwr v) :=
  ⟨h.queue, h.regs, h.mem, h.dev, h.num, h.store, h.mld, h.mgt⟩
theorem State.setEv_kept (h : Kept q s) (v : Ev) : Kept q (s.setEv v) :=
  ⟨h.queue, h.regs, h.mem, h.dev, h.num, h.store, h.mld, h.mgt⟩
theorem State.setHp_kept (h : Kept q s) (v : HostPort) : Kept q (s.setHp v) :=
  ⟨h.queue, h.regs, h.mem, h.dev, h.num, h.store, h.mld, h.mgt⟩
theorem State.setInp_kept (h : Kept q s) (v : Inp) : Kept q (s.setInp v) :=
  ⟨h.queue, h.regs, h.mem, h.dev, h.num, h.store, h.mld, h.mgt⟩
theorem State.setTb_kept (h : Kept q s) (v : Tb) : Kept q (s.setTb v) :=
  ⟨h.queue, h.regs, h.mem, h.dev, h.num, h.store, h.mld, h.mgt⟩
theorem State.setSrch_kept (h : Kept q s) (v : Srch) : Kept q (s.setSrch v) :=
  ⟨h.queue, h.regs, h.mem, h.dev, h.num, h.store, h.mld, h.mgt⟩
theorem State.setUpd_kept (h : Kept q s) (v : Upd) : Kept q (s.setUpd v) :=
  ⟨h.queue, h.regs, h.mem, h.dev, h.num, h.store, h.mld, h.mgt⟩
theorem State.setFwd_kept (h : Kept q s) (v : Fwd) : Kept q (s.setFwd v) :=
  ⟨h.queue, h.regs, h.mem, h.dev, h.num, h.store, h.mld, h.mgt⟩
theorem State.setEth_kept (h : Kept q s) (v : Eth) : Kept q (s.setEth v) :=
  ⟨h.queue, h.regs, h.mem, h.dev, h.num, h.store, h.mld, h.mgt⟩
theorem State.setStrm_kept (h : Kept q s) (v : Strm) : Kept q (s.setStrm v) :=
  ⟨h.queue, h.regs, h.mem, h.dev, h.num, h.store, h.mld, h.mgt⟩
theorem State.setAud_kept (h : Kept q s) (v : Aud) : Kept q (s.setAud v) :=
  ⟨h.queue, h.regs, h.mem, h.dev, h.num, h.store, h.mld, h.mgt⟩
theorem State.setMix_kept (h : Kept q s) (v : Mix) : Kept q (s.setMix v) :=
  ⟨h.queue, h.regs, h.mem, h.dev, h.num, h.store, h.mld, h.mgt⟩
theorem State.setStrp_kept (h : Kept q s) (v : Strp) : Kept q (s.setStrp v) :=
  ⟨h.queue, h.regs, h.mem, h.dev, h.num, h.store, h.mld, h.mgt⟩
theorem State.setDste_kept (h : Kept q s) (v : DstE) : Kept q (s.setDste v) :=
  ⟨h.queue, h.regs, h.mem, h.dev, h.num, h.store, h.mld, h.mgt⟩
theorem State.setSeq_kept (h : Kept q s) (v : Seq) : Kept q (s.setSeq v) :=
  ⟨h.queue, h.regs, h.mem, h.dev, h.num, h.store, h.mld, h.mgt⟩
theorem State.setEdl_kept (h : Kept q s) (v : Edl) : Kept q (s.setEdl v) :=
  ⟨h.queue, h.regs, h.mem, h.dev, h.num, h.store, h.mld, h.mgt⟩
theorem State.setTrl_kept (h : Kept q s) (v : Trl) : Kept q (s.setTrl v) :=
  ⟨h.queue, h.regs, h.mem, h.dev, h.num, h.store, h.mld, h.mgt⟩
theorem State.setPair_kept (h : Kept q s) (v : Pair) : Kept q (s.setPair v) :=
  ⟨h.queue, h.regs, h.mem, h.dev, h.num, h.store, h.mld, h.mgt⟩
theorem State.setScn_kept (h : Kept q s) (v : Scn) : Kept q (s.setScn v) :=
  ⟨h.queue, h.regs, h.mem, h.dev, h.num, h.store, h.mld, h.mgt⟩
theorem State.setPtr_kept (h : Kept q s) (v : Ptr) : Kept q (s.setPtr v) :=
  ⟨h.queue, h.regs, h.mem, h.dev, h.num, h.store, h.mld, h.mgt⟩
theorem State.setAns_kept (h : Kept q s) (v : Word) : Kept q (s.setAns v) :=
  ⟨h.queue, h.regs, h.mem, h.dev, h.num, h.store, h.mld, h.mgt⟩
theorem State.setOut_kept (h : Kept q s) (v : List Output) : Kept q (s.setOut v) :=
  ⟨h.queue, h.regs, h.mem, h.dev, h.num, h.store, h.mld, h.mgt⟩
theorem State.setFree_kept (h : Kept q s) (v : Nat) : Kept q (s.setFree v) :=
  ⟨h.queue, h.regs, h.mem, h.dev, h.num, h.store, h.mld, h.mgt⟩

end Sys2Proof.Machine
end

