-- ==== Sys2Proof/Laws/KeepOps.lean ====
section
/-! SUPPORT. What every operation of Machine/Ops.lean keeps: the queue of waiting commands and the canonical form of what is stored. -/

namespace Sys2Proof.Machine

variable {Q : Keep}

theorem wrF_kept {s : State} {off hi lo v : Nat} (h : Kept Q s) : Kept Q (wrF s off hi lo v) := by
  unfold wrF
  with_reducible repeat' first | assumption | apply wr_kept

theorem wrAll_kept {s : State} {l : List (Nat × Word)} (h : Kept Q s) : Kept Q (wrAll s l) := by
  unfold wrAll
  with_reducible repeat' first | assumption | intro _ | apply wr_kept | apply Kept.foldl

theorem emit_kept {s : State} {o : Output} (h : Kept Q s) : Kept Q (emit s o) := by
  unfold emit
  with_reducible repeat' first | assumption | apply State.setOut_kept

theorem freeNat_kept {s : State} {w : Nat} (h : Kept Q s) : Kept2 Q (freeNat s w) := by
  unfold freeNat
  repeat' first
    | with_reducible assumption
    | with_reducible apply State.setFree_kept
    | simp -zeta only [Kept2.iff]

end Sys2Proof.Machine
end

