-- ==== Sys2Proof/Laws/KeepFlags.lean ====
section
/-! SUPPORT. What every operation of Machine/Flags.lean keeps: the queue of waiting commands and the canonical form of what is stored. -/

namespace Sys2Proof.Machine

variable {Q : Keep}

theorem request_kept {s : State} {q : HwReq} (h : Kept Q s) : Kept Q (request s q) := by
  unfold request
  with_reducible repeat' first | assumption | apply State.setEv_kept

theorem setCond_kept {s : State} {reg src bits : Nat} (h : Kept Q s) : Kept Q (setCond s reg src bits) := by
  unfold setCond
  with_reducible repeat' first | assumption | apply request_kept

theorem setCondWith_kept {s : State} {reg src bits : Nat} {lasts : List (Nat × Word)} {tenant : Nat} {detail : Detail} (h : Kept Q s)
    : Kept Q (setCondWith s reg src bits lasts tenant detail) := by
  unfold setCondWith
  with_reducible repeat' first | assumption | apply request_kept

theorem setCondAgain_kept {s : State} {reg src bits : Nat} {lasts : List (Nat × Word)} {tenant : Nat} (h : Kept Q s) : Kept Q
    (setCondAgain s reg src bits lasts tenant) := by
  unfold setCondAgain
  with_reducible repeat' first | assumption | apply request_kept | apply setCondWith_kept

theorem later_kept {s : State} {src : Nat} {a : HwAct} (h : Kept Q s) : Kept Q (later s src a) := by
  unfold later
  with_reducible repeat' first | assumption | apply State.setEv_kept

theorem fireSrc_kept {s : State} {src tenant : Nat} {detail : Word} (h : Kept Q s) : Kept Q (fireSrc s src tenant detail) := by
  unfold fireSrc
  with_reducible repeat' first | assumption | apply request_kept

theorem fireJoined_kept {s : State} {src tenant : Nat} {detail : Word} (h : Kept Q s) : Kept Q (fireJoined s src tenant detail) := by
  unfold fireJoined
  with_reducible repeat' first | assumption | apply State.setEv_kept

theorem noteFind_kept {s : State} {c ord : Nat} {q : HwReq} (h : Kept Q s) : Kept Q (noteFind s c ord q) := by
  unfold noteFind
  with_reducible repeat' first | assumption | apply State.setEv_kept

theorem takeFind_kept {s : State} {q : HwReq} (h : Kept Q s) : Kept Q (takeFind s q) := by
  unfold takeFind
  repeat' first
    | with_reducible assumption
    | with_reducible (first | apply fireJoined_kept | apply request_kept)
    | split

theorem settleFinds_kept {s : State} (h : Kept Q s) : Kept Q (settleFinds s) := by
  unfold settleFinds
  with_reducible repeat' first | assumption | intro _ | apply takeFind_kept | apply State.setEv_kept | apply Kept.foldl

theorem mldCond_kept {s : State} {bits : Nat} {lasts : List (Nat × Word)} (h : Kept Q s) : Kept Q (mldCond s bits lasts) := by
  unfold mldCond
  with_reducible repeat' first | assumption | apply setCondWith_kept | apply fireSrc_kept | apply Kept.ite

end Sys2Proof.Machine
end

