-- ==== Sys2Proof/Laws/KeepFraming.lean ====
section
/-! SUPPORT. What every operation of Machine/Framing.lean keeps: the queue of waiting commands and the canonical form of what is stored. -/

namespace Sys2Proof.Machine

variable {Q : Keep}

theorem setEdlTx_kept {s : State} {n : Nat} {x : EdlTx} (h : Kept Q s) : Kept Q (setEdlTx s n x) := by
  unfold setEdlTx
  with_reducible repeat' first | assumption | apply State.setEdl_kept

theorem pushSet_kept {s : State} {n : Nat} {x : EdlSet} (h : Kept Q s) : Kept Q (pushSet s n x) := by
  unfold pushSet
  with_reducible repeat' first | assumption | apply setEdlTx_kept

theorem pushFrame_kept {s : State} {n : Nat} {transit cut : Bool} {f : EdlFrame} (h : Kept Q s) : Kept Q (pushFrame s n transit cut
    f) := by
  unfold pushFrame
  with_reducible repeat' first | assumption | apply setEdlTx_kept

end Sys2Proof.Machine
end

