-- ==== Sys2Proof/Laws/KeepVote.lean ====
section
/-! SUPPORT. What every operation of Machine/Vote.lean keeps: the queue of waiting commands and the canonical form of what is stored. -/

namespace Sys2Proof.Machine

variable {Q : Keep}

theorem voteStore_kept {s : State} {field i v : Nat} (h : Kept Q s) : Kept Q (voteStore s field i v) := by
  unfold voteStore
  repeat' first
    | with_reducible assumption
    | with_reducible (first | apply State.setHp_kept | apply wrF_kept)
    | split

theorem voteClean_kept {s : State} {field i : Nat} (h : Kept Q s) : Kept Q (voteClean s field i) := by
  unfold voteClean
  with_reducible repeat' first | assumption | apply State.setHp_kept

theorem putPairState_kept {s : State} {w : Word} (h : Kept Q s) : Kept Q (putPairState s w) := by
  unfold putPairState
  with_reducible repeat' first | assumption | apply voteClean_kept | apply wr_kept

theorem putPairEpoch_kept {s : State} {e : Nat} (h : Kept Q s) : Kept Q (putPairEpoch s e) := by
  unfold putPairEpoch
  with_reducible repeat' first | assumption | apply voteClean_kept | apply wr_kept

theorem putSceneEpoch_kept {s : State} {e : Nat} (h : Kept Q s) : Kept Q (putSceneEpoch s e) := by
  unfold putSceneEpoch
  with_reducible repeat' first | assumption | apply voteClean_kept | apply wrF_kept

end Sys2Proof.Machine
end

