-- ==== Sys2Proof/Laws/KeepOperands.lean ====
section
/-! SUPPORT. What every operation of Machine/Operands.lean keeps: the queue of waiting commands and the canonical form of what is stored. -/

namespace Sys2Proof.Machine

variable {Q : Keep}

theorem lockViolation_kept {s : State} {fn off : Nat} (h : Kept Q s) : Kept Q (lockViolation s fn off) := by
  unfold lockViolation
  with_reducible repeat' first | assumption | apply fireSrc_kept

theorem plainWrite_kept {s : State} {fn off : Nat} {q : Quarter} {v : Word} (h : Kept Q s) : Kept Q (plainWrite s fn off q v) := by
  unfold plainWrite
  repeat' first
    | with_reducible assumption
    | with_reducible (first | apply lockViolation_kept | apply wr_kept)
    | split

theorem mirrorSend_kept {s : State} {e : Nat} {recs : List MirrorRec} {fin : Bool} (h : Kept Q s) : Kept Q (mirrorSend s e recs fin)
    := by
  unfold mirrorSend
  with_reducible repeat' first | assumption | apply pushFrame_kept | apply Kept.ite

theorem mirrored_kept {s : State} {r : MirrorRec} {go : State → State} (h : Kept Q s) (h_go : ∀ x0 : State, Kept Q x0 → Kept Q (go
    x0)) : Kept Q (mirrored s r go) := by
  unfold mirrored
  with_reducible repeat' first | assumption | apply mirrorSend_kept | apply State.setPair_kept | apply h_go | apply Kept.ite

theorem hostWriteAs_kept {s : State} {fn off : Nat} {v : Word} {go : State → State} (h : Kept Q s) (h_go : ∀ x0 : State, Kept Q x0 →
    Kept Q (go x0)) : Kept Q (hostWriteAs s fn off v go) := by
  unfold hostWriteAs
  with_reducible repeat' first | assumption | apply mirrored_kept | apply h_go | apply Kept.ite

theorem indWriteAs_kept {s : State} {fn sel a : Nat} {v : Word} {go : State → State} (h : Kept Q s) (h_go : ∀ x0 : State, Kept Q x0 →
    Kept Q (go x0)) : Kept Q (indWriteAs s fn sel a v go) := by
  unfold indWriteAs
  with_reducible repeat' first | assumption | apply mirrored_kept | apply h_go | apply Kept.ite

end Sys2Proof.Machine
end

