-- ==== Sys2Proof/Laws/KeepEvents.lean ====
section
/-! SUPPORT. What every operation of Machine/Events.lean keeps: the queue of waiting commands and the canonical form of what is stored. -/

namespace Sys2Proof.Machine

variable {Q : Keep}

theorem setActive_kept {s : State} {n : Nat} {b : Bool} (h : Kept Q s) : Kept Q (setActive s n b) := by
  unfold setActive
  with_reducible repeat' first | assumption | apply wrF_kept

theorem fireNow_kept {s : State} {n kind tenant : Nat} {detail : Word} (h : Kept Q s) : Kept Q (fireNow s n kind tenant detail) := by
  unfold fireNow
  with_reducible repeat' first | assumption | apply State.setEv_kept

theorem fireHw_kept {s : State} {n kind tenant : Nat} {detail : Word} (h : Kept Q s) : Kept Q (fireHw s n kind tenant detail) := by
  unfold fireHw
  with_reducible repeat' first | assumption | apply fireNow_kept | apply Kept.ite

theorem levelFire_kept {s : State} {n : Nat} (h : Kept Q s) : Kept Q (levelFire s n) := by
  unfold levelFire
  repeat' first
    | with_reducible assumption
    | with_reducible (first | apply fireHw_kept | apply Kept.ite)
    | split

theorem settleCond_kept {s : State} {reg : Nat} (h : Kept Q s) : Kept1 Q (settleCond s reg) := by
  unfold settleCond
  repeat' first
    | with_reducible assumption
    | with_reducible apply wr_kept
    | (extract_lets -underBinder +onlyGivenNames x; clear_value x)
    | simp -zeta only [Kept1.iff, Kept2.iff]

theorem applyLasts_kept {s : State} {x_1 : List HwReq} (h : Kept Q s) : Kept Q (applyLasts s x_1) := by
  fun_induction applyLasts s x_1
  all_goals
    repeat' first
      | with_reducible apply_assumption
      | with_reducible apply wrAll_kept

theorem settleAll_kept {s : State} {x_1 : List Nat} (h : Kept Q s) : Kept1 Q (settleAll s x_1) := by
  fun_induction settleAll s x_1
  all_goals
    repeat' first
      | with_reducible apply_assumption
      | with_reducible (first | apply settleCond_kept | apply Kept.of_fst)
      | simp -zeta only [Kept1.iff]

theorem applyFire_kept {s : State} {f : Fire} (h : Kept Q s) : Kept Q (applyFire s f) := by
  unfold applyFire
  with_reducible repeat' first | assumption | apply fireHw_kept

theorem hwEvents_kept {s : State} (h : Kept Q s) : Kept Q (hwEvents s) := by
  unfold hwEvents
  with_reducible repeat' first
      | assumption | intro _ | apply applyLasts_kept | apply settleAll_kept | apply applyFire_kept | apply levelFire_kept
      | apply fireNow_kept | apply State.setEv_kept | apply Kept.ite | apply Kept.foldl | apply Kept.of_fst

theorem setPendings_kept {s : State} (h : Kept Q s) : Kept Q (setPendings s) := by
  unfold setPendings
  with_reducible repeat' first | assumption | intro _ | apply fireNow_kept | apply State.setEv_kept | apply Kept.foldl

theorem setStack_kept {s : State} {t levels : Nat} (h : Kept Q s) : Kept Q (setStack s t levels) := by
  unfold setStack
  with_reducible repeat' first | assumption | apply wr_kept

theorem sendMsi_kept {s : State} {t : Nat} (h : Kept Q s) : Kept Q (sendMsi s t) := by
  unfold sendMsi
  with_reducible repeat' first | assumption | apply emit_kept | apply State.setEv_kept | apply Kept.ite

theorem deliverOne_kept {s : State} {n : Nat} (h : Kept Q s) : Kept Q (deliverOne s n) := by
  unfold deliverOne
  repeat' first
    | with_reducible assumption
    | with_reducible (first
        | apply emit_kept | apply wr_kept | apply setActive_kept | apply State.setEv_kept | apply sendMsi_kept
        | apply setCondWith_kept | apply Kept.ite)
    | split

theorem deliverAll_kept {s : State} (h : Kept Q s) : Kept Q (deliverAll s) := by
  unfold deliverAll
  with_reducible repeat' first | assumption | apply deliverOne_kept | apply Kept.foldl

theorem popMessages_kept {s : State} {pops : List (Nat × Nat)} (h : Kept Q s) : Kept Q (popMessages s pops) := by
  unfold popMessages
  with_reducible repeat' first | assumption | intro _ | apply sendMsi_kept | apply Kept.ite | apply Kept.foldl

theorem eventTickCore_kept {s : State} (h : Kept Q s) : Kept Q (eventTickCore s) := by
  unfold eventTickCore
  with_reducible repeat' first
      | assumption | apply popMessages_kept | apply deliverAll_kept | apply setPendings_kept | apply hwEvents_kept

theorem evcCond_kept {s : State} {cond t p n : Nat} (h : Kept Q s) : Kept Q (evcCond s cond t p n) := by
  unfold evcCond
  with_reducible repeat' first | assumption | apply setCondWith_kept

theorem writeSrcCfg_kept {s : State} {n : Nat} {w : Word} (h : Kept Q s) : Kept Q (writeSrcCfg s n w) := by
  unfold writeSrcCfg
  with_reducible repeat' first | assumption | apply setActive_kept | apply wr_kept | apply evcCond_kept | apply Kept.ite

theorem resetTarget_kept {s : State} {t : Nat} (h : Kept Q s) : Kept Q (resetTarget s t) := by
  unfold resetTarget
  with_reducible repeat' first | assumption | intro _ | apply setStack_kept | apply wrF_kept | apply Kept.foldl

theorem writeTgtBind_kept {s : State} {hi : Bool} {w : Word} (h : Kept Q s) : Kept Q (writeTgtBind s hi w) := by
  unfold writeTgtBind
  with_reducible repeat' first | assumption | intro _ | apply resetTarget_kept | apply wr_kept | apply Kept.ite | apply Kept.foldl

theorem writeRingBase_kept {s : State} {t p : Nat} {w : Word} (h : Kept Q s) : Kept Q (writeRingBase s t p w) := by
  unfold writeRingBase
  with_reducible repeat' first | assumption | apply evcCond_kept | apply wr_kept | apply State.setEv_kept | apply Kept.ite

theorem writeCons_kept {s : State} {t p : Nat} {w : Word} (h : Kept Q s) : Kept Q (writeCons s t p w) := by
  unfold writeCons
  with_reducible repeat' first | assumption | apply evcCond_kept | apply wr_kept | apply Kept.ite

theorem clearPending_kept {s : State} {w : Nat} {v : Word} (h : Kept Q s) : Kept Q (clearPending s w v) := by
  unfold clearPending
  with_reducible repeat' first | assumption | intro _ | apply State.setEv_kept | apply Kept.foldl

theorem writeSetp_kept {s : State} {w : Nat} {v : Word} (h : Kept Q s) : Kept Q (writeSetp s w v) := by
  unfold writeSetp
  with_reducible repeat' first | assumption | apply State.setEv_kept

theorem writeDoorbell_kept {s : State} {fn t : Nat} {v : Word} (h : Kept Q s) : Kept Q (writeDoorbell s fn t v) := by
  unfold writeDoorbell
  with_reducible repeat' first | assumption | apply request_kept | apply Kept.ite

theorem readAck_kept {s : State} {t : Nat} (h : Kept Q s) : Kept Q (readAck s t) := by
  unfold readAck
  repeat' first
    | with_reducible assumption
    | with_reducible (first | apply State.setAns_kept | apply setStack_kept)
    | split

theorem writeEoi_kept {s : State} {t : Nat} (h : Kept Q s) : Kept Q (writeEoi s t) := by
  unfold writeEoi
  repeat' first
    | with_reducible assumption
    | intro _
    | with_reducible (first
        | apply evcCond_kept | apply setStack_kept | apply setActive_kept | apply State.setEv_kept | apply Kept.foldl)
    | split

theorem evcWrite_kept {s : State} {fn off : Nat} {q : Quarter} {w v : Word} (h : Kept Q s) : KeptO Q (evcWrite s fn off q w v) := by
  unfold evcWrite
  with_reducible repeat' first
      | assumption | apply writeTgtBind_kept | apply clearPending_kept | apply writeSetp_kept | apply writeSrcCfg_kept
      | apply writeEoi_kept | apply writeDoorbell_kept | apply writeRingBase_kept | apply writeCons_kept | apply Kept.ite
      | apply KeptO.ite | apply KeptO.none | apply KeptO.some

theorem execPclr_kept {fn : BitVec 6} {w : BitVec 4} {v : Word} {s : State} (h : Kept Q s) : KeptN Q (execPclr fn w v s) := by
  unfold execPclr
  with_reducible repeat' first | assumption | apply clearPending_kept | apply Kept.ite | apply KeptN.next

theorem execSetPending_kept {fn : BitVec 6} {w : BitVec 4} {v : Word} {s : State} (h : Kept Q s) : KeptN Q (execSetPending fn w v s)
    := by
  unfold execSetPending
  with_reducible repeat' first | assumption | apply writeSetp_kept | apply Kept.ite | apply KeptN.next

theorem execDoorbell_kept {fn : BitVec 6} {t : BitVec 3} {v : Word} {s : State} (h : Kept Q s) : KeptN Q (execDoorbell fn t v s) := by
  unfold execDoorbell
  with_reducible repeat' first | assumption | apply writeDoorbell_kept | apply Kept.ite | apply KeptN.next

theorem execAck_kept {fn : BitVec 6} {t : BitVec 3} {s : State} (h : Kept Q s) : KeptN Q (execAck fn t s) := by
  unfold execAck
  with_reducible repeat' first | assumption | apply readAck_kept | apply State.setAns_kept | apply Kept.ite | apply KeptN.next

theorem execEoi_kept {fn : BitVec 6} {t : BitVec 3} {s : State} (h : Kept Q s) : KeptN Q (execEoi fn t s) := by
  unfold execEoi
  with_reducible repeat' first | assumption | apply writeEoi_kept | apply Kept.ite | apply KeptN.next

theorem execRingBaseWrite_kept {fn : BitVec 6} {t : BitVec 3} {p : BitVec 4} {v : Word} {s : State} (h : Kept Q s) : KeptN Q
    (execRingBaseWrite fn t p v s) := by
  unfold execRingBaseWrite
  with_reducible repeat' first | assumption | apply writeRingBase_kept | apply Kept.ite | apply KeptN.next

theorem execConsWrite_kept {fn : BitVec 6} {t : BitVec 3} {p : BitVec 4} {v : Word} {s : State} (h : Kept Q s) : KeptN Q
    (execConsWrite fn t p v s) := by
  unfold execConsWrite
  with_reducible repeat' first | assumption | apply writeCons_kept | apply Kept.ite | apply KeptN.next

theorem execSourceConfigWrite_kept {fn : BitVec 6} {n : BitVec 9} {v : Word} {s : State} (h : Kept Q s) : KeptN Q
    (execSourceConfigWrite fn n v s) := by
  unfold execSourceConfigWrite
  with_reducible repeat' first | assumption | apply lockViolation_kept | apply writeSrcCfg_kept | apply Kept.ite | apply KeptN.next

theorem execTargetBindWrite_kept {fn : BitVec 6} {hi : Bool} {v : Word} {s : State} (h : Kept Q s) : KeptN Q (execTargetBindWrite fn
    hi v s) := by
  unfold execTargetBindWrite
  with_reducible repeat' first | assumption | apply lockViolation_kept | apply writeTgtBind_kept | apply Kept.ite | apply KeptN.next

theorem execMsixVectorUnmask_kept {fn : BitVec 6} {t : BitVec 3} {w : MsixWrite} {s : State} (h : Kept Q s) : KeptN Q
    (execMsixVectorUnmask fn t w s) := by
  unfold execMsixVectorUnmask
  with_reducible repeat' first
      | assumption | apply State.setHp_kept | apply State.setEv_kept | apply emit_kept | apply Kept.ite | apply KeptN.next

end Sys2Proof.Machine
end

