-- ==== Sys2Proof/Laws/KeepThermal.lean ====
section
/-! SUPPORT. What every operation of Machine/Thermal.lean keeps: the queue of waiting commands and the canonical form of what is stored. -/

namespace Sys2Proof.Machine

variable {Q : Keep}

theorem thermalCond_kept {s : State} {b : Nat} {c : Bool} (h : Kept Q s) : Kept Q (thermalCond s b c) := by
  unfold thermalCond
  with_reducible repeat' first | assumption | apply setCond_kept | apply Kept.ite

theorem sampleSensors_kept {s : State} {temps : List (BitVec 16)} (h : Kept Q s) (hG : ∀ x, Q.mgt x) : Kept Q (sampleSensors s temps)
    := by
  unfold sampleSensors
  repeat' first
    | with_reducible assumption
    | intro _
    | with_reducible (first | apply wr_kept | apply State.setMgt_kept | apply State.setHp_kept | apply thermalCond_kept | apply hG | apply Kept.foldl)
    | split

theorem writeWarn_kept {s : State} {w : Word} (h : Kept Q s) : Kept Q (writeWarn s w) := by
  unfold writeWarn
  with_reducible repeat' first | assumption | apply wr_kept | apply State.setHp_kept

theorem execSensorSample_kept {temps : List (BitVec 16)} {s : State} (h : Kept Q s) (hG : ∀ x, Q.mgt x) : KeptN Q (execSensorSample
    temps s) := by
  unfold execSensorSample
  with_reducible repeat' first | assumption | apply sampleSensors_kept | apply Kept.ite | apply KeptN.next

theorem execPowerMonitorSample_kept {mw : BitVec 20} {s : State} (h : Kept Q s) : KeptN Q (execPowerMonitorSample mw s) := by
  unfold execPowerMonitorSample
  with_reducible repeat' first | assumption | apply wr_kept | apply setCond_kept | apply Kept.ite | apply KeptN.next

theorem execMgtRead_kept {k : BitVec 4} {n : BitVec 5} {s : State} (h : Kept Q s) : KeptN Q (execMgtRead k n s) := by
  unfold execMgtRead
  with_reducible repeat' first | assumption | apply emit_kept | apply Kept.ite | apply KeptN.next

theorem execTapInstruction_kept {ins : TapIns} {trst : Bool} {s : State} (h : Kept Q s) (hG : ∀ x, Q.mgt x) : KeptN Q
    (execTapInstruction ins trst s) := by
  unfold execTapInstruction
  repeat' first
    | with_reducible assumption
    | with_reducible (first | apply State.setMgt_kept | apply emit_kept | apply hG | apply KeptN.next | apply KeptN.refused)
    | split

end Sys2Proof.Machine
end

