-- ==== Sys2Proof/Laws/KeepTimeBase.lean ====
section
/-! SUPPORT. What every operation of Machine/TimeBase.lean keeps: the queue of waiting commands and the canonical form of what is stored. -/

namespace Sys2Proof.Machine

variable {Q : Keep}

theorem setTbase_kept {s : State} {n : Nat} {b : TBase} (h : Kept Q s) : Kept Q (setTbase s n b) := by
  unfold setTbase
  with_reducible repeat' first | assumption | apply State.setTb_kept

theorem tbCond_kept {s : State} {n bitNo : Nat} (h : Kept Q s) : Kept Q (tbCond s n bitNo) := by
  unfold tbCond
  with_reducible repeat' first | assumption | apply setCond_kept

theorem setApplied_kept {s : State} {n c : Nat} {a : Int} (h : Kept Q s) : Kept Q (setApplied s n c a) := by
  unfold setApplied
  with_reducible repeat' first | assumption | apply wr_kept | apply setTbase_kept

theorem writeRate_kept {s : State} {n c : Nat} {w : Word} (h : Kept Q s) : Kept Q (writeRate s n c w) := by
  unfold writeRate
  with_reducible repeat' first
      | assumption | apply setApplied_kept | apply wr_kept | apply tbCond_kept | apply State.setTb_kept | apply Kept.ite

theorem pulseCatchUp_kept {s : State} {n c : Nat} (h : Kept Q s) : Kept Q (pulseCatchUp s n c) := by
  unfold pulseCatchUp
  with_reducible repeat' first | assumption | apply tbCond_kept | apply wr_kept | apply Kept.ite

theorem writePstart_kept {s : State} {n c : Nat} {w : Word} (h : Kept Q s) : Kept Q (writePstart s n c w) := by
  unfold writePstart
  with_reducible repeat' first | assumption | apply pulseCatchUp_kept | apply setTbase_kept | apply wr_kept

theorem writePper_kept {s : State} {n : Nat} {w : Word} (h : Kept Q s) : Kept Q (writePper s n w) := by
  unfold writePper
  with_reducible repeat' first | assumption | apply wr_kept | apply Kept.ite

theorem tbStep_kept {s : State} {n c : Nat} (h : Kept Q s) : Kept Q (tbStep s n c) := by
  unfold tbStep
  with_reducible repeat' first
      | assumption | apply tbCond_kept | apply setTbase_kept | apply pulseCatchUp_kept | apply State.setTb_kept | apply Kept.ite

theorem placeBoundaries_kept {s : State} {c : Nat} (h : Kept Q s) : Kept Q (placeBoundaries s c) := by
  unfold placeBoundaries
  repeat' first
    | with_reducible assumption
    | rfl
    | with_reducible apply State.setDkl_keep

theorem nextBoundary_kept {s : State} (h : Kept Q s) : Kept Q (nextBoundary s) := by
  unfold nextBoundary
  repeat' first
    | with_reducible assumption
    | rfl
    | with_reducible apply State.setDkl_keep

theorem setDstate_kept {s : State} {d : Nat} (h : Kept Q s) : Kept Q (setDstate s d) := by
  unfold setDstate
  with_reducible repeat' first | assumption | apply wrF_kept | apply tbCond_kept | apply Kept.ite

theorem tbEnterLaid_kept {s : State} (h : Kept Q s) : Kept Q (tbEnterLaid s) := by
  unfold tbEnterLaid
  repeat' first
    | with_reducible assumption
    | with_reducible (first | apply State.setTb_kept | apply wr_kept | apply wrF_kept | apply setDstate_kept)
    | split

theorem tbAcq_kept {s : State} {c : Nat} (h : Kept Q s) : Kept Q (tbAcq s c) := by
  unfold tbAcq
  with_reducible repeat' first
      | assumption | apply setDstate_kept | apply wr_kept | apply setTbase_kept | apply placeBoundaries_kept | apply tbCond_kept
      | apply Kept.ite

theorem slewTo_kept {s : State} {req : Int} (h : Kept Q s) : Kept Q (slewTo s req) := by
  unfold slewTo
  with_reducible repeat' first | assumption | apply State.setTb_kept | apply wr_kept

theorem servoRate_kept {s : State} (h : Kept Q s) : Kept2 Q (servoRate s) := by
  unfold servoRate
  repeat' first
    | with_reducible assumption
    | with_reducible (first | apply freeNat_kept | apply Kept.of_snd)
    | (extract_lets -underBinder +onlyGivenNames x; first
      | (have hn : Kept2 Q x := ?_; all_goals first | (have hx := hn; clear hn; clear_value x) | subst x))
    | simp -zeta only [Kept2.iff]

theorem recoverRate_kept {s : State} (h : Kept Q s) : Kept2 Q (recoverRate s) := by
  unfold recoverRate
  repeat' first
    | with_reducible assumption
    | with_reducible (first | apply servoRate_kept | apply Kept.of_snd)
    | (extract_lets -underBinder +onlyGivenNames x; first
      | (have hn : Kept2 Q x := ?_; all_goals first | (have hx := hn; clear hn; clear_value x) | subst x)
      | clear_value x)
    | simp -zeta only [Kept2.iff]

theorem countLock_kept {s : State} (h : Kept Q s) : Kept Q (countLock s) := by
  unfold countLock
  with_reducible repeat' first | assumption | apply State.setTb_kept | apply wrF_kept | apply Kept.ite

theorem enterHoldover_kept {s : State} {a : Int} (h : Kept Q s) : Kept Q (enterHoldover s a) := by
  unfold enterHoldover
  with_reducible repeat' first | assumption | apply wr_kept | apply setDstate_kept | apply State.setTb_kept

theorem wckTake_kept {s : State} {edge : Nat} (h : Kept Q s) : Kept Q (wckTake s edge) := by
  unfold wckTake
  with_reducible repeat' first | assumption | apply State.setTb_kept | apply wr_kept

theorem wckJudge_kept {s : State} {edges : List Nat} (h : Kept Q s) : Kept Q (wckJudge s edges) := by
  unfold wckJudge
  with_reducible repeat' first | assumption | apply wckTake_kept | apply State.setTb_kept | apply Kept.foldl

theorem tbBoundary_kept {s : State} {wck : List Nat} {eligible : Bool} (h : Kept Q s) : Kept Q (tbBoundary s wck eligible) := by
  unfold tbBoundary
  repeat' first
    | with_reducible assumption
    | with_reducible (first
        | apply wckJudge_kept | apply slewTo_kept | apply servoRate_kept | apply countLock_kept | apply wr_kept
        | apply enterHoldover_kept | apply setDstate_kept | apply State.setTb_kept | apply recoverRate_kept | apply wrF_kept
        | apply Kept.ite | apply Kept.of_snd)
    | split

theorem pulse_kept {s : State} {n c : Nat} (h : Kept Q s) : Kept Q (pulse s n c) := by
  unfold pulse
  with_reducible repeat' first
      | assumption | apply pulseCatchUp_kept | apply setTbase_kept | apply wr_kept | apply fireSrc_kept | apply Kept.ite

theorem pulseFalls_kept {s : State} (h : Kept Q s) : Kept Q (pulseFalls s) := by
  unfold pulseFalls
  repeat' first
    | with_reducible assumption
    | intro _
    | with_reducible (first | apply setTbase_kept | apply Kept.foldl)
    | split

theorem captureEdge_kept {s : State} {k c : Nat} {falling : Bool} (h : Kept Q s) : Kept Q (captureEdge s k c falling) := by
  unfold captureEdge
  with_reducible repeat' first | assumption | apply setCondWith_kept | apply State.setTb_kept | apply Kept.ite

theorem readCapNs0_kept {s : State} {k : Nat} (h : Kept Q s) : Kept Q (readCapNs0 s k) := by
  unfold readCapNs0
  with_reducible repeat' first | assumption | apply wr_kept | apply State.setAns_kept | apply State.setTb_kept

theorem readCapInfo_kept {s : State} {k : Nat} (h : Kept Q s) : Kept Q (readCapInfo s k) := by
  unfold readCapInfo
  with_reducible repeat' first | assumption | apply State.setAns_kept | apply wrF_kept | apply State.setTb_kept

theorem tbAdvance_kept {s : State} {c : Nat} (h : Kept Q s) : Kept Q (tbAdvance s c) := by
  unfold tbAdvance
  repeat' first
    | with_reducible assumption
    | intro _
    | rfl
    | with_reducible (first | apply setTbase_kept | apply State.setDkl_keep | apply Kept.foldl)

theorem tbWrite_kept {s : State} {off c : Nat} {q : Quarter} {w v : Word} (h : Kept Q s) : KeptO Q (tbWrite s off c q w v) := by
  unfold tbWrite
  repeat' first
    | with_reducible assumption
    | with_reducible (first
        | apply writeRate_kept | apply tbStep_kept | apply writePper_kept | apply writePstart_kept | apply tbAcq_kept
        | apply KeptO.none | apply KeptO.some)
    | split

theorem execTbRateWrite_kept {fn : BitVec 6} {n : BitVec 3} {v : Word} {cyc : BitVec 4} {s : State} (h : Kept Q s) : KeptN Q
    (execTbRateWrite fn n v cyc s) := by
  unfold execTbRateWrite
  with_reducible repeat' first | assumption | apply writeRate_kept | apply Kept.ite | apply KeptN.next

theorem execTbStep_kept {fn : BitVec 6} {n : BitVec 3} {v : Word} {cyc : BitVec 4} {s : State} (h : Kept Q s) : KeptN Q (execTbStep
    fn n v cyc s) := by
  unfold execTbStep
  with_reducible repeat' first | assumption | apply tbStep_kept | apply Kept.ite | apply KeptN.next

theorem execTbNsRead_kept {fn : BitVec 6} {n : BitVec 3} {cyc : BitVec 4} {s : State} (h : Kept Q s) : KeptN Q (execTbNsRead fn n cyc
    s) := by
  unfold execTbNsRead
  with_reducible repeat' first | assumption | apply State.setAns_kept | apply wr_kept | apply Kept.ite | apply KeptN.next

theorem execAcq_kept {fn : BitVec 6} {v : Word} {cyc : BitVec 4} {s : State} (h : Kept Q s) : KeptN Q (execAcq fn v cyc s) := by
  unfold execAcq
  with_reducible repeat' first | assumption | apply tbAcq_kept | apply Kept.ite | apply KeptN.next

theorem execHostWatchdogExpiry_kept {s : State} (h : Kept Q s) : KeptN Q (execHostWatchdogExpiry s) := by
  unfold execHostWatchdogExpiry
  with_reducible repeat' first | assumption | apply State.setTb_kept | apply Kept.ite | apply KeptN.next

theorem execWordClockLoss_kept {s : State} (h : Kept Q s) : KeptN Q (execWordClockLoss s) := by
  unfold execWordClockLoss
  with_reducible repeat' first | assumption | apply State.setTb_kept | apply Kept.ite | apply KeptN.next

theorem execPulse_kept {n : BitVec 3} {cyc : BitVec 4} {s : State} (h : Kept Q s) : KeptN Q (execPulse n cyc s) := by
  unfold execPulse
  with_reducible repeat' first | assumption | apply pulse_kept | apply KeptN.next

theorem execPstartWrite_kept {fn : BitVec 6} {n : BitVec 3} {v : Word} {cyc : BitVec 4} {s : State} (h : Kept Q s) : KeptN Q
    (execPstartWrite fn n v cyc s) := by
  unfold execPstartWrite
  with_reducible repeat' first | assumption | apply writePstart_kept | apply Kept.ite | apply KeptN.next

theorem execCapture_kept {k : BitVec 3} {falling : Bool} {cyc : BitVec 4} {s : State} (h : Kept Q s) : KeptN Q (execCapture k falling
    cyc s) := by
  unfold execCapture
  with_reducible repeat' first | assumption | apply captureEdge_kept | apply KeptN.next

theorem execCaptureNs0Read_kept {fn : BitVec 6} {k : BitVec 3} {s : State} (h : Kept Q s) : KeptN Q (execCaptureNs0Read fn k s) := by
  unfold execCaptureNs0Read
  with_reducible repeat' first | assumption | apply readCapNs0_kept | apply State.setAns_kept | apply Kept.ite | apply KeptN.next

theorem execCaptureInfoRead_kept {fn : BitVec 6} {k : BitVec 3} {s : State} (h : Kept Q s) : KeptN Q (execCaptureInfoRead fn k s) :=
    by
  unfold execCaptureInfoRead
  with_reducible repeat' first | assumption | apply readCapInfo_kept | apply State.setAns_kept | apply Kept.ite | apply KeptN.next

end Sys2Proof.Machine
end

