-- ==== Sys2Proof/Laws/KeepSearch.lean ====
section
/-! SUPPORT. What every operation of Machine/Search.lean keeps: the queue of waiting commands and the canonical form of what is stored. -/

namespace Sys2Proof.Machine

variable {Q : Keep}

theorem landBeat_kept {s : State} {land addr : Nat} {op : ArrOp} (h : Kept Q s) : Kept Q (landBeat s land addr op) := by
  unfold landBeat
  with_reducible repeat' first | assumption | apply State.setSrch_kept

theorem foldBeats_kept {s : State} (h : Kept Q s) : Kept Q (foldBeats s) := by
  unfold foldBeats
  with_reducible repeat' first | assumption | apply State.setSrch_kept

theorem autoInvalidate_kept {s : State} {c w : Nat} {fails : List WmFail} (h : Kept Q s) : Kept Q (autoInvalidate s c w fails) := by
  unfold autoInvalidate
  with_reducible repeat' first | assumption | intro _ | apply landBeat_kept | apply Kept.foldl

theorem reportFail_kept {s : State} {pipe issue w : Nat} {f : WmFail} (h : Kept Q s) : Kept Q (reportFail s pipe issue w f) := by
  unfold reportFail
  with_reducible repeat' first | assumption | apply noteFind_kept

theorem wmkFinding_kept {s : State} {c ord bits : Nat} {lasts : List (Nat × Word)} {tenant : Nat} (h : Kept Q s) : Kept Q (wmkFinding
    s c ord bits lasts tenant) := by
  unfold wmkFinding
  with_reducible repeat' first | assumption | apply noteFind_kept

theorem startSearch_kept {s : State} {pipe c : Nat} {r : SReq} (h : Kept Q s) : Kept Q (startSearch s pipe c r) := by
  unfold startSearch
  with_reducible repeat' first | assumption | apply State.setSrch_kept | apply autoInvalidate_kept

theorem pipeChoose_kept {s : State} {pipe c : Nat} (h : Kept Q s) : Kept Q (pipeChoose s pipe c) := by
  unfold pipeChoose
  repeat' first
    | with_reducible assumption
    | with_reducible apply startSearch_kept
    | split

theorem execSearchIssue_kept {cyc : BitVec 4} {s : State} (h : Kept Q s) : KeptN Q (execSearchIssue cyc s) := by
  unfold execSearchIssue
  with_reducible repeat' first | assumption | apply pipeChoose_kept | apply KeptN.next

theorem diagDone_kept {s : State} {r : SRec} (h : Kept Q s) : Kept Q (diagDone s r) := by
  unfold diagDone
  with_reducible repeat' first | assumption | apply wrAll_kept | apply setCond_kept

theorem reportDbad_kept {s : State} {pipe issue : Nat} {r : SRec} (h : Kept Q s) : Kept Q (reportDbad s pipe issue r) := by
  unfold reportDbad
  with_reducible repeat' first | assumption | apply wmkFinding_kept | apply Kept.ite

theorem deliverFlight_kept {s : State} {f : Flight} (h : Kept Q s) : Kept Q (deliverFlight s f) := by
  unfold deliverFlight
  repeat' first
    | with_reducible assumption
    | intro _
    | with_reducible (first
        | apply reportFail_kept | apply reportDbad_kept | apply diagDone_kept | apply State.setSrch_kept | apply Kept.foldl)
    | split

theorem execSearchResult_kept {pipe : BitVec 1} {s : State} (h : Kept Q s) : KeptN Q (execSearchResult pipe s) := by
  unfold execSearchResult
  repeat' first
    | with_reducible assumption
    | with_reducible (first | apply deliverFlight_kept | apply State.setSrch_kept | apply KeptN.next)
    | split

theorem diagGo_kept {s : State} (h : Kept Q s) : Kept Q (diagGo s) := by
  unfold diagGo
  with_reducible repeat' first | assumption | apply setCond_kept | apply wr_kept | apply later_kept | apply Kept.ite

theorem diagRequest_kept {s : State} {p t : Nat} (h : Kept Q s) : Kept Q (diagRequest s p t) := by
  unfold diagRequest
  with_reducible repeat' first | assumption | apply State.setSrch_kept | apply wr_kept | apply Kept.ite

theorem execDiagGo_kept {fn : BitVec 6} {v : Word} {s : State} (h : Kept Q s) : KeptN Q (execDiagGo fn v s) := by
  unfold execDiagGo
  with_reducible repeat' first | assumption | apply plainWrite_kept | apply diagGo_kept | apply Kept.ite | apply KeptN.next

theorem diagLiftEnd_kept {s : State} (h : Kept Q s) : Kept Q (diagLiftEnd s) := by
  unfold diagLiftEnd
  with_reducible repeat' first | assumption | apply wr_kept | apply State.setSrch_kept | apply Kept.ite

theorem creditReload_kept {s : State} (h : Kept Q s) : Kept Q (creditReload s) := by
  unfold creditReload
  with_reducible repeat' first
      | assumption | intro _ | apply setCond_kept | apply State.setSrch_kept | apply Kept.ite | apply Kept.foldl

theorem scrubAdvance_kept {s : State} (h : Kept Q s) : Kept Q (scrubAdvance s) := by
  unfold scrubAdvance
  repeat' first
    | with_reducible assumption
    | with_reducible (first | apply State.setSrch_kept | apply wrF_kept | apply wmkFinding_kept | apply Kept.ite)
    | split

theorem scrubAd_kept {s : State} {c addr : Nat} {u : SUnit} (h : Kept Q s) : Kept Q (scrubAd s c addr u) := by
  unfold scrubAd
  with_reducible repeat' first | assumption | apply wmkFinding_kept | apply Kept.ite

theorem scrubVisit_kept {s : State} {c : Nat} (h : Kept Q s) : Kept Q (scrubVisit s c) := by
  unfold scrubVisit
  with_reducible repeat' first
      | assumption | apply wmkFinding_kept | apply landBeat_kept | apply scrubAdvance_kept | apply scrubAd_kept
      | apply State.setSrch_kept | apply Kept.ite

theorem scrubRewrite_kept {s : State} {x : Nat × Nat × Nat} {c : Nat} (h : Kept Q s) : Kept Q (scrubRewrite s x c) := by
  unfold scrubRewrite
  with_reducible repeat' first | assumption | apply scrubAdvance_kept | apply wmkFinding_kept | apply landBeat_kept

theorem execScrubStall_kept {s : State} (h : Kept Q s) : KeptN Q (execScrubStall s) := by
  unfold execScrubStall
  with_reducible repeat' first | assumption | apply wmkFinding_kept | apply State.setSrch_kept | apply Kept.ite | apply KeptN.next

end Sys2Proof.Machine
end

