-- ==== Sys2Proof/Laws/KeepUpdate.lean ====
section
/-! SUPPORT. What every operation of Machine/Update.lean keeps: the queue of waiting commands and the canonical form of what is stored. -/

namespace Sys2Proof.Machine

variable {Q : Keep}

theorem updReject_kept {s : State} {bitNo op reason addr : Nat} (h : Kept Q s) : Kept Q (updReject s bitNo op reason addr) := by
  unfold updReject
  with_reducible repeat' first | assumption | apply setCondWith_kept

theorem settleHead_kept {s : State} {x_1 : List UpdItem} (h : Kept Q s) : Kept Q (settleHead s x_1) := by
  fun_induction settleHead s x_1
  all_goals
    repeat' first
      | with_reducible apply_assumption
      | with_reducible (first | apply State.setUpd_kept | apply updReject_kept)

theorem fifoPush_kept {s : State} {i : UpdItem} (h : Kept Q s) : KeptO Q (fifoPush s i) := by
  unfold fifoPush
  with_reducible repeat' first
      | assumption | apply settleHead_kept | apply State.setUpd_kept | apply KeptO.ite | apply KeptO.none | apply KeptO.some

theorem cmdWord_kept {s : State} {fn : Nat} {v : Word} (h : Kept Q s) : Kept Q (cmdWord s fn v) := by
  unfold cmdWord
  repeat' first
    | with_reducible assumption
    | with_reducible (first | apply State.setUpd_kept | apply updReject_kept | apply fifoPush_kept | apply Kept.ite)
    | split
    | refine Kept.of_some ?_ (by assumption)

theorem inject_kept {s : State} {addr c : Nat} {op : ArrOp} (h : Kept Q s) : Kept2 Q (inject s addr c op) := by
  unfold inject
  repeat' first
    | with_reducible assumption
    | with_reducible apply wr_kept
    | (extract_lets -underBinder +onlyGivenNames x; clear_value x)
    | simp -zeta only [Kept2.iff]
    | split

theorem cancelRewrite_kept {s : State} {addr : Nat} (h : Kept Q s) : Kept Q (cancelRewrite s addr) := by
  unfold cancelRewrite
  with_reducible repeat' first | assumption | apply scrubAdvance_kept | apply Kept.ite

theorem dropImage_kept {s : State} {addr : Nat} (h : Kept Q s) : Kept Q (dropImage s addr) := by
  unfold dropImage
  repeat' first
    | with_reducible assumption
    | with_reducible apply State.setFwd_kept
    | split

theorem injectLate_kept {s : State} (h : Kept Q s) : Kept Q (injectLate s) := by
  unfold injectLate
  repeat' first
    | with_reducible assumption
    | with_reducible (first | apply inject_kept | apply State.setSrch_kept | apply landBeat_kept | apply Kept.ite | apply Kept.of_snd)
    | split

theorem hostBeat_kept {s : State} {addr c : Nat} {op : ArrOp} (h : Kept Q s) : Kept Q (hostBeat s addr c op) := by
  unfold hostBeat
  with_reducible repeat' first
      | assumption | apply inject_kept | apply cancelRewrite_kept | apply dropImage_kept | apply landBeat_kept | apply Kept.of_snd

theorem engineBeat_kept {s : State} {addr c : Nat} {op : ArrOp} (h : Kept Q s) : Kept Q (engineBeat s addr c op) := by
  unfold engineBeat
  with_reducible repeat' first | assumption | apply cancelRewrite_kept | apply landBeat_kept

theorem writeBodies_kept {s : State} {ws : List Word} {addr c : Nat} {x_4 : List Nat} (h : Kept Q s) : Kept Q (writeBodies s ws addr
    c x_4) := by
  fun_induction writeBodies s ws addr c x_4
  all_goals
    repeat' first
      | with_reducible apply_assumption
      | with_reducible apply hostBeat_kept

theorem endTransfer_kept {s : State} {c : Nat} (h : Kept Q s) : Kept Q (endTransfer s c) := by
  unfold endTransfer
  with_reducible repeat' first | assumption | apply State.setUpd_kept | apply settleHead_kept

theorem doWrite_kept {s : State} {ws : List Word} {c : Nat} (h : Kept Q s) : Kept Q (doWrite s ws c) := by
  unfold doWrite
  with_reducible repeat' first
      | assumption | apply setCondWith_kept | apply endTransfer_kept | apply writeBodies_kept | apply Kept.ite

theorem doWriteAd_kept {s : State} {addr ad c : Nat} (h : Kept Q s) : Kept Q (doWriteAd s addr ad c) := by
  unfold doWriteAd
  with_reducible repeat' first | assumption | apply endTransfer_kept | apply hostBeat_kept

theorem doValid_kept {s : State} {addr v c : Nat} (h : Kept Q s) : Kept Q (doValid s addr v c) := by
  unfold doValid
  with_reducible repeat' first | assumption | apply endTransfer_kept | apply landBeat_kept

theorem doReplace_kept {s : State} {ws : List Word} {c : Nat} (h : Kept Q s) : Kept Q (doReplace s ws c) := by
  unfold doReplace
  with_reducible repeat' first
      | assumption | apply endTransfer_kept | apply updReject_kept | apply landBeat_kept | apply writeBodies_kept | apply Kept.ite

theorem moveUnits_kept {s : State} {src dst c rc : Nat} {x_5 : List Nat} (h : Kept Q s) : Kept Q (moveUnits s src dst c rc x_5) := by
  fun_induction moveUnits s src dst c rc x_5
  all_goals
    repeat' first
      | with_reducible apply_assumption
      | with_reducible apply hostBeat_kept

theorem doMove_kept {s : State} {ws : List Word} {c : Nat} (h : Kept Q s) : Kept Q (doMove s ws c) := by
  unfold doMove
  with_reducible repeat' first
      | assumption | apply endTransfer_kept | apply updReject_kept | apply landBeat_kept | apply moveUnits_kept | apply Kept.ite

theorem doMark_kept {s : State} {fn : Nat} {ws : List Word} {c : Nat} (h : Kept Q s) : Kept Q (doMark s fn ws c) := by
  unfold doMark
  with_reducible repeat' first | assumption | apply wr_kept | apply endTransfer_kept | apply setCond_kept

theorem doCell_kept {s : State} {addr value mask c : Nat} (h : Kept Q s) : Kept Q (doCell s addr value mask c) := by
  unfold doCell
  with_reducible repeat' first | assumption | apply endTransfer_kept | apply hostBeat_kept

theorem updDiscard_kept {s : State} (h : Kept Q s) : Kept Q (updDiscard s) := by
  unfold updDiscard
  with_reducible repeat' first | assumption | apply State.setUpd_kept

theorem execUpdCmdWord_kept {fn : BitVec 6} {v : Word} {s : State} (h : Kept Q s) : KeptN Q (execUpdCmdWord fn v s) := by
  unfold execUpdCmdWord
  with_reducible repeat' first | assumption | intro _ | apply hostWriteAs_kept | apply cmdWord_kept | apply KeptN.next

theorem execUpdFlush_kept {fn : BitVec 6} {v : Word} {s : State} (h : Kept Q s) : KeptN Q (execUpdFlush fn v s) := by
  unfold execUpdFlush
  with_reducible repeat' first
      | assumption | intro _ | apply hostWriteAs_kept | apply State.setUpd_kept | apply Kept.ite | apply KeptN.next

theorem serveCmd_kept {s : State} {op c : Nat} {f : State → Nat → List Word → Nat → State} (h : Kept Q s) (h_f : ∀ x0 : State, Kept Q
    x0 → ∀ x1 : Nat, ∀ x2 : List Word, ∀ x3 : Nat, Kept Q (f x0 x1 x2 x3)) : Kept Q (serveCmd s op c f) := by
  unfold serveCmd
  repeat' first
    | with_reducible assumption
    | with_reducible apply h_f
    | split

theorem execWrite_kept {cyc : BitVec 4} {s : State} (h : Kept Q s) : KeptN Q (execWrite cyc s) := by
  unfold execWrite
  with_reducible repeat' first | assumption | intro _ | apply serveCmd_kept | apply doWrite_kept | apply KeptN.next

theorem execInvalidate_kept {cyc : BitVec 4} {s : State} (h : Kept Q s) : KeptN Q (execInvalidate cyc s) := by
  unfold execInvalidate
  with_reducible repeat' first | assumption | intro _ | apply serveCmd_kept | apply doValid_kept | apply KeptN.next

theorem execValidate_kept {cyc : BitVec 4} {s : State} (h : Kept Q s) : KeptN Q (execValidate cyc s) := by
  unfold execValidate
  with_reducible repeat' first | assumption | intro _ | apply serveCmd_kept | apply doValid_kept | apply KeptN.next

theorem execReplace_kept {cyc : BitVec 4} {s : State} (h : Kept Q s) : KeptN Q (execReplace cyc s) := by
  unfold execReplace
  with_reducible repeat' first | assumption | intro _ | apply serveCmd_kept | apply doReplace_kept | apply KeptN.next

theorem execMove_kept {cyc : BitVec 4} {s : State} (h : Kept Q s) : KeptN Q (execMove cyc s) := by
  unfold execMove
  with_reducible repeat' first | assumption | intro _ | apply serveCmd_kept | apply doMove_kept | apply KeptN.next

theorem execMark_kept {cyc : BitVec 4} {s : State} (h : Kept Q s) : KeptN Q (execMark cyc s) := by
  unfold execMark
  with_reducible repeat' first | assumption | intro _ | apply serveCmd_kept | apply doMark_kept | apply KeptN.next

theorem execQuireCellWrite_kept {cyc : BitVec 4} {s : State} (h : Kept Q s) : KeptN Q (execQuireCellWrite cyc s) := by
  unfold execQuireCellWrite
  repeat' first
    | with_reducible assumption
    | with_reducible (first | apply doCell_kept | apply KeptN.next)
    | split

end Sys2Proof.Machine
end

