-- ==== Sys2Proof/Laws/KeepForward.lean ====
section
/-! SUPPORT. What every operation of Machine/Forward.lean keeps: the queue of waiting commands and the canonical form of what is stored. -/

namespace Sys2Proof.Machine

variable {Q : Keep}

theorem tblWrite_kept {s : State} {t i v : Nat} (h : Kept Q s) : Kept Q (tblWrite s t i v) := by
  unfold tblWrite
  with_reducible repeat' first | assumption | apply State.setFwd_kept

theorem fwdCond_kept {s : State} {b : Nat} (h : Kept Q s) : Kept Q (fwdCond s b) := by
  unfold fwdCond
  with_reducible repeat' first | assumption | apply setCond_kept

theorem fwdPerr_kept {s : State} {table way index : Nat} (h : Kept Q s) : Kept Q (fwdPerr s table way index) := by
  unfold fwdPerr
  with_reducible repeat' first | assumption | apply setCondWith_kept

theorem fwdDrop_kept {s : State} {p : Nat} (h : Kept Q s) : Kept Q (fwdDrop s p) := by
  unfold fwdDrop
  with_reducible repeat' first | assumption | apply setCond_kept

theorem staSet_kept {s : State} {loc x : Nat} (h : Kept Q s) : Kept Q (staSet s loc x) := by
  unfold staSet
  with_reducible repeat' first | assumption | apply State.setFwd_kept

theorem flipRam_kept {land : Nat} {s : State} {f : RamFlip} (h : Kept Q s) : Kept Q (flipRam land s f) := by
  unfold flipRam
  repeat' first
    | with_reducible assumption
    | with_reducible (first | apply landBeat_kept | apply staSet_kept | apply State.setFwd_kept)
    | split

theorem ramTake_kept {s : State} {c : Nat} (h : Kept Q s) : Kept Q (ramTake s c) := by
  unfold ramTake
  with_reducible repeat' first | assumption | apply State.setFwd_kept

theorem hostRam_kept {s : State} (h : Kept Q s) : Kept Q (hostRam s) := by
  unfold hostRam
  with_reducible repeat' first | assumption | apply ramTake_kept

theorem clearBad_kept {s : State} {loc : Nat} (h : Kept Q s) : Kept Q (clearBad s loc) := by
  unfold clearBad
  with_reducible repeat' first | assumption | apply ramTake_kept | apply fwdPerr_kept | apply staSet_kept | apply Kept.ite

theorem clearBadRows_kept {s : State} {key : Nat} (h : Kept Q s) : Kept Q (clearBadRows s key) := by
  unfold clearBadRows
  with_reducible repeat' first | assumption | intro _ | apply clearBad_kept | apply Kept.foldl

theorem askFrame_kept {s : State} {f : FrameIn} {which cls prof : Nat} {src : KeySrc} (h : Kept Q s) : Kept Q (askFrame s f which cls
    prof src) := by
  unfold askFrame
  with_reducible repeat' first | assumption | apply State.setSrch_kept

theorem putFrame_kept {s : State} {f : FrameIn} (h : Kept Q s) : Kept Q (putFrame s f) := by
  unfold putFrame
  with_reducible repeat' first | assumption | apply State.setFwd_kept

theorem retireFrame_kept {s : State} {f : FrameIn} (h : Kept Q s) : Kept Q (retireFrame s f) := by
  unfold retireFrame
  with_reducible repeat' first | assumption | apply State.setFwd_kept | apply State.setSrch_kept

theorem askStream_kept {s : State} {f : FrameIn} (h : Kept Q s) : Kept Q (askStream s f) := by
  unfold askStream
  with_reducible repeat' first | assumption | apply freeNat_kept | apply askFrame_kept | apply Kept.of_snd

theorem classify_kept {s : State} {p : Nat} {bs fcs : List Byte} {stamp : Option (Nat × Nat)} (h : Kept Q s) : Kept Q (classify s p
    bs fcs stamp) := by
  unfold classify
  repeat' first
    | with_reducible assumption
    | with_reducible (first
        | apply fwdDrop_kept | apply fwdPerr_kept | apply askStream_kept | apply askFrame_kept | apply State.setFwd_kept
        | apply Kept.ite)
    | split

theorem insertionFailure_kept {s : State} {key port cause : Nat} (h : Kept Q s) : Kept Q (insertionFailure s key port cause) := by
  unfold insertionFailure
  with_reducible repeat' first | assumption | apply wrAll_kept | apply fireSrc_kept

theorem learnPush_kept {s : State} {r : LearnReq} (h : Kept Q s) : Kept Q (learnPush s r) := by
  unfold learnPush
  with_reducible repeat' first | assumption | apply fwdCond_kept | apply State.setFwd_kept | apply Kept.ite

theorem meetLimit_kept {s : State} {f : FrameIn} (h : Kept Q s) : Kept Q (meetLimit s f) := by
  unfold meetLimit
  with_reducible repeat' first | assumption | apply setCond_kept | apply putFrame_kept

theorem sourceOutcome_kept {s : State} {f : FrameIn} {ovf : Option SRec} (h : Kept Q s) : Kept Q (sourceOutcome s f ovf) := by
  unfold sourceOutcome
  repeat' first
    | with_reducible assumption
    | with_reducible (first
        | apply putFrame_kept | apply learnPush_kept | apply State.setFwd_kept | apply meetLimit_kept | apply insertionFailure_kept)
    | (extract_lets -underBinder +onlyGivenNames x; first
      | (have hn : Kept Q x := ?_; all_goals first | (have hx := hn; clear hn; clear_value x) | subst x)
      | clear_value x)
    | split

theorem lookupFrame_kept {s : State} {f : FrameIn} (h : Kept Q s) : Kept Q (lookupFrame s f) := by
  unfold lookupFrame
  repeat' first
    | with_reducible assumption
    | with_reducible (first | apply clearBadRows_kept | apply sourceOutcome_kept | apply putFrame_kept | apply State.setSrch_kept)
    | (extract_lets -underBinder +onlyGivenNames x; first
      | (have hn : Kept Q x := ?_; all_goals first | (have hx := hn; clear hn; clear_value x) | subst x))
    | split

theorem sourceLookup_kept {s : State} {p : Nat} (h : Kept Q s) : Kept Q (sourceLookup s p) := by
  unfold sourceLookup
  repeat' first
    | with_reducible assumption
    | with_reducible (first | apply putFrame_kept | apply lookupFrame_kept)
    | split

theorem execSourceLookup_kept {port : BitVec 5} {s : State} (h : Kept Q s) : KeptN Q (execSourceLookup port s) := by
  unfold execSourceLookup
  with_reducible repeat' first | assumption | apply sourceLookup_kept | apply Kept.ite | apply KeptN.next

theorem learnReplace_kept {s : State} {addr c value ad : Nat} (h : Kept Q s) : Kept Q (learnReplace s addr c value ad) := by
  unfold learnReplace
  with_reducible repeat' first | assumption | apply landBeat_kept | apply engineBeat_kept | apply State.setUpd_kept

theorem learnPop_kept {s : State} (h : Kept Q s) : Kept Q (learnPop s) := by
  unfold learnPop
  with_reducible repeat' first | assumption | apply State.setSrch_kept | apply State.setFwd_kept

theorem engineLook_kept {s : State} {r : LearnReq} (h : Kept Q s) : Kept Q (engineLook s r) := by
  unfold engineLook
  with_reducible repeat' first | assumption | apply State.setFwd_kept | apply State.setSrch_kept

theorem learnPace_kept {s : State} {c : Nat} (h : Kept Q s) : Kept Q (learnPace s c) := by
  unfold learnPace
  with_reducible repeat' first | assumption | apply State.setFwd_kept

theorem unmark_kept {s : State} {loc : Nat} (h : Kept Q s) : Kept Q (unmark s loc) := by
  unfold unmark
  with_reducible repeat' first | assumption | apply State.setFwd_kept

theorem ramWrite_kept {s : State} {loc x c : Nat} (h : Kept Q s) : Kept Q (ramWrite s loc x c) := by
  unfold ramWrite
  with_reducible repeat' first | assumption | apply staSet_kept | apply State.setFwd_kept

theorem flushStep_kept {s : State} {c : Nat} {x_2 : List FlushJob} (h : Kept Q s) : KeptO Q (flushStep s c x_2) := by
  fun_induction flushStep s c x_2
  all_goals
    repeat' first
      | with_reducible assumption
      | with_reducible (first
          | apply unmark_kept | apply landBeat_kept | apply State.setUpd_kept | apply learnPace_kept | apply State.setFwd_kept
          | apply Kept.ite | apply KeptO.ite | apply KeptO.none | apply KeptO.some | apply Kept.of_getD)
      | split
      | dsimp -zeta only
      | refine Kept.of_some ?_ (by assumption)

theorem learnStep_kept {s : State} {c : Nat} (h : Kept Q s) : Kept Q (learnStep s c) := by
  unfold learnStep
  repeat' first
    | with_reducible assumption
    | with_reducible (first
        | apply clearBadRows_kept | apply engineLook_kept | apply learnPop_kept | apply insertionFailure_kept | apply unmark_kept
        | apply ramWrite_kept | apply learnPace_kept | apply learnReplace_kept)
    | (extract_lets -underBinder +onlyGivenNames x; first
      | (have hn : Kept Q x := ?_; all_goals first | (have hx := hn; clear hn; clear_value x) | subst x))
    | split

theorem learnTurn_kept {s : State} {c : Nat} (h : Kept Q s) : Kept Q (learnTurn s c) := by
  unfold learnTurn
  with_reducible repeat' first | assumption | apply flushStep_kept | apply learnStep_kept | apply Kept.ite | apply Kept.of_getD

theorem execLearningRequest_kept {cyc : BitVec 4} {s : State} (h : Kept Q s) : KeptN Q (execLearningRequest cyc s) := by
  unfold execLearningRequest
  with_reducible repeat' first | assumption | apply learnTurn_kept | apply Kept.ite | apply KeptN.next

theorem writeLearnCtl_kept {s : State} {w : Word} (h : Kept Q s) : Kept Q (writeLearnCtl s w) := by
  unfold writeLearnCtl
  with_reducible repeat' first | assumption | apply wr_kept | apply State.setFwd_kept | apply State.setSrch_kept | apply Kept.ite

theorem execHold_kept {fn : BitVec 6} {v : Word} {s : State} (h : Kept Q s) : KeptN Q (execHold fn v s) := by
  unfold execHold
  with_reducible repeat' first | assumption | intro _ | apply hostWriteAs_kept | apply writeLearnCtl_kept | apply KeptN.next

theorem startSweep_kept {s : State} (h : Kept Q s) : Kept Q (startSweep s) := by
  unfold startSweep
  with_reducible repeat' first | assumption | intro _ | apply clearBad_kept | apply State.setFwd_kept | apply Kept.foldl

theorem execAgingTick_kept {s : State} (h : Kept Q s) : KeptN Q (execAgingTick s) := by
  unfold execAgingTick
  with_reducible repeat' first
      | assumption | apply wrF_kept | apply setCond_kept | apply State.setFwd_kept | apply startSweep_kept | apply Kept.ite
      | apply KeptN.next

theorem agingStep_kept {s : State} {c : Nat} (h : Kept Q s) : Kept Q (agingStep s c) := by
  unfold agingStep
  repeat' first
    | with_reducible assumption
    | with_reducible (first
        | apply unmark_kept | apply clearBad_kept | apply ramWrite_kept | apply State.setFwd_kept | apply landBeat_kept
        | apply State.setUpd_kept | apply Kept.ite)
    | split

theorem execAgingRemoval_kept {cyc : BitVec 4} {s : State} (h : Kept Q s) : KeptN Q (execAgingRemoval cyc s) := by
  unfold execAgingRemoval
  with_reducible repeat' first | assumption | apply agingStep_kept | apply Kept.ite | apply KeptN.next

theorem execAgingSweepEnd_kept {s : State} (h : Kept Q s) : KeptN Q (execAgingSweepEnd s) := by
  unfold execAgingSweepEnd
  with_reducible repeat' first | assumption | apply startSweep_kept | apply State.setFwd_kept | apply Kept.ite | apply KeptN.next

theorem agingWriteAd_kept {s : State} {c : Nat} (h : Kept Q s) : Kept Q (agingWriteAd s c) := by
  unfold agingWriteAd
  repeat' first
    | with_reducible assumption
    | with_reducible (first | apply State.setFwd_kept | apply engineBeat_kept | apply State.setUpd_kept)
    | split

theorem execWriteAd_kept {cyc : BitVec 4} {s : State} (h : Kept Q s) : KeptN Q (execWriteAd cyc s) := by
  unfold execWriteAd
  repeat' first
    | with_reducible assumption
    | intro _
    | with_reducible (first | apply doWriteAd_kept | apply serveCmd_kept | apply agingWriteAd_kept | apply KeptN.next)
    | split

theorem flush_kept {s : State} {sel : Word} {static : Bool} {fn : Nat} (h : Kept Q s) : Kept Q (flush s sel static fn) := by
  unfold flush
  with_reducible repeat' first
      | assumption | intro _ | apply unmark_kept | apply staSet_kept | apply wrF_kept | apply State.setFwd_kept | apply Kept.foldl

theorem flushGo_kept {s : State} {fn : Nat} (h : Kept Q s) : Kept Q (flushGo s fn) := by
  unfold flushGo
  with_reducible repeat' first | assumption | apply flush_kept | apply Kept.ite

theorem flushEnd_kept {s : State} {j : FlushJob} (h : Kept Q s) : Kept Q (flushEnd s j) := by
  unfold flushEnd
  with_reducible repeat' first | assumption | apply State.setFwd_kept | apply fwdCond_kept | apply wrF_kept

theorem execFlushGo_kept {fn : BitVec 6} {v : Word} {s : State} (h : Kept Q s) : KeptN Q (execFlushGo fn v s) := by
  unfold execFlushGo
  with_reducible repeat' first
      | assumption | intro _ | apply hostWriteAs_kept | apply plainWrite_kept | apply flushGo_kept | apply Kept.ite | apply KeptN.next

theorem execFlushDone_kept {s : State} (h : Kept Q s) : KeptN Q (execFlushDone s) := by
  unfold execFlushDone
  repeat' first
    | with_reducible assumption
    | with_reducible (first | apply flushEnd_kept | apply KeptN.next)
    | split

theorem linkLossFlush_kept {s : State} {p : Nat} (h : Kept Q s) : Kept Q (linkLossFlush s p) := by
  unfold linkLossFlush
  with_reducible repeat' first | assumption | apply flush_kept | apply Kept.ite

theorem staEnd_kept {s : State} {result : Nat} (h : Kept Q s) : Kept Q (staEnd s result) := by
  unfold staEnd
  with_reducible repeat' first | assumption | apply fwdCond_kept | apply wrF_kept

theorem staLookup_kept {s : State} {fn : Nat} (h : Kept Q s) : Kept Q (staLookup s fn) := by
  unfold staLookup
  repeat' first
    | with_reducible assumption
    | with_reducible (first | apply staEnd_kept | apply clearBadRows_kept | apply wr_kept | apply wrF_kept | apply Kept.ite)
    | (extract_lets -underBinder +onlyGivenNames x; first
      | (have hn : Kept Q x := ?_; all_goals first | (have hx := hn; clear hn; clear_value x) | subst x))
    | split

theorem staRead_kept {s : State} {fn : Nat} (h : Kept Q s) : Kept Q (staRead s fn) := by
  unfold staRead
  with_reducible repeat' first | assumption | apply staEnd_kept | apply clearBad_kept | apply wrAll_kept | apply Kept.ite

theorem staWrite_kept {s : State} {fn : Nat} (h : Kept Q s) : Kept Q (staWrite s fn) := by
  unfold staWrite
  with_reducible repeat' first
      | assumption | apply staEnd_kept | apply clearBad_kept | apply clearBadRows_kept | apply hostRam_kept | apply staSet_kept
      | apply State.setFwd_kept | apply Kept.ite

theorem staDelete_kept {s : State} {fn : Nat} (h : Kept Q s) : Kept Q (staDelete s fn) := by
  unfold staDelete
  repeat' first
    | with_reducible assumption
    | with_reducible (first
        | apply staEnd_kept | apply clearBadRows_kept | apply unmark_kept | apply hostRam_kept | apply staSet_kept | apply Kept.ite)
    | (extract_lets -underBinder +onlyGivenNames x; first
      | (have hn : Kept Q x := ?_; all_goals first | (have hx := hn; clear hn; clear_value x) | subst x))
    | split

theorem moveMark_kept {s : State} {src dst : Nat} (h : Kept Q s) : Kept Q (moveMark s src dst) := by
  unfold moveMark
  with_reducible repeat' first | assumption | apply State.setFwd_kept

theorem staMove_kept {s : State} {fn : Nat} (h : Kept Q s) : Kept Q (staMove s fn) := by
  unfold staMove
  with_reducible repeat' first
      | assumption | apply staEnd_kept | apply clearBad_kept | apply moveMark_kept | apply hostRam_kept | apply staSet_kept
      | apply Kept.ite

theorem staHashCmd_kept {s : State} {fn : Nat} (h : Kept Q s) : Kept Q (staHashCmd s fn) := by
  unfold staHashCmd
  with_reducible repeat' first | assumption | apply staEnd_kept | apply wrAll_kept | apply Kept.ite

theorem staGo_kept {s : State} {fn : Nat} (h : Kept Q s) : Kept Q (staGo s fn) := by
  unfold staGo
  repeat' first
    | with_reducible assumption
    | with_reducible (first
        | apply staLookup_kept | apply staRead_kept | apply staWrite_kept | apply staDelete_kept | apply staMove_kept
        | apply staHashCmd_kept | apply staEnd_kept)
    | split

theorem staCmdRow_kept {s : State} {fn op : Nat} {f : State → State} (h : Kept Q s) (h_f : ∀ x0 : State, Kept Q x0 → Kept Q (f x0)) :
    Kept Q (staCmdRow s fn op f) := by
  unfold staCmdRow
  with_reducible repeat' first | assumption | intro _ | apply hostWriteAs_kept | apply wrF_kept | apply h_f

theorem execStaLookup_kept {fn : BitVec 6} {s : State} (h : Kept Q s) : KeptN Q (execStaLookup fn s) := by
  unfold execStaLookup
  with_reducible repeat' first | assumption | intro _ | apply staCmdRow_kept | apply staLookup_kept | apply KeptN.next

theorem execStaRead_kept {fn : BitVec 6} {s : State} (h : Kept Q s) : KeptN Q (execStaRead fn s) := by
  unfold execStaRead
  with_reducible repeat' first | assumption | intro _ | apply staCmdRow_kept | apply staRead_kept | apply KeptN.next

theorem execStaWrite_kept {fn : BitVec 6} {s : State} (h : Kept Q s) : KeptN Q (execStaWrite fn s) := by
  unfold execStaWrite
  with_reducible repeat' first | assumption | intro _ | apply staCmdRow_kept | apply staWrite_kept | apply KeptN.next

theorem execStaDelete_kept {fn : BitVec 6} {s : State} (h : Kept Q s) : KeptN Q (execStaDelete fn s) := by
  unfold execStaDelete
  with_reducible repeat' first | assumption | intro _ | apply staCmdRow_kept | apply staDelete_kept | apply KeptN.next

theorem execStaMove_kept {fn : BitVec 6} {s : State} (h : Kept Q s) : KeptN Q (execStaMove fn s) := by
  unfold execStaMove
  with_reducible repeat' first | assumption | intro _ | apply staCmdRow_kept | apply staMove_kept | apply KeptN.next

theorem execStaHash_kept {fn : BitVec 6} {s : State} (h : Kept Q s) : KeptN Q (execStaHash fn s) := by
  unfold execStaHash
  with_reducible repeat' first | assumption | intro _ | apply staCmdRow_kept | apply staHashCmd_kept | apply KeptN.next

theorem tblGo_kept {s : State} (h : Kept Q s) : Kept Q (tblGo s) := by
  unfold tblGo
  with_reducible repeat' first | assumption | apply tblWrite_kept | apply wr_kept | apply fwdPerr_kept | apply Kept.ite

theorem tblRow_kept {s : State} {fn : Nat} {write : Bool} {t i : Nat} (h : Kept Q s) : Kept Q (tblRow s fn write t i) := by
  unfold tblRow
  with_reducible repeat' first | assumption | intro _ | apply hostWriteAs_kept | apply tblGo_kept | apply wr_kept

theorem execTableRead_kept {fn : BitVec 6} {table : BitVec 2} {index : BitVec 16} {s : State} (h : Kept Q s) : KeptN Q (execTableRead
    fn table index s) := by
  unfold execTableRead
  with_reducible repeat' first | assumption | apply tblRow_kept | apply KeptN.next

theorem execTableWrite_kept {fn : BitVec 6} {table : BitVec 2} {index : BitVec 16} {s : State} (h : Kept Q s) : KeptN Q
    (execTableWrite fn table index s) := by
  unfold execTableWrite
  with_reducible repeat' first | assumption | apply tblRow_kept | apply KeptN.next

theorem fwdWrite_kept {s : State} {fn off : Nat} {q : Quarter} {w v : Word} (h : Kept Q s) : KeptO Q (fwdWrite s fn off q w v) := by
  unfold fwdWrite
  with_reducible repeat' first
      | assumption | apply writeLearnCtl_kept | apply wr_kept | apply flushGo_kept | apply staGo_kept | apply tblGo_kept
      | apply Kept.ite | apply KeptO.ite | apply KeptO.none | apply KeptO.some

end Sys2Proof.Machine
end

