-- ==== Sys2Proof/Laws/KeepBudget.lean ====
section
/-! SUPPORT. What every operation of Machine/Budget.lean keeps: the queue of waiting commands and the canonical form of what is stored. -/

namespace Sys2Proof.Machine

variable {Q : Keep}

theorem rtRefuse_kept {s : State} {unit tenant code need have_ : Nat} (h : Kept Q s) : Kept Q (rtRefuse s unit tenant code need
    have_) := by
  unfold rtRefuse
  with_reducible repeat' first | assumption | apply mldCond_kept

theorem roomFor_kept {s : State} {unit tenant code shareCode idx needAll needTenant total : Nat} (h : Kept Q s) : KeptO Q (roomFor s
    unit tenant code shareCode idx needAll needTenant total) := by
  unfold roomFor
  repeat' first
    | with_reducible assumption
    | with_reducible (first | apply rtRefuse_kept | apply KeptO.none | apply KeptO.some)
    | split

theorem firstRefusal_kept {l : List (Option State)} (h : KeptL Q l) : KeptO Q (firstRefusal l) := by
  fun_induction firstRefusal l with
  | case1 => exact KeptO.none
  | case2 s => exact h.kept _ (by simp)
  | case3 l ih => exact ih ⟨fun o ho => h.kept o (by simp [ho])⟩

theorem powerRefusal_kept {s t : State} {unit tenant : Nat} (h : Kept Q s) (h_t : Kept Q t) : KeptO Q (powerRefusal s t unit tenant)
    := by
  unfold powerRefusal
  with_reducible repeat' first | assumption | apply rtRefuse_kept | apply KeptO.ite | apply KeptO.none | apply KeptO.some

end Sys2Proof.Machine
end

