-- ==== Sys2Proof/Laws/KeepArbiter.lean ====
section
/-! SUPPORT. What every operation of Machine/Arbiter.lean keeps: the queue of waiting commands and the canonical form of what is stored. -/

namespace Sys2Proof.Machine

variable {Q : Keep}

theorem dstCond_kept {s : State} {b : Nat} {lasts : List (Nat × Word)} (h : Kept Q s) : Kept Q (dstCond s b lasts) := by
  unfold dstCond
  with_reducible repeat' first | assumption | apply setCondWith_kept

theorem eccReports_kept {s : State} {rank unit corr unc : Nat} (h : Kept Q s) : Kept Q (eccReports s rank unit corr unc) := by
  unfold eccReports
  with_reducible repeat' first | assumption | apply dstCond_kept | apply Kept.ite

theorem granted_kept {s : State} {unit rank : Nat} (h : Kept Q s) : Kept Q (granted s unit rank) := by
  unfold granted
  with_reducible repeat' first | assumption | apply wrF_kept | apply State.setDste_kept

theorem unitsRead_kept {ecc : Ecc} {rank : Nat} {us : List Nat} {s : State} (h : Kept Q s) : Kept Q (unitsRead ecc rank us s) := by
  unfold unitsRead
  with_reducible repeat' first | assumption | intro _ | apply eccReports_kept | apply granted_kept | apply Kept.foldl

theorem unitWritten_kept {s : State} {unit : Nat} (h : Kept Q s) : Kept Q (unitWritten s unit) := by
  unfold unitWritten
  with_reducible repeat' first | assumption | apply State.setDste_kept

theorem writeUnit_kept {s : State} {unit rank : Nat} {bytes : List Byte} (h : Kept Q s) (hS : Q.Stores) : Kept Q (writeUnit s unit
    rank bytes) := by
  unfold writeUnit
  with_reducible repeat' first | assumption | apply granted_kept | apply unitWritten_kept | apply State.setDstPut_kept

end Sys2Proof.Machine
end

