-- ==== Sys2Proof/Laws/KeepStreams.lean ====
section
/-! SUPPORT. What every operation of Machine/Streams.lean keeps: the queue of waiting commands and the canonical form of what is stored. -/

namespace Sys2Proof.Machine

variable {Q : Keep}

/-- The same of what a pass carries on. -/
structure KeptRx (q : Keep) (b : RxBlock) : Prop where
  kept : Kept q b.s

theorem KeptRx.iff {s : State} {a : RxState} {b : List (List Int)} {c : List Nat} : KeptRx Q ⟨s, a, b, c⟩ ↔ Kept Q s := ⟨fun h => h.kept, fun h => ⟨h⟩⟩
theorem KeptRx.ite {c : Prop} [Decidable c] {x y : RxBlock} (a : KeptRx Q x) (b : KeptRx Q y) : KeptRx Q (if c then x else y) := by
  split <;> assumption
theorem Kept.of_rx {x : RxBlock} (h : KeptRx Q x) : Kept Q x.s := h.kept
theorem KeptRx.foldl {α : Type} {f : RxBlock → α → RxBlock} {l : List α} {x : RxBlock} (hf : ∀ b a, KeptRx Q b → KeptRx Q (f b a))
    (h : KeptRx Q x) : KeptRx Q (l.foldl f x) := by
  induction l generalizing x with
  | nil => exact h
  | cons a l ih => exact ih (hf x a h)

theorem setRx_kept {s : State} {n : Nat} {x : RxState} (h : Kept Q s) : Kept Q (setRx s n x) := by
  unfold setRx
  with_reducible repeat' first | assumption | apply State.setStrm_kept

theorem strmCond_kept {s : State} {n port b : Nat} (h : Kept Q s) : Kept Q (strmCond s n port b) := by
  unfold strmCond
  with_reducible repeat' first | assumption | apply setCondWith_kept | apply Kept.ite

theorem feltPut_kept {s : State} {n ch slot : Nat} {x : List Int} (h : Kept Q s) (hS : Q.Stores) : Kept Q (feltPut s n ch slot x) :=
    by
  unfold feltPut
  with_reducible repeat' first
      | assumption | intro _ | apply State.setStrm_kept | apply granted_kept | apply unitWritten_kept | apply State.setDstPut_kept
      | apply Kept.foldl

theorem ringTake_kept {s : State} {n t : Nat} {ws : List Word} {xs : List (List Int)} (h : Kept Q s) (hS : Q.Stores) : Kept Q
    (ringTake s n t ws xs) := by
  unfold ringTake
  with_reducible repeat' first
      | assumption | intro _ | apply feltPut_kept | apply State.setStrm_kept | apply Kept.ite | apply Kept.foldl

theorem ringChannel_kept {s : State} {n c q : Nat} {v : Nat → Int} (h : Kept Q s) : Kept Q (ringChannel s n c q v) := by
  unfold ringChannel
  repeat' first
    | with_reducible assumption
    | intro _
    | with_reducible (first | apply State.setStrm_kept | apply Kept.foldl)
    | (extract_lets -underBinder +onlyGivenNames x; clear_value x)
    | split

theorem ringRewritten_kept {unit : Nat} {s : State} {n : Nat} (h : Kept Q s) : Kept Q (ringRewritten unit s n) := by
  unfold ringRewritten
  with_reducible repeat' first | assumption | intro _ | apply ringChannel_kept | apply Kept.ite | apply Kept.foldl

theorem rxPlain_kept {s : State} {n port mc ts : Nat} {ws : List Word} {xs : List (List Int)} (h : Kept Q s) (hS : Q.Stores) : Kept Q
    (rxPlain s n port mc ts ws xs) := by
  unfold rxPlain
  with_reducible repeat' first | assumption | apply strmCond_kept | apply setRx_kept | apply ringTake_kept | apply Kept.ite

theorem rxConvert_kept {s : State} {n port mc ts : Nat} {ws : List Word} {xs : List (List Int)} (h : Kept Q s) (hS : Q.Stores) : Kept
    Q (rxConvert s n port mc ts ws xs) := by
  unfold rxConvert
  repeat' first
    | with_reducible assumption
    | intro _
    | with_reducible (first | apply setRx_kept | apply ringTake_kept | apply strmCond_kept)
    | (extract_lets -underBinder +onlyGivenNames x; first
      | (have hn : ∀ a : Int, ∀ b : RxState, Kept Q (x a b) := ?_; all_goals first
          | (have hf := hn; clear hn; clear_value x) | subst x)
      | clear_value x)
    | with_reducible apply hf
    | split

theorem rxPacket_kept {s : State} {n port mc : Nat} {bs : List Byte} {l4 : Nat} (h : Kept Q s) (hS : Q.Stores) : Kept Q (rxPacket s n
    port mc bs l4) := by
  unfold rxPacket
  with_reducible repeat' first | assumption | apply strmCond_kept | apply rxConvert_kept | apply rxPlain_kept | apply Kept.ite

theorem rxTakePlain_kept {n : Nat} {ws : List Word} {b : RxBlock} {mc : Nat} (h_b : KeptRx Q b) : KeptRx Q (rxTakePlain n ws b mc) :=
    by
  unfold rxTakePlain
  repeat' first
    | with_reducible assumption
    | with_reducible (first | apply State.setStrm_kept | apply Kept.of_rx)
    | (extract_lets -underBinder +onlyGivenNames x; clear_value x)
    | simp -zeta only [KeptRx.iff]

theorem convMove_kept {n : Nat} {ws : List Word} {s : State} {st : RxState} {pos ratio : Int} (h : Kept Q s) : Kept1 Q (convMove n ws
    s st pos ratio) := by
  unfold convMove
  repeat' first
    | with_reducible assumption
    | with_reducible apply State.setStrm_kept
    | (extract_lets -underBinder +onlyGivenNames x; clear_value x)
    | simp -zeta only [Kept1.iff, Kept2.iff]

theorem rxTakeConv_kept {n : Nat} {ws : List Word} {b : RxBlock} {mc : Nat} (h_b : KeptRx Q b) : KeptRx Q (rxTakeConv n ws b mc) := by
  unfold rxTakeConv
  repeat' first
    | with_reducible assumption
    | with_reducible (first | apply State.setStrm_kept | apply convMove_kept | apply Kept.of_fst | apply Kept.of_rx)
    | (extract_lets -underBinder +onlyGivenNames x; first
      | (have hn : Kept1 Q x := ?_; all_goals first | (have hx := hn; clear hn; clear_value x) | subst x)
      | clear_value x)
    | simp -zeta only [Kept1.iff, KeptRx.iff]
    | split

theorem convResync_kept {s : State} {n : Nat} (h : Kept Q s) : Kept Q (convResync s n) := by
  unfold convResync
  with_reducible repeat' first | assumption | apply strmCond_kept | apply setRx_kept | apply Kept.ite

theorem rxBlock_kept {s : State} {d n : Nat} (h : Kept Q s) : Kept Q (rxBlock s d n) := by
  unfold rxBlock
  repeat' first
    | with_reducible assumption
    | intro _
    | with_reducible (first
        | apply rxTakeConv_kept | apply rxTakePlain_kept | apply setRx_kept | apply State.setAud_kept | apply strmCond_kept
        | apply Kept.ite | apply KeptRx.ite | apply Kept.foldl | apply KeptRx.foldl | apply Kept.of_rx)
    | simp -zeta only [KeptRx.iff]

theorem fadeBlock_kept {s : State} {e : Nat × Nat × RxState} (h : Kept Q s) : Kept1 Q (fadeBlock s e) := by
  unfold fadeBlock
  repeat' first
    | with_reducible assumption
    | with_reducible apply State.setAud_kept
    | (extract_lets -underBinder +onlyGivenNames x; first
      | (have hn : Kept Q x := ?_; all_goals first | (have hx := hn; clear hn; clear_value x) | subst x)
      | clear_value x)
    | simp -zeta only [Kept1.iff, Kept2.iff]

theorem feltFindings_kept {ecc : Ecc} {d : Nat} {s : State} {n : Nat} (h : Kept Q s) : Kept Q (feltFindings ecc d s n) := by
  unfold feltFindings
  with_reducible repeat' first
      | assumption | intro _ | apply unitsRead_kept | apply ringChannel_kept | apply Kept.ite | apply Kept.foldl

theorem streamsStageA_kept {s0 : State} {d : Nat} {ecc : Ecc} (h : Kept Q s0) : Kept Q (streamsStageA s0 d ecc) := by
  unfold streamsStageA
  repeat' first
    | with_reducible assumption
    | intro _
    | with_reducible (first
        | apply feltFindings_kept | apply fadeBlock_kept | apply State.setStrm_kept | apply rxBlock_kept | apply Kept.foldl
        | apply Kept1.foldl | apply Kept.of_fst)
    | (extract_lets -underBinder +onlyGivenNames x; first
      | (have hn : Kept1 Q x := ?_; all_goals first | (have hx := hn; clear hn; clear_value x) | subst x))
    | simp -zeta only [Kept1.iff, Kept2.iff]

theorem txBlock_kept {s : State} {d n : Nat} (h : Kept Q s) : Kept1 Q (txBlock s d n) := by
  unfold txBlock
  repeat' first
    | with_reducible assumption
    | with_reducible apply State.setStrm_kept
    | (extract_lets -underBinder +onlyGivenNames x; clear_value x)
    | simp -zeta only [Kept1.iff, Kept2.iff]

theorem txAll_kept {s : State} {d : Nat} (h : Kept Q s) : Kept1 Q (txAll s d) := by
  unfold txAll
  repeat' first
    | with_reducible assumption
    | intro _
    | with_reducible (first | apply txBlock_kept | apply Kept1.ite | apply Kept1.foldl | apply Kept.of_fst)
    | (extract_lets -underBinder +onlyGivenNames x; first
      | (have hn : Kept1 Q x := ?_; all_goals first | (have hx := hn; clear hn; clear_value x) | subst x))
    | simp -zeta only [Kept1.iff, Kept2.iff]

theorem txSkip_kept {s : State} {d : Nat} (h : Kept Q s) : Kept Q (txSkip s d) := by
  unfold txSkip
  with_reducible repeat' first | assumption | apply txAll_kept | apply Kept.of_fst

theorem rxRefusal_kept {s : State} {n : Nat} {ws : List Word} (h : Kept Q s) : KeptO Q (rxRefusal s n ws) := by
  unfold rxRefusal
  with_reducible repeat' first
      | assumption | apply firstRefusal_kept | apply rtRefuse_kept | apply roomFor_kept | apply KeptO.ite | apply KeptO.none
      | apply KeptO.some | apply KeptL.nil | apply KeptL.cons

theorem rxCheck_kept {s : State} {fn n : Nat} {ws : List Word} (h : Kept Q s) : Kept2 Q (rxCheck s fn n ws) := by
  unfold rxCheck
  repeat' first
    | with_reducible assumption
    | with_reducible (first | apply rxRefusal_kept | apply Kept2.ite)
    | simp -zeta only [Kept2.iff]
    | split
    | refine Kept.of_some ?_ (by assumption)

theorem txCheck_kept {s : State} {fn n : Nat} {ws : List Word} (h : Kept Q s) : Kept2 Q (txCheck s fn n ws) := by
  unfold txCheck
  repeat' first
    | with_reducible assumption
    | with_reducible apply roomFor_kept
    | (extract_lets -underBinder +onlyGivenNames x; clear_value x)
    | simp -zeta only [Kept2.iff]
    | split
    | refine Kept.of_some ?_ (by assumption)

theorem laidOr_kept {s : State} {r : Nat × State} (h : Kept Q s) (h_r : Kept2 Q r) : Kept2 Q (laidOr s r) := by
  unfold laidOr
  repeat' first
    | with_reducible assumption
    | with_reducible apply Kept2.ite
    | simp -zeta only [Kept2.iff]

theorem descCheck_kept {s : State} {fn table n : Nat} {ws : List Word} (h : Kept Q s) : Kept2 Q (descCheck s fn table n ws) := by
  unfold descCheck
  repeat' first
    | with_reducible assumption
    | with_reducible (first | apply laidOr_kept | apply rxCheck_kept | apply txCheck_kept | apply Kept2.ite)
    | simp -zeta only [Kept2.iff]
    | split

theorem strmGo_kept {s : State} {fn : Nat} (h : Kept Q s) : Kept Q (strmGo s fn) := by
  unfold strmGo
  with_reducible repeat' first
      | assumption | apply descCheck_kept | apply wrF_kept | apply State.setStrm_kept | apply wrAll_kept | apply Kept.ite
      | apply Kept.of_snd

theorem strmRow_kept {s : State} {fn : Nat} {write : Bool} {t i : Nat} (h : Kept Q s) : Kept Q (strmRow s fn write t i) := by
  unfold strmRow
  with_reducible repeat' first | assumption | intro _ | apply hostWriteAs_kept | apply strmGo_kept | apply wr_kept

theorem execStreamDescRead_kept {fn : BitVec 6} {table : BitVec 2} {n : BitVec 12} {s : State} (h : Kept Q s) : KeptN Q
    (execStreamDescRead fn table n s) := by
  unfold execStreamDescRead
  with_reducible repeat' first | assumption | apply strmRow_kept | apply KeptN.next

theorem execStreamDescWrite_kept {fn : BitVec 6} {table : BitVec 2} {n : BitVec 12} {s : State} (h : Kept Q s) : KeptN Q
    (execStreamDescWrite fn table n s) := by
  unfold execStreamDescWrite
  with_reducible repeat' first | assumption | apply strmRow_kept | apply KeptN.next

theorem strmApply_kept {s : State} {e : Nat × Nat × List Word} (h : Kept Q s) : Kept Q (strmApply s e) := by
  unfold strmApply
  repeat' first
    | with_reducible assumption
    | with_reducible (first | apply State.setStrm_kept | apply setRx_kept | apply State.setEth_kept | apply Kept.ite)
    | split

theorem strmBoundary_kept {s : State} (h : Kept Q s) : Kept Q (strmBoundary s) := by
  unfold strmBoundary
  with_reducible repeat' first
      | assumption | intro _ | apply strmApply_kept | apply State.setStrm_kept | apply convResync_kept | apply wrAll_kept
      | apply Kept.foldl

theorem strmWrite_kept {s : State} {fn off : Nat} {q : Quarter} {w v : Word} (h : Kept Q s) : KeptO Q (strmWrite s fn off q w v) := by
  unfold strmWrite
  with_reducible repeat' first
      | assumption | apply wr_kept | apply strmGo_kept | apply Kept.ite | apply KeptO.ite | apply KeptO.none | apply KeptO.some

end Sys2Proof.Machine
end

