-- ==== Sys2Proof/Laws/KeepEthernet.lean ====
section
/-! SUPPORT. What every operation of Machine/Ethernet.lean keeps: the queue of waiting commands and the canonical form of what is stored. -/

namespace Sys2Proof.Machine

variable {Q : Keep}

theorem edlCond_kept {s : State} {n b : Nat} (h : Kept Q s) : Kept Q (edlCond s n b) := by
  unfold edlCond
  with_reducible repeat' first | assumption | apply setCond_kept

theorem ethCond_kept {s : State} {p b : Nat} (h : Kept Q s) : Kept Q (ethCond s p b) := by
  unfold ethCond
  with_reducible repeat' first | assumption | apply setCond_kept

theorem portDrop_kept {s : State} {p b : Nat} (h : Kept Q s) : Kept Q (portDrop s p b) := by
  unfold portDrop
  with_reducible repeat' first | assumption | apply setCondWith_kept

theorem queueFull_kept {s : State} {p : Nat} (h : Kept Q s) : Kept Q (queueFull s p) := by
  unfold queueFull
  with_reducible repeat' first | assumption | apply ethCond_kept | apply edlCond_kept | apply Kept.ite

theorem queueLate_kept {s : State} {p : Nat} (h : Kept Q s) : Kept Q (queueLate s p) := by
  unfold queueLate
  with_reducible repeat' first | assumption | apply ethCond_kept | apply edlCond_kept | apply Kept.ite

theorem acceptFrame_kept {s : State} {p : Nat} {bs : List Byte} {bad jumbo : Bool} {stamp : Option (Nat × Nat)} (h : Kept Q s) : Kept
    Q (acceptFrame s p bs bad jumbo stamp) := by
  unfold acceptFrame
  with_reducible repeat' first | assumption | apply portDrop_kept | apply classify_kept | apply Kept.ite

theorem execFrameReceive_kept {port : BitVec 4} {bytes : List Byte} {pcsErr fecBad : Bool} {cyc : BitVec 4} {s : State} (h : Kept Q
    s) : KeptN Q (execFrameReceive port bytes pcsErr fecBad cyc s) := by
  unfold execFrameReceive
  with_reducible repeat' first | assumption | apply acceptFrame_kept | apply Kept.ite | apply KeptN.next

theorem enqueue_kept {s : State} {f : EgFrame} (h : Kept Q s) : Kept Q (enqueue s f) := by
  unfold enqueue
  with_reducible repeat' first | assumption | apply queueFull_kept | apply queueLate_kept | apply State.setEth_kept | apply Kept.ite

theorem toHostPort_kept {s : State} {f : FrameIn} {reason : Nat} (h : Kept Q s) : Kept Q (toHostPort s f reason) := by
  unfold toHostPort
  with_reducible repeat' first | assumption | apply State.setEth_kept

theorem hopPerr_kept {s : State} {f : FrameIn} {ad : Nat} (h : Kept Q s) : Kept Q (hopPerr s f ad) := by
  unfold hopPerr
  with_reducible repeat' first | assumption | apply clearBadRows_kept | apply fwdPerr_kept | apply Kept.ite

theorem decisionPerr_kept {s : State} {f : FrameIn} (h : Kept Q s) : Kept Q (decisionPerr s f) := by
  unfold decisionPerr
  repeat' first
    | with_reducible assumption
    | with_reducible (first | apply fwdPerr_kept | apply hopPerr_kept | apply clearBadRows_kept)
    | split

theorem sendCopies_kept {s : State} {f : FrameIn} {ports : List Nat} {vlan : Nat} {bytes : List Byte} (h : Kept Q s) : Kept Q
    (sendCopies s f ports vlan bytes) := by
  unfold sendCopies
  with_reducible repeat' first | assumption | intro _ | apply enqueue_kept | apply Kept.foldl

theorem carryDecision_kept {s : State} {f : FrameIn} {consumed : Bool} {d : Decision} (h : Kept Q s) : Kept Q (carryDecision s f
    consumed d) := by
  unfold carryDecision
  repeat' first
    | with_reducible assumption
    | with_reducible (first | apply fwdDrop_kept | apply toHostPort_kept | apply sendCopies_kept | apply Kept.ite)
    | split

theorem decideFrame_kept {s : State} {f : FrameIn} (h : Kept Q s) (hS : Q.Stores) : Kept Q (decideFrame s f) := by
  unfold decideFrame
  repeat' first
    | with_reducible assumption
    | with_reducible (first
        | apply retireFrame_kept | apply toHostPort_kept | apply fwdDrop_kept | apply fwdPerr_kept | apply decisionPerr_kept
        | apply putFrame_kept | apply askFrame_kept | apply rxPacket_kept | apply carryDecision_kept)
    | (extract_lets -underBinder +onlyGivenNames x; first
      | (have hn : Kept Q x := ?_; all_goals first | (have hx := hn; clear hn; clear_value x) | subst x)
      | clear_value x)
    | split

theorem execForwardDecision_kept {port : BitVec 5} {s : State} (h : Kept Q s) (hS : Q.Stores) : KeptN Q (execForwardDecision port s)
    := by
  unfold execForwardDecision
  repeat' first
    | with_reducible assumption
    | with_reducible (first | apply decideFrame_kept | apply KeptN.next)
    | split

theorem linkDown_kept {s : State} {p : Nat} (h : Kept Q s) : Kept Q (linkDown s p) := by
  unfold linkDown
  with_reducible repeat' first | assumption | apply linkLossFlush_kept | apply ethCond_kept | apply wr_kept | apply Kept.ite

theorem noteJumbo_kept {s : State} {p : Nat} {old : Bool} (h : Kept Q s) : Kept Q (noteJumbo s p old) := by
  unfold noteJumbo
  with_reducible repeat' first | assumption | apply State.setEth_kept

theorem writePortCfg_kept {s : State} {p : Nat} {w : Word} (h : Kept Q s) : Kept Q (writePortCfg s p w) := by
  unfold writePortCfg
  repeat' first
    | with_reducible assumption
    | with_reducible (first | apply wr_kept | apply noteJumbo_kept | apply powerRefusal_kept | apply linkDown_kept | apply Kept.ite)
    | (extract_lets -underBinder +onlyGivenNames x; first
      | (have hn : Kept Q x := ?_; all_goals first | (have hx := hn; clear hn; clear_value x) | subst x))
    | split
    | refine Kept.of_some ?_ (by assumption)

theorem execEthPortCfgWrite_kept {fn : BitVec 6} {p : BitVec 4} {v : Word} {s : State} (h : Kept Q s) : KeptN Q (execEthPortCfgWrite
    fn p v s) := by
  unfold execEthPortCfgWrite
  with_reducible repeat' first | assumption | apply writePortCfg_kept | apply Kept.ite | apply KeptN.next

theorem execEthLinkUp_kept {p : BitVec 4} {fec : BitVec 2} {s : State} (h : Kept Q s) : KeptN Q (execEthLinkUp p fec s) := by
  unfold execEthLinkUp
  with_reducible repeat' first | assumption | apply ethCond_kept | apply wr_kept | apply Kept.ite | apply KeptN.next

theorem execEthLinkDown_kept {p : BitVec 4} {s : State} (h : Kept Q s) : KeptN Q (execEthLinkDown p s) := by
  unfold execEthLinkDown
  with_reducible repeat' first | assumption | apply linkDown_kept | apply Kept.ite | apply KeptN.next

theorem execAnFail_kept {p : BitVec 4} {s : State} (h : Kept Q s) : KeptN Q (execAnFail p s) := by
  unfold execAnFail
  with_reducible repeat' first | assumption | apply ethCond_kept | apply Kept.ite | apply KeptN.next

theorem execUncorrectableCodeword_kept {port : BitVec 5} {s : State} (h : Kept Q s) : KeptN Q (execUncorrectableCodeword port s) := by
  unfold execUncorrectableCodeword
  with_reducible repeat' first | assumption | apply ethCond_kept | apply edlCond_kept | apply Kept.ite | apply KeptN.next

theorem dequeue_kept {s : State} {f : EgFrame} (h : Kept Q s) : Kept Q (dequeue s f) := by
  unfold dequeue
  with_reducible repeat' first | assumption | apply State.setEth_kept

end Sys2Proof.Machine
end

