-- ==== Sys2Proof/Laws/KeepMix.lean ====
section
/-! SUPPORT. What every operation of Machine/Mix.lean keeps: the queue of waiting commands and the canonical form of what is stored. -/

namespace Sys2Proof.Machine

variable {Q : Keep}

theorem mixPerr_kept {s : State} {plane kind index : Nat} (h : Kept Q s) : Kept Q (mixPerr s plane kind index) := by
  unfold mixPerr
  with_reducible repeat' first | assumption | apply setCondWith_kept

theorem planePerr_kept {s : State} {a : Nat} (h : Kept Q s) : Kept Q (planePerr s a) := by
  unfold planePerr
  with_reducible repeat' first | assumption | apply mixPerr_kept | apply Kept.ite

theorem joinSums_kept {s : State} {ps : List (Int × Bool)} (h : Kept Q s) : Kept1 Q (joinSums s ps) := by
  unfold joinSums
  repeat' first
    | with_reducible assumption
    | with_reducible (first | apply freeNat_kept | apply Kept1.ite | apply Kept.of_snd)
    | (extract_lets -underBinder +onlyGivenNames x; first
      | (have hn : Kept2 Q x := ?_; all_goals first | (have hx := hn; clear hn; clear_value x) | subst x))
    | simp -zeta only [Kept1.iff, Kept2.iff]

theorem joinDest_kept {s : State} {segs : List (List (Int × Bool))} (h : Kept Q s) : Kept1 Q (joinDest s segs) := by
  unfold joinDest
  repeat' first
    | with_reducible assumption
    | intro _
    | with_reducible (first | apply joinSums_kept | apply Kept1.foldl | apply Kept.of_fst)
    | (extract_lets -underBinder +onlyGivenNames x; first
      | (have hn : Kept1 Q x := ?_; all_goals first | (have hx := hn; clear hn; clear_value x) | subst x))
    | simp -zeta only [Kept1.iff, Kept2.iff]

theorem mixUpsets_kept {s : State} {l : List MixUpset} (h : Kept Q s) : Kept Q (mixUpsets s l) := by
  unfold mixUpsets
  with_reducible repeat' first | assumption | apply State.setMix_kept

theorem tierReports_kept {s : State} {all segs : List SegHdr} {l : List MixUpset} (h : Kept Q s) : Kept Q (tierReports s all segs l)
    := by
  unfold tierReports
  repeat' first
    | with_reducible assumption
    | intro _
    | with_reducible (first | apply mixPerr_kept | apply planePerr_kept | apply Kept.foldl)
    | split

theorem runTier_kept {s : State} {b k : Nat} {l : List MixUpset} (h : Kept Q s) : Kept Q (runTier s b k l) := by
  unfold runTier
  with_reducible repeat' first
      | assumption | intro _ | apply mixUpsets_kept | apply State.setMix_kept | apply State.setAud_kept | apply joinDest_kept
      | apply tierReports_kept | apply Kept.ite | apply Kept.foldl | apply Kept.of_fst

theorem execMixTier_kept {k : BitVec 2} {upsets : List MixUpset} {s : State} (h : Kept Q s) : KeptN Q (execMixTier k upsets s) := by
  unfold execMixTier
  with_reducible repeat' first | assumption | apply runTier_kept | apply Kept.ite | apply KeptN.next

theorem cutMix_kept {s : State} {c : Nat} (h : Kept Q s) : Kept Q (cutMix s c) := by
  unfold cutMix
  with_reducible repeat' first | assumption | apply State.setAud_kept

theorem mixBoundary_kept {s : State} (h : Kept Q s) : Kept Q (mixBoundary s) := by
  unfold mixBoundary
  with_reducible repeat' first | assumption | apply State.setStrp_kept | apply State.setMix_kept | apply State.setPtr_kept

theorem liveLand_kept {s : State} {ok : Bool} {w0 w1 : Word} (h : Kept Q s) : Kept Q (liveLand s ok w0 w1) := by
  unfold liveLand
  with_reducible repeat' first | assumption | apply State.setMix_kept | apply setCond_kept | apply Kept.ite

theorem liveWord_kept {s : State} {fn : Nat} {v : Word} (h : Kept Q s) : Kept Q (liveWord s fn v) := by
  unfold liveWord
  repeat' first
    | with_reducible assumption
    | with_reducible (first | apply State.setMix_kept | apply liveLand_kept)
    | split

theorem liveFlush_kept {s : State} {fn : Nat} (h : Kept Q s) : Kept Q (liveFlush s fn) := by
  unfold liveFlush
  with_reducible repeat' first | assumption | apply State.setMix_kept

theorem execLiveCommand_kept {fn : BitVec 6} {v : Word} {s : State} (h : Kept Q s) : KeptN Q (execLiveCommand fn v s) := by
  unfold execLiveCommand
  with_reducible repeat' first | assumption | intro _ | apply hostWriteAs_kept | apply liveWord_kept | apply KeptN.next

theorem execMixLiveFlush_kept {fn : BitVec 6} {v : Word} {s : State} (h : Kept Q s) : KeptN Q (execMixLiveFlush fn v s) := by
  unfold execMixLiveFlush
  with_reducible repeat' first
      | assumption | intro _ | apply hostWriteAs_kept | apply liveFlush_kept | apply Kept.ite | apply KeptN.next

theorem planeWrite_kept {s : State} {a : Nat} {v : Word} (h : Kept Q s) : Kept Q (planeWrite s a v) := by
  unfold planeWrite
  with_reducible repeat' first | assumption | apply setCond_kept | apply State.setMix_kept | apply wrF_kept | apply Kept.ite

theorem execCouchWrite_kept {addr : BitVec 26} {v : Word} {s : State} (h : Kept Q s) : KeptN Q (execCouchWrite addr v s) := by
  unfold execCouchWrite
  with_reducible repeat' first
      | assumption | intro _ | apply mirrored_kept | apply planeWrite_kept | apply Kept.ite | apply KeptN.next

theorem planeDisable_kept {s : State} {p : Nat} {l : List PlaneRefusal} (h : Kept Q s) : Kept Q (planeDisable s p l) := by
  unfold planeDisable
  with_reducible repeat' first | assumption | intro _ | apply State.setMix_kept | apply Kept.foldl

theorem rewind_kept {s v : State} {a t : Nat} (h : Kept Q s) (h_v : Kept Q v) : Kept Q (rewind s v a t) := by
  unfold rewind
  with_reducible repeat' first | assumption | apply State.setMix_kept | apply Kept.ite

theorem rewindSegs_kept {s : State} {p x_2 x_3 x_4 x_5 : Nat} {x_6 : State} (h : Kept Q s) (h_x_6 : Kept Q x_6) : Kept1 Q (rewindSegs
    s p x_2 x_3 x_4 x_5 x_6) := by
  fun_induction rewindSegs s p x_2 x_3 x_4 x_5 x_6
  all_goals
    repeat' first
      | intro _
      | with_reducible apply_assumption
      | with_reducible (first | apply rewind_kept | apply Kept.ite | apply Kept.foldl)
      | simp -zeta only [Kept1.iff, Kept2.iff]

theorem walkView_kept {s : State} {p : Nat} (h : Kept Q s) : Kept Q (walkView s p) := by
  unfold walkView
  repeat' first
    | with_reducible assumption
    | intro _
    | with_reducible (first
        | apply rewind_kept | apply rewindSegs_kept | apply Kept.ite | apply Kept.foldl | apply Kept1.foldl | apply Kept.of_fst)
    | simp -zeta only [Kept1.iff, Kept2.iff]

theorem couchChecked_kept {s : State} (h : Kept Q s) : Kept Q (couchChecked s) := by
  unfold couchChecked
  with_reducible repeat' first
      | assumption | apply planeDisable_kept | apply rtRefuse_kept | apply wrAll_kept | apply wr_kept | apply State.setMix_kept
      | apply setCond_kept | apply Kept.ite

theorem couchGo_kept {s : State} (h : Kept Q s) : Kept Q (couchGo s) := by
  unfold couchGo
  with_reducible repeat' first | assumption | apply wrF_kept | apply State.setMix_kept | apply Kept.ite

theorem execCouchCheck_kept {fn : BitVec 6} {v : Word} {s : State} (h : Kept Q s) : KeptN Q (execCouchCheck fn v s) := by
  unfold execCouchCheck
  with_reducible repeat' first
      | assumption | intro _ | apply hostWriteAs_kept | apply couchGo_kept | apply Kept.ite | apply KeptN.next

theorem execCouchCheckDone_kept {s : State} (h : Kept Q s) : KeptN Q (execCouchCheckDone s) := by
  unfold execCouchCheckDone
  with_reducible repeat' first | assumption | apply couchChecked_kept | apply Kept.ite | apply KeptN.next

theorem mixWrite_kept {s : State} {fn off : Nat} {q : Quarter} {v : Word} (h : Kept Q s) : KeptO Q (mixWrite s fn off q v) := by
  unfold mixWrite
  with_reducible repeat' first
      | assumption | apply liveWord_kept | apply liveFlush_kept | apply couchGo_kept | apply Kept.ite | apply KeptO.ite
      | apply KeptO.none | apply KeptO.some

end Sys2Proof.Machine
end

