-- ==== Sys2Proof/Laws/KeepScenes.lean ====
section
/-! SUPPORT. What every operation of Machine/Scenes.lean keeps: the queue of waiting commands and the canonical form of what is stored. -/

namespace Sys2Proof.Machine

variable {Q : Keep}

theorem commitFail_kept {s : State} {cause t e src : Nat} (h : Kept Q s) : Kept Q (commitFail s cause t e src) := by
  unfold commitFail
  with_reducible repeat' first | assumption | apply setCondWith_kept

theorem setPendCommit_kept {s : State} {c : Option (Nat × Nat × Nat)} (h : Kept Q s) : Kept Q (setPendCommit s c) := by
  unfold setPendCommit
  repeat' first
    | with_reducible assumption
    | with_reducible (first | apply State.setScn_kept | apply wrF_kept | apply wrAll_kept)
    | split

theorem dropCommit_kept {s : State} {cause : Nat} (h : Kept Q s) : Kept Q (dropCommit s cause) := by
  unfold dropCommit
  repeat' first
    | with_reducible assumption
    | with_reducible (first | apply commitFail_kept | apply setPendCommit_kept)
    | split

theorem acceptCommit_kept {s : State} {t e src : Nat} (h : Kept Q s) : Kept Q (acceptCommit s t e src) := by
  unfold acceptCommit
  repeat' first
    | with_reducible assumption
    | with_reducible (first | apply setPendCommit_kept | apply commitFail_kept)
    | split

theorem submitCommit_kept {s : State} {t e src : Nat} {margin : Bool} (h : Kept Q s) : Kept Q (submitCommit s t e src margin) := by
  unfold submitCommit
  with_reducible repeat' first | assumption | apply commitFail_kept | apply acceptCommit_kept | apply Kept.ite

theorem gen1Commit_kept {s : State} {src : Nat} (h : Kept Q s) : Kept Q (gen1Commit s src) := by
  unfold gen1Commit
  with_reducible repeat' first | assumption | apply submitCommit_kept

theorem hostCommit_kept {s : State} (h : Kept Q s) : Kept Q (hostCommit s) := by
  unfold hostCommit
  with_reducible repeat' first | assumption | apply gen1Commit_kept | apply submitCommit_kept | apply Kept.ite

theorem carryOut_kept {s : State} {t e : Nat} (h : Kept Q s) : Kept Q (carryOut s t e) := by
  unfold carryOut
  with_reducible repeat' first
      | assumption | apply setPendCommit_kept | apply putSceneEpoch_kept | apply wrF_kept | apply wrAll_kept
      | apply State.setMix_kept | apply State.setScn_kept | apply setCond_kept | apply Kept.ite

theorem commitBoundary_kept {s : State} {e : Nat} (h : Kept Q s) : Kept Q (commitBoundary s e) := by
  unfold commitBoundary
  repeat' first
    | with_reducible assumption
    | with_reducible (first | apply dropCommit_kept | apply carryOut_kept)
    | split

theorem holdBoundary_kept {s : State} {e : Nat} (h : Kept Q s) : Kept Q (holdBoundary s e) := by
  unfold holdBoundary
  repeat' first
    | with_reducible assumption
    | with_reducible (first | apply wrF_kept | apply State.setScn_kept)
    | split

theorem sceneBoundary_kept {s : State} {e : Nat} (h : Kept Q s) : Kept Q (sceneBoundary s e) := by
  unfold sceneBoundary
  with_reducible repeat' first | assumption | apply State.setScn_kept | apply commitBoundary_kept | apply holdBoundary_kept

theorem sceneJump_kept {s : State} {num : Nat} (h : Kept Q s) : Kept Q (sceneJump s num) := by
  unfold sceneJump
  repeat' first
    | with_reducible assumption
    | with_reducible apply dropCommit_kept
    | split

end Sys2Proof.Machine
end

