-- ==== Sys2Proof/Laws/KeepStrips.lean ====
section
/-! SUPPORT. What every operation of Machine/Strips.lean keeps: the queue of waiting commands and the canonical form of what is stored. -/

namespace Sys2Proof.Machine

variable {Q : Keep}

/-- The same of what a pass carries on. -/
structure KeptRun (q : Keep) (b : StageRun) : Prop where
  kept : Kept q b.s

theorem KeptRun.iff {s : State} {a : SMap (List Int)} : KeptRun Q ⟨s, a⟩ ↔ Kept Q s := ⟨fun h => h.kept, fun h => ⟨h⟩⟩
theorem KeptRun.ite {c : Prop} [Decidable c] {x y : StageRun} (a : KeptRun Q x) (b : KeptRun Q y) : KeptRun Q (if c then x else y) := by
  split <;> assumption
theorem Kept.of_run {x : StageRun} (h : KeptRun Q x) : Kept Q x.s := h.kept
theorem KeptRun.foldl {α : Type} {f : StageRun → α → StageRun} {l : List α} {x : StageRun} (hf : ∀ b a, KeptRun Q b → KeptRun Q (f b a))
    (h : KeptRun Q x) : KeptRun Q (l.foldl f x) := by
  induction l generalizing x with
  | nil => exact h
  | cons a l ih => exact ih (hf x a h)

theorem setStrip_kept {s : State} {n : Nat} {x : StripSt} (h : Kept Q s) : Kept Q (setStrip s n x) := by
  unfold setStrip
  with_reducible repeat' first | assumption | apply State.setStrp_kept

theorem stripCond_kept {s : State} {n b : Nat} (h : Kept Q s) : Kept Q (stripCond s n b) := by
  unfold stripCond
  with_reducible repeat' first | assumption | apply setCondWith_kept

theorem stripPerr_kept {s : State} {n kind idx : Nat} (h : Kept Q s) : Kept Q (stripPerr s n kind idx) := by
  unfold stripPerr
  with_reducible repeat' first | assumption | apply setCondWith_kept

theorem runSections_kept {up : List StripUpset} {strip n slot : Nat} {s : State} {x : Sig} (h : Kept Q s) :
    Kept1 Q (runSections up strip n slot s x) := by
  induction n generalizing slot s x with
  | zero => exact ⟨h⟩
  | succ n ih =>
    have h1 : Kept Q (if up.contains (.sec slot) then
        stripPerr (s.setStrp { s.strp with secs := SMap.del s.strp.secs slot }) strip 3 slot else s) :=
      Kept.ite (stripPerr_kept (State.setStrp_kept h _)) h
    unfold runSections
    exact Kept1.ite (ih (stripPerr_kept h1)) (ih (State.setStrp_kept h1 _))

theorem strip1_kept {up : List StripUpset} {s : State} {n : Nat} (h : Kept Q s) : Kept1 Q (strip1 up s n) := by
  unfold strip1
  with_reducible repeat' first | assumption | apply runSections_kept

theorem meterStep_kept {s : State} {n : Nat} {d : List Word} {x : Sig} (h : Kept Q s) : Kept Q (meterStep s n d x) := by
  unfold meterStep
  with_reducible repeat' first | assumption | apply setStrip_kept | apply stripCond_kept | apply Kept.ite

theorem poolUpsets_kept {up : List StripUpset} {s : State} {n : Nat} (h : Kept Q s) : Kept Q (poolUpsets up s n) := by
  unfold poolUpsets
  repeat' first
    | with_reducible assumption
    | intro _
    | with_reducible (first | apply stripPerr_kept | apply setStrip_kept | apply Kept.foldl)
    | split

theorem lineWrites_kept {b n : Nat} {s : State} (h : Kept Q s) (hS : Q.Stores) : Kept Q (lineWrites b n s) := by
  unfold lineWrites
  with_reducible repeat' first | assumption | intro _ | apply writeUnit_kept | apply Kept.ite | apply Kept.foldl

theorem muteUnit_kept {s : State} {n u : Nat} (h : Kept Q s) : Kept Q (muteUnit s n u) := by
  unfold muteUnit
  with_reducible repeat' first | assumption | apply setStrip_kept

theorem lineFindings_kept {up : List StripUpset} {s : State} {n : Nat} (h : Kept Q s) : Kept Q (lineFindings up s n) := by
  unfold lineFindings
  repeat' first
    | with_reducible assumption
    | intro _
    | with_reducible (first | apply eccReports_kept | apply muteUnit_kept | apply Kept.foldl)
    | split

theorem lineAfter_kept {n j : Nat} {old new : StripSt} {s : State} (h : Kept Q s) : Kept Q (lineAfter n j old new s) := by
  unfold lineAfter
  with_reducible repeat' first | assumption | intro _ | apply granted_kept | apply setStrip_kept | apply Kept.foldl

theorem lineRewritten_kept {unit : Nat} {s : State} {n : Nat} (h : Kept Q s) : Kept Q (lineRewritten unit s n) := by
  unfold lineRewritten
  with_reducible repeat' first | assumption | intro _ | apply setStrip_kept | apply Kept.ite | apply Kept.foldl

theorem strip2_kept {up : List StripUpset} {b : Nat} {sigs : SMap Sig} {levels : SMap (Nat × List Int)} {r : StageRun} {n : Nat} (h_r
    : KeptRun Q r) (hS : Q.Stores) : KeptRun Q (strip2 up b sigs levels r n) := by
  unfold strip2
  repeat' first
    | with_reducible assumption
    | with_reducible (first
        | apply stripPerr_kept | apply State.setStrp_kept | apply runSections_kept | apply lineFindings_kept
        | apply poolUpsets_kept | apply meterStep_kept | apply lineWrites_kept | apply lineAfter_kept | apply Kept1.ite
        | apply Kept.of_fst | apply Kept.of_run)
    | (extract_lets -underBinder +onlyGivenNames x; first
      | (have hn : Kept Q x := ?_; all_goals first | (have hx := hn; clear hn; clear_value x) | subst x)
      | (have hn : Kept1 Q x := ?_; all_goals first | (have hx := hn; clear hn; clear_value x) | subst x)
      | clear_value x)
    | simp -zeta only [Kept1.iff, KeptRun.iff]

theorem stageLevels_kept {up : List StripUpset} {s : State} {sigs : SMap Sig} {ns : List Nat} (h : Kept Q s) : Kept1 Q (stageLevels
    up s sigs ns) := by
  unfold stageLevels
  repeat' first
    | with_reducible assumption
    | intro _
    | with_reducible (first | apply State.setStrp_kept | apply Kept1.ite | apply Kept1.foldl)
    | (extract_lets -underBinder +onlyGivenNames x; clear_value x)
    | simp -zeta only [Kept1.iff, Kept2.iff]

theorem runStrips_kept {up : List StripUpset} {b : Nat} {s : State} {ns : List Nat} (h : Kept Q s) (hS : Q.Stores) : KeptRun Q
    (runStrips up b s ns) := by
  unfold runStrips
  repeat' first
    | with_reducible assumption
    | intro _
    | with_reducible (first
        | apply strip1_kept | apply stageLevels_kept | apply strip2_kept | apply Kept1.foldl | apply KeptRun.foldl
        | apply Kept.of_fst)
    | (extract_lets -underBinder +onlyGivenNames x; first
      | (have hn : Kept1 Q x := ?_; all_goals first | (have hx := hn; clear hn; clear_value x) | subst x))
    | simp -zeta only [Kept1.iff, Kept2.iff, KeptRun.iff]

theorem descReports_kept {s : State} {outputs : Bool} {up : List StripUpset} (h : Kept Q s) : Kept Q (descReports s outputs up) := by
  unfold descReports
  repeat' first
    | with_reducible assumption
    | intro _
    | with_reducible (first | apply stripPerr_kept | apply Kept.foldl)
    | split

theorem recordBad_kept {s : State} {up : List StripUpset} (h : Kept Q s) : Kept Q (recordBad s up) := by
  unfold recordBad
  with_reducible repeat' first | assumption | apply State.setStrp_kept

theorem overHolds_kept {outputs : Bool} {ran : List Nat} {s : State} (h : Kept Q s) : Kept Q (overHolds outputs ran s) := by
  unfold overHolds
  with_reducible repeat' first | assumption | intro _ | apply setStrip_kept | apply Kept.ite | apply Kept.foldl

theorem mixOvers_kept {ran : List Nat} {s : State} (h : Kept Q s) : Kept Q (mixOvers ran s) := by
  unfold mixOvers
  with_reducible repeat' first | assumption | intro _ | apply setStrip_kept | apply stripCond_kept | apply Kept.ite | apply Kept.foldl

theorem inputStrips_kept {b : Nat} {s0 : State} {ups : List StripUpset} (h : Kept Q s0) (hS : Q.Stores) : Kept Q (inputStrips b s0
    ups) := by
  unfold inputStrips
  repeat' first
    | with_reducible assumption
    | intro _
    | with_reducible (first
        | apply recordBad_kept | apply runStrips_kept | apply overHolds_kept | apply descReports_kept | apply State.setAud_kept
        | apply Kept.foldl | apply Kept.of_run)
    | split

theorem outputStrips_kept {b : Nat} {s : State} {ups : List StripUpset} (h : Kept Q s) (hS : Q.Stores) : Kept Q (outputStrips b s
    ups) := by
  unfold outputStrips
  with_reducible repeat' first
      | assumption | apply descReports_kept | apply recordBad_kept | apply runStrips_kept | apply mixOvers_kept
      | apply overHolds_kept | apply State.setAud_kept | apply Kept.of_run

theorem genSample_kept {w : List Word} {s : State} {x : GenSt} (h : Kept Q s) : KeptM Q (genSample w s x) := by
  unfold genSample
  repeat' first
    | with_reducible assumption
    | with_reducible (first | apply freeNat_kept | apply Kept.of_snd)
    | (extract_lets -underBinder +onlyGivenNames x; first
      | (have hn : Kept2 Q x := ?_; all_goals first | (have hx := hn; clear hn; clear_value x) | subst x)
      | clear_value x)
    | simp -zeta only [Kept2.iff, KeptM.iff]
    | split

theorem genBlock_kept {s : State} {e : Nat × List Word} (h : Kept Q s) : Kept Q (genBlock s e) := by
  unfold genBlock
  repeat' first
    | with_reducible assumption
    | intro _
    | with_reducible (first
        | apply genSample_kept | apply State.setStrp_kept | apply State.setAud_kept | apply Kept.ite | apply KeptM.foldl
        | apply Kept.of_fst | apply Kept1.of_snd)
    | (extract_lets -underBinder +onlyGivenNames x; first
      | (have hn : KeptM Q x := ?_; all_goals first | (have hx := hn; clear hn; clear_value x) | subst x))
    | simp -zeta only [Kept1.iff, Kept2.iff, KeptM.iff]

theorem generators_kept {s : State} (h : Kept Q s) : Kept Q (generators s) := by
  unfold generators
  with_reducible repeat' first | assumption | apply genBlock_kept | apply Kept.foldl

theorem unitRefusal_kept {s : State} {kind idx : Nat} {ws : List Word} {tenant : Nat} (h : Kept Q s) : KeptO Q (unitRefusal s kind
    idx ws tenant) := by
  unfold unitRefusal
  with_reducible repeat' first
      | assumption | apply firstRefusal_kept | apply roomFor_kept | apply rtRefuse_kept | apply KeptO.ite | apply KeptO.none
      | apply KeptO.some | apply KeptL.nil | apply KeptL.cons

theorem descRefusal_kept {s : State} {n : Nat} {d : List Word} (h : Kept Q s) : KeptO Q (descRefusal s n d) := by
  unfold descRefusal
  with_reducible repeat' first
      | assumption | apply firstRefusal_kept | apply unitRefusal_kept | apply roomFor_kept | apply rtRefuse_kept | apply KeptO.ite
      | apply KeptO.none | apply KeptO.some | apply KeptL.nil | apply KeptL.cons

theorem stripPend_kept {s : State} {kind idx : Nat} {ws : List Word} (h : Kept Q s) : Kept Q (stripPend s kind idx ws) := by
  unfold stripPend
  with_reducible repeat' first | assumption | apply State.setStrp_kept

theorem stripSubmit_kept {s : State} {fn kind idx : Nat} {ws : List Word} (h : Kept Q s) : Kept Q (stripSubmit s fn kind idx ws) := by
  unfold stripSubmit
  repeat' first
    | with_reducible assumption
    | with_reducible (first | apply stripCond_kept | apply descRefusal_kept | apply stripPend_kept | apply unitRefusal_kept)
    | split
    | refine Kept.of_some ?_ (by assumption)

theorem unstage_kept {s : State} {fn space base count : Nat} (h : Kept Q s) : Kept Q (unstage s fn space base count) := by
  unfold unstage
  with_reducible repeat' first | assumption | apply State.setHp_kept

theorem stripWrite_kept {s : State} {fn a : Nat} {v : Word} (h : Kept Q s) : Kept Q (stripWrite s fn a v) := by
  unfold stripWrite
  repeat' first
    | with_reducible assumption
    | with_reducible (first | apply State.setHp_kept | apply stripSubmit_kept | apply unstage_kept)
    | split

theorem stripRead_kept {s : State} {fn a : Nat} (h : Kept Q s) : Kept2 Q (stripRead s fn a) := by
  unfold stripRead
  repeat' first
    | with_reducible assumption
    | with_reducible (first | apply State.setStrp_kept | apply Kept2.ite)
    | simp -zeta only [Kept2.iff]
    | split

theorem applyStrip_kept {s : State} {n : Nat} {d : List Word} (h : Kept Q s) : Kept Q (applyStrip s n d) := by
  unfold applyStrip
  with_reducible repeat' first | assumption | apply State.setStrp_kept | apply setStrip_kept

theorem applyEntry_kept {s0 : State} {e : Nat × Nat × List Word} (h : Kept Q s0) : Kept Q (applyEntry s0 e) := by
  unfold applyEntry
  repeat' first
    | with_reducible assumption
    | with_reducible (first | apply State.setStrp_kept | apply applyStrip_kept)
    | split

theorem stripRegs_kept {s : State} (h : Kept Q s) : Kept Q (stripRegs s) := by
  unfold stripRegs
  with_reducible repeat' first | assumption | apply wrAll_kept

theorem stripBoundary_kept {s : State} (h : Kept Q s) : Kept Q (stripBoundary s) := by
  unfold stripBoundary
  with_reducible repeat' first
      | assumption | apply State.setStrp_kept | apply stripRegs_kept | apply applyEntry_kept | apply Kept.ite | apply Kept.foldl

end Sys2Proof.Machine
end

