-- ==== Sys2Proof/Laws/KeepParterre.lean ====
section
/-! SUPPORT. What every operation of Machine/Parterre.lean keeps: the queue of waiting commands and the canonical form of what is stored. -/

namespace Sys2Proof.Machine

variable {Q : Keep}

theorem ptrCond_kept {s : State} {b idx : Nat} (h : Kept Q s) : Kept Q (ptrCond s b idx) := by
  unfold ptrCond
  with_reducible repeat' first | assumption | apply setCondWith_kept

theorem activationRefusal_kept {s : State} {z : Nat} {d : List Word} (h : Kept Q s) : KeptO Q (activationRefusal s z d) := by
  unfold activationRefusal
  with_reducible repeat' first | assumption | apply firstRefusal_kept | apply roomFor_kept | apply KeptL.nil | apply KeptL.cons

theorem zoneSubmit_kept {s : State} {fn z : Nat} {d : List Word} (h : Kept Q s) : Kept Q (zoneSubmit s fn z d) := by
  unfold zoneSubmit
  repeat' first
    | with_reducible assumption
    | with_reducible (first | apply ptrCond_kept | apply State.setPtr_kept | apply activationRefusal_kept)
    | split
    | refine Kept.of_some ?_ (by assumption)

theorem ptrSpaceWrite_kept {s : State} {fn a : Nat} {v : Word} (h : Kept Q s) : Kept Q (ptrSpaceWrite s fn a v) := by
  unfold ptrSpaceWrite
  with_reducible repeat' first
      | assumption | apply State.setHp_kept | apply zoneSubmit_kept | apply unstage_kept | apply State.setPtr_kept
      | apply ptrCond_kept | apply Kept.ite

theorem setZone_kept {s : State} {z : Nat} {x : ZoneSt} (h : Kept Q s) : Kept Q (setZone s z x) := by
  unfold setZone
  with_reducible repeat' first | assumption | apply State.setPtr_kept

theorem rampZone_kept {s : State} {z len : Nat} {goal : List Int} (h : Kept Q s) : Kept Q (rampZone s z len goal) := by
  unfold rampZone
  with_reducible repeat' first | assumption | apply State.setPtr_kept | apply Kept.ite

theorem applyZone_kept {s : State} {e : Nat × List Word} (h : Kept Q s) : Kept Q (applyZone s e) := by
  unfold applyZone
  with_reducible repeat' first | assumption | apply State.setPtr_kept | apply rampZone_kept | apply setZone_kept | apply Kept.ite

theorem ptrRegs_kept {s : State} (h : Kept Q s) : Kept Q (ptrRegs s) := by
  unfold ptrRegs
  with_reducible repeat' first | assumption | apply wrAll_kept

theorem ptrBoundary_kept {s : State} (h : Kept Q s) : Kept Q (ptrBoundary s) := by
  unfold ptrBoundary
  with_reducible repeat' first
      | assumption | intro _ | apply State.setPtr_kept | apply applyZone_kept | apply ptrRegs_kept | apply Kept.ite | apply Kept.foldl

theorem ptrSnapshot_kept {s : State} (h : Kept Q s) : Kept Q (ptrSnapshot s) := by
  unfold ptrSnapshot
  with_reducible repeat' first | assumption | apply State.setPtr_kept

theorem postSignal_kept {s : State} {q prio zone : Nat} (h : Kept Q s) : Kept Q (postSignal s q prio zone) := by
  unfold postSignal
  with_reducible repeat' first | assumption | apply State.setPtr_kept | apply Kept.ite

theorem missZone_kept {s : State} {z : Nat} {x : ZoneSt} (h : Kept Q s) : Kept Q (missZone s z x) := by
  unfold missZone
  repeat' first
    | with_reducible assumption
    | with_reducible (first | apply setZone_kept | apply ptrCond_kept | apply rampZone_kept)
    | (extract_lets -underBinder +onlyGivenNames x; clear_value x)
    | split

theorem hitZone_kept {s : State} {z : Nat} {x : ZoneSt} {addr ad : Nat} (h : Kept Q s) : Kept Q (hitZone s z x addr ad) := by
  unfold hitZone
  with_reducible repeat' first
      | assumption | apply ptrCond_kept | apply setZone_kept | apply rampZone_kept | apply postSignal_kept | apply Kept.ite

theorem followSet_kept {s : State} {z : Nat} (h : Kept Q s) : Kept Q (followSet s z) := by
  unfold followSet
  with_reducible repeat' first | assumption | apply rampZone_kept

theorem issueZone_kept {s : State} {e : Nat × Nat} (h : Kept Q s) : Kept Q (issueZone s e) := by
  unfold issueZone
  with_reducible repeat' first | assumption | apply autoInvalidate_kept | apply State.setPtr_kept

theorem takeZone_kept {a : State × List ZoneReport} {f : ZoneFlight} (h_a : Kept1 Q a) : Kept1 Q (takeZone a f) := by
  unfold takeZone
  repeat' first
    | with_reducible assumption
    | intro _
    | with_reducible (first
        | apply reportFail_kept | apply reportDbad_kept | apply ptrCond_kept | apply hitZone_kept | apply missZone_kept
        | apply followSet_kept | apply Kept.ite | apply Kept.foldl | apply Kept.of_fst)
    | (extract_lets -underBinder +onlyGivenNames x; first
      | (have hn : Kept Q x := ?_; all_goals first | (have hx := hn; clear hn; clear_value x) | subst x)
      | clear_value x)
    | simp -zeta only [Kept1.iff, Kept2.iff]

theorem tickReports_kept {s : State} {l : List ZoneReport} (h : Kept Q s) : Kept Q (tickReports s l) := by
  unfold tickReports
  repeat' first
    | with_reducible assumption
    | intro _
    | with_reducible (first | apply setCondWith_kept | apply fireSrc_kept | apply Kept.foldl)
    | (extract_lets -underBinder +onlyGivenNames x; first
      | (have hn : Kept Q x := ?_; all_goals first | (have hx := hn; clear hn; clear_value x) | subst x)
      | clear_value x)
    | split

theorem issueZones_kept {s : State} {c : Nat} (h : Kept Q s) : Kept Q (issueZones s c) := by
  unfold issueZones
  with_reducible repeat' first | assumption | apply issueZone_kept | apply Kept.foldl

theorem takeZones_kept {s : State} {c : Nat} (h : Kept Q s) : Kept Q (takeZones s c) := by
  unfold takeZones
  repeat' first
    | with_reducible assumption
    | intro _
    | with_reducible (first
        | apply takeZone_kept | apply State.setPtr_kept | apply tickReports_kept | apply Kept.ite | apply Kept1.foldl
        | apply Kept.of_fst)
    | simp -zeta only [Kept1.iff, Kept2.iff]

theorem windowTick_kept {s : State} {c : Nat} (h : Kept Q s) : Kept Q (windowTick s c) := by
  unfold windowTick
  with_reducible repeat' first | assumption | apply takeZones_kept | apply issueZones_kept | apply Kept.ite

theorem gainUpsets_kept {s : State} {l : List (BitVec 12 × BitVec 6)} (h : Kept Q s) : Kept Q (gainUpsets s l) := by
  unfold gainUpsets
  with_reducible repeat' first | assumption | intro _ | apply setCondWith_kept | apply State.setPtr_kept | apply Kept.foldl

theorem zoneUpsets_kept {s : State} {l : List (BitVec 12 × BitVec 1)} (h : Kept Q s) : Kept Q (zoneUpsets s l) := by
  unfold zoneUpsets
  with_reducible repeat' first | assumption | intro _ | apply setCondWith_kept | apply Kept.foldl

theorem execParterreWindow_kept {gains : List (BitVec 12 × BitVec 6)} {descs : List (BitVec 12 × BitVec 1)} {s : State} (h : Kept Q
    s) : KeptN Q (execParterreWindow gains descs s) := by
  unfold execParterreWindow
  with_reducible repeat' first
      | assumption | apply zoneUpsets_kept | apply gainUpsets_kept | apply State.setPtr_kept | apply Kept.ite | apply KeptN.next

theorem zoneStatRead_kept {s : State} {fn off : Nat} (h : Kept Q s) : Kept2 Q (zoneStatRead s fn off) := by
  unfold zoneStatRead
  repeat' first
    | with_reducible assumption
    | with_reducible (first | apply State.setPtr_kept | apply Kept2.ite)
    | simp -zeta only [Kept2.iff]
    | split

theorem execZoneStatusRead_kept {fn : BitVec 6} {hi : Bool} {s : State} (h : Kept Q s) : KeptN Q (execZoneStatusRead fn hi s) := by
  unfold execZoneStatusRead
  with_reducible repeat' first
      | assumption | apply zoneStatRead_kept | apply State.setAns_kept | apply Kept.ite | apply KeptN.next | apply Kept.of_snd

end Sys2Proof.Machine
end

