-- ==== Sys2Proof/Laws/KeepInputs.lean ====
section
/-! SUPPORT. What every operation of Machine/Inputs.lean keeps: the queue of waiting commands and the canonical form of what is stored. -/

namespace Sys2Proof.Machine

variable {Q : Keep}

theorem runPair_kept {s : State} {n : Nat} (h : Kept Q s) : Kept Q (runPair s n) := by
  unfold runPair
  repeat' first
    | with_reducible assumption
    | with_reducible (first | apply wr_kept | apply setCondWith_kept)
    | (extract_lets -underBinder +onlyGivenNames x; first
      | (have hn : Kept Q x := ?_; all_goals first | (have hx := hn; clear hn; clear_value x) | subst x)
      | clear_value x)
    | split

theorem inputsBoundary_kept {s : State} (h : Kept Q s) : Kept Q (inputsBoundary s) := by
  unfold inputsBoundary
  with_reducible repeat' first | assumption | apply State.setInp_kept | apply runPair_kept | apply Kept.foldl

theorem inputsEnterLaid_kept {s : State} (h : Kept Q s) : Kept Q (inputsEnterLaid s) := by
  unfold inputsEnterLaid
  with_reducible repeat' first | assumption | apply wrAll_kept

theorem execDciFilterChange_kept {n : BitVec 4} {chanB level late : Bool} {s : State} (h : Kept Q s) : KeptN Q (execDciFilterChange n
    chanB level late s) := by
  unfold execDciFilterChange
  with_reducible repeat' first | assumption | apply State.setInp_kept | apply KeptN.next

theorem execGpioLevelChange_kept {pin : BitVec 6} {level : Bool} {s : State} (h : Kept Q s) : KeptN Q (execGpioLevelChange pin level
    s) := by
  unfold execGpioLevelChange
  with_reducible repeat' first | assumption | apply State.setInp_kept | apply KeptN.next

theorem drivePins_kept {s : State} {high : Nat → Bool} (h : Kept Q s) : Kept Q (drivePins s high) := by
  unfold drivePins
  with_reducible repeat' first | assumption | apply State.setInp_kept | apply Kept.ite

theorem filterChannels_kept {s : State} {lvls : Nat} (h : Kept Q s) : Kept Q (filterChannels s lvls) := by
  unfold filterChannels
  with_reducible repeat' first | assumption | intro _ | apply State.setInp_kept | apply Kept.foldl

theorem syncPins_kept {s : State} (h : Kept Q s) : Kept Q (syncPins s) := by
  unfold syncPins
  with_reducible repeat' first | assumption | apply filterChannels_kept | apply State.setInp_kept

end Sys2Proof.Machine
end

