-- ==== Sys2Proof/Laws/KeepDeepStore.lean ====
section
/-! SUPPORT. What every operation of Machine/DeepStore.lean keeps: the queue of waiting commands and the canonical form of what is stored. -/

namespace Sys2Proof.Machine

variable {Q : Keep}

theorem setPlayer_kept {s : State} {n : Nat} {p : Player} (h : Kept Q s) : Kept Q (setPlayer s n p) := by
  unfold setPlayer
  with_reducible repeat' first | assumption | apply State.setDste_kept

theorem execDstScrubRead_kept {corr unc : BitVec 4} {s : State} (h : Kept Q s) : KeptN Q (execDstScrubRead corr unc s) := by
  unfold execDstScrubRead
  with_reducible repeat' first
      | assumption | apply granted_kept | apply eccReports_kept | apply State.setDste_kept | apply dstCond_kept | apply wr_kept
      | apply wrF_kept | apply Kept.ite | apply KeptN.next

theorem execDstScrubWriteback_kept {s : State} (h : Kept Q s) : KeptN Q (execDstScrubWriteback s) := by
  unfold execDstScrubWriteback
  repeat' first
    | with_reducible assumption
    | with_reducible (first | apply granted_kept | apply State.setDste_kept | apply KeptN.next)
    | split

theorem execDstScrubStall_kept {s : State} (h : Kept Q s) : KeptN Q (execDstScrubStall s) := by
  unfold execDstScrubStall
  with_reducible repeat' first | assumption | apply dstCond_kept | apply State.setDste_kept | apply Kept.ite | apply KeptN.next

theorem apertureWrite_kept {s : State} {unit off : Nat} {data : List Byte} (h : Kept Q s) : Kept Q (apertureWrite s unit off data) :=
    by
  unfold apertureWrite
  with_reducible repeat' first | assumption | apply dstCond_kept | apply State.setDste_kept | apply Kept.ite

theorem mirrorAll_kept {s : State} {l : List (Nat × Word)} {go : State → State} (h : Kept Q s)
    (h_go : ∀ t, Kept Q t → Kept Q (go t)) : Kept Q (mirrorAll s l go) := by
  induction l generalizing s with
  | nil => exact h_go s h
  | cons e l ih =>
    unfold mirrorAll
    exact Kept.ite (mirrored_kept h h_go) (ih (mirrored_kept h (fun _ ht => ht)))

theorem execApertureWrite_kept {unit : BitVec 29} {off : BitVec 5} {data : List Byte} {s : State} (h : Kept Q s) : KeptN Q
    (execApertureWrite unit off data s) := by
  unfold execApertureWrite
  with_reducible repeat' first
      | assumption | intro _ | apply mirrorAll_kept | apply apertureWrite_kept | apply Kept.ite | apply KeptN.next

theorem unitRewritten_kept {s : State} {unit : Nat} (h : Kept Q s) : Kept Q (unitRewritten s unit) := by
  unfold unitRewritten
  with_reducible repeat' first | assumption | intro _ | apply ringRewritten_kept | apply lineRewritten_kept | apply Kept.foldl

theorem execApertureWriteServed_kept {corr unc : BitVec 4} {s : State} (h : Kept Q s) (hS : Q.Stores) : KeptN Q
    (execApertureWriteServed corr unc s) := by
  unfold execApertureWriteServed
  repeat' first
    | with_reducible assumption
    | with_reducible (first
        | apply State.setDste_kept | apply eccReports_kept | apply granted_kept | apply unitRewritten_kept | apply writeUnit_kept
        | apply KeptN.next)
    | split

theorem apertureRead_kept {s : State} {addr corr unc : Nat} (h : Kept Q s) : Kept2 Q (apertureRead s addr corr unc) := by
  unfold apertureRead
  repeat' first
    | with_reducible assumption
    | with_reducible (first | apply granted_kept | apply eccReports_kept | apply Kept2.ite)
    | simp -zeta only [Kept2.iff]

theorem execApertureRead_kept {addr : BitVec 32} {corr unc : BitVec 4} {s : State} (h : Kept Q s) : KeptN Q (execApertureRead addr
    corr unc s) := by
  unfold execApertureRead
  with_reducible repeat' first
      | assumption | apply State.setAns_kept | apply apertureRead_kept | apply Kept.ite | apply KeptN.next | apply Kept.of_snd

theorem execApertureReadTimeout_kept {s : State} (h : Kept Q s) : KeptN Q (execApertureReadTimeout s) := by
  unfold execApertureReadTimeout
  with_reducible repeat' first | assumption | apply dstCond_kept | apply State.setAns_kept | apply Kept.ite | apply KeptN.next

theorem playerStart_kept {s : State} {n msg : Nat} {issuer : Option Nat} (h : Kept Q s) : Kept Q (playerStart s n msg issuer) := by
  unfold playerStart
  with_reducible repeat' first | assumption | apply setPlayer_kept

theorem playerStop_kept {s : State} {n : Nat} (h : Kept Q s) : Kept Q (playerStop s n) := by
  unfold playerStop
  with_reducible repeat' first | assumption | apply setPlayer_kept | apply Kept.ite

theorem playerCtl_kept {s : State} {n : Nat} {v : Word} (h : Kept Q s) : Kept Q (playerCtl s n v) := by
  unfold playerCtl
  with_reducible repeat' first | assumption | apply playerStart_kept | apply playerStop_kept | apply Kept.ite

theorem execPlayerStart_kept {fn n : BitVec 6} {msg : BitVec 16} {s : State} (h : Kept Q s) : KeptN Q (execPlayerStart fn n msg s) :=
    by
  unfold execPlayerStart
  with_reducible repeat' first | assumption | apply playerCtl_kept | apply plainWrite_kept | apply Kept.ite | apply KeptN.next

theorem execPlayerStop_kept {fn n : BitVec 6} {msg : BitVec 16} {s : State} (h : Kept Q s) : KeptN Q (execPlayerStop fn n msg s) := by
  unfold execPlayerStop
  with_reducible repeat' first | assumption | apply playerCtl_kept | apply plainWrite_kept | apply Kept.ite | apply KeptN.next

theorem playerEnd_kept {s : State} {n cause msg : Nat} (h : Kept Q s) : Kept Q (playerEnd s n cause msg) := by
  unfold playerEnd
  repeat' first
    | with_reducible assumption
    | with_reducible (first | apply wr_kept | apply fireSrc_kept | apply State.setDste_kept)
    | split

theorem fetchStart_kept {ecc : Ecc} {n : Nat} {s : State} {c : PlayCmd} (h : Kept Q s) : Kept Q (fetchStart ecc n s c) := by
  unfold fetchStart
  with_reducible repeat' first | assumption | apply unitsRead_kept | apply setPlayer_kept | apply playerEnd_kept | apply Kept.ite

theorem playerFetch_kept {ecc : Ecc} {s : State} {n : Nat} (h : Kept Q s) : Kept Q (playerFetch ecc s n) := by
  unfold playerFetch
  with_reducible repeat' first | assumption | apply fetchStart_kept | apply setPlayer_kept | apply Kept.foldl

theorem playerBlock_kept {ecc : Ecc} {b : Nat} {s : State} {n : Nat} (h : Kept Q s) : Kept Q (playerBlock ecc b s n) := by
  unfold playerBlock
  repeat' first
    | with_reducible assumption
    | with_reducible (first
        | apply setPlayer_kept | apply unitsRead_kept | apply State.setDste_kept | apply State.setAud_kept | apply playerEnd_kept)
    | (extract_lets -underBinder +onlyGivenNames x; first
      | (have hn : Kept Q x := ?_; all_goals first | (have hx := hn; clear hn; clear_value x) | subst x)
      | clear_value x)
    | split

theorem playersStageA_kept {s : State} {b : Nat} {ecc : Ecc} (h : Kept Q s) : Kept Q (playersStageA s b ecc) := by
  unfold playersStageA
  with_reducible repeat' first | assumption | apply playerFetch_kept | apply playerBlock_kept | apply Kept.foldl

theorem missRequest_kept {s : State} {r : DstReq} {unit : Nat} (h : Kept Q s) (hS : Q.Stores) : Kept Q (missRequest s r unit) := by
  unfold missRequest
  repeat' first
    | with_reducible assumption
    | with_reducible (first
        | apply muteUnit_kept | apply setStrip_kept | apply State.setDstPut_kept | apply ringChannel_kept | apply State.setDste_kept)
    | split

theorem execDeadlineMiss_kept {req : DstReq} {unit : BitVec 29} {s : State} (h : Kept Q s) (hS : Q.Stores) : KeptN Q
    (execDeadlineMiss req unit s) := by
  unfold execDeadlineMiss
  with_reducible repeat' first | assumption | apply dstCond_kept | apply missRequest_kept | apply Kept.ite | apply KeptN.next

theorem capGroup_kept {s : State} {k : Nat} {x : Capture8} (h : Kept Q s) : Kept1 Q (capGroup s k x) := by
  unfold capGroup
  repeat' first
    | with_reducible assumption
    | with_reducible (first | apply dstCond_kept | apply Kept1.ite)
    | simp -zeta only [Kept1.iff]

theorem capDrain_kept {left : Nat} {s : State} {x : Capture8} (h : Kept Q s) (hS : Q.Stores) : Kept1 Q (capDrain left s x) := by
  unfold capDrain
  repeat' first
    | with_reducible assumption
    | intro _
    | with_reducible (first | apply writeUnit_kept | apply Kept.foldl)
    | (extract_lets -underBinder +onlyGivenNames x; clear_value x)
    | simp -zeta only [Kept1.iff, Kept2.iff]

theorem capBlock_kept {inputs : Bool} {d : Nat} {waits : List (BitVec 3 × BitVec 8)} {s : State} {e : Nat × Capture8} (h : Kept Q s)
    (hS : Q.Stores) : Kept Q (capBlock inputs d waits s e) := by
  unfold capBlock
  repeat' first
    | with_reducible assumption
    | intro _
    | with_reducible (first
        | apply capGroup_kept | apply capDrain_kept | apply wrAll_kept | apply State.setDste_kept | apply Kept.ite
        | apply Kept1.ite | apply Kept1.foldl | apply Kept.of_fst)
    | simp -zeta only [Kept1.iff, Kept2.iff]

theorem capStage_kept {s : State} {inputs : Bool} {d : Nat} {waits : List (BitVec 3 × BitVec 8)} (h : Kept Q s) (hS : Q.Stores) :
    Kept Q (capStage s inputs d waits) := by
  unfold capStage
  with_reducible repeat' first | assumption | intro _ | apply capBlock_kept | apply Kept.foldl

theorem capBoundary_kept {s : State} (h : Kept Q s) : Kept Q (capBoundary s) := by
  unfold capBoundary
  with_reducible repeat' first
      | assumption | intro _ | apply State.setDste_kept | apply wrAll_kept | apply Kept.ite | apply Kept.foldl

theorem dstWrite_kept {s : State} {off : Nat} {q : Quarter} {w v : Word} (h : Kept Q s) : KeptO Q (dstWrite s off q w v) := by
  unfold dstWrite
  with_reducible repeat' first
      | assumption | apply wr_kept | apply playerCtl_kept | apply rtRefuse_kept | apply Kept.ite | apply KeptO.ite
      | apply KeptO.none | apply KeptO.some

end Sys2Proof.Machine
end

