-- ==== Sys2Proof/Laws/KeepEdarlink.lean ====
section
/-! SUPPORT. What every operation of Machine/Edarlink.lean keeps: the queue of waiting commands and the canonical form of what is stored. -/

namespace Sys2Proof.Machine

variable {Q : Keep}

theorem setEdl_kept {s : State} {n : Nat} {p : EdlPort} (h : Kept Q s) : Kept Q (setEdl s n p) := by
  unfold setEdl
  with_reducible repeat' first | assumption | apply State.setEdl_kept

theorem healCond_kept {s : State} {n b : Nat} (h : Kept Q s) : Kept Q (healCond s n b) := by
  unfold healCond
  with_reducible repeat' first | assumption | apply setCond_kept

theorem healPort_kept {s : State} {n : Nat} (h : Kept Q s) : Kept Q (healPort s n) := by
  unfold healPort
  with_reducible repeat' first | assumption | apply wrF_kept | apply healCond_kept | apply Kept.ite

theorem healWrap_kept {s : State} {fn b : Nat} (h : Kept Q s) : Kept Q (healWrap s fn b) := by
  unfold healWrap
  repeat' first
    | with_reducible assumption
    | with_reducible (first | apply healCond_kept | apply wrF_kept | apply Kept.ite)
    | split

theorem heal_kept {s : State} (h : Kept Q s) : Kept Q (heal s) := by
  unfold heal
  with_reducible repeat' first | assumption | apply healWrap_kept | apply healPort_kept | apply Kept.foldl

theorem tunnelDown_kept {s : State} {n : Nat} (h : Kept Q s) : Kept Q (tunnelDown s n) := by
  unfold tunnelDown
  with_reducible repeat' first | assumption | apply linkLossFlush_kept | apply wrF_kept | apply Kept.ite

theorem timingLost_kept {s : State} {n : Nat} (h : Kept Q s) : Kept Q (timingLost s n) := by
  unfold timingLost
  with_reducible repeat' first | assumption | apply wrF_kept | apply State.setTb_kept | apply edlCond_kept | apply Kept.ite

theorem dropFrames_kept {s : State} {n : Nat} (h : Kept Q s) : Kept Q (dropFrames s n) := by
  unfold dropFrames
  with_reducible repeat' first | assumption | apply setEdlTx_kept | apply edlCond_kept | apply Kept.ite

theorem parley_kept {s : State} {n : Nat} (h : Kept Q s) : Kept Q (parley s n) := by
  unfold parley
  with_reducible repeat' first
      | assumption | apply setEdlTx_kept | apply dropFrames_kept | apply tunnelDown_kept | apply timingLost_kept | apply wrAll_kept
      | apply heal_kept | apply setEdl_kept

theorem portStart_kept {s : State} {n : Nat} (h : Kept Q s) : Kept Q (portStart s n) := by
  unfold portStart
  with_reducible repeat' first | assumption | apply parley_kept | apply Kept.ite

theorem execParleyStart_kept {n : BitVec 2} {s : State} (h : Kept Q s) : KeptN Q (execParleyStart n s) := by
  unfold execParleyStart
  with_reducible repeat' first | assumption | apply portStart_kept | apply Kept.ite | apply KeptN.next

theorem judgePages_kept {s : State} {n : Nat} (h : Kept Q s) : Kept Q (judgePages s n) := by
  unfold judgePages
  repeat' first
    | with_reducible assumption
    | with_reducible (first | apply wrF_kept | apply edlCond_kept | apply wr_kept | apply setEdl_kept | apply wrAll_kept)
    | (extract_lets -underBinder +onlyGivenNames x; first
      | (have hn : Kept Q x := ?_; all_goals first | (have hx := hn; clear hn; clear_value x) | subst x)
      | clear_value x)
    | split

theorem pageArrives_kept {s : State} {n lane : Nat} {bs : List Byte} (h : Kept Q s) : Kept Q (pageArrives s n lane bs) := by
  unfold pageArrives
  with_reducible repeat' first
      | assumption | apply setEdl_kept | apply judgePages_kept | apply wrF_kept | apply healCond_kept | apply Kept.ite

theorem execCapabilityPage_kept {n lane : BitVec 2} {page : List Byte} {s : State} (h : Kept Q s) : KeptN Q (execCapabilityPage n
    lane page s) := by
  unfold execCapabilityPage
  with_reducible repeat' first | assumption | apply pageArrives_kept | apply KeptN.next

theorem execNomodeRetry_kept {n : BitVec 2} {s : State} (h : Kept Q s) : KeptN Q (execNomodeRetry n s) := by
  unfold execNomodeRetry
  with_reducible repeat' first | assumption | apply parley_kept | apply setEdl_kept | apply Kept.ite | apply KeptN.next

theorem execTrainingSuccess_kept {n : BitVec 2} {s : State} (h : Kept Q s) : KeptN Q (execTrainingSuccess n s) := by
  unfold execTrainingSuccess
  with_reducible repeat' first
      | assumption | apply setEdlTx_kept | apply setEdl_kept | apply wrF_kept | apply Kept.ite | apply KeptN.next

theorem execTrainingTimeout_kept {n : BitVec 2} {s : State} (h : Kept Q s) : KeptN Q (execTrainingTimeout n s) := by
  unfold execTrainingTimeout
  with_reducible repeat' first | assumption | apply parley_kept | apply setEdl_kept | apply Kept.ite | apply KeptN.next

theorem edlCtlWrite_kept {s : State} {fn n : Nat} {q : Quarter} {v : Word} (h : Kept Q s) : Kept Q (edlCtlWrite s fn n q v) := by
  unfold edlCtlWrite
  with_reducible repeat' first
      | assumption | apply wr_kept | apply edlCond_kept | apply parley_kept | apply setEdl_kept | apply heal_kept | apply Kept.ite

theorem execRestart_kept {fn : BitVec 6} {n : BitVec 2} {v : Word} {s : State} (h : Kept Q s) : KeptN Q (execRestart fn n v s) := by
  unfold execRestart
  with_reducible repeat' first | assumption | apply edlCtlWrite_kept | apply Kept.ite | apply KeptN.next

theorem execEdlPnpWrite_kept {fn : BitVec 6} {n : BitVec 2} {v : Word} {s : State} (h : Kept Q s) : KeptN Q (execEdlPnpWrite fn n v
    s) := by
  unfold execEdlPnpWrite
  with_reducible repeat' first | assumption | apply edlCtlWrite_kept | apply Kept.ite | apply KeptN.next

theorem execGen1Write_kept {fn : BitVec 6} {n : BitVec 2} {v : Word} {s : State} (h : Kept Q s) : KeptN Q (execGen1Write fn n v s) :=
    by
  unfold execGen1Write
  with_reducible repeat' first | assumption | apply edlCtlWrite_kept | apply Kept.ite | apply KeptN.next

theorem pairCond_kept {s : State} {b : Nat} (h : Kept Q s) : Kept Q (pairCond s b) := by
  unfold pairCond
  with_reducible repeat' first | assumption | apply setCond_kept

theorem pairHeard_kept {s : State} {src : Nat} (h : Kept Q s) : Kept Q (pairHeard s src) := by
  unfold pairHeard
  with_reducible repeat' first | assumption | apply wrF_kept | apply Kept.ite

theorem pairDisarm_kept {s : State} {src : Nat} (h : Kept Q s) : Kept Q (pairDisarm s src) := by
  unfold pairDisarm
  with_reducible repeat' first | assumption | apply State.setPair_kept | apply wrF_kept | apply Kept.ite

theorem dirTake_kept {s : State} {src epoch : Nat} (h : Kept Q s) : Kept Q (dirTake s src epoch) := by
  unfold dirTake
  with_reducible repeat' first | assumption | intro _ | apply wr_kept | apply Kept.ite | apply Kept.foldl

theorem sendMarker_kept {lease : Nat} {s : State} {n : Nat} (h : Kept Q s) : Kept Q (sendMarker lease s n) := by
  unfold sendMarker
  with_reducible repeat' first | assumption | apply pushSet_kept | apply setEdl_kept | apply Kept.ite

theorem sendMarkers_kept {lease : Nat} {s : State} (h : Kept Q s) : Kept Q (sendMarkers lease s) := by
  unfold sendMarkers
  with_reducible repeat' first | assumption | apply sendMarker_kept | apply Kept.foldl

theorem acquire_kept {s : State} {n c : Nat} {m : MarkerIn} {th : Int} {old1 old2 now2 : Nat} (h : Kept Q s) : Kept Q (acquire s n c
    m th old1 old2 now2) := by
  unfold acquire
  repeat' first
    | with_reducible assumption
    | rfl
    | with_reducible (first
        | apply setDstate_kept | apply wr_kept | apply setTbase_kept | apply healCond_kept | apply wrF_kept | apply setEdl_kept
        | apply nextBoundary_kept | apply State.setDkl_keep)

theorem markerArrives_kept {s : State} {n c : Nat} {m : MarkerIn} (h : Kept Q s) : Kept Q (markerArrives s n c m) := by
  unfold markerArrives
  repeat' first
    | with_reducible assumption
    | rfl
    | with_reducible (first
        | apply dirTake_kept | apply pairHeard_kept | apply pushSet_kept | apply setEdl_kept | apply wr_kept | apply acquire_kept
        | apply State.setDkl_keep | apply Kept.ite)
    | split

theorem execMarker_kept {n : BitVec 2} {bytes : List Byte} {cyc : BitVec 4} {s : State} (h : Kept Q s) : KeptN Q (execMarker n bytes
    cyc s) := by
  unfold execMarker
  repeat' first
    | with_reducible assumption
    | with_reducible (first | apply markerArrives_kept | apply KeptN.next)
    | split

theorem execEcho_kept {n : BitVec 2} {bytes : List Byte} {cyc : BitVec 4} {s : State} (h : Kept Q s) : KeptN Q (execEcho n bytes cyc
    s) := by
  unfold execEcho
  repeat' first
    | with_reducible assumption
    | with_reducible (first | apply wr_kept | apply setEdl_kept | apply KeptN.next)
    | (extract_lets -underBinder +onlyGivenNames x; clear_value x)
    | split

theorem sendPart_kept {transit cut : Bool} {s : State} {gen1 : Bool} {f : EdlFrame} {n : Nat} (h : Kept Q s) : Kept Q (sendPart
    transit cut s gen1 f n) := by
  unfold sendPart
  repeat' first
    | with_reducible assumption
    | with_reducible (first | apply edlCond_kept | apply pushFrame_kept)
    | split

theorem sendOn_kept {s : State} {gen1 : Bool} {f : EdlFrame} {n : Nat} (h : Kept Q s) : Kept Q (sendOn s gen1 f n) := by
  unfold sendOn
  with_reducible repeat' first | assumption | apply sendPart_kept

theorem forwardPart_kept {cut : Bool} {s : State} {gen1 : Bool} {f : EdlFrame} {ports : List Nat} (h : Kept Q s) : Kept Q
    (forwardPart cut s gen1 f ports) := by
  unfold forwardPart
  with_reducible repeat' first | assumption | intro _ | apply sendPart_kept | apply Kept.ite | apply Kept.foldl

theorem forwardOn_kept {s : State} {gen1 : Bool} {f : EdlFrame} {ports : List Nat} (h : Kept Q s) : Kept Q (forwardOn s gen1 f ports)
    := by
  unfold forwardOn
  with_reducible repeat' first | assumption | apply forwardPart_kept

theorem cutFrame_kept {s : State} {n : Nat} {f : EdlFrame} (h : Kept Q s) : Kept Q (cutFrame s n f) := by
  unfold cutFrame
  with_reducible repeat' first | assumption | apply forwardPart_kept | apply Kept.ite

theorem strayGranules_kept {n : Nat} {f : EdlFrame} {s : State} (h : Kept Q s) : Kept Q (strayGranules n f s) := by
  unfold strayGranules
  with_reducible repeat' first | assumption | apply edlCond_kept | apply Kept.ite

theorem edlFront_kept {s : State} {n : Nat} {f : EdlFrame} {uncorr : Bool} {go : State → EdlFrame → State} (h : Kept Q s) (h_go : ∀
    x0 : State, Kept Q x0 → ∀ x1 : EdlFrame, Kept Q (go x0 x1)) : Kept Q (edlFront s n f uncorr go) := by
  unfold edlFront
  with_reducible repeat' first
      | assumption | apply edlCond_kept | apply cutFrame_kept | apply strayGranules_kept | apply pairCond_kept | apply h_go
      | apply Kept.ite

theorem edlDst_kept {s : State} {n : Nat} {f : EdlFrame} {uncorr : Bool} {isIt : EdlFrame → Bool} {deliver : State → EdlFrame →
    State} (h : Kept Q s) (h_deliver : ∀ x0 : State, Kept Q x0 → ∀ x1 : EdlFrame, Kept Q (deliver x0 x1)) : Kept Q (edlDst s n f
    uncorr isIt deliver) := by
  unfold edlDst
  with_reducible repeat' first | assumption | intro _ | apply edlFront_kept | apply forwardOn_kept | apply h_deliver | apply Kept.ite

theorem sendCommit_kept {s : State} {dev target epoch : Nat} (h : Kept Q s) : Kept Q (sendCommit s dev target epoch) := by
  unfold sendCommit
  with_reducible repeat' first | assumption | intro _ | apply sendOn_kept | apply Kept.ite | apply Kept.foldl

theorem pairCopy_kept {s : State} {sub : Nat} {payload : List Byte} (h : Kept Q s) : Kept Q (pairCopy s sub payload) := by
  unfold pairCopy
  with_reducible repeat' first | assumption | apply sendOn_kept | apply Kept.ite

theorem hostCommitDo_kept {s : State} (h : Kept Q s) : Kept Q (hostCommitDo s) := by
  unfold hostCommitDo
  with_reducible repeat' first | assumption | apply pairCopy_kept | apply hostCommit_kept | apply sendCommit_kept | apply Kept.ite

theorem hostCommitGo_kept {s : State} (h : Kept Q s) : Kept Q (hostCommitGo s) := by
  unfold hostCommitGo
  with_reducible repeat' first | assumption | apply later_kept

theorem execHostCommit_kept {fn : BitVec 6} {v : Word} {s : State} (h : Kept Q s) : KeptN Q (execHostCommit fn v s) := by
  unfold execHostCommit
  with_reducible repeat' first | assumption | apply plainWrite_kept | apply hostCommitGo_kept | apply Kept.ite | apply KeptN.next

theorem execCommitFrame_kept {n : BitVec 2} {frame : List Byte} {uncorr : Bool} {s : State} (h : Kept Q s) : KeptN Q (execCommitFrame
    n frame uncorr s) := by
  unfold execCommitFrame
  with_reducible repeat' first | assumption | intro _ | apply edlDst_kept | apply later_kept | apply KeptN.next

theorem cutHeader_kept {s : State} {n : Nat} {cut : Option (List Byte)} (h : Kept Q s) : Kept Q (cutHeader s n cut) := by
  unfold cutHeader
  repeat' first
    | with_reducible assumption
    | with_reducible apply cutFrame_kept
    | split

theorem dropJoin_kept {s : State} {n : Nat} (h : Kept Q s) : Kept Q (dropJoin s n) := by
  unfold dropJoin
  repeat' first
    | with_reducible assumption
    | with_reducible (first | apply portDrop_kept | apply setEdl_kept)
    | split

theorem loss_kept {s : State} {n cause : Nat} {cut : Option (List Byte)} (h : Kept Q s) : Kept Q (loss s n cause cut) := by
  unfold loss
  with_reducible repeat' first
      | assumption | apply dropJoin_kept | apply cutHeader_kept | apply wr_kept | apply edlCond_kept | apply wrF_kept
      | apply tunnelDown_kept | apply timingLost_kept | apply heal_kept | apply setEdl_kept | apply parley_kept | apply Kept.ite

theorem execLossOfSignal_kept {n : BitVec 2} {cut : Option (List Byte)} {s : State} (h : Kept Q s) : KeptN Q (execLossOfSignal n cut
    s) := by
  unfold execLossOfSignal
  with_reducible repeat' first | assumption | apply loss_kept | apply KeptN.next

theorem execLossOfLock_kept {n : BitVec 2} {cut : Option (List Byte)} {s : State} (h : Kept Q s) : KeptN Q (execLossOfLock n cut s)
    := by
  unfold execLossOfLock
  with_reducible repeat' first | assumption | apply loss_kept | apply KeptN.next

theorem execMarkerMissing_kept {n : BitVec 2} {cut : Option (List Byte)} {s : State} (h : Kept Q s) : KeptN Q (execMarkerMissing n
    cut s) := by
  unfold execMarkerMissing
  with_reducible repeat' first | assumption | apply loss_kept | apply KeptN.next

theorem pnpArrives_kept {s : State} {n : Nat} {bs : List Byte} {at_ : PnpAt} (h : Kept Q s) : Kept Q (pnpArrives s n bs at_) := by
  unfold pnpArrives
  repeat' first
    | with_reducible assumption
    | with_reducible (first
        | apply wrF_kept | apply pairDisarm_kept | apply pairHeard_kept | apply loss_kept | apply setEdl_kept | apply Kept.ite)
    | split

theorem execPnp_kept {n : BitVec 2} {bytes : List Byte} {at_ : PnpAt} {s : State} (h : Kept Q s) : KeptN Q (execPnp n bytes at_ s) :=
    by
  unfold execPnp
  with_reducible repeat' first | assumption | apply pnpArrives_kept | apply KeptN.next

theorem execLeave_kept {n : BitVec 2} {bytes : List Byte} {cut : Option (List Byte)} {s : State} (h : Kept Q s) : KeptN Q (execLeave
    n bytes cut s) := by
  unfold execLeave
  with_reducible repeat' first
      | assumption | apply loss_kept | apply pairDisarm_kept | apply pairHeard_kept | apply Kept.ite | apply KeptN.next

theorem execAbortSet_kept {n : BitVec 2} {bytes : List Byte} {cut : Option (List Byte)} {s : State} (h : Kept Q s) : KeptN Q
    (execAbortSet n bytes cut s) := by
  unfold execAbortSet
  repeat' first
    | with_reducible assumption
    | with_reducible (first | apply dropJoin_kept | apply cutHeader_kept | apply KeptN.next)
    | split

theorem flowTake_kept {n : Nat} {s : State} {f : EdlFrame} (h : Kept Q s) : Kept Q (flowTake n s f) := by
  unfold flowTake
  repeat' first
    | with_reducible assumption
    | with_reducible (first | apply edlCond_kept | apply State.setEdl_kept | apply Kept.ite)
    | split

theorem execAudio_kept {n : BitVec 2} {frame : List Byte} {uncorr : Bool} {s : State} (h : Kept Q s) : KeptN Q (execAudio n frame
    uncorr s) := by
  unfold execAudio
  with_reducible repeat' first | assumption | intro _ | apply edlDst_kept | apply flowTake_kept | apply KeptN.next

theorem flowBlock_kept {b : Nat} {s : State} {e : Nat × List Word} (h : Kept Q s) : Kept Q (flowBlock b s e) := by
  unfold flowBlock
  with_reducible repeat' first | assumption | apply State.setAud_kept | apply State.setEdl_kept | apply Kept.ite

theorem flowsStageA_kept {s : State} {b : Nat} (h : Kept Q s) : Kept Q (flowsStageA s b) := by
  unfold flowsStageA
  repeat' first
    | with_reducible assumption
    | intro _
    | with_reducible (first
        | apply fadeBlock_kept | apply State.setEdl_kept | apply flowBlock_kept | apply Kept.foldl | apply Kept1.foldl
        | apply Kept.of_fst)
    | (extract_lets -underBinder +onlyGivenNames x; first
      | (have hn : Kept1 Q x := ?_; all_goals first | (have hx := hn; clear hn; clear_value x) | subst x))
    | simp -zeta only [Kept1.iff, Kept2.iff]

theorem launchFrames_kept {s : State} (h : Kept Q s) : Kept Q (launchFrames s) := by
  unfold launchFrames
  with_reducible repeat' first | assumption | intro _ | apply sendOn_kept | apply State.setEdl_kept | apply Kept.foldl

theorem flowCheck_kept {s : State} {fn table n : Nat} {ws : List Word} (h : Kept Q s) : Kept2 Q (flowCheck s fn table n ws) := by
  unfold flowCheck
  repeat' first
    | with_reducible assumption
    | intro _
    | with_reducible (first | apply firstRefusal_kept | apply roomFor_kept | apply KeptL.map)
    | (extract_lets -underBinder +onlyGivenNames x; first
      | (have hn : KeptO Q x := ?_; all_goals first | (have hx := hn; clear hn; clear_value x) | subst x)
      | clear_value x)
    | simp -zeta only [Kept2.iff]
    | split
    | refine Kept.of_some ?_ (by assumption)
    | exact Kept.of_some (by assumption) rfl

theorem orLaid_kept {r : Nat × State} (h_r : Kept2 Q r) : Kept2 Q (orLaid r) := by
  unfold orLaid
  repeat' first
    | with_reducible assumption
    | with_reducible (first | apply Kept2.ite | apply Kept.of_snd)
    | simp -zeta only [Kept2.iff]

theorem flowGo_kept {s : State} {fn : Nat} (h : Kept Q s) : Kept Q (flowGo s fn) := by
  unfold flowGo
  repeat' first
    | with_reducible assumption
    | with_reducible (first
        | apply orLaid_kept | apply flowCheck_kept | apply wrF_kept | apply State.setEdl_kept | apply wrAll_kept | apply Kept.ite
        | apply Kept2.ite | apply Kept.of_snd)
    | simp -zeta only [Kept2.iff]

theorem flowRow_kept {s : State} {fn : Nat} {write rx : Bool} {i : Nat} (h : Kept Q s) : Kept Q (flowRow s fn write rx i) := by
  unfold flowRow
  with_reducible repeat' first | assumption | intro _ | apply hostWriteAs_kept | apply flowGo_kept | apply wr_kept

theorem execFlowDescRead_kept {fn : BitVec 6} {rx : Bool} {n : BitVec 10} {s : State} (h : Kept Q s) : KeptN Q (execFlowDescRead fn
    rx n s) := by
  unfold execFlowDescRead
  with_reducible repeat' first | assumption | apply flowRow_kept | apply KeptN.next

theorem execFlowDescWrite_kept {fn : BitVec 6} {rx : Bool} {n : BitVec 10} {s : State} (h : Kept Q s) : KeptN Q (execFlowDescWrite fn
    rx n s) := by
  unfold execFlowDescWrite
  with_reducible repeat' first | assumption | apply flowRow_kept | apply KeptN.next

theorem flowApply_kept {s : State} {e : Nat × Nat × List Word} (h : Kept Q s) : Kept Q (flowApply s e) := by
  unfold flowApply
  with_reducible repeat' first | assumption | apply State.setEdl_kept | apply Kept.ite

theorem flowsBoundary_kept {s : State} (h : Kept Q s) : Kept Q (flowsBoundary s) := by
  unfold flowsBoundary
  with_reducible repeat' first | assumption | apply flowApply_kept | apply State.setEdl_kept | apply Kept.foldl

theorem chunkTake_kept {s : State} {n : Nat} {f : EdlFrame} (h : Kept Q s) : Kept Q (chunkTake s n f) := by
  unfold chunkTake
  with_reducible repeat' first | assumption | apply dropJoin_kept | apply acceptFrame_kept | apply setEdl_kept | apply Kept.ite

theorem execEthChunk_kept {n : BitVec 2} {frame : List Byte} {uncorr : Bool} {s : State} (h : Kept Q s) : KeptN Q (execEthChunk n
    frame uncorr s) := by
  unfold execEthChunk
  with_reducible repeat' first
      | assumption | intro _ | apply dropJoin_kept | apply edlFront_kept | apply chunkTake_kept | apply Kept.ite | apply KeptN.next

theorem sendTunnel_kept {s : State} {n : Nat} {bs : List Byte} (h : Kept Q s) : Kept Q (sendTunnel s n bs) := by
  unfold sendTunnel
  with_reducible repeat' first | assumption | intro _ | apply sendOn_kept | apply setEdl_kept | apply Kept.foldl

theorem execLoopReq_kept {n : BitVec 2} {frame : List Byte} {uncorr : Bool} {s : State} (h : Kept Q s) : KeptN Q (execLoopReq n frame
    uncorr s) := by
  unfold execLoopReq
  with_reducible repeat' first | assumption | intro _ | apply edlFront_kept | apply sendOn_kept | apply Kept.ite | apply KeptN.next

theorem execLoopRsp_kept {n : BitVec 2} {frame : List Byte} {uncorr : Bool} {s : State} (h : Kept Q s) : KeptN Q (execLoopRsp n frame
    uncorr s) := by
  unfold execLoopRsp
  with_reducible repeat' first | assumption | intro _ | apply edlFront_kept | apply KeptN.next

theorem execMailbox_kept {n : BitVec 2} {frame : List Byte} {uncorr : Bool} {s : State} (h : Kept Q s) : KeptN Q (execMailbox n frame
    uncorr s) := by
  unfold execMailbox
  with_reducible repeat' first
      | assumption | intro _ | apply edlFront_kept | apply edlCond_kept | apply setEdl_kept | apply wr_kept | apply Kept.ite
      | apply KeptN.next

theorem mboxCtl_kept {s : State} {n : Nat} {v : Word} (h : Kept Q s) : Kept Q (mboxCtl s n v) := by
  unfold mboxCtl
  with_reducible repeat' first | assumption | apply sendOn_kept | apply wr_kept | apply setEdl_kept | apply Kept.ite

theorem execMailboxSend_kept {fn : BitVec 6} {n : BitVec 2} {v : Word} {s : State} (h : Kept Q s) : KeptN Q (execMailboxSend fn n v
    s) := by
  unfold execMailboxSend
  with_reducible repeat' first | assumption | apply mboxCtl_kept | apply plainWrite_kept | apply Kept.ite | apply KeptN.next

theorem execMailboxRelease_kept {fn : BitVec 6} {n : BitVec 2} {v : Word} {s : State} (h : Kept Q s) : KeptN Q (execMailboxRelease fn
    n v s) := by
  unfold execMailboxRelease
  with_reducible repeat' first | assumption | apply mboxCtl_kept | apply plainWrite_kept | apply Kept.ite | apply KeptN.next

theorem mboxWrite_kept {s : State} {a : Nat} {v : Word} (h : Kept Q s) : Kept Q (mboxWrite s a v) := by
  unfold mboxWrite
  with_reducible repeat' first | assumption | apply setEdl_kept | apply Kept.ite

theorem portUpStep_kept {s : State} {n : Nat} (h : Kept Q s) : Kept Q (portUpStep s n) := by
  unfold portUpStep
  with_reducible repeat' first | assumption | apply edlCond_kept | apply wr_kept | apply Kept.ite

theorem timingStep_kept {s : State} (h : Kept Q s) : Kept Q (timingStep s) := by
  unfold timingStep
  repeat' first
    | with_reducible assumption
    | with_reducible (first | apply healCond_kept | apply wrF_kept)
    | split

theorem portTurn_kept {s : State} {n : Nat} (h : Kept Q s) : Kept Q (portTurn s n) := by
  unfold portTurn
  with_reducible repeat' first | assumption | apply healCond_kept | apply setEdl_kept | apply Kept.ite

theorem edlBoundary_kept {s : State} (h : Kept Q s) : Kept Q (edlBoundary s) := by
  unfold edlBoundary
  with_reducible repeat' first
      | assumption | apply heal_kept | apply portUpStep_kept | apply timingStep_kept | apply wrF_kept | apply portTurn_kept
      | apply Kept.ite | apply Kept.foldl

theorem lockReport_kept {was : Bool} {s : State} (h : Kept Q s) : Kept Q (lockReport was s) := by
  unfold lockReport
  with_reducible repeat' first | assumption | apply wrF_kept | apply edlCond_kept | apply Kept.ite

theorem execLockChange_kept {s : State} (h : Kept Q s) : KeptN Q (execLockChange s) := by
  unfold execLockChange
  with_reducible repeat' first | assumption | apply countLock_kept | apply lockReport_kept | apply Kept.ite | apply KeptN.next

theorem portsOff_kept {s : State} (h : Kept Q s) : Kept Q (portsOff s) := by
  unfold portsOff
  with_reducible repeat' first
      | assumption | intro _ | apply wrAll_kept | apply tunnelDown_kept | apply setEdlTx_kept | apply setEdl_kept | apply wrF_kept
      | apply Kept.foldl

end Sys2Proof.Machine
end

