-- ==== Sys2Proof/Laws/KeepSequencer.lean ====
section
/-! SUPPORT. What every operation of Machine/Sequencer.lean keeps: the queue of waiting commands and the canonical form of what is stored. -/

namespace Sys2Proof.Machine

variable {Q : Keep}

theorem setSeq_kept {s : State} {n : Nat} {x : SeqSt} (h : Kept Q s) : Kept Q (setSeq s n x) := by
  unfold setSeq
  with_reducible repeat' first | assumption | apply State.setSeq_kept

theorem seqEnter_kept {s : State} {n st pc : Nat} (h : Kept Q s) : Kept Q (seqEnter s n st pc) := by
  unfold seqEnter
  with_reducible repeat' first | assumption | apply wr_kept

theorem seqReject_kept {s : State} {n reason : Nat} (h : Kept Q s) : Kept Q (seqReject s n reason) := by
  unfold seqReject
  with_reducible repeat' first | assumption | apply setCondWith_kept | apply fireSrc_kept

theorem seqCtl_kept {s : State} {n : Nat} {v : Word} (h : Kept Q s) : Kept Q (seqCtl s n v) := by
  unfold seqCtl
  with_reducible repeat' first | assumption | apply wrF_kept | apply seqReject_kept | apply setSeq_kept | apply Kept.ite

theorem seqWrite_kept {s : State} {fn off : Nat} {q : Quarter} {v : Word} (h : Kept Q s) : Kept Q (seqWrite s fn off q v) := by
  unfold seqWrite
  with_reducible repeat' first | assumption | apply plainWrite_kept | apply seqCtl_kept | apply State.setSeq_kept | apply Kept.ite

theorem execStart_kept {fn : BitVec 6} {n : BitVec 7} {v : Word} {s : State} (h : Kept Q s) : KeptN Q (execStart fn n v s) := by
  unfold execStart
  with_reducible repeat' first | assumption | intro _ | apply hostWriteAs_kept | apply seqWrite_kept | apply KeptN.next

theorem execStop_kept {fn : BitVec 6} {n : BitVec 7} {v : Word} {s : State} (h : Kept Q s) : KeptN Q (execStop fn n v s) := by
  unfold execStop
  with_reducible repeat' first | assumption | intro _ | apply hostWriteAs_kept | apply seqWrite_kept | apply KeptN.next

theorem execKick_kept {fn : BitVec 6} {n : BitVec 7} {v : Word} {s : State} (h : Kept Q s) : KeptN Q (execKick fn n v s) := by
  unfold execKick
  with_reducible repeat' first | assumption | intro _ | apply hostWriteAs_kept | apply seqWrite_kept | apply KeptN.next

theorem checkEnd_kept {s : State} {n : Nat} (h : Kept Q s) : Kept Q (checkEnd s n) := by
  unfold checkEnd
  with_reducible repeat' first
      | assumption | apply wrF_kept | apply seqReject_kept | apply setSeq_kept | apply rtRefuse_kept | apply Kept.ite

theorem execProgramCheckEnd_kept {n : BitVec 7} {s : State} (h : Kept Q s) : KeptN Q (execProgramCheckEnd n s) := by
  unfold execProgramCheckEnd
  with_reducible repeat' first | assumption | apply checkEnd_kept | apply Kept.ite | apply KeptN.next

theorem storeWrite_kept {s : State} {fn a : Nat} {v : Word} (h : Kept Q s) : Kept Q (storeWrite s fn a v) := by
  unfold storeWrite
  with_reducible repeat' first
      | assumption | intro _ | apply State.setSeq_kept | apply seqReject_kept | apply Kept.ite | apply Kept.foldl

theorem seqGo_kept {s : State} {n op : Nat} {f : Word → Nat → State → State} (h : Kept Q s) (h_f : ∀ x0 : Word, ∀ x1 : Nat, ∀ x2 :
    State, Kept Q x2 → Kept Q (f x0 x1 x2)) : Kept Q (seqGo s n op f) := by
  unfold seqGo
  with_reducible repeat' first | assumption | apply setSeq_kept | apply h_f | apply Kept.ite

theorem seqJump_kept {s : State} {n pc : Nat} (h : Kept Q s) : Kept Q (seqJump s n pc) := by
  unfold seqJump
  with_reducible repeat' first | assumption | apply seqEnter_kept

theorem seqSetV_kept {s : State} {n k pc : Nat} {v : Word} (h : Kept Q s) : Kept Q (seqSetV s n k pc v) := by
  unfold seqSetV
  with_reducible repeat' first | assumption | apply seqJump_kept | apply wr_kept

theorem execNop_kept {n : BitVec 7} {s : State} (h : Kept Q s) : KeptN Q (execNop n s) := by
  unfold execNop
  with_reducible repeat' first | assumption | intro _ | apply seqGo_kept | apply seqJump_kept | apply KeptN.next

theorem seqLands_kept {s : State} {n : Nat} {a : HwAct} (h : Kept Q s) : Kept Q (seqLands s n a) := by
  unfold seqLands
  with_reducible repeat' first | assumption | apply later_kept

theorem haltLand_kept {s : State} {n pc : Nat} (h : Kept Q s) : Kept Q (haltLand s n pc) := by
  unfold haltLand
  with_reducible repeat' first | assumption | apply fireSrc_kept | apply seqEnter_kept

theorem execHalt_kept {n : BitVec 7} {s : State} (h : Kept Q s) : KeptN Q (execHalt n s) := by
  unfold execHalt
  with_reducible repeat' first | assumption | intro _ | apply seqGo_kept | apply seqLands_kept | apply setSeq_kept | apply KeptN.next

theorem execYieldRow_kept {n : BitVec 7} {s : State} (h : Kept Q s) : KeptN Q (execYieldRow n s) := by
  unfold execYieldRow
  with_reducible repeat' first | assumption | intro _ | apply seqGo_kept | apply setSeq_kept | apply seqJump_kept | apply KeptN.next

theorem execWaitd_kept {n : BitVec 7} {s : State} (h : Kept Q s) : KeptN Q (execWaitd n s) := by
  unfold execWaitd
  with_reducible repeat' first | assumption | intro _ | apply seqGo_kept | apply setSeq_kept | apply seqEnter_kept | apply KeptN.next

theorem execWaitu_kept {n : BitVec 7} {s : State} (h : Kept Q s) : KeptN Q (execWaitu n s) := by
  unfold execWaitu
  with_reducible repeat' first | assumption | intro _ | apply seqGo_kept | apply setSeq_kept | apply seqEnter_kept | apply KeptN.next

theorem execWaite_kept {n : BitVec 7} {s : State} (h : Kept Q s) : KeptN Q (execWaite n s) := by
  unfold execWaite
  with_reducible repeat' first | assumption | intro _ | apply seqGo_kept | apply setSeq_kept | apply seqEnter_kept | apply KeptN.next

theorem execClrc_kept {n : BitVec 7} {s : State} (h : Kept Q s) : KeptN Q (execClrc n s) := by
  unfold execClrc
  with_reducible repeat' first | assumption | intro _ | apply seqGo_kept | apply seqJump_kept | apply wr_kept | apply KeptN.next

theorem postSig_kept {s : State} {n bits : Nat} (h : Kept Q s) : Kept Q (postSig s n bits) := by
  unfold postSig
  with_reducible repeat' first | assumption | apply State.setSeq_kept | apply Kept.ite

theorem execSig_kept {n : BitVec 7} {s : State} (h : Kept Q s) : KeptN Q (execSig n s) := by
  unfold execSig
  with_reducible repeat' first | assumption | intro _ | apply seqGo_kept | apply seqJump_kept | apply seqLands_kept | apply KeptN.next

theorem execFlags_kept {n : BitVec 7} {s : State} (h : Kept Q s) : KeptN Q (execFlags n s) := by
  unfold execFlags
  with_reducible repeat' first | assumption | intro _ | apply seqGo_kept | apply seqJump_kept | apply seqLands_kept | apply KeptN.next

theorem execLdi_kept {n : BitVec 7} {s : State} (h : Kept Q s) : KeptN Q (execLdi n s) := by
  unfold execLdi
  with_reducible repeat' first | assumption | intro _ | apply seqGo_kept | apply seqSetV_kept | apply KeptN.next

theorem execLdih_kept {n : BitVec 7} {s : State} (h : Kept Q s) : KeptN Q (execLdih n s) := by
  unfold execLdih
  with_reducible repeat' first | assumption | intro _ | apply seqGo_kept | apply seqSetV_kept | apply KeptN.next

theorem execAlu_kept {n : BitVec 7} {s : State} (h : Kept Q s) : KeptN Q (execAlu n s) := by
  unfold execAlu
  with_reducible repeat' first | assumption | intro _ | apply seqGo_kept | apply seqSetV_kept | apply KeptN.next

theorem execAddi_kept {n : BitVec 7} {s : State} (h : Kept Q s) : KeptN Q (execAddi n s) := by
  unfold execAddi
  with_reducible repeat' first | assumption | intro _ | apply seqGo_kept | apply seqSetV_kept | apply KeptN.next

theorem execRdin_kept {n : BitVec 7} {s : State} (h : Kept Q s) : KeptN Q (execRdin n s) := by
  unfold execRdin
  with_reducible repeat' first | assumption | intro _ | apply seqGo_kept | apply seqSetV_kept | apply KeptN.next

theorem execBr_kept {n : BitVec 7} {s : State} (h : Kept Q s) : KeptN Q (execBr n s) := by
  unfold execBr
  with_reducible repeat' first | assumption | intro _ | apply seqGo_kept | apply seqJump_kept | apply KeptN.next

theorem execBrb_kept {n : BitVec 7} {s : State} (h : Kept Q s) : KeptN Q (execBrb n s) := by
  unfold execBrb
  with_reducible repeat' first | assumption | intro _ | apply seqGo_kept | apply seqJump_kept | apply KeptN.next

theorem execCommit_kept {n : BitVec 7} {s : State} (h : Kept Q s) : KeptN Q (execCommit n s) := by
  unfold execCommit
  with_reducible repeat' first | assumption | intro _ | apply seqGo_kept | apply seqJump_kept | apply seqLands_kept | apply KeptN.next

theorem execLive_kept {n : BitVec 7} {s : State} (h : Kept Q s) : KeptN Q (execLive n s) := by
  unfold execLive
  with_reducible repeat' first | assumption | intro _ | apply seqGo_kept | apply seqJump_kept | apply seqLands_kept | apply KeptN.next

theorem execPlay_kept {n : BitVec 7} {s : State} (h : Kept Q s) : KeptN Q (execPlay n s) := by
  unfold execPlay
  with_reducible repeat' first | assumption | intro _ | apply seqGo_kept | apply seqJump_kept | apply seqLands_kept | apply KeptN.next

theorem seqCommit_kept {s : State} {fwd : Bool} {dev target : Nat} (h : Kept Q s) : Kept Q (seqCommit s fwd dev target) := by
  unfold seqCommit
  with_reducible repeat' first | assumption | apply sendCommit_kept | apply gen1Commit_kept | apply submitCommit_kept | apply Kept.ite

theorem execRaise_kept {n : BitVec 7} {s : State} (h : Kept Q s) : KeptN Q (execRaise n s) := by
  unfold execRaise
  with_reducible repeat' first | assumption | intro _ | apply seqGo_kept | apply seqJump_kept | apply fireSrc_kept | apply KeptN.next

theorem seqRaise_kept {carried : Bool} {s : State} {n : Nat} (h : Kept Q s) : Kept Q (seqRaise carried s n) := by
  unfold seqRaise
  repeat' first
    | with_reducible assumption
    | with_reducible apply wr_kept
    | split

theorem seqResume_kept {s : State} {n : Nat} (h : Kept Q s) : Kept Q (seqResume s n) := by
  unfold seqResume
  with_reducible repeat' first | assumption | apply setSeq_kept | apply wrF_kept

theorem waiteEnd_kept {s : State} {n : Nat} {tmo : Bool} (h : Kept Q s) : Kept Q (waiteEnd s n tmo) := by
  unfold waiteEnd
  with_reducible repeat' first | assumption | apply seqResume_kept | apply wr_kept

theorem seqWait_kept {e : Nat} {s : State} {n : Nat} (h : Kept Q s) : Kept Q (seqWait e s n) := by
  unfold seqWait
  with_reducible repeat' first | assumption | apply waiteEnd_kept | apply seqResume_kept | apply Kept.ite

theorem seqStartStop_kept {s : State} {n : Nat} (h : Kept Q s) : Kept Q (seqStartStop s n) := by
  unfold seqStartStop
  with_reducible repeat' first
      | assumption | apply seqEnter_kept | apply wr_kept | apply wrF_kept | apply setSeq_kept | apply Kept.ite

theorem stallRelease_kept {s : State} {g : Nat} (h : Kept Q s) : Kept Q (stallRelease s g) := by
  unfold stallRelease
  repeat' first
    | with_reducible assumption
    | with_reducible (first | apply seqResume_kept | apply wr_kept | apply setCondWith_kept | apply fireSrc_kept)
    | split

theorem seqGroup_kept {ended : List Nat} {s : State} {g : Nat} (h : Kept Q s) : Kept Q (seqGroup ended s g) := by
  unfold seqGroup
  with_reducible repeat' first | assumption | apply wr_kept | apply stallRelease_kept | apply Kept.ite

theorem seqBoundary_kept {s : State} {e : Nat} {carried : Bool} (h : Kept Q s) : Kept Q (seqBoundary s e carried) := by
  unfold seqBoundary
  with_reducible repeat' first
      | assumption | apply seqRaise_kept | apply State.setDste_kept | apply State.setPtr_kept | apply State.setSeq_kept
      | apply seqWait_kept | apply seqStartStop_kept | apply seqGroup_kept | apply Kept.foldl

theorem seqLift_kept {s : State} (h : Kept Q s) : Kept Q (seqLift s) := by
  unfold seqLift
  with_reducible repeat' first | assumption | intro _ | apply wrF_kept | apply State.setSeq_kept | apply Kept.foldl

theorem seqAuto_kept {s : State} (h : Kept Q s) : Kept Q (seqAuto s) := by
  unfold seqAuto
  with_reducible repeat' first | assumption | intro _ | apply setSeq_kept | apply Kept.ite | apply Kept.foldl

end Sys2Proof.Machine
end

