-- ==== Sys2Proof/Laws/KeepTrellis.lean ====
section
/-! SUPPORT. What every operation of Machine/Trellis.lean keeps: the queue of waiting commands and the canonical form of what is stored. -/

namespace Sys2Proof.Machine

variable {Q : Keep}

/-- The same of what a pass carries on. -/
structure KeptSum (q : Keep) (b : SumPass) : Prop where
  kept : Kept q b.s

theorem KeptSum.iff {s : State} {a : List (List Int)} {b : Bool} : KeptSum Q ⟨s, a, b⟩ ↔ Kept Q s := ⟨fun h => h.kept, fun h => ⟨h⟩⟩
theorem KeptSum.ite {c : Prop} [Decidable c] {x y : SumPass} (a : KeptSum Q x) (b : KeptSum Q y) : KeptSum Q (if c then x else y) := by
  split <;> assumption
theorem Kept.of_sum {x : SumPass} (h : KeptSum Q x) : Kept Q x.s := h.kept
theorem KeptSum.foldl {α : Type} {f : SumPass → α → SumPass} {l : List α} {x : SumPass} (hf : ∀ b a, KeptSum Q b → KeptSum Q (f b a))
    (h : KeptSum Q x) : KeptSum Q (l.foldl f x) := by
  induction l generalizing x with
  | nil => exact h
  | cons a l ih => exact ih (hf x a h)

theorem trlCond_kept {s : State} {again : Bool} {c bus block : Nat} (h : Kept Q s) : Kept Q (trlCond s again c bus block) := by
  unfold trlCond
  with_reducible repeat' first | assumption | apply setCondAgain_kept | apply setCondWith_kept | apply Kept.ite

theorem holdContributions_kept {s : State} {k : Nat} (h : Kept Q s) : Kept Q (holdContributions s k) := by
  unfold holdContributions
  with_reducible repeat' first | assumption | intro _ | apply State.setTrl_kept | apply Kept.ite | apply Kept.foldl

theorem headFrames_kept {s : State} {k : Nat} (h : Kept Q s) : Kept Q (headFrames s k) := by
  unfold headFrames
  with_reducible repeat' first
      | assumption | intro _ | apply State.setEdl_kept | apply State.setTrl_kept | apply Kept.ite | apply Kept.foldl

theorem trellisPack_kept {s : State} {k : Nat} (h : Kept Q s) : Kept Q (trellisPack s k) := by
  unfold trellisPack
  with_reducible repeat' first | assumption | apply State.setTrl_kept | apply headFrames_kept | apply holdContributions_kept

theorem tailTake_kept {s : State} {b k : Nat} {x : TailSum} (h : Kept Q s) : Kept Q (tailTake s b k x) := by
  unfold tailTake
  repeat' first
    | with_reducible assumption
    | with_reducible apply State.setTrl_kept
    | split

theorem passBus_kept {n k ring : Nat} {f : EdlFrame} {a : SumPass} {j : Nat} (h_a : KeptSum Q a) : KeptSum Q (passBus n k ring f a j)
    := by
  unfold passBus
  repeat' first
    | with_reducible assumption
    | with_reducible (first | apply State.setTrl_kept | apply tailTake_kept | apply trlCond_kept | apply Kept.of_sum)
    | (extract_lets -underBinder +onlyGivenNames x; first
      | (have hn : Kept Q x := ?_; all_goals first | (have hx := hn; clear hn; clear_value x) | subst x)
      | clear_value x)
    | simp -zeta only [KeptSum.iff]
    | split

theorem sumForward_kept {s : State} {n ring : Nat} {f : EdlFrame} {out : List Nat} (h : Kept Q s) : Kept Q (sumForward s n ring f
    out) := by
  unfold sumForward
  repeat' first
    | with_reducible assumption
    | with_reducible (first
        | apply edlCond_kept | apply trlCond_kept | apply passBus_kept | apply forwardOn_kept | apply Kept.ite
        | apply KeptSum.foldl | apply Kept.of_sum)
    | simp -zeta only [Kept1.iff, Kept2.iff, KeptSum.iff]
    | split

theorem sumArrives_kept {s : State} {n : Nat} {f : EdlFrame} (h : Kept Q s) : Kept Q (sumArrives s n f) := by
  unfold sumArrives
  repeat' first
    | with_reducible assumption
    | with_reducible (first | apply sumForward_kept | apply forwardOn_kept)
    | split

theorem execTsum_kept {n : BitVec 2} {frame : List Byte} {uncorr : Bool} {s : State} (h : Kept Q s) : KeptN Q (execTsum n frame
    uncorr s) := by
  unfold execTsum
  with_reducible repeat' first
      | assumption | intro _ | apply edlFront_kept | apply sumArrives_kept | apply Kept.ite | apply KeptN.next

theorem tailBus_kept {s : State} {e b : Nat} (h : Kept Q s) : Kept Q (tailBus s e b) := by
  unfold tailBus
  repeat' first
    | with_reducible assumption
    | intro _
    | with_reducible (first | apply State.setTrl_kept | apply trlCond_kept | apply setCondAgain_kept)
    | (extract_lets -underBinder +onlyGivenNames x; first
      | (have hn : Kept Q x := ?_; all_goals first | (have hx := hn; clear hn; clear_value x) | subst x)
      | (have hn : ∀ a : State, Kept Q a → ∀ b : List Int, Kept Q (x a b) := ?_; all_goals first
          | (have hf := hn; clear hn; clear_value x) | subst x)
      | clear_value x)
    | with_reducible apply hf
    | split

theorem trellisForget_kept {s : State} {e : Nat} (h : Kept Q s) : Kept Q (trellisForget s e) := by
  unfold trellisForget
  with_reducible repeat' first | assumption | apply State.setTrl_kept

theorem substitute_kept {s : State} {e b ring : Nat} (h : Kept Q s) : Kept Q (substitute s e b ring) := by
  unfold substitute
  with_reducible repeat' first
      | assumption | intro _ | apply State.setTrl_kept | apply sendOn_kept | apply trlCond_kept | apply Kept.ite | apply Kept.foldl

theorem migrate_kept {s : State} {b m old new : Nat} (h : Kept Q s) : Kept Q (migrate s b m old new) := by
  unfold migrate
  repeat' first
    | with_reducible assumption
    | with_reducible (first | apply trlCond_kept | apply State.setTrl_kept)
    | (extract_lets -underBinder +onlyGivenNames x; first
      | (have hn : Kept Q x := ?_; all_goals first | (have hx := hn; clear hn; clear_value x) | subst x)
      | clear_value x)
    | split

theorem migGo_kept {s : State} (h : Kept Q s) : Kept Q (migGo s) := by
  unfold migGo
  with_reducible repeat' first
      | assumption | intro _ | apply pairCopy_kept | apply migrate_kept | apply sendOn_kept | apply Kept.ite | apply Kept.foldl

theorem execHostMigration_kept {fn : BitVec 6} {v : Word} {s : State} (h : Kept Q s) : KeptN Q (execHostMigration fn v s) := by
  unfold execHostMigration
  with_reducible repeat' first | assumption | apply plainWrite_kept | apply later_kept | apply Kept.ite | apply KeptN.next

theorem execMigrate_kept {n : BitVec 2} {frame : List Byte} {uncorr : Bool} {s : State} (h : Kept Q s) : KeptN Q (execMigrate n frame
    uncorr s) := by
  unfold execMigrate
  with_reducible repeat' first | assumption | intro _ | apply edlDst_kept | apply migrate_kept | apply KeptN.next

theorem migEffect_kept {s : State} {e b : Nat} (h : Kept Q s) : Kept Q (migEffect s e b) := by
  unfold migEffect
  repeat' first
    | with_reducible assumption
    | with_reducible (first | apply State.setTrl_kept | apply trlCond_kept | apply wrF_kept)
    | split

theorem trellisBoundary_kept {s : State} {e : Nat} (h : Kept Q s) : Kept Q (trellisBoundary s e) := by
  unfold trellisBoundary
  with_reducible repeat' first
      | assumption | intro _ | apply State.setTrl_kept | apply migEffect_kept | apply trellisForget_kept | apply tailBus_kept
      | apply substitute_kept | apply Kept.foldl

theorem trellisLift_kept {s : State} (h : Kept Q s) : Kept Q (trellisLift s) := by
  unfold trellisLift
  with_reducible repeat' first | assumption | apply State.setTrl_kept

theorem sumsStageA_kept {s : State} (h : Kept Q s) : Kept Q (sumsStageA s) := by
  unfold sumsStageA
  with_reducible repeat' first | assumption | intro _ | apply State.setAud_kept | apply Kept.foldl

theorem busCheck_kept {s : State} {fn b : Nat} {ws : List Word} (h : Kept Q s) : Kept2 Q (busCheck s fn b ws) := by
  unfold busCheck
  repeat' first
    | with_reducible assumption
    | intro _
    | with_reducible (first | apply firstRefusal_kept | apply roomFor_kept | apply KeptL.cons | apply KeptL.map)
    | (extract_lets -underBinder +onlyGivenNames x; first
      | (have hn : KeptO Q x := ?_; all_goals first | (have hx := hn; clear hn; clear_value x) | subst x)
      | clear_value x)
    | simp -zeta only [Kept2.iff]
    | split
    | exact Kept.of_some (by assumption) rfl

theorem busGo_kept {s : State} {fn : Nat} (h : Kept Q s) : Kept Q (busGo s fn) := by
  unfold busGo
  repeat' first
    | with_reducible assumption
    | with_reducible (first
        | apply orLaid_kept | apply busCheck_kept | apply wrF_kept | apply State.setTrl_kept | apply wrAll_kept | apply Kept.ite
        | apply Kept2.ite | apply Kept.of_snd)
    | simp -zeta only [Kept2.iff]

theorem busRow_kept {s : State} {fn : Nat} {write : Bool} {b : Nat} (h : Kept Q s) : Kept Q (busRow s fn write b) := by
  unfold busRow
  with_reducible repeat' first | assumption | intro _ | apply hostWriteAs_kept | apply busGo_kept | apply wr_kept

theorem execBusEntryRead_kept {fn : BitVec 6} {bus : BitVec 11} {s : State} (h : Kept Q s) : KeptN Q (execBusEntryRead fn bus s) := by
  unfold execBusEntryRead
  with_reducible repeat' first | assumption | apply busRow_kept | apply KeptN.next

theorem execBusEntryWrite_kept {fn : BitVec 6} {bus : BitVec 11} {s : State} (h : Kept Q s) : KeptN Q (execBusEntryWrite fn bus s) :=
    by
  unfold execBusEntryWrite
  with_reducible repeat' first | assumption | apply busRow_kept | apply KeptN.next

theorem edlWrite_kept {s : State} {fn off : Nat} {q : Quarter} {w v : Word} (h : Kept Q s) : KeptO Q (edlWrite s fn off q w v) := by
  unfold edlWrite
  with_reducible repeat' first
      | assumption | apply edlCtlWrite_kept | apply wr_kept | apply mboxCtl_kept | apply flowGo_kept | apply busGo_kept
      | apply later_kept | apply hostCommitGo_kept | apply Kept.ite | apply KeptO.ite | apply KeptO.none | apply KeptO.some

end Sys2Proof.Machine
end

