-- ==== Sys2Proof/Laws/KeepPair.lean ====
section
/-! SUPPORT. What every operation of Machine/Pair.lean keeps: the queue of waiting commands and the canonical form of what is stored. -/

namespace Sys2Proof.Machine

variable {Q : Keep}

theorem pairTurn_kept {s : State} {b : Nat} (h : Kept Q s) : Kept Q (pairTurn s b) := by
  unfold pairTurn
  with_reducible repeat' first | assumption | apply setCondWith_kept

theorem setA_kept {s : State} {a : Nat} (h : Kept Q s) : Kept Q (setA s a) := by
  unfold setA
  with_reducible repeat' first | assumption | apply wr_kept | apply State.setPair_kept

theorem setSeen_kept {s : State} {r : Nat} (h : Kept Q s) : Kept Q (setSeen s r) := by
  unfold setSeen
  with_reducible repeat' first | assumption | apply wr_kept | apply State.setPair_kept

theorem pairEnter_kept {s : State} (h : Kept Q s) : Kept Q (pairEnter s) := by
  unfold pairEnter
  with_reducible repeat' first
      | assumption | apply wrAll_kept | apply putPairEpoch_kept | apply putPairState_kept | apply State.setPair_kept

theorem pairFirst_kept {s : State} {d0 : Nat} (h : Kept Q s) : Kept Q (pairFirst s d0) := by
  unfold pairFirst
  with_reducible repeat' first | assumption | apply setSeen_kept | apply Kept.ite

theorem leaseAck_kept {s : State} {n e r : Nat} (h : Kept Q s) : Kept Q (leaseAck s n e r) := by
  unfold leaseAck
  with_reducible repeat' first | assumption | apply sendOn_kept

theorem pairMsg_kept {s : State} {m : PairMsg} (h : Kept Q s) : Kept Q (pairMsg s m) := by
  unfold pairMsg
  with_reducible repeat' first | assumption | apply State.setPair_kept

theorem leaseTake_kept {n : Nat} {s : State} {f : EdlFrame} (h : Kept Q s) : Kept Q (leaseTake n s f) := by
  unfold leaseTake
  repeat' first
    | with_reducible assumption
    | with_reducible (first
        | apply dirTake_kept | apply pairHeard_kept | apply pairMsg_kept | apply leaseAck_kept | apply pairCond_kept | apply Kept.ite)
    | split

theorem execLease_kept {n : BitVec 2} {frame : List Byte} {uncorr : Bool} {s : State} (h : Kept Q s) : KeptN Q (execLease n frame
    uncorr s) := by
  unfold execLease
  with_reducible repeat' first | assumption | intro _ | apply edlDst_kept | apply leaseTake_kept | apply KeptN.next

theorem ackTake_kept {s : State} {f : EdlFrame} (h : Kept Q s) : Kept Q (ackTake s f) := by
  unfold ackTake
  with_reducible repeat' first | assumption | apply pairMsg_kept | apply pairHeard_kept | apply Kept.ite

theorem execLeaseAck_kept {n : BitVec 2} {frame : List Byte} {uncorr : Bool} {s : State} (h : Kept Q s) : KeptN Q (execLeaseAck n
    frame uncorr s) := by
  unfold execLeaseAck
  with_reducible repeat' first | assumption | intro _ | apply edlDst_kept | apply ackTake_kept | apply KeptN.next

theorem adopt_kept {s : State} (h : Kept Q s) : Kept Q (adopt s) := by
  unfold adopt
  repeat' first
    | with_reducible assumption
    | with_reducible (first
        | apply setSeen_kept | apply putPairEpoch_kept | apply pairTurn_kept | apply State.setPair_kept | apply putPairState_kept
        | apply Kept.ite)
    | (extract_lets -underBinder +onlyGivenNames x; clear_value x)
    | split

theorem takeMsgs_kept {s : State} {f : Nat} (h : Kept Q s) : Kept Q (takeMsgs s f) := by
  unfold takeMsgs
  repeat' first
    | with_reducible assumption
    | intro _
    | with_reducible (first
        | apply setSeen_kept | apply pairCond_kept | apply setA_kept | apply wrF_kept | apply State.setPair_kept | apply Kept.foldl)
    | split

theorem fence_kept {s : State} {f : Nat} (h : Kept Q s) : Kept Q (fence s f) := by
  unfold fence
  with_reducible repeat' first | assumption | apply pairTurn_kept | apply State.setPair_kept | apply putPairState_kept

theorem takeover_kept {s : State} {f : Nat} (h : Kept Q s) : Kept Q (takeover s f) := by
  unfold takeover
  with_reducible repeat' first
      | assumption | apply putPairEpoch_kept | apply setA_kept | apply State.setPair_kept | apply putPairState_kept
      | apply pairTurn_kept

theorem sendLease_kept {s : State} {f : Nat} (h : Kept Q s) : Kept Q (sendLease s f) := by
  unfold sendLease
  with_reducible repeat' first | assumption | intro _ | apply sendOn_kept | apply Kept.ite | apply Kept.foldl

theorem pairBoundary_kept {s : State} {f : Nat} (h : Kept Q s) : Kept Q (pairBoundary s f) := by
  unfold pairBoundary
  with_reducible repeat' first
      | assumption | apply takeMsgs_kept | apply adopt_kept | apply fence_kept | apply takeover_kept | apply sendLease_kept
      | apply mirrorSend_kept | apply wr_kept | apply State.setPair_kept | apply Kept.ite

theorem pairCtl_kept {s : State} {w v : Word} (h : Kept Q s) : Kept Q (pairCtl s w v) := by
  unfold pairCtl
  with_reducible repeat' first | assumption | apply wr_kept | apply State.setPair_kept | apply Kept.ite

theorem execYieldPair_kept {fn : BitVec 6} {v : Word} {s : State} (h : Kept Q s) : KeptN Q (execYieldPair fn v s) := by
  unfold execYieldPair
  with_reducible repeat' first | assumption | intro _ | apply hostWriteAs_kept | apply pairCtl_kept | apply KeptN.next

theorem execPairHold_kept {fn : BitVec 6} {v : Word} {s : State} (h : Kept Q s) : KeptN Q (execPairHold fn v s) := by
  unfold execPairHold
  with_reducible repeat' first | assumption | intro _ | apply hostWriteAs_kept | apply pairCtl_kept | apply KeptN.next

theorem execAlone_kept {fn : BitVec 6} {v : Word} {s : State} (h : Kept Q s) : KeptN Q (execAlone fn v s) := by
  unfold execAlone
  with_reducible repeat' first | assumption | intro _ | apply hostWriteAs_kept | apply pairCtl_kept | apply KeptN.next

theorem mirrorTake_kept {s : State} {f : EdlFrame} (h : Kept Q s) : Kept Q (mirrorTake s f) := by
  unfold mirrorTake
  with_reducible repeat' first | assumption | apply State.setPair_kept | apply Kept.ite

theorem execMirror_kept {n : BitVec 2} {frame : List Byte} {uncorr : Bool} {s : State} (h : Kept Q s) : KeptN Q (execMirror n frame
    uncorr s) := by
  unfold execMirror
  with_reducible repeat' first
      | assumption | intro _ | apply edlFront_kept | apply mirrorTake_kept | apply Kept.ite | apply KeptN.next

theorem pairLift_kept {s : State} (h : Kept Q s) : Kept Q (pairLift s) := by
  unfold pairLift
  with_reducible repeat' first | assumption | apply State.setPair_kept

end Sys2Proof.Machine
end

