-- ==== Sys2Proof/Laws/KeepMould.lean ====
section
/-! SUPPORT. What every operation of Machine/Mould.lean keeps: the queue of waiting commands and the canonical form of what is stored. -/

namespace Sys2Proof.Machine

variable {Q : Keep}

theorem clearMould_kept {s : State} (h : Kept Q s) : Kept Q (clearMould s) := by
  unfold clearMould
  repeat' first
    | with_reducible assumption
    | intro _
    | with_reducible (first | apply wr_kept | apply Kept.foldl)
    | split

theorem layItems_kept {s : State} {m : Mould} (h : Kept Q s) (hD : ∀ x, Q.mld x) : Kept Q (layItems s m) := by
  unfold layItems
  with_reducible repeat' first
      | assumption | intro _ | apply wr_kept | apply clearMould_kept | apply State.setMld_kept | apply State.setHp_kept | apply hD
      | apply Kept.ite | apply Kept.foldl

theorem layWord_kept {s : State} {space a : Nat} {v : Word} (h : Kept Q s) : Kept Q (layWord s space a v) := by
  unfold layWord
  repeat' first
    | with_reducible assumption
    | with_reducible (first | apply State.setMix_kept | apply State.setStrp_kept | apply State.setPtr_kept | apply State.setSeq_kept)
    | split

theorem layUnits_kept {s : State} {space x_2 x_3 : Nat} {x_4 : List Word} (h : Kept Q s) : Kept Q (layUnits s space x_2 x_3 x_4) := by
  fun_induction layUnits s space x_2 x_3 x_4
  all_goals
    repeat' first
      | with_reducible apply_assumption
      | with_reducible (first | apply State.setSrch_kept | apply Kept.ite)

theorem layTable_kept {s : State} {t : MTable} (h : Kept Q s) : Kept Q (layTable s t) := by
  unfold layTable
  with_reducible repeat' first | assumption | intro _ | apply layUnits_kept | apply layWord_kept | apply Kept.ite | apply Kept.foldl

theorem computeFields_kept {s : State} {digest : Nat} (h : Kept Q s) : Kept Q (computeFields s digest) := by
  unfold computeFields
  with_reducible repeat' first | assumption | apply wrAll_kept | apply ptrRegs_kept | apply stripRegs_kept

theorem layBytes_kept {s : State} {w : Nat × List Byte} (h : Kept Q s) (hS : Q.Stores) : Kept Q (layBytes s w) := by
  unfold layBytes
  with_reducible repeat' first | assumption | apply State.setDste_kept | apply State.setDstPut_kept

theorem layStore_kept {s : State} {bs : List Byte} {old : Nat} (h : Kept Q s) (hS : Q.Stores) : Kept Q (layStore s bs old) := by
  unfold layStore
  with_reducible repeat' first | assumption | intro _ | apply layBytes_kept | apply Kept.ite | apply Kept.foldl

theorem takeStores_kept {s t : State} (h : Kept Q s) : Kept Q (takeStores s t) :=
  State.setSeq_kept (State.setPtr_kept (State.setStrp_kept (State.setMix_kept (State.setSrch_kept h _) _) _) _) _

theorem layArrived_kept {s : State} {bs : List Byte} (h : Kept Q s) : Kept Q (layArrived s bs) := takeStores_kept h

theorem layTrial_kept {s : State} {m : Mould} {digest : Nat} (h : Kept Q s) (hA : Q.dev .laid) (hD : ∀ x, Q.mld x) : Kept Q (layTrial
    s m digest) := by
  unfold layTrial
  with_reducible repeat' first
      | assumption | apply layItems_kept | apply State.setDev_kept | apply computeFields_kept | apply layTable_kept | apply Kept.foldl

end Sys2Proof.Machine
end

