-- ==== Sys2Proof/Laws/KeepMouldCheck.lean ====
section
/-! SUPPORT. What every operation of Machine/MouldCheck.lean keeps: the queue of waiting commands and the canonical form of what is stored. -/

namespace Sys2Proof.Machine

variable {Q : Keep}

theorem checkImage_kept {s : State} {bs : List Byte} (h : Kept Q s) (hA : Q.dev .laid) (hD : ∀ x, Q.mld x) : KeptS Q (checkImage s
    bs) := by
  unfold checkImage
  repeat' first
    | with_reducible assumption
    | with_reducible (first | apply layTrial_kept | apply KeptS.inl | apply KeptS.inr)
    | (extract_lets -underBinder +onlyGivenNames x; first
      | (have hn : Kept Q x := ?_; all_goals first | (have hx := hn; clear hn; clear_value x) | subst x)
      | clear_value x)
    | split

end Sys2Proof.Machine
end

