-- ==== Sys2Proof/Laws/KeepLoader.lean ====
section
/-! SUPPORT. What every operation of Machine/Loader.lean keeps: the queue of waiting commands and the canonical form of what is stored. -/

namespace Sys2Proof.Machine

variable {Q : Keep}

theorem startLaying_kept {s : State} (h : Kept Q s) (hL : Q.dev .laying) (hD : ∀ x, Q.mld x) : Kept Q (startLaying s) := by
  unfold startLaying
  with_reducible repeat' first
      | assumption | apply State.setMld_kept | apply State.setDev_kept | apply State.setSrch_kept | apply takeStores_kept | apply hD

theorem abortLaying_kept {s : State} (h : Kept Q s) (hM : Q.Mld) (hD : ∀ x, Q.mld x) : Kept Q (abortLaying s) := by
  unfold abortLaying
  split
  · next e => exact mldCond_kept (State.setMld_kept (State.setDev_kept h _ (hM.abort (e ▸ h.dev))) _ (hD _))
  · exact h

theorem clearReport_kept {s : State} (h : Kept Q s) : Kept Q (clearReport s) := by
  unfold clearReport
  with_reducible repeat' first | assumption | apply wrAll_kept

theorem mldCtl_kept {s : State} {v : Word} (h : Kept Q s) (hM : Q.Mld) (hD : ∀ x, Q.mld x) : Kept Q (mldCtl s v) := by
  have hd := h.dev
  unfold mldCtl
  split
  · split
    · next e => exact startLaying_kept (clearReport_kept h) (hM.bare (e ▸ hd)) hD
    · next e => exact startLaying_kept (clearReport_kept h) (hM.refused (e ▸ hd)) hD
    · exact State.setMld_kept (clearReport_kept h) _ (hD _)
    · exact State.setMld_kept (clearReport_kept h) _ (hD _)
    · exact h
  · split
    · exact abortLaying_kept h hM hD
    · exact State.setMld_kept h _ (hD _)
    · exact h
  · split
    · next e => exact State.setDev_kept h _ (hM.clear (e ▸ hd))
    · exact h
  · split
    · exact State.setMld_kept h _ (hD _)
    · exact h
  · exact h

theorem clearUnits_kept {s : State} (h : Kept Q s) (h0 : Q.num 0) : Kept Q (clearUnits s) := by
  unfold clearUnits
  with_reducible repeat' first
      | assumption | apply State.setStrm_kept | apply State.setFwd_kept | apply State.setUpd_kept | apply State.setSrch_kept
      | apply State.setPtr_kept | apply State.setStrp_kept | apply State.setMix_kept | apply State.setAud_kept
      | apply State.setEth_kept | apply State.setPair_kept | apply State.setTrl_kept | apply State.setSeq_kept
      | apply State.setScn_kept | apply State.setEdl_kept | apply State.setDste_kept | apply State.setDkl_kept

theorem layEvents_kept {s : State} {ws : List Word} (h : Kept Q s) : Kept Q (layEvents s ws) := by
  unfold layEvents
  with_reducible repeat' first | assumption | apply wrAll_kept | apply writeTgtBind_kept

theorem enterLaid_kept {t : State} {events : List Word} (h : Kept Q.anyNum t) (h0 : Q.num 0) (hD : ∀ x, Q.mld x) :
    Kept Q (enterLaid t events) := by
  have k := fun (x : Dkl) (e : x.num = 0) (a : Strp) (b : Scn) (c : Mix) (m : Mld) (l : List (Nat × Word)) =>
    Kept.setDkl (tbEnterLaid_kept (inputsEnterLaid_kept (pairEnter_kept (seqAuto_kept (State.setMix_kept (State.setScn_kept (State.setStrp_kept
      (wrAll_kept (l := l) (State.setMld_kept (layEvents_kept (ws := events) h) m (hD _))) a) b) c))))) x (e ▸ h0)
  unfold enterLaid
  exact mldCond_kept (State.setHp_kept (Kept.foldl (fun _ _ ht => portStart_kept ht)
    (Kept.ite (placeBoundaries_kept (k _ rfl _ _ _ _ _)) (k _ rfl _ _ _ _ _))) _)

theorem checkingEnd_kept {s : State} (h : Kept Q s) (hA : Q.dev .laid) (hR : Q.dev .refused) (h0 : Q.num 0) (hD : ∀ x, Q.mld x) :
    Kept Q (checkingEnd s) := by
  unfold checkingEnd
  split
  · exact mldCond_kept (State.setMld_kept (wrAll_kept (State.setDev_kept h _ hR)) _ (hD _))
  · next e => exact enterLaid_kept ((checkImage_kept h hA hD).kept _ e).anyNum h0 hD

theorem liftBegin_kept {s : State} {e : Nat} (h : Kept Q.anyDev s) (hF : Q.dev .lifting) (hD : ∀ x, Q.mld x) : Kept Q (liftBegin s e) := by
  have k : Kept Q ((s.setDev .lifting).setMld { s.mld with liftReq := false, liftAt := e % 2 ^ 48 }) :=
    State.setMld_kept (Kept.setDev h _ hF) _ (hD _)
  have k2 := dropCommit_kept (cause := 2) (seqLift_kept (trellisLift_kept (pairLift_kept (updDiscard_kept k))))
  exact Kept.foldl (fun _ _ ht => tunnelDown_kept ht) (heal_kept (wr_kept (State.setHp_kept (State.setFwd_kept (State.setMix_kept k2 _) _) _) _ _))

theorem liftEnd_kept {s : State} (h : Kept Q.anyDev s) (hB : Q.dev .bare) (hL : Q.dev .laying) (h0 : Q.num 0) (hD : ∀ x, Q.mld x) :
    Kept Q (liftEnd s) := by
  have k := wrAll_kept (l := [(R.SCN_PLANE, 0), (R.DKL_NUM_LO, 0), (R.DKL_NUM_HI, 0), (R.PAIR_STATE, 0), (R.TB_DISC, 0), (R.EDL_TIME, 0)]) (clearMould_kept (clearUnits_kept
    (Kept.foldl (f := linkDown) (l := List.range 16) (fun _ _ ht => linkDown_kept ht) (portsOff_kept (diagLiftEnd_kept h))) h0))
  have k6 := fun x y z => State.setInp_kept (State.setHp_kept (State.setMld_kept (Kept.setDev k .bare hB) x (hD _)) y) z
  unfold liftEnd
  exact Kept.ite (startLaying_kept (k6 _ _ _) hL hD) (k6 _ _ _)

theorem liftStep_kept {s : State} {e : Nat} (h : Kept Q s) (hB : Q.dev .bare) (hL : Q.dev .laying) (hF : Q.dev .lifting) (h0 : Q.num 0)
    (hD : ∀ x, Q.mld x) : Kept Q (liftStep s e) := by
  unfold liftStep
  exact Kept.ite (liftBegin_kept h.anyDev hF hD) (Kept.ite (liftEnd_kept h.anyDev hB hL h0 hD) h)

theorem execLoad_kept {fn : BitVec 6} {v : Word} {s : State} (h : Kept Q s) (hM : Q.Mld) (hD : ∀ x, Q.mld x) : KeptN Q (execLoad fn v
    s) := by
  unfold execLoad
  with_reducible repeat' first | assumption | apply mldCtl_kept | apply Kept.ite | apply KeptN.next

theorem execAbort_kept {fn : BitVec 6} {v : Word} {s : State} (h : Kept Q s) (hM : Q.Mld) (hD : ∀ x, Q.mld x) : KeptN Q (execAbort fn
    v s) := by
  unfold execAbort
  with_reducible repeat' first | assumption | apply mldCtl_kept | apply Kept.ite | apply KeptN.next

theorem execClear_kept {fn : BitVec 6} {v : Word} {s : State} (h : Kept Q s) (hM : Q.Mld) (hD : ∀ x, Q.mld x) : KeptN Q (execClear fn
    v s) := by
  unfold execClear
  with_reducible repeat' first | assumption | apply mldCtl_kept | apply Kept.ite | apply KeptN.next

theorem execLift_kept {fn : BitVec 6} {v : Word} {s : State} (h : Kept Q s) (hM : Q.Mld) (hD : ∀ x, Q.mld x) : KeptN Q (execLift fn v
    s) := by
  unfold execLift
  with_reducible repeat' first | assumption | apply mldCtl_kept | apply Kept.ite | apply KeptN.next

theorem execLoaderReadError_kept {s : State} (h : Kept Q s) (hM : Q.Mld) (hD : ∀ x, Q.mld x) : KeptN Q (execLoaderReadError s) := by
  unfold execLoaderReadError
  with_reducible repeat' first | assumption | apply abortLaying_kept | apply KeptN.next

theorem imageArrives_kept {s : State} {bytes : List Byte} (h : Kept Q s) (hS : Q.Stores) (hD : ∀ x, Q.mld x) : Kept Q (imageArrives s
    bytes) := by
  unfold imageArrives
  with_reducible repeat' first | assumption | apply layArrived_kept | apply State.setMld_kept | apply layStore_kept | apply hD

theorem execImageComplete_kept {bytes : List Byte} {s : State} (h : Kept Q s) (hK : Q.dev .checking) (hS : Q.Stores) (hD : ∀ x, Q.mld
    x) : KeptN Q (execImageComplete bytes s) := by
  unfold execImageComplete
  with_reducible repeat' first | assumption | apply imageArrives_kept | apply State.setDev_kept | apply Kept.ite | apply KeptN.next

theorem execCheckingEnd_kept {s : State} (h : Kept Q s) (hA : Q.dev .laid) (hR : Q.dev .refused) (h0 : Q.num 0) (hD : ∀ x, Q.mld x) :
    KeptN Q (execCheckingEnd s) := by
  unfold execCheckingEnd
  with_reducible repeat' first | assumption | apply checkingEnd_kept | apply Kept.ite | apply KeptN.next

end Sys2Proof.Machine
end

