-- ==== Sys2Proof/Laws/KeepHostPort.lean ====
section
/-! SUPPORT. What every operation of Machine/HostPort.lean keeps: the queue of waiting commands and the canonical form of what is stored. -/

namespace Sys2Proof.Machine

variable {Q : Keep}

theorem hostCond_kept {s : State} {b : Nat} (h : Kept Q s) : Kept Q (hostCond s b) := by
  unfold hostCond
  with_reducible repeat' first | assumption | apply setCond_kept

theorem voteFence_kept {s : State} {f : Nat} (h : Kept Q s) : Kept Q (voteFence s f) := by
  unfold voteFence
  repeat' first
    | with_reducible assumption
    | with_reducible (first | apply fence_kept | apply putPairState_kept)
    | split

theorem tripleAction_kept {s : State} {field i f : Nat} (h : Kept Q s) : Kept Q (tripleAction s field i f) := by
  unfold tripleAction
  repeat' first
    | with_reducible assumption
    | with_reducible (first | apply wrF_kept | apply State.setHp_kept | apply voteFence_kept)
    | split

theorem voteReport_kept {s : State} {b field copy index : Nat} (h : Kept Q s) : Kept Q (voteReport s b field copy index) := by
  unfold voteReport
  with_reducible repeat' first | assumption | apply setCondWith_kept

theorem voteField_kept {s : State} {f field i : Nat} (h : Kept Q s) : Kept Q (voteField s f field i) := by
  unfold voteField
  repeat' first
    | with_reducible assumption
    | with_reducible (first | apply voteClean_kept | apply voteStore_kept | apply voteReport_kept | apply tripleAction_kept)
    | split

theorem voteAll_kept {s : State} {f : Nat} (h : Kept Q s) : Kept Q (voteAll s f) := by
  unfold voteAll
  with_reducible repeat' first | assumption | intro _ | apply voteField_kept | apply Kept.foldl

theorem voteUpset_kept {s : State} {l : List (Nat × Nat)} (h : Kept Q s) : Kept Q (voteUpset s l) := by
  unfold voteUpset
  with_reducible repeat' first | assumption | apply State.setHp_kept

theorem serdesRead_kept {s : State} {a : Nat} (h : Kept Q s) : Kept2 Q (serdesRead s a) := by
  unfold serdesRead
  repeat' first
    | with_reducible assumption
    | intro _
    | with_reducible (first | apply freeNat_kept | apply State.setHp_kept | apply Kept.of_snd)
    | (extract_lets -underBinder +onlyGivenNames x; first
      | (have hn : Kept2 Q x := ?_; all_goals first | (have hx := hn; clear hn; clear_value x) | subst x)
      | (have hn : ∀ a : Nat, Kept2 Q (x a) := ?_; all_goals first | (have hf := hn; clear hn; clear_value x) | subst x)
      | clear_value x)
    | with_reducible apply hf
    | simp -zeta only [Kept2.iff]
    | split

theorem serdesWrite_kept {s : State} {a : Nat} {v : Word} (h : Kept Q s) : Kept Q (serdesWrite s a v) := by
  unfold serdesWrite
  repeat' first
    | with_reducible assumption
    | with_reducible (first | apply State.setHp_kept | apply hostCond_kept)
    | with_reducible apply hf
    | split

theorem setInd_kept {s : State} {fn : Nat} {p : IndPort} (h : Kept Q s) : Kept Q (setInd s fn p) := by
  unfold setInd
  with_reducible repeat' first | assumption | apply State.setHp_kept

theorem indRead_kept {s : State} {fn sp a corr unc : Nat} (h : Kept Q s) : Kept2 Q (indRead s fn sp a corr unc) := by
  unfold indRead
  repeat' first
    | with_reducible assumption
    | with_reducible (first | apply stripRead_kept | apply apertureRead_kept | apply serdesRead_kept)
    | simp -zeta only [Kept2.iff]
    | split

theorem indSubmit_kept {s : State} {item : UpdItem} {op addr : Nat} (h : Kept Q s) : Kept Q (indSubmit s item op addr) := by
  unfold indSubmit
  repeat' first
    | with_reducible assumption
    | with_reducible (first | apply updReject_kept | apply fifoPush_kept)
    | split
    | refine Kept.of_some ?_ (by assumption)

theorem stageWord_kept {s : State} {fn sp w : Nat} {v : Word} (h : Kept Q s) : Kept Q (stageWord s fn sp w v) := by
  unfold stageWord
  with_reducible repeat' first | assumption | apply State.setHp_kept

theorem indWord_kept {s : State} {fn sp a : Nat} {v : Word} (h : Kept Q s) : Kept Q (indWord s fn sp a v) := by
  unfold indWord
  repeat' first
    | with_reducible assumption
    | with_reducible (first
        | apply stageWord_kept | apply indSubmit_kept | apply planeWrite_kept | apply stripWrite_kept | apply ptrSpaceWrite_kept
        | apply storeWrite_kept | apply apertureWrite_kept | apply mboxWrite_kept | apply serdesWrite_kept)
    | split

theorem indRefuse_kept {s : State} {fn : Nat} (h : Kept Q s) : Kept Q (indRefuse s fn) := by
  unfold indRefuse
  with_reducible repeat' first | assumption | apply hostCond_kept | apply setInd_kept

theorem execStripSubmit_kept {fn : BitVec 6} {addr : BitVec 21} {v : Word} {s : State} (h : Kept Q s) : KeptN Q (execStripSubmit fn
    addr v s) := by
  unfold execStripSubmit
  with_reducible repeat' first
      | assumption | intro _ | apply indWriteAs_kept | apply indWord_kept | apply indRefuse_kept | apply Kept.ite | apply KeptN.next

theorem execZoneDescriptorSubmit_kept {fn : BitVec 6} {zone : BitVec 12} {w : BitVec 1} {v : Word} {s : State} (h : Kept Q s) : KeptN
    Q (execZoneDescriptorSubmit fn zone w v s) := by
  unfold execZoneDescriptorSubmit
  with_reducible repeat' first
      | assumption | intro _ | apply indWriteAs_kept | apply indWord_kept | apply indRefuse_kept | apply Kept.ite | apply KeptN.next

theorem execOverrideSetSubmit_kept {fn : BitVec 6} {set : BitVec 12} {k : BitVec 6} {v : Word} {s : State} (h : Kept Q s) : KeptN Q
    (execOverrideSetSubmit fn set k v s) := by
  unfold execOverrideSetSubmit
  with_reducible repeat' first
      | assumption | intro _ | apply indWriteAs_kept | apply indWord_kept | apply indRefuse_kept | apply Kept.ite | apply KeptN.next

theorem execMeterRecordRead_kept {fn : BitVec 6} {strip : BitVec 15} {w : BitVec 1} {s : State} (h : Kept Q s) : KeptN Q
    (execMeterRecordRead fn strip w s) := by
  unfold execMeterRecordRead
  with_reducible repeat' first
      | assumption | apply State.setAns_kept | apply indRead_kept | apply indRefuse_kept | apply Kept.ite | apply KeptN.next
      | apply Kept.of_snd

theorem indQueue_kept {s : State} {fn : Nat} (h : Kept Q s) : Kept Q (indQueue s fn) := by
  unfold indQueue
  repeat' first
    | with_reducible assumption
    | with_reducible (first | apply fifoPush_kept | apply setInd_kept)
    | split
    | refine Kept.of_some ?_ (by assumption)

theorem indFetchGo_kept {s : State} {fn : Nat} (h : Kept Q s) : Kept Q (indFetchGo s fn) := by
  unfold indFetchGo
  with_reducible repeat' first | assumption | apply indQueue_kept | apply setInd_kept | apply indRefuse_kept | apply Kept.ite

theorem indAdvance_kept {s : State} {fn : Nat} (h : Kept Q s) : Kept Q (indAdvance s fn) := by
  unfold indAdvance
  with_reducible repeat' first | assumption | apply indFetchGo_kept | apply wrF_kept

theorem indDataWrite_kept {s : State} {fn : Nat} {v : Word} (h : Kept Q s) : Kept Q (indDataWrite s fn v) := by
  unfold indDataWrite
  with_reducible repeat' first
      | assumption | intro _ | apply indAdvance_kept | apply indWriteAs_kept | apply indWord_kept | apply indRefuse_kept
      | apply Kept.ite

theorem indRegDo_kept {s : State} {fn off : Nat} {q : Quarter} {v : Word} (h : Kept Q s) : Kept Q (indRegDo s fn off q v) := by
  unfold indRegDo
  with_reducible repeat' first | assumption | apply indFetchGo_kept | apply wr_kept | apply indDataWrite_kept | apply Kept.ite

theorem setWaiting_kept {s : State} {fn : Nat} {l : List IndAcc} (h : Kept Q s) : Kept Q (setWaiting s fn l) := by
  unfold setWaiting
  with_reducible repeat' first | assumption | apply setInd_kept

theorem indDrain_kept {fn : Nat} {l : List IndAcc} {s : State} (h : Kept Q s) : Kept Q (indDrain fn l s) := by
  induction l generalizing s with
  | nil => exact setWaiting_kept h
  | cons a l ih =>
    cases a with
    | read => exact Kept.ite (setWaiting_kept h) (ih (Kept.ite (State.setAns_kept h _) (indAdvance_kept (State.setAns_kept h _))))
    | write off q v => exact ih (indRegDo_kept h)

theorem indAccess_kept {s : State} {fn : Nat} {a : IndAcc} (h : Kept Q s) : Kept Q (indAccess s fn a) := by
  unfold indAccess
  with_reducible repeat' first | assumption | apply indDrain_kept | apply setWaiting_kept | apply Kept.ite

theorem indFetched_kept {s : State} {fn : Nat} {w : Word} (h : Kept Q s) : Kept Q (indFetched s fn w) := by
  unfold indFetched
  with_reducible repeat' first | assumption | apply indDrain_kept | apply setInd_kept

theorem voteRead_kept {s : State} {off : Nat} (h : Kept Q s) : Kept Q (voteRead s off) := by
  unfold voteRead
  repeat' first
    | with_reducible assumption
    | with_reducible apply voteField_kept
    | split

theorem barRead_kept {s : State} {fn a : Nat} {q : Quarter} {c : Nat} (h : Kept Q s) : Kept2 Q (barRead s fn a q c) := by
  unfold barRead
  repeat' first
    | with_reducible assumption
    | with_reducible apply voteRead_kept
    | simp -zeta only [Kept2.iff]
    | split

theorem wideReq_kept {s : State} {w : Word} {c : Nat} (h : Kept Q s) : Kept Q (wideReq s w c) := by
  unfold wideReq
  with_reducible repeat' first | assumption | intro _ | apply voteRead_kept | apply wrAll_kept | apply Kept.ite | apply Kept.foldl

theorem glbWrite_kept {s : State} {fn off : Nat} {q : Quarter} {w v : Word} {c : Nat} (h : Kept Q s) (hM : Q.Mld) (hD : ∀ x, Q.mld x)
    : KeptO Q (glbWrite s fn off q w v c) := by
  unfold glbWrite
  with_reducible repeat' first
      | assumption | apply wrF_kept | apply voteClean_kept | apply wr_kept | apply State.setHp_kept | apply wideReq_kept
      | apply mldCtl_kept | apply Kept.ite | apply KeptO.ite | apply KeptO.none | apply KeptO.some

theorem indRegWrite_kept {s : State} {fn off : Nat} {q : Quarter} {v : Word} (h : Kept Q s) : KeptO Q (indRegWrite s fn off q v) := by
  unfold indRegWrite
  with_reducible repeat' first | assumption | apply indAccess_kept | apply KeptO.ite | apply KeptO.none | apply KeptO.some

theorem unitWrite_kept {s : State} {fn off : Nat} {q : Quarter} {w v : Word} {c : Nat} (h : Kept Q s) (hM : Q.Mld) (hD : ∀ x, Q.mld
    x) : KeptO Q (unitWrite s fn off q w v c) := by
  unfold unitWrite
  repeat' first
    | with_reducible assumption
    | with_reducible (first
        | apply glbWrite_kept | apply evcWrite_kept | apply indRegWrite_kept | apply wr_kept | apply diagGo_kept
        | apply injectLate_kept | apply State.setUpd_kept | apply cmdWord_kept | apply fwdWrite_kept | apply writePortCfg_kept
        | apply strmWrite_kept | apply mixWrite_kept | apply edlWrite_kept | apply pairCtl_kept | apply tbWrite_kept
        | apply dstWrite_kept | apply writeWarn_kept | apply KeptO.none | apply KeptO.some)
    | split

theorem regWrite_kept {s : State} {fn off : Nat} {q : Quarter} {v : Word} {c : Nat} (h : Kept Q s) (hM : Q.Mld) (hD : ∀ x, Q.mld x) :
    Kept Q (regWrite s fn off q v c) := by
  unfold regWrite
  repeat' first
    | with_reducible assumption
    | with_reducible (first | apply seqWrite_kept | apply lockViolation_kept | apply unitWrite_kept | apply wr_kept)
    | (extract_lets -underBinder +onlyGivenNames x; first
      | (have hn : Kept Q x := ?_; all_goals first | (have hx := hn; clear hn; clear_value x) | subst x)
      | clear_value x)
    | split
    | refine Kept.of_some ?_ (by assumption)

theorem hostWrite_kept {s : State} {fn off : Nat} {q : Quarter} {v : Word} {c : Nat} (h : Kept Q s) (hM : Q.Mld) (hD : ∀ x, Q.mld x)
    : Kept Q (hostWrite s fn off q v c) := by
  unfold hostWrite
  with_reducible repeat' first | assumption | intro _ | apply mirrored_kept | apply regWrite_kept | apply Kept.ite

theorem barWrite_kept {s : State} {fn a : Nat} {q : Quarter} {v : Word} {c : Nat} (h : Kept Q s) (hM : Q.Mld) (hD : ∀ x, Q.mld x) :
    Kept Q (barWrite s fn a q v c) := by
  unfold barWrite
  repeat' first
    | with_reducible assumption
    | with_reducible apply hostWrite_kept
    | split

theorem execRegisterWrite_kept {fn : BitVec 6} {word : BitVec 20} {v : Word} {be cyc : BitVec 4} {s : State} (h : Kept Q s) (hM :
    Q.Mld) (hD : ∀ x, Q.mld x) : KeptN Q (execRegisterWrite fn word v be cyc s) := by
  unfold execRegisterWrite
  with_reducible repeat' first | assumption | apply barWrite_kept | apply hostCond_kept | apply Kept.ite | apply KeptN.next

theorem execSetAliasWrite_kept {fn : BitVec 6} {word : BitVec 20} {v : Word} {cyc : BitVec 4} {s : State} (h : Kept Q s) (hM : Q.Mld)
    (hD : ∀ x, Q.mld x) : KeptN Q (execSetAliasWrite fn word v cyc s) := by
  unfold execSetAliasWrite
  with_reducible repeat' first | assumption | apply barWrite_kept | apply KeptN.next

theorem execClearAliasWrite_kept {fn : BitVec 6} {word : BitVec 20} {v : Word} {cyc : BitVec 4} {s : State} (h : Kept Q s) (hM :
    Q.Mld) (hD : ∀ x, Q.mld x) : KeptN Q (execClearAliasWrite fn word v cyc s) := by
  unfold execClearAliasWrite
  with_reducible repeat' first | assumption | apply barWrite_kept | apply KeptN.next

theorem execToggleAliasWrite_kept {fn : BitVec 6} {word : BitVec 20} {v : Word} {cyc : BitVec 4} {s : State} (h : Kept Q s) (hM :
    Q.Mld) (hD : ∀ x, Q.mld x) : KeptN Q (execToggleAliasWrite fn word v cyc s) := by
  unfold execToggleAliasWrite
  with_reducible repeat' first | assumption | apply barWrite_kept | apply KeptN.next

theorem execClearBySequence_kept {fn : BitVec 6} {word : BitVec 20} {v : Word} {s : State} (h : Kept Q s) (hM : Q.Mld) (hD : ∀ x,
    Q.mld x) : KeptN Q (execClearBySequence fn word v s) := by
  unfold execClearBySequence
  repeat' first
    | with_reducible assumption
    | with_reducible (first | apply barWrite_kept | apply KeptN.next)
    | split

theorem execLockSet_kept {fn : BitVec 6} {v : Word} {s : State} (h : Kept Q s) (hM : Q.Mld) (hD : ∀ x, Q.mld x) : KeptN Q
    (execLockSet fn v s) := by
  unfold execLockSet
  with_reducible repeat' first | assumption | apply hostWrite_kept | apply KeptN.next

theorem execTpartWrite_kept {fn : BitVec 6} {v : Word} {s : State} (h : Kept Q s) (hM : Q.Mld) (hD : ∀ x, Q.mld x) : KeptN Q
    (execTpartWrite fn v s) := by
  unfold execTpartWrite
  with_reducible repeat' first | assumption | apply hostWrite_kept | apply KeptN.next

theorem execOutenWrite_kept {fn : BitVec 6} {v : Word} {s : State} (h : Kept Q s) (hM : Q.Mld) (hD : ∀ x, Q.mld x) : KeptN Q
    (execOutenWrite fn v s) := by
  unfold execOutenWrite
  with_reducible repeat' first | assumption | apply hostWrite_kept | apply KeptN.next

theorem execMuteWrite_kept {fn : BitVec 6} {v : Word} {s : State} (h : Kept Q s) (hM : Q.Mld) (hD : ∀ x, Q.mld x) : KeptN Q
    (execMuteWrite fn v s) := by
  unfold execMuteWrite
  with_reducible repeat' first | assumption | apply hostWrite_kept | apply KeptN.next

theorem execWideReq_kept {fn : BitVec 6} {v : Word} {cyc : BitVec 4} {s : State} (h : Kept Q s) (hM : Q.Mld) (hD : ∀ x, Q.mld x) :
    KeptN Q (execWideReq fn v cyc s) := by
  unfold execWideReq
  with_reducible repeat' first | assumption | apply hostWrite_kept | apply KeptN.next

theorem execWideData3Read_kept {fn : BitVec 6} {s : State} (h : Kept Q s) : KeptN Q (execWideData3Read fn s) := by
  unfold execWideData3Read
  with_reducible repeat' first | assumption | apply State.setAns_kept | apply wrF_kept | apply Kept.ite | apply KeptN.next

theorem execIndSelAddrWrite_kept {fn : BitVec 6} {addr : Bool} {v : Word} {s : State} (h : Kept Q s) (hM : Q.Mld) (hD : ∀ x, Q.mld x)
    : KeptN Q (execIndSelAddrWrite fn addr v s) := by
  unfold execIndSelAddrWrite
  with_reducible repeat' first | assumption | apply hostWrite_kept | apply KeptN.next

theorem execIndDataRead_kept {fn : BitVec 6} {s : State} (h : Kept Q s) : KeptN Q (execIndDataRead fn s) := by
  unfold execIndDataRead
  with_reducible repeat' first | assumption | apply indAccess_kept | apply State.setAns_kept | apply Kept.ite | apply KeptN.next

theorem execIndDataWrite_kept {fn : BitVec 6} {v : Word} {s : State} (h : Kept Q s) (hM : Q.Mld) (hD : ∀ x, Q.mld x) : KeptN Q
    (execIndDataWrite fn v s) := by
  unfold execIndDataWrite
  with_reducible repeat' first | assumption | apply hostWrite_kept | apply KeptN.next

theorem execIndFetch_kept {fn : BitVec 6} {cyc corr unc : BitVec 4} {s : State} (h : Kept Q s) : KeptN Q (execIndFetch fn cyc corr
    unc s) := by
  unfold execIndFetch
  repeat' first
    | with_reducible assumption
    | with_reducible (first
        | apply indRead_kept | apply indFetched_kept | apply indQueue_kept | apply endTransfer_kept | apply Kept.ite
        | apply KeptN.next | apply Kept.of_snd)
    | (extract_lets -underBinder +onlyGivenNames x; first
      | (have hn : Kept Q x := ?_; all_goals first | (have hx := hn; clear hn; clear_value x) | subst x)
      | clear_value x)
    | split

theorem execIndtmo_kept {fn : BitVec 6} {s : State} (h : Kept Q s) : KeptN Q (execIndtmo fn s) := by
  unfold execIndtmo
  repeat' first
    | with_reducible assumption
    | with_reducible (first | apply indFetched_kept | apply dstCond_kept | apply hostCond_kept | apply KeptN.next)
    | split

theorem applyRec_kept {s : State} {r : MirrorRec} (h : Kept Q s) (hM : Q.Mld) (hD : ∀ x, Q.mld x) : Kept Q (applyRec s r) := by
  unfold applyRec
  repeat' first
    | with_reducible assumption
    | with_reducible (first
        | apply regWrite_kept | apply planeWrite_kept | apply apertureWrite_kept | apply indWord_kept | apply indRefuse_kept
        | apply Kept.ite)
    | split

theorem mirrorApply_kept {s : State} {e : Nat} (h : Kept Q s) (hM : Q.Mld) (hD : ∀ x, Q.mld x) : Kept Q (mirrorApply s e) := by
  unfold mirrorApply
  repeat' first
    | with_reducible assumption
    | intro _
    | with_reducible (first
        | apply State.setPair_kept | apply applyRec_kept | apply wrF_kept | apply pairCond_kept | apply Kept.ite | apply Kept.foldl)
    | split

theorem execMirrorSetApply_kept {set : BitVec 48} {s : State} (h : Kept Q s) (hM : Q.Mld) (hD : ∀ x, Q.mld x) : KeptN Q
    (execMirrorSetApply set s) := by
  unfold execMirrorSetApply
  with_reducible repeat' first | assumption | apply mirrorApply_kept | apply KeptN.next

end Sys2Proof.Machine
end

