-- ==== Sys2Proof/Laws/KeepDma.lean ====
section
/-! SUPPORT. What every operation of Machine/Dma.lean keeps: the queue of waiting commands and the canonical form of what is stored. -/

namespace Sys2Proof.Machine

variable {Q : Keep}

theorem dmaComplete_kept {s : State} {c first : Nat} {words : List Word} {w7 : Word} (h : Kept Q s) : Kept Q (dmaComplete s c first
    words w7) := by
  unfold dmaComplete
  with_reducible repeat' first | assumption | apply emit_kept | apply wr_kept | apply fireSrc_kept | apply Kept.ite

theorem txComplete_kept {s : State} {c : Nat} {w7 : Word} {stamp : Option (Nat × Nat)} (h : Kept Q s) : Kept Q (txComplete s c w7
    stamp) := by
  unfold txComplete
  repeat' first
    | with_reducible assumption
    | with_reducible apply dmaComplete_kept
    | split

theorem dmaTransmit_kept {s : State} {c : Nat} {d : List Word} {frame : Option (List Byte)} (h : Kept Q s) : Kept Q (dmaTransmit s c
    d frame) := by
  unfold dmaTransmit
  repeat' first
    | with_reducible assumption
    | with_reducible (first | apply txComplete_kept | apply enqueue_kept | apply Kept.ite)
    | with_reducible apply hf
    | split

theorem execDmaTailWrite_kept {fn : BitVec 6} {c : BitVec 3} {v : Word} {s : State} (h : Kept Q s) (hM : Q.Mld) (hD : ∀ x, Q.mld x) :
    KeptN Q (execDmaTailWrite fn c v s) := by
  unfold execDmaTailWrite
  with_reducible repeat' first | assumption | apply hostWrite_kept | apply KeptN.next

theorem execDmaTransmit_kept {c : BitVec 3} {desc : List Word} {frame : Option (List Byte)} {s : State} (h : Kept Q s) : KeptN Q
    (execDmaTransmit c desc frame s) := by
  unfold execDmaTransmit
  with_reducible repeat' first | assumption | apply dmaTransmit_kept | apply Kept.ite | apply KeptN.next

theorem rxDrop_kept {s : State} (h : Kept Q s) : Kept Q (rxDrop s) := by
  unfold rxDrop
  with_reducible repeat' first | assumption | apply hostCond_kept | apply Kept.ite

theorem execDmaReceive_kept {desc : List Word} {memErr : Bool} {s : State} (h : Kept Q s) : KeptN Q (execDmaReceive desc memErr s) :=
    by
  unfold execDmaReceive
  repeat' first
    | with_reducible assumption
    | with_reducible (first
        | apply State.setEth_kept | apply rxDrop_kept | apply dmaComplete_kept | apply emit_kept | apply KeptN.next)
    | (extract_lets -underBinder +onlyGivenNames x; first
      | (have hn : Kept Q x := ?_; all_goals first | (have hx := hn; clear hn; clear_value x) | subst x)
      | clear_value x)
    | split

theorem copyIn_kept {s : State} {fn sp a : Nat} {l : List Word} (h : Kept Q s) : Kept1 Q (copyIn s fn sp a l) := by
  induction l generalizing s a with
  | nil => exact ⟨h⟩
  | cons v l ih =>
    unfold copyIn
    refine Kept1.ite (Kept1.iff.2 (Kept.of_fst (ih (indWriteAs_kept h fun t ht => indWord_kept ht)))) (Kept1.iff.2 (indRefuse_kept h))

theorem copyWord_kept {s : State} {fn sp a corr unc : Nat} {again : Bool} (h : Kept Q s) : KeptP Q (copyWord s fn sp a corr unc
    again) := by
  unfold copyWord
  with_reducible repeat' first
      | assumption | apply State.setUpd_kept | apply indRead_kept | apply KeptP.ite | apply KeptP.none | apply KeptP.some
      | apply Kept.of_snd

theorem copyOut_kept {s : State} {fn sp a corr unc : Nat} {again : Bool} {n : Nat} (h : Kept Q s) :
    Kept1 Q (copyOut s fn sp a corr unc again n) := by
  induction n generalizing s a corr unc again with
  | zero => exact ⟨h⟩
  | succ n ih =>
    unfold copyOut
    refine Kept1.ite ?_ (Kept1.iff.2 (indRefuse_kept h))
    split
    · exact ⟨h⟩
    · next e => exact Kept1.iff.2 (Kept.of_fst (ih (Kept.of_someP (copyWord_kept h) e)))

theorem execDmaCopy_kept {c : BitVec 3} {desc data : List Word} {n : BitVec 13} {memErr : Bool} {corr unc : BitVec 4} {s : State} (h
    : Kept Q s) : KeptN Q (execDmaCopy c desc data n memErr corr unc s) := by
  unfold execDmaCopy
  with_reducible repeat' first
      | assumption | apply dmaComplete_kept | apply State.setHp_kept | apply copyOut_kept | apply emit_kept | apply copyIn_kept
      | apply Kept.ite | apply KeptN.next | apply Kept.of_fst

end Sys2Proof.Machine
end

