-- ==== Sys2Proof/Laws/KeepStages.lean ====
section
/-! SUPPORT. What every operation of Machine/Stages.lean keeps: the queue of waiting commands and the canonical form of what is stored. -/

namespace Sys2Proof.Machine

variable {Q : Keep}

theorem stageA_kept {s : State} {up : List StripUpset} {ecc : Ecc} {waits : List (BitVec 3 × BitVec 8)} (h : Kept Q s) (hS :
    Q.Stores) : Kept Q (stageA s up ecc waits) := by
  unfold stageA
  with_reducible repeat' first
      | assumption | apply sumsStageA_kept | apply flowsStageA_kept | apply streamsStageA_kept | apply inputStrips_kept
      | apply playersStageA_kept | apply generators_kept | apply capStage_kept | apply State.setAud_kept

theorem execStageA_kept {upsets : List StripUpset} {ecc : List (BitVec 29 × BitVec 4 × BitVec 4)} {waits : List (BitVec 3 × BitVec
    8)} {s : State} (h : Kept Q s) (hS : Q.Stores) : KeptN Q (execStageA upsets ecc waits s) := by
  unfold execStageA
  with_reducible repeat' first | assumption | apply stageA_kept | apply Kept.ite | apply KeptN.next

theorem stageC_kept {s : State} {up : List StripUpset} {waits : List (BitVec 3 × BitVec 8)} (h : Kept Q s) (hS : Q.Stores) : Kept Q
    (stageC s up waits) := by
  unfold stageC
  with_reducible repeat' first | assumption | apply capStage_kept | apply outputStrips_kept | apply State.setAud_kept

theorem execStageC_kept {upsets : List StripUpset} {waits : List (BitVec 3 × BitVec 8)} {s : State} (h : Kept Q s) (hS : Q.Stores) :
    KeptN Q (execStageC upsets waits s) := by
  unfold execStageC
  with_reducible repeat' first | assumption | apply stageC_kept | apply Kept.ite | apply KeptN.next

theorem packBlock_kept {s : State} (h : Kept Q s) : Kept Q (packBlock s) := by
  unfold packBlock
  with_reducible repeat' first
      | assumption | intro _ | apply txAll_kept | apply enqueue_kept | apply trellisPack_kept | apply State.setEdl_kept
      | apply Kept.ite | apply Kept.foldl | apply Kept.of_fst

theorem packetise_kept {s : State} (h : Kept Q s) : Kept Q (packetise s) := by
  unfold packetise
  with_reducible repeat' first | assumption | apply packBlock_kept | apply State.setAud_kept

theorem repack_kept {s : State} (h : Kept Q s) : Kept Q (repack s) := by
  unfold repack
  repeat' first
    | with_reducible assumption
    | with_reducible (first
        | apply State.setEdl_kept | apply State.setTrl_kept | apply State.setStrm_kept | apply packBlock_kept
        | apply State.setEth_kept)
    | split

theorem execPacketise_kept {s : State} (h : Kept Q s) : KeptN Q (execPacketise s) := by
  unfold execPacketise
  with_reducible repeat' first | assumption | apply packetise_kept | apply Kept.ite | apply KeptN.next

theorem streamSent_kept {s : State} {f : EgFrame} (h : Kept Q s) : Kept Q (streamSent s f) := by
  unfold streamSent
  repeat' first
    | with_reducible assumption
    | with_reducible apply State.setStrm_kept
    | split

theorem sendFrame_kept {s : State} {p c : Nat} {f : EgFrame} (h : Kept Q s) : Kept Q (sendFrame s p c f) := by
  unfold sendFrame
  repeat' first
    | with_reducible assumption
    | with_reducible (first | apply ethCond_kept | apply emit_kept | apply State.setEth_kept | apply txComplete_kept)
    | split

theorem execFrameLaunch_kept {port : BitVec 5} {cyc : BitVec 4} {bad : Bool} {s : State} (h : Kept Q s) : KeptN Q (execFrameLaunch
    port cyc bad s) := by
  unfold execFrameLaunch
  repeat' first
    | with_reducible assumption
    | with_reducible (first
        | apply sendFrame_kept | apply streamSent_kept | apply dequeue_kept | apply sendTunnel_kept | apply txComplete_kept
        | apply Kept.ite | apply KeptN.next)
    | split

end Sys2Proof.Machine
end

