-- ==== Sys2Proof/Laws/KeepEdlSend.lean ====
section
/-! SUPPORT. What every operation of Machine/EdlSend.lean keeps: the queue of waiting commands and the canonical form of what is stored. -/

namespace Sys2Proof.Machine

variable {Q : Keep}

theorem setLeaves_kept {s : State} {n : Nat} {x : EdlSet} {t : Nat} (h : Kept Q s) : Kept Q (setLeaves s n x t) := by
  unfold setLeaves
  repeat' first
    | with_reducible assumption
    | with_reducible apply setEdl_kept
    | split

theorem nextSlot_kept {s : State} {n t : Nat} (h : Kept Q s) : Kept1 Q (nextSlot s n t) := by
  unfold nextSlot
  repeat' first
    | with_reducible assumption
    | with_reducible (first | apply setEdlTx_kept | apply setLeaves_kept)
    | (extract_lets -underBinder +onlyGivenNames x; clear_value x)
    | simp -zeta only [Kept1.iff]
    | split

theorem fillSlots_kept {n until_ f u : Nat} {s : State} (h : Kept Q s) : Kept Q (fillSlots n until_ f u s) := by
  induction f generalizing u s with
  | zero => exact h
  | succ f ih =>
    unfold fillSlots
    exact Kept.ite (setEdlTx_kept h) (Kept.ite (ih (setEdlTx_kept (Kept.of_fst (nextSlot_kept h))))
      (ih (setEdlTx_kept (emit_kept (Kept.of_fst (nextSlot_kept h))))))

theorem dropWaiting_kept {s : State} {n : Nat} (h : Kept Q s) : Kept Q (dropWaiting s n) := by
  unfold dropWaiting
  with_reducible repeat' first | assumption | apply dropFrames_kept | apply Kept.ite

theorem ackPage_kept {s : State} {n : Nat} (h : Kept Q s) : Kept Q (ackPage s n) := by
  unfold ackPage
  with_reducible repeat' first | assumption | apply judgePages_kept | apply setEdl_kept | apply Kept.ite

theorem sendPages_kept {s : State} {n c : Nat} (h : Kept Q s) : Kept Q (sendPages s n c) := by
  unfold sendPages
  repeat' first
    | with_reducible assumption
    | intro _
    | with_reducible (first | apply setEdlTx_kept | apply ackPage_kept | apply emit_kept | apply Kept.ite | apply Kept.foldl)
    | split

theorem edlSendPort_kept {c : Nat} {s : State} {n : Nat} (h : Kept Q s) : Kept Q (edlSendPort c s n) := by
  unfold edlSendPort
  with_reducible repeat' first | assumption | apply dropWaiting_kept | apply fillSlots_kept | apply sendPages_kept | apply Kept.ite

theorem edlSend_kept {s : State} {c : Nat} (h : Kept Q s) : Kept Q (edlSend s c) := by
  unfold edlSend
  with_reducible repeat' first | assumption | apply edlSendPort_kept | apply Kept.foldl

end Sys2Proof.Machine
end

