-- ==== Sys2Proof/Laws/KeepPower.lean ====
section
/-! SUPPORT. What every operation of Machine/Power.lean keeps: the queue of waiting commands and the canonical form of what is stored. -/

namespace Sys2Proof.Machine

variable {Q : Keep}

theorem dropRegs_kept {s : State} {p : Nat → Bool} (h : Kept Q s) : Kept Q (dropRegs s p) :=
  State.setRegs_kept h _ (Registers.wf_filter _ h.regs)

theorem coldReset_kept {s : State} {pwr : Pwr} (h : Kept Q s) (hB : Q.dev .bare) (h0 : Q.num 0) (hE : Q.mem []) (hD : ∀ x, Q.mld x)
    (hG : ∀ x, Q.mgt x) : Kept Q (coldReset s pwr) := ⟨h.queue, rfl, rfl, hB, h0, hE, hD _, hG _⟩

theorem rstFall_kept {s : State} (h : Kept Q s) (hB : Q.dev .bare) (h0 : Q.num 0) (hE : Q.mem []) (hD : ∀ x, Q.mld x) (hG : ∀ x,
    Q.mgt x) : Kept Q (rstFall s) := by
  unfold rstFall
  with_reducible repeat' first | assumption | apply coldReset_kept

theorem execRstNFall_kept {s : State} (h : Kept Q s) (hB : Q.dev .bare) (h0 : Q.num 0) (hE : Q.mem []) (hD : ∀ x, Q.mld x) (hG : ∀ x,
    Q.mgt x) : KeptN Q (execRstNFall s) := by
  unfold execRstNFall
  with_reducible repeat' first | assumption | apply rstFall_kept | apply KeptN.next

theorem execPwrOkFall_kept {s : State} (h : Kept Q s) (hB : Q.dev .bare) (h0 : Q.num 0) (hE : Q.mem []) (hD : ∀ x, Q.mld x) (hG : ∀
    x, Q.mgt x) : KeptN Q (execPwrOkFall s) := by
  unfold execPwrOkFall
  with_reducible repeat' first
      | assumption | apply rstFall_kept | apply State.setMgt_kept | apply State.setPwr_kept | apply hG | apply KeptN.next

theorem execPwrOkRise_kept {s : State} (h : Kept Q s) : KeptN Q (execPwrOkRise s) := by
  unfold execPwrOkRise
  with_reducible repeat' first | assumption | apply State.setPwr_kept | apply KeptN.next

theorem execRstNRise_kept {straps : Straps} {refs : RefClocks} {s : State} (h : Kept Q s) (hB : Q.dev .bare) (h0 : Q.num 0) (hE :
    Q.mem []) (hD : ∀ x, Q.mld x) (hG : ∀ x, Q.mgt x) : KeptN Q (execRstNRise straps refs s) := by
  unfold execRstNRise
  with_reducible repeat' first
      | assumption | apply coldReset_kept | apply State.setMgt_kept | apply hG | apply Kept.ite | apply KeptN.next

theorem execFabricPllLock_kept {s : State} (h : Kept Q s) : KeptN Q (execFabricPllLock s) := by
  unfold execFabricPllLock
  with_reducible repeat' first | assumption | apply State.setPwr_kept | apply Kept.ite | apply KeptN.next

theorem execPllLockTimeout_kept {s : State} (h : Kept Q s) : KeptN Q (execPllLockTimeout s) := by
  unfold execPllLockTimeout
  with_reducible repeat' first | assumption | apply State.setPwr_kept | apply Kept.ite | apply KeptN.next

theorem execDramInitDone_kept {s : State} (h : Kept Q s) (hE : Q.mem []) : KeptN Q (execDramInitDone s) :=
  KeptN.next (Kept.ite (State.setDst_kept (State.setPwr_kept h _) _ rfl hE) h)

theorem execDramInitTimeout_kept {s : State} (h : Kept Q s) : KeptN Q (execDramInitTimeout s) := by
  unfold execDramInitTimeout
  with_reducible repeat' first | assumption | apply mldCond_kept | apply State.setPwr_kept | apply Kept.ite | apply KeptN.next

theorem execPcieLinkUp_kept {gen : BitVec 4} {width : BitVec 5} {s : State} (h : Kept Q s) : KeptN Q (execPcieLinkUp gen width s) :=
    by
  unfold execPcieLinkUp
  with_reducible repeat' first | assumption | apply wr_kept | apply State.setPwr_kept | apply Kept.ite | apply KeptN.next

theorem execEnterBare_kept {s : State} (h : Kept Q s) : KeptN Q (execEnterBare s) := by
  unfold execEnterBare
  with_reducible repeat' first | assumption | apply State.setPwr_kept | apply Kept.ite | apply KeptN.next

theorem execPerstNDeassert_kept {s : State} (h : Kept Q s) : KeptN Q (execPerstNDeassert s) := by
  unfold execPerstNDeassert
  with_reducible repeat' first | assumption | apply State.setPwr_kept | apply KeptN.next

theorem execPerstNAssert_kept {s : State} (h : Kept Q s) (hM : Q.Mld) (hD : ∀ x, Q.mld x) : KeptN Q (execPerstNAssert s) := by
  unfold execPerstNAssert
  with_reducible repeat' first
      | assumption | apply State.setEv_kept | apply dropRegs_kept | apply wr_kept | apply State.setPwr_kept
      | apply State.setMix_kept | apply updDiscard_kept | apply State.setEth_kept | apply State.setHp_kept | apply resetTarget_kept
      | apply wrAll_kept | apply abortLaying_kept | apply State.setMld_kept | apply hD | apply Kept.ite | apply KeptN.next
      | apply Kept.foldl

theorem execFunctionLevelReset_kept {fn : BitVec 6} {s : State} (h : Kept Q s) : KeptN Q (execFunctionLevelReset fn s) := by
  unfold execFunctionLevelReset
  with_reducible repeat' first
      | assumption | intro _ | apply dropRegs_kept | apply State.setMix_kept | apply State.setUpd_kept | apply State.setHp_kept
      | apply State.setEth_kept | apply State.setPtr_kept | apply State.setStrp_kept | apply resetTarget_kept
      | apply setActive_kept | apply State.setEv_kept | apply Kept.ite | apply KeptN.next | apply Kept.foldl

theorem enterHold_kept {s : State} {pll : Bool} (h : Kept Q s) (hB : Q.dev .bare) (h0 : Q.num 0) (hD : ∀ x, Q.mld x)
    (hG : ∀ x, Q.mgt x) : Kept Q (enterHold s pll) := by
  unfold enterHold
  refine wr_kept ?_ _ _
  exact ⟨h.queue, Registers.wf_filter _ h.regs, h.mem, hB, h0, h.store, hD _, hG _⟩

theorem execPllLossOfLock_kept {s : State} (h : Kept Q s) (hB : Q.dev .bare) (h0 : Q.num 0) (hD : ∀ x, Q.mld x) (hG : ∀ x, Q.mgt x) :
    KeptN Q (execPllLossOfLock s) := by
  unfold execPllLossOfLock
  with_reducible repeat' first | assumption | apply enterHold_kept | apply Kept.ite | apply KeptN.next

theorem thermalTrip_kept {s : State} (h : Kept Q s) (hB : Q.dev .bare) (h0 : Q.num 0) (hD : ∀ x, Q.mld x) (hG : ∀ x, Q.mgt x) : Kept
    Q (thermalTrip s) := by
  unfold thermalTrip
  with_reducible repeat' first
      | assumption | apply setCond_kept | apply State.setMgt_kept | apply repack_kept | apply enterHold_kept | apply hG
      | apply Kept.ite

theorem execThermalTrip_kept {s : State} (h : Kept Q s) (hB : Q.dev .bare) (h0 : Q.num 0) (hD : ∀ x, Q.mld x) (hG : ∀ x, Q.mgt x) :
    KeptN Q (execThermalTrip s) := by
  unfold execThermalTrip
  with_reducible repeat' first | assumption | apply thermalTrip_kept | apply Kept.ite | apply KeptN.next

end Sys2Proof.Machine
end

