-- ==== Sys2Proof/Laws/KeepTick.lean ====
section
/-! SUPPORT. What every operation of Machine/Tick.lean keeps: the queue of waiting commands and the canonical form of what is stored. -/

namespace Sys2Proof.Machine

variable {Q : Keep}

theorem dklCond_kept {s : State} {b : Nat} {on : Bool} (h : Kept Q s) : Kept Q (dklCond s b on) := by
  unfold dklCond
  with_reducible repeat' first | assumption | apply setCond_kept | apply Kept.ite

theorem overruns_kept {s : State} (h : Kept Q s) : Kept Q (overruns s) := by
  unfold overruns
  with_reducible repeat' first
      | assumption | apply dklCond_kept | apply cutMix_kept | apply State.setEdl_kept | apply txSkip_kept | apply Kept.ite

theorem audioTurn_kept {s : State} (h : Kept Q s) : Kept Q (audioTurn s) := by
  unfold audioTurn
  with_reducible repeat' first | assumption | apply State.setAud_kept

theorem tickCount_kept {s : State} (h : Kept Q.anyNum s) (hN : Q.num (tickNumber s))
    (hJ : ∀ (m : Mld) a, Q.mld m → Q.mld { m with liftAt := a }) : Kept Q (tickCount s) := by
  have h4 : Kept Q.anyNum (wrAll
      (let s2 := dklCond (dklCond s 4 (s.dkl.started && tickNumber s != (s.dkl.num + 1) % 2 ^ 48)) 3
        (s.dkl.started && decide (s.dkl.cyc - s.dkl.tickCyc < (rd s R.DKL_U).toNat + 512))
       if s.dkl.started then wr s2 R.DKL_LAST (BitVec.ofNat 32 ((s.dkl.cyc - s.dkl.tickCyc) % 2 ^ 20)) else s2)
      [(R.DKL_NUM_LO, BitVec.ofNat 32 (tickNumber s)), (R.DKL_NUM_HI, BitVec.ofNat 32 (tickNumber s / 2 ^ 32))]) :=
    wrAll_kept (Kept.ite (wr_kept (dklCond_kept (dklCond_kept h)) _ _) (dklCond_kept (dklCond_kept h)))
  have h5 := fun (x : Eth) (y : Dkl) (e : y.num = tickNumber s) =>
    nextBoundary_kept (Kept.setDkl (State.setEth_kept h4 x) y (e ▸ hN))
  unfold tickCount
  exact Kept.ite (sceneJump_kept (Kept.ite (State.setMld_kept (h5 _ _ rfl) _ (hJ _ _ (h5 _ _ rfl).mld)) (h5 _ _ rfl)))
    (Kept.ite (State.setMld_kept (h5 _ _ rfl) _ (hJ _ _ (h5 _ _ rfl).mld)) (h5 _ _ rfl))

theorem stepLease_kept {s : State} {first : Bool} {wck : List Nat} (h : Kept Q s) : Kept Q (stepLease s first wck) := by
  unfold stepLease
  with_reducible repeat' first
      | assumption | apply pairBoundary_kept | apply pairFirst_kept | apply lockReport_kept | apply tbBoundary_kept | apply Kept.ite

theorem tpartApply_kept {s : State} (h : Kept Q s) : Kept Q (tpartApply s) := by
  unfold tpartApply
  with_reducible repeat' first
      | assumption | intro _ | apply voteClean_kept | apply voteStore_kept | apply State.setHp_kept | apply Kept.ite
      | apply Kept.foldl

theorem heardTurn_kept {s : State} (h : Kept Q s) : Kept Q (heardTurn s) := by
  unfold heardTurn
  with_reducible repeat' first | assumption | apply State.setHp_kept

theorem stepStructure_kept {s : State} (h : Kept Q s) : Kept Q (stepStructure s) := by
  unfold stepStructure
  with_reducible repeat' first
      | assumption | apply heardTurn_kept | apply tpartApply_kept | apply voteAll_kept | apply flowsBoundary_kept
      | apply edlBoundary_kept | apply strmBoundary_kept | apply trellisBoundary_kept | apply State.setTb_kept
      | apply capBoundary_kept | apply ptrBoundary_kept | apply mixBoundary_kept | apply stripBoundary_kept

theorem stepRest_kept {s : State} (h : Kept Q s) : Kept Q (stepRest s) := by
  unfold stepRest
  with_reducible repeat' first
      | assumption | apply sceneBoundary_kept | apply ptrSnapshot_kept | apply seqBoundary_kept | apply inputsBoundary_kept

theorem tickCredits_kept {s : State} {first : Bool} (h : Kept Q s) : Kept Q (tickCredits s first) := by
  unfold tickCredits
  with_reducible repeat' first | assumption | apply State.setSrch_kept | apply creditReload_kept | apply State.setDste_kept

theorem launchPackets_kept {s : State} (h : Kept Q s) : Kept Q (launchPackets s) := by
  unfold launchPackets
  with_reducible repeat' first | assumption | apply State.setEth_kept

theorem deckleTick_kept {s : State} {wck : List Nat} (h : Kept Q.anyNum s) (hB : Q.dev .bare) (hL : Q.dev .laying)
    (hF : Q.dev .lifting) (h0 : Q.num 0) (hN : Q.num (tickNumber (audioTurn (overruns s)))) (hD : ∀ x, Q.mld x) (hG : ∀ x, Q.mgt x) :
    Kept Q (deckleTick s wck) := by
  have h3 := liftStep_kept (e := (launchPackets (launchFrames (stepLease (tickCount (audioTurn (overruns s))) (!s.dkl.started) wck))).dkl.num)
    (launchPackets_kept (launchFrames_kept (stepLease_kept (first := !s.dkl.started) (wck := wck)
      (tickCount_kept (audioTurn_kept (overruns_kept h)) hN (fun _ _ _ => hD _))))) hB hL hF h0 hD
  have h4 := tickCredits_kept (first := !s.dkl.started) (stepRest_kept (sendMarkers_kept
    (lease := ownLease (tickCount (audioTurn (overruns s)))) (stepStructure_kept h3)))
  unfold deckleTick
  exact Kept.ite (Kept.ite (enterHold_kept h3 hB h0 hD hG) h3) (Kept.ite (State.setMgt_kept h4 _ (hG _)) h4)

theorem boundary_kept {s : State} {wck : List Nat} (h : Kept Q s) (hB : Q.dev .bare) (hL : Q.dev .laying)
    (hF : Q.dev .lifting) (h0 : Q.num 0) (hN : Q.num (tickNumber (audioTurn (overruns s)))) (hD : ∀ x, Q.mld x)
    (hG : ∀ x, Q.mgt x) : Kept Q (boundary s wck) :=
  Kept.ite (enterHold_kept h hB h0 hD hG) (deckleTick_kept h.anyNum hB hL hF h0 hN hD hG)

theorem execDeckleTick_kept {wck : List Nat} {s : State} (h : Kept Q s) (hB : Q.dev .bare) (hL : Q.dev .laying) (hF : Q.dev .lifting)
    (h0 : Q.num 0) (hN : Q.num (tickNumber (audioTurn (overruns s)))) (hD : ∀ x, Q.mld x) (hG : ∀ x, Q.mgt x) : KeptN Q
    (execDeckleTick wck s) := by
  unfold execDeckleTick
  with_reducible repeat' first | assumption | apply boundary_kept | apply Kept.ite | apply KeptN.next

theorem landAct_kept {s : State} {a : Nat × HwAct} (h : Kept Q s) : Kept Q (landAct s a) := by
  unfold landAct
  repeat' first
    | with_reducible assumption
    | with_reducible (first
        | apply hostCommitDo_kept | apply diagRequest_kept | apply gen1Commit_kept | apply submitCommit_kept | apply wr_kept
        | apply seqCommit_kept | apply liveLand_kept | apply playerStart_kept | apply playerStop_kept | apply haltLand_kept
        | apply postSig_kept | apply migGo_kept)
    | split

theorem landActs_kept {s : State} (h : Kept Q s) : Kept Q (landActs s) := by
  unfold landActs
  with_reducible repeat' first | assumption | apply landAct_kept | apply State.setEv_kept | apply Kept.foldl

theorem eventTick_kept {s : State} {c : Nat} {flips : List RamFlip} {upsets : List (Nat × Nat)} (h : Kept Q s) :
    Kept Q (eventTick s c flips upsets) := by
  have k : ∀ t : State, Kept Q t →
      Kept Q ((t.setDste { t.dste with busy := 0 }).setDkl { t.dkl with evt := t.dkl.evt + 1, free := t.dkl.free + 1 }) :=
    fun t ht => State.setDkl_keep (State.setDste_kept ht _) _ rfl
  unfold eventTick
  refine k _ ?_
  with_reducible repeat' first
      | assumption | intro _ | apply foldBeats_kept | apply tbAdvance_kept
      | apply drivePins_kept | apply syncPins_kept | apply pulseFalls_kept | apply voteUpset_kept | apply flipRam_kept | apply Kept.foldl
      | apply eventTickCore_kept | apply settleFinds_kept | apply State.setEv_kept | apply landActs_kept | apply windowTick_kept
      | apply edlSend_kept

theorem holdTick_kept {s : State} (h : Kept Q s) : Kept Q (holdTick s) := by
  unfold holdTick
  with_reducible repeat' first | assumption | apply wr_kept | apply State.setEv_kept

theorem execEventTick_kept {flips : List RamFlip} {upsets : List (Nat × Nat)} {s : State} (h : Kept Q s) : KeptN Q (execEventTick
    flips upsets s) := by
  unfold execEventTick
  with_reducible repeat' first | assumption | apply eventTick_kept | apply holdTick_kept | apply Kept.ite | apply KeptN.next

theorem scrubGranted_kept {s : State} {c : Nat} (h : Kept Q s) : Kept Q (scrubGranted s c) := by
  unfold scrubGranted
  with_reducible repeat' first | assumption | apply State.setSrch_kept | apply State.setUpd_kept

theorem execScrubVisit_kept {cyc : BitVec 4} {s : State} (h : Kept Q s) : KeptN Q (execScrubVisit cyc s) := by
  unfold execScrubVisit
  with_reducible repeat' first | assumption | apply scrubVisit_kept | apply scrubGranted_kept | apply Kept.ite | apply KeptN.next

theorem execScrubRewrite_kept {cyc : BitVec 4} {s : State} (h : Kept Q s) : KeptN Q (execScrubRewrite cyc s) := by
  unfold execScrubRewrite
  repeat' first
    | with_reducible assumption
    | with_reducible (first | apply scrubRewrite_kept | apply scrubGranted_kept | apply Kept.ite | apply KeptN.next)
    | split

end Sys2Proof.Machine
end

