-- ==== Sys2Proof/Laws/KeepBoundary.lean ====
section
/-! SUPPORT. What every operation of Machine/Boundary.lean keeps: the queue of waiting commands and the canonical form of what is stored. -/

namespace Sys2Proof.Machine

variable {Q : Keep}

theorem boundaryFor_kept {s : State} {cause : Bool} (h : Kept Q s) (hB : Q.dev .bare) (hL : Q.dev .laying) (hF : Q.dev .lifting) (h0
    : Q.num 0) (hN : Q.num (tickNumber (audioTurn (overruns s)))) (hD : ∀ x, Q.mld x) (hG : ∀ x, Q.mgt x) : Kept Q (boundaryFor s
    cause) := by
  unfold boundaryFor
  with_reducible repeat' first | assumption | apply boundary_kept | apply Kept.ite

theorem execLiftBegin_kept {s : State} (h : Kept Q s) (hB : Q.dev .bare) (hL : Q.dev .laying) (hF : Q.dev .lifting) (h0 : Q.num 0)
    (hN : Q.num (tickNumber (audioTurn (overruns s)))) (hD : ∀ x, Q.mld x) (hG : ∀ x, Q.mgt x) : KeptN Q (execLiftBegin s) := by
  unfold execLiftBegin
  with_reducible repeat' first | assumption | apply boundaryFor_kept | apply KeptN.next

theorem execLiftEnd_kept {s : State} (h : Kept Q s) (hB : Q.dev .bare) (hL : Q.dev .laying) (hF : Q.dev .lifting) (h0 : Q.num 0) (hN
    : Q.num (tickNumber (audioTurn (overruns s)))) (hD : ∀ x, Q.mld x) (hG : ∀ x, Q.mgt x) : KeptN Q (execLiftEnd s) := by
  unfold execLiftEnd
  with_reducible repeat' first | assumption | apply boundaryFor_kept | apply KeptN.next

theorem execFence_kept {s : State} (h : Kept Q s) (hB : Q.dev .bare) (hL : Q.dev .laying) (hF : Q.dev .lifting) (h0 : Q.num 0) (hN :
    Q.num (tickNumber (audioTurn (overruns s)))) (hD : ∀ x, Q.mld x) (hG : ∀ x, Q.mgt x) : KeptN Q (execFence s) := by
  unfold execFence
  with_reducible repeat' first | assumption | apply boundaryFor_kept | apply KeptN.next

theorem execTakeover_kept {s : State} (h : Kept Q s) (hB : Q.dev .bare) (hL : Q.dev .laying) (hF : Q.dev .lifting) (h0 : Q.num 0) (hN
    : Q.num (tickNumber (audioTurn (overruns s)))) (hD : ∀ x, Q.mld x) (hG : ∀ x, Q.mgt x) : KeptN Q (execTakeover s) := by
  unfold execTakeover
  with_reducible repeat' first | assumption | apply boundaryFor_kept | apply KeptN.next

theorem execCommitCarryOut_kept {s : State} (h : Kept Q s) (hB : Q.dev .bare) (hL : Q.dev .laying) (hF : Q.dev .lifting) (h0 : Q.num
    0) (hN : Q.num (tickNumber (audioTurn (overruns s)))) (hD : ∀ x, Q.mld x) (hG : ∀ x, Q.mgt x) : KeptN Q (execCommitCarryOut s) :=
    by
  unfold execCommitCarryOut
  with_reducible repeat' first | assumption | apply boundaryFor_kept | apply KeptN.next

theorem execHoldEnd_kept {s : State} (h : Kept Q s) (hB : Q.dev .bare) (hL : Q.dev .laying) (hF : Q.dev .lifting) (h0 : Q.num 0) (hN
    : Q.num (tickNumber (audioTurn (overruns s)))) (hD : ∀ x, Q.mld x) (hG : ∀ x, Q.mgt x) : KeptN Q (execHoldEnd s) := by
  unfold execHoldEnd
  with_reducible repeat' first | assumption | apply boundaryFor_kept | apply KeptN.next

theorem execFaultn_kept {n : BitVec 4} {s : State} (h : Kept Q s) (hB : Q.dev .bare) (hL : Q.dev .laying) (hF : Q.dev .lifting) (h0 :
    Q.num 0) (hN : Q.num (tickNumber (audioTurn (overruns s)))) (hD : ∀ x, Q.mld x) (hG : ∀ x, Q.mgt x) : KeptN Q (execFaultn n s) :=
    by
  unfold execFaultn
  with_reducible repeat' first | assumption | apply boundaryFor_kept | apply KeptN.next

theorem execRearm_kept {n : BitVec 4} {s : State} (h : Kept Q s) (hB : Q.dev .bare) (hL : Q.dev .laying) (hF : Q.dev .lifting) (h0 :
    Q.num 0) (hN : Q.num (tickNumber (audioTurn (overruns s)))) (hD : ∀ x, Q.mld x) (hG : ∀ x, Q.mgt x) : KeptN Q (execRearm n s) :=
    by
  unfold execRearm
  with_reducible repeat' first | assumption | apply boundaryFor_kept | apply KeptN.next

theorem execMigrationEffect_kept {bus : BitVec 11} {s : State} (h : Kept Q s) (hB : Q.dev .bare) (hL : Q.dev .laying) (hF : Q.dev
    .lifting) (h0 : Q.num 0) (hN : Q.num (tickNumber (audioTurn (overruns s)))) (hD : ∀ x, Q.mld x) (hG : ∀ x, Q.mgt x) : KeptN Q
    (execMigrationEffect bus s) := by
  unfold execMigrationEffect
  with_reducible repeat' first | assumption | apply boundaryFor_kept | apply KeptN.next

theorem execTrellisDeadline_kept {bus : BitVec 11} {s : State} (h : Kept Q s) (hB : Q.dev .bare) (hL : Q.dev .laying) (hF : Q.dev
    .lifting) (h0 : Q.num 0) (hN : Q.num (tickNumber (audioTurn (overruns s)))) (hD : ∀ x, Q.mld x) (hG : ∀ x, Q.mgt x) : KeptN Q
    (execTrellisDeadline bus s) := by
  unfold execTrellisDeadline
  with_reducible repeat' first | assumption | apply boundaryFor_kept | apply KeptN.next

theorem execSubstituteLaunch_kept {bus : BitVec 11} {ring : BitVec 1} {s : State} (h : Kept Q s) (hB : Q.dev .bare) (hL : Q.dev
    .laying) (hF : Q.dev .lifting) (h0 : Q.num 0) (hN : Q.num (tickNumber (audioTurn (overruns s)))) (hD : ∀ x, Q.mld x) (hG : ∀ x,
    Q.mgt x) : KeptN Q (execSubstituteLaunch bus ring s) := by
  unfold execSubstituteLaunch
  with_reducible repeat' first | assumption | apply boundaryFor_kept | apply KeptN.next

theorem execWaiteTimeout_kept {n : BitVec 7} {s : State} (h : Kept Q s) (hB : Q.dev .bare) (hL : Q.dev .laying) (hF : Q.dev .lifting)
    (h0 : Q.num 0) (hN : Q.num (tickNumber (audioTurn (overruns s)))) (hD : ∀ x, Q.mld x) (hG : ∀ x, Q.mgt x) : KeptN Q
    (execWaiteTimeout n s) := by
  unfold execWaiteTimeout
  with_reducible repeat' first | assumption | apply boundaryFor_kept | apply KeptN.next

theorem execWaitdExpiry_kept {n : BitVec 7} {s : State} (h : Kept Q s) (hB : Q.dev .bare) (hL : Q.dev .laying) (hF : Q.dev .lifting)
    (h0 : Q.num 0) (hN : Q.num (tickNumber (audioTurn (overruns s)))) (hD : ∀ x, Q.mld x) (hG : ∀ x, Q.mgt x) : KeptN Q
    (execWaitdExpiry n s) := by
  unfold execWaitdExpiry
  with_reducible repeat' first | assumption | apply boundaryFor_kept | apply KeptN.next

theorem execWaituReached_kept {n : BitVec 7} {s : State} (h : Kept Q s) (hB : Q.dev .bare) (hL : Q.dev .laying) (hF : Q.dev .lifting)
    (h0 : Q.num 0) (hN : Q.num (tickNumber (audioTurn (overruns s)))) (hD : ∀ x, Q.mld x) (hG : ∀ x, Q.mgt x) : KeptN Q
    (execWaituReached n s) := by
  unfold execWaituReached
  with_reducible repeat' first | assumption | apply boundaryFor_kept | apply KeptN.next

theorem execStallRelease_kept {g : BitVec 3} {s : State} (h : Kept Q s) (hB : Q.dev .bare) (hL : Q.dev .laying) (hF : Q.dev .lifting)
    (h0 : Q.num 0) (hN : Q.num (tickNumber (audioTurn (overruns s)))) (hD : ∀ x, Q.mld x) (hG : ∀ x, Q.mgt x) : KeptN Q
    (execStallRelease g s) := by
  unfold execStallRelease
  with_reducible repeat' first | assumption | apply boundaryFor_kept | apply KeptN.next

end Sys2Proof.Machine
end

