-- ==== Sys2Proof/Laws/Reads.lean ====
section
/-! SUPPORT. What the shared operations leave alone: a register reads as before an update of another part of the state, and a register
write, an output and a request change no other part. -/

namespace Sys2Proof.Machine

variable (s : State)

@[simp] theorem rd_setPwr (v : Pwr) (o : Nat) : rd (s.setPwr v) o = rd s o := rfl
@[simp] theorem rd_setDev (v : DevState) (o : Nat) : rd (s.setDev v) o = rd s o := rfl
@[simp] theorem rd_setMld (v : Mld) (o : Nat) : rd (s.setMld v) o = rd s o := rfl
@[simp] theorem rd_setDkl (v : Dkl) (o : Nat) : rd (s.setDkl v) o = rd s o := rfl
@[simp] theorem rd_setEv (v : Ev) (o : Nat) : rd (s.setEv v) o = rd s o := rfl
@[simp] theorem rd_setHp (v : HostPort) (o : Nat) : rd (s.setHp v) o = rd s o := rfl
@[simp] theorem rd_setInp (v : Inp) (o : Nat) : rd (s.setInp v) o = rd s o := rfl
@[simp] theorem rd_setTb (v : Tb) (o : Nat) : rd (s.setTb v) o = rd s o := rfl
@[simp] theorem rd_setSrch (v : Srch) (o : Nat) : rd (s.setSrch v) o = rd s o := rfl
@[simp] theorem rd_setUpd (v : Upd) (o : Nat) : rd (s.setUpd v) o = rd s o := rfl
@[simp] theorem rd_setFwd (v : Fwd) (o : Nat) : rd (s.setFwd v) o = rd s o := rfl
@[simp] theorem rd_setEth (v : Eth) (o : Nat) : rd (s.setEth v) o = rd s o := rfl
@[simp] theorem rd_setStrm (v : Strm) (o : Nat) : rd (s.setStrm v) o = rd s o := rfl
@[simp] theorem rd_setAud (v : Aud) (o : Nat) : rd (s.setAud v) o = rd s o := rfl
@[simp] theorem rd_setMix (v : Mix) (o : Nat) : rd (s.setMix v) o = rd s o := rfl
@[simp] theorem rd_setStrp (v : Strp) (o : Nat) : rd (s.setStrp v) o = rd s o := rfl
@[simp] theorem rd_setDste (v : DstE) (o : Nat) : rd (s.setDste v) o = rd s o := rfl
@[simp] theorem rd_setSeq (v : Seq) (o : Nat) : rd (s.setSeq v) o = rd s o := rfl
@[simp] theorem rd_setEdl (v : Edl) (o : Nat) : rd (s.setEdl v) o = rd s o := rfl
@[simp] theorem rd_setTrl (v : Trl) (o : Nat) : rd (s.setTrl v) o = rd s o := rfl
@[simp] theorem rd_setPair (v : Pair) (o : Nat) : rd (s.setPair v) o = rd s o := rfl
@[simp] theorem rd_setScn (v : Scn) (o : Nat) : rd (s.setScn v) o = rd s o := rfl
@[simp] theorem rd_setPtr (v : Ptr) (o : Nat) : rd (s.setPtr v) o = rd s o := rfl
@[simp] theorem rd_setMgt (v : Mgt) (o : Nat) : rd (s.setMgt v) o = rd s o := rfl
@[simp] theorem rd_setDst (v : List Host.Cell) (o : Nat) : rd (s.setDst v) o = rd s o := rfl
@[simp] theorem rd_setAns (v : Word) (o : Nat) : rd (s.setAns v) o = rd s o := rfl
@[simp] theorem rd_setOut (v : List Output) (o : Nat) : rd (s.setOut v) o = rd s o := rfl
@[simp] theorem rd_setFree (v : Nat) (o : Nat) : rd (s.setFree v) o = rd s o := rfl
@[simp] theorem rd_setPending (v : List Instr) (o : Nat) : rd (s.setPending v) o = rd s o := rfl

@[simp] theorem wr_pwr (o : Nat) (w : Word) : (wr s o w).pwr = s.pwr := rfl
@[simp] theorem wr_dev (o : Nat) (w : Word) : (wr s o w).dev = s.dev := rfl
@[simp] theorem wr_mld (o : Nat) (w : Word) : (wr s o w).mld = s.mld := rfl
@[simp] theorem wr_dkl (o : Nat) (w : Word) : (wr s o w).dkl = s.dkl := rfl
@[simp] theorem wr_ev (o : Nat) (w : Word) : (wr s o w).ev = s.ev := rfl
@[simp] theorem wr_hp (o : Nat) (w : Word) : (wr s o w).hp = s.hp := rfl
@[simp] theorem wr_inp (o : Nat) (w : Word) : (wr s o w).inp = s.inp := rfl
@[simp] theorem wr_tb (o : Nat) (w : Word) : (wr s o w).tb = s.tb := rfl
@[simp] theorem wr_srch (o : Nat) (w : Word) : (wr s o w).srch = s.srch := rfl
@[simp] theorem wr_upd (o : Nat) (w : Word) : (wr s o w).upd = s.upd := rfl
@[simp] theorem wr_fwd (o : Nat) (w : Word) : (wr s o w).fwd = s.fwd := rfl
@[simp] theorem wr_eth (o : Nat) (w : Word) : (wr s o w).eth = s.eth := rfl
@[simp] theorem wr_strm (o : Nat) (w : Word) : (wr s o w).strm = s.strm := rfl
@[simp] theorem wr_aud (o : Nat) (w : Word) : (wr s o w).aud = s.aud := rfl
@[simp] theorem wr_mix (o : Nat) (w : Word) : (wr s o w).mix = s.mix := rfl
@[simp] theorem wr_strp (o : Nat) (w : Word) : (wr s o w).strp = s.strp := rfl
@[simp] theorem wr_dste (o : Nat) (w : Word) : (wr s o w).dste = s.dste := rfl
@[simp] theorem wr_seq (o : Nat) (w : Word) : (wr s o w).seq = s.seq := rfl
@[simp] theorem wr_edl (o : Nat) (w : Word) : (wr s o w).edl = s.edl := rfl
@[simp] theorem wr_trl (o : Nat) (w : Word) : (wr s o w).trl = s.trl := rfl
@[simp] theorem wr_pair (o : Nat) (w : Word) : (wr s o w).pair = s.pair := rfl
@[simp] theorem wr_scn (o : Nat) (w : Word) : (wr s o w).scn = s.scn := rfl
@[simp] theorem wr_ptr (o : Nat) (w : Word) : (wr s o w).ptr = s.ptr := rfl
@[simp] theorem wr_mgt (o : Nat) (w : Word) : (wr s o w).mgt = s.mgt := rfl
@[simp] theorem wr_dst (o : Nat) (w : Word) : (wr s o w).dst = s.dst := rfl
@[simp] theorem wr_ans (o : Nat) (w : Word) : (wr s o w).ans = s.ans := rfl
@[simp] theorem wr_out (o : Nat) (w : Word) : (wr s o w).out = s.out := rfl
@[simp] theorem wr_free (o : Nat) (w : Word) : (wr s o w).free = s.free := rfl
@[simp] theorem wr_pending (o : Nat) (w : Word) : (wr s o w).pending = s.pending := rfl

@[simp] theorem rd_emit (x : Output) (o : Nat) : rd (emit s x) o = rd s o := rfl
@[simp] theorem rd_request (x : HwReq) (o : Nat) : rd (request s x) o = rd s o := rfl
@[simp] theorem emit_regs (x : Output) : (emit s x).regs = s.regs := rfl
@[simp] theorem emit_pwr (x : Output) : (emit s x).pwr = s.pwr := rfl
@[simp] theorem emit_dev (x : Output) : (emit s x).dev = s.dev := rfl
@[simp] theorem emit_mld (x : Output) : (emit s x).mld = s.mld := rfl
@[simp] theorem emit_dkl (x : Output) : (emit s x).dkl = s.dkl := rfl
@[simp] theorem emit_ev (x : Output) : (emit s x).ev = s.ev := rfl
@[simp] theorem emit_hp (x : Output) : (emit s x).hp = s.hp := rfl
@[simp] theorem emit_inp (x : Output) : (emit s x).inp = s.inp := rfl
@[simp] theorem emit_tb (x : Output) : (emit s x).tb = s.tb := rfl
@[simp] theorem emit_srch (x : Output) : (emit s x).srch = s.srch := rfl
@[simp] theorem emit_upd (x : Output) : (emit s x).upd = s.upd := rfl
@[simp] theorem emit_fwd (x : Output) : (emit s x).fwd = s.fwd := rfl
@[simp] theorem emit_eth (x : Output) : (emit s x).eth = s.eth := rfl
@[simp] theorem emit_strm (x : Output) : (emit s x).strm = s.strm := rfl
@[simp] theorem emit_aud (x : Output) : (emit s x).aud = s.aud := rfl
@[simp] theorem emit_mix (x : Output) : (emit s x).mix = s.mix := rfl
@[simp] theorem emit_strp (x : Output) : (emit s x).strp = s.strp := rfl
@[simp] theorem emit_dste (x : Output) : (emit s x).dste = s.dste := rfl
@[simp] theorem emit_seq (x : Output) : (emit s x).seq = s.seq := rfl
@[simp] theorem emit_edl (x : Output) : (emit s x).edl = s.edl := rfl
@[simp] theorem emit_trl (x : Output) : (emit s x).trl = s.trl := rfl
@[simp] theorem emit_pair (x : Output) : (emit s x).pair = s.pair := rfl
@[simp] theorem emit_scn (x : Output) : (emit s x).scn = s.scn := rfl
@[simp] theorem emit_ptr (x : Output) : (emit s x).ptr = s.ptr := rfl
@[simp] theorem emit_mgt (x : Output) : (emit s x).mgt = s.mgt := rfl
@[simp] theorem emit_dst (x : Output) : (emit s x).dst = s.dst := rfl
@[simp] theorem emit_ans (x : Output) : (emit s x).ans = s.ans := rfl
@[simp] theorem emit_free (x : Output) : (emit s x).free = s.free := rfl
@[simp] theorem emit_pending (x : Output) : (emit s x).pending = s.pending := rfl
@[simp] theorem request_regs (x : HwReq) : (request s x).regs = s.regs := rfl
@[simp] theorem request_pwr (x : HwReq) : (request s x).pwr = s.pwr := rfl
@[simp] theorem request_dev (x : HwReq) : (request s x).dev = s.dev := rfl
@[simp] theorem request_mld (x : HwReq) : (request s x).mld = s.mld := rfl
@[simp] theorem request_dkl (x : HwReq) : (request s x).dkl = s.dkl := rfl
@[simp] theorem request_hp (x : HwReq) : (request s x).hp = s.hp := rfl
@[simp] theorem request_inp (x : HwReq) : (request s x).inp = s.inp := rfl
@[simp] theorem request_tb (x : HwReq) : (request s x).tb = s.tb := rfl
@[simp] theorem request_srch (x : HwReq) : (request s x).srch = s.srch := rfl
@[simp] theorem request_upd (x : HwReq) : (request s x).upd = s.upd := rfl
@[simp] theorem request_fwd (x : HwReq) : (request s x).fwd = s.fwd := rfl
@[simp] theorem request_eth (x : HwReq) : (request s x).eth = s.eth := rfl
@[simp] theorem request_strm (x : HwReq) : (request s x).strm = s.strm := rfl
@[simp] theorem request_aud (x : HwReq) : (request s x).aud = s.aud := rfl
@[simp] theorem request_mix (x : HwReq) : (request s x).mix = s.mix := rfl
@[simp] theorem request_strp (x : HwReq) : (request s x).strp = s.strp := rfl
@[simp] theorem request_dste (x : HwReq) : (request s x).dste = s.dste := rfl
@[simp] theorem request_seq (x : HwReq) : (request s x).seq = s.seq := rfl
@[simp] theorem request_edl (x : HwReq) : (request s x).edl = s.edl := rfl
@[simp] theorem request_trl (x : HwReq) : (request s x).trl = s.trl := rfl
@[simp] theorem request_pair (x : HwReq) : (request s x).pair = s.pair := rfl
@[simp] theorem request_scn (x : HwReq) : (request s x).scn = s.scn := rfl
@[simp] theorem request_ptr (x : HwReq) : (request s x).ptr = s.ptr := rfl
@[simp] theorem request_mgt (x : HwReq) : (request s x).mgt = s.mgt := rfl
@[simp] theorem request_dst (x : HwReq) : (request s x).dst = s.dst := rfl
@[simp] theorem request_ans (x : HwReq) : (request s x).ans = s.ans := rfl
@[simp] theorem request_out (x : HwReq) : (request s x).out = s.out := rfl
@[simp] theorem request_free (x : HwReq) : (request s x).free = s.free := rfl
@[simp] theorem request_pending (x : HwReq) : (request s x).pending = s.pending := rfl
@[simp] theorem emit_out (x : Output) : (emit s x).out = s.out ++ [x] := rfl
@[simp] theorem request_reqs (x : HwReq) : (request s x).ev.reqs = s.ev.reqs ++ [x] := rfl

/-- A register written reads as written; the canonical form of the registers is all it needs. -/
theorem rd_wr {s : State} (h : Registers.wf s.regs = true) (o o' : Nat) (w : Word) :
    rd (wr s o w) o' = if o' = o then w else rd s o' := by
  split
  · next e => subst e; exact rd_wr_same _ w (Registers.sorted_of_wf h)
  · next e => exact rd_wr_ne s w e

/-- A register write keeps the canonical form of the registers. -/
theorem wf_wr {s : State} (h : Registers.wf s.regs = true) (o : Nat) (w : Word) : Registers.wf (wr s o w).regs = true :=
  Registers.wf_putD o w h

/-- The three outcomes of a mirrored write (R462, R464): at once, sent and at once, sent and held. -/
theorem mirrored_cases (r : MirrorRec) (go : State → State) :
    mirrored s r go = go s ∨ mirrored s r go = go (mirrorSend s s.dkl.num [r] false) ∨
      mirrored s r go = (mirrorSend s s.dkl.num [r] false).setPair { (mirrorSend s s.dkl.num [r] false).pair with
        heldWrites := (mirrorSend s s.dkl.num [r] false).pair.heldWrites ++ [(s.dkl.num, r)] } := by
  unfold mirrored
  split
  · dsimp only
    split
    · exact .inr (.inr rfl)
    · exact .inr (.inl rfl)
  · exact .inl rfl

/-- A host write of a part that is not an active pair member takes place at once (R462). -/
theorem mirrored_off {s : State} (r : MirrorRec) (go : State → State) (h : rdB s R.PAIR_CFG 0 = false ∨ pairState s ≠ 1) :
    mirrored s r go = go s := by
  rcases h with h | h <;> simp [mirrored, h]

theorem hostWriteAs_off {s : State} (fn off : Nat) (v : Word) (go : State → State) (h : rdB s R.PAIR_CFG 0 = false ∨ pairState s ≠ 1)
    (ha : accessOk s fn off = true) : hostWriteAs s fn off v go = go s := by
  simp [hostWriteAs, ha, mirrored_off _ _ h]

end Sys2Proof.Machine
end

