-- ==== Sys2Proof/Tests/Slice0.lean ====
section
/-! SUPPORT. The model's own tests: ill-formed commands that the check refuses, values of the specification, and for each statement
with hypotheses a state and operands that meet them. -/

set_option maxRecDepth 100000

namespace Sys2Proof.Tests

open Sys2Proof Sys2Proof.Machine Sys2Proof.Claims

/-- A device in a state, with its register interface open, out of reset and with its clocks and its deep store ready. -/
def wit (d : DevState) : State :=
  ((State.reset.setPwr { State.reset.pwr with pll := true, perstn := true, link := true, bare := true, dram := .ready }).setDev d).setDkl
    { State.reset.dkl with started := true, num := 100 }

/-- The same in LAID with registers written. -/
def witR (l : List (Nat × Word)) : State := wrAll (wit .laid) l


/-- A diagnostic request, and a LAID device with credit that holds it. -/
def witReq : SReq := { cls := 4, prof := 0, key := 0, tenant := 0, port := 0, who := .diag, ready := 0 }
def witSearch : State := (wit .laid).setSrch { (wit .laid).srch with reqs := [witReq], credit := [(4, 4)], noGrant := 4096 }
/-- A LAID device with a diagnostic search under way. -/
def witFlight : State := (wit .laid).setSrch { (wit .laid).srch with
  flights := [⟨0, 0, .diag, 1, [], ⟨0, 0, 0, 0, false, false⟩⟩] }

/-- A LAID device whose update FIFO holds one command. -/
def witCmd (ws : List Word) : State := (wit .laid).setUpd { (wit .laid).upd with fifo := [.cmd 0 ws] }
def witItem (i : UpdItem) : State := (wit .laid).setUpd { (wit .laid).upd with fifo := [i] }

def witBare (d : DevState) : State := (State.reset.setPwr { State.reset.pwr with link := true, bare := true }).setDev d
def edlSt (st : Nat) : State := (wr (wr (witBare .laid) (R.EDL_PORTn_CTL 1) 1) (R.EDL_PORTn_LINK 1) (BitVec.ofNat 32 (st + 16))).setPwr { (witBare .laid).pwr with edlRef := true }
def dueSt : State := (witBare .laid).setDkl { State.reset.dkl with started := true, num := 9, tickCyc := 0, cyc := 60000 }
def seqAt (op : Nat) : State :=
  let s := wr (witBare .laid) (R.SEQn_STATE 0) 1
  (s.setSeq { s.seq with store := [(0, BitVec.ofNat 32 (op * 2 ^ 26))] }).setDkl { s.dkl with evt := 32 }
def seqDue (st : Nat) (x : SeqSt) : State := setSeq (wr dueSt (R.SEQn_STATE 0) (BitVec.ofNat 32 st)) 0 x
def upEdl : State :=
  let s := (edlSt 4).setDkl { (edlSt 4).dkl with started := true, num := 100 }
  setEdl s 1 { edlP s 1 with page := List.replicate 7 0 ++ [255] ++ List.replicate 52 0 }
def frW (type sub : Nat) : List Byte :=
  frameBytes false { type := type, len := 1, src := 5, dst := 4095, block := 0, epoch := 0, lepoch := 0, hops := 0, emix := false, late := false, sub := sub, payload := List.replicate 16 0 }
def frG (type sub : Nat) : EdlFrame :=
  { type := type, len := 1, src := 5, dst := 4095, block := 0, epoch := 0, lepoch := 0, hops := 0, emix := false, late := false, sub := sub, payload := List.replicate 16 0 }

/-! ### Ill-formed commands -/

/-- The granules of a ring frame, and granules that hold no whole frame (R388, R389). -/
theorem wf_frame_fields :
    Instr.wf (.audio 0 (frW 3 1) false) = true ∧
    Instr.wf (.audio 0 (frW 3 1 ++ frW 3 1) false) = true ∧
    Instr.wf (.audio 0 ((frW 3 1).take 16) false) = false ∧
    Instr.wf (.tsum 0 ((frW 3 1).drop 1) false) = false ∧
    Instr.wf (.lease 0 [] false) = false := by decide

/-- A cut frame without its header granule (R391). -/
theorem wf_cut_fields :
    Instr.wf (.lossOfSignal 0 none) = true ∧
    Instr.wf (.lossOfSignal 0 (some ((frW 3 1).take 16))) = true ∧
    Instr.wf (.lossOfSignal 0 (some (frW 3 1))) = false ∧
    Instr.wf (.lossOfLock 0 (some [])) = false ∧
    Instr.wf (.markerMissing 0 (some (List.replicate 15 0))) = false := by decide

/-- A port that does not exist (R219). -/
theorem wf_ports :
    Instr.wf (.forwardDecision 19) = true ∧
    Instr.wf (.forwardDecision 20) = false ∧
    Instr.wf (.sourceLookup 20) = false ∧
    Instr.wf (.frameLaunch 31 0 false) = false := by decide

/-- Upsets of copies that do not exist (R52, R530). -/
theorem wf_upsets :
    Instr.wf (.eventTick [] [(4098, 5)]) = true ∧
    Instr.wf (.eventTick [] []) = true ∧
    Instr.wf (.eventTick [] [(4099, 5)]) = false ∧
    Instr.wf (.eventTick [] [(2, 5)]) = false ∧
    Instr.wf (.eventTick [] [(8 * 4096, 5)]) = false ∧
    Instr.wf (.eventTick [] [(2 * 4096 + 4, 5)]) = false ∧
    Instr.wf (.eventTick [] [(4096, 2 ^ 32)]) = false := by decide

/-- Flips of a stored word, within the word and outside it (R144, R190, R203). -/
theorem wf_flips :
    Instr.wf (.eventTick [.unit 5 .valid 1, .unit 5 .value (2 ^ 95), .station 7 (2 ^ 127), .table 2 65535 (2 ^ 65), .table 3 16383 1] []) = true ∧
    Instr.wf (.eventTick [.unit 5 .valid 8] []) = false ∧
    Instr.wf (.eventTick [.unit 5 .adParity 4] []) = false ∧
    Instr.wf (.eventTick [.station 7 (2 ^ 128)] []) = false ∧
    Instr.wf (.eventTick [.table 0 4096 1] []) = false ∧
    Instr.wf (.eventTick [.table 1 1024 1] []) = false ∧
    Instr.wf (.eventTick [.table 2 0 (2 ^ 66)] []) = false ∧
    Instr.wf (.eventTick [.table 3 16384 1] []) = false ∧
    Instr.wf (.eventTick [.table 3 0 (2 ^ 33)] []) = false := by decide

/-- Upsets of strip and mix words that do not exist (R263, R309). -/
theorem wf_stage_upsets :
    Instr.wf (.stageC [.desc 32767, .cset 65535, .sec 262143, .det 16383, .pool 0 32767 0, .unit 32767 0 0 0, .unfinished 32767] []) = true ∧
    Instr.wf (.stageC [.desc 32768] []) = false ∧
    Instr.wf (.stageC [.cset 65536] []) = false ∧
    Instr.wf (.stageC [.sec 262144] []) = false ∧
    Instr.wf (.stageC [.det 16384] []) = false ∧
    Instr.wf (.stageC [.pool 0 32768 0] []) = false ∧
    Instr.wf (.stageC [.unit 32768 0 0 0] []) = false ∧
    Instr.wf (.stageC [.unfinished 32768] []) = false ∧
    Instr.wf (.stageA [.desc 32768] [] []) = false ∧
    Instr.wf (.mixTier 0 [.word 0x2004000]) = false ∧
    Instr.wf (.mixTier 0 [.input 0 16384 0]) = false ∧
    Instr.wf (.mixTier 0 [.input 16 0 0]) = false ∧
    Instr.wf (.mixTier 0 [.dest 16384 0]) = false ∧
    Instr.wf (.mixTier 0 [.dest 0 16]) = false := by decide

/-- Findings that name a unit twice (R499). -/
theorem wf_findings :
    Instr.wf (.stageA [] [(1, 0, 0), (2, 0, 0)] []) = true ∧
    Instr.wf (.stageA [] [(1, 0, 0), (1, 1, 0)] []) = false := by decide

/-- Deep-store requests of no strip, stream or player (R492). -/
theorem wf_requests :
    Instr.wf (.deadlineMiss (.player 63) 0) = true ∧
    Instr.wf (.deadlineMiss (.line true 32768 0) 0) = false ∧
    Instr.wf (.deadlineMiss (.felt true 4096 0 0) 0) = false ∧
    Instr.wf (.deadlineMiss (.player 64) 0) = false := by decide

/-- Descriptors, ordered sets, pages, samples and aperture writes of a wrong length. -/
theorem wf_lengths :
    Instr.wf (.dmaReceive [] false) = false ∧
    Instr.wf (.dmaReceive (List.replicate 8 0) false) = true ∧
    Instr.wf (.dmaCopy 0 [] [] 0 false 0 0) = false ∧
    Instr.wf (.capabilityPage 0 0 (List.replicate 63 0)) = false ∧
    Instr.wf (.marker 0 (List.replicate 16 0) 0) = false ∧
    Instr.wf (.marker 0 (List.replicate 32 0) 0) = true ∧
    Instr.wf (.echo 0 (List.replicate 64 0) 0) = false ∧
    Instr.wf (.pnp 0 (List.replicate 32 0) .parley) = false ∧
    Instr.wf (.pnp 0 (List.replicate 16 0) (.mode (some []))) = false ∧
    Instr.wf (.leave 0 (List.replicate 15 0) none) = false ∧
    Instr.wf (.leave 0 (List.replicate 16 0) (some [])) = false ∧
    Instr.wf (.abortSet 0 (List.replicate 17 0) none) = false ∧
    Instr.wf (.sensorSample []) = false ∧
    Instr.wf (.apertureWrite 0 0 []) = false ∧
    Instr.wf (.apertureWrite 0 31 [1, 2]) = false ∧
    Instr.wf (.apertureWrite 0 30 [1, 2]) = true := by decide

/-- A link of no generation or width (R541). -/
theorem wf_link :
    Instr.wf (.pcieLinkUp 5 8) = true ∧
    Instr.wf (.pcieLinkUp 0 8) = false ∧
    Instr.wf (.pcieLinkUp 6 8) = false ∧
    Instr.wf (.pcieLinkUp 5 3) = false := by decide

/-! ### Values of the specification -/

/-- The reset values that the register tables give. -/
theorem test_reset_registers :
    rd State.reset R.EVC_TGTBIND0 = 0x80 ∧ rd State.reset (R.EVC_MASKw 15) = 0xFFFFFFFF ∧ rd State.reset (R.EVC_TGTt_RUN 7) = 0x80000000 ∧
    rd State.reset R.UPD_FREE = 0x400 ∧ rd State.reset R.UPD_ARB = 0xF00 ∧ rd State.reset R.STRM_ASRC = 0x200 ∧
    rd State.reset R.PTR_ZSTAT1 = 0x1000 ∧ rd State.reset (R.DST_ARBn 31) = 0x3F0000 ∧ rd State.reset R.MGT_WARN = 0x690 := by decide

/-- Addresses of the register index: an array element is base + stride × index. -/
theorem test_register_addresses :
    R.MLD_CTL = 0x800 ∧ R.EVC_TGTt_EOI 2 = 98308 + 512 * 2 ∧ R.HOST_DMAc_TAIL 3 = 135188 + 64 * 3 ∧ R.UPD_CMD 1023 = 229376 + 4 * 1023 := by decide

/-- The worked example of the scope chapter: U = 16,149 at 96 kHz with N = 1; U = 35,758 at 176.4 kHz with N = 4 (chapter 9). -/
theorem test_usable_cycles :
    usableCycles (wr State.reset R.DKL_CFG 0x03) = 16149 ∧ usableCycles (wr State.reset R.DKL_CFG 0x24) = 35758 := by decide

/-- The worked examples of chapters 2 and 9: 15,412 and 28,520 cycles. -/
theorem test_mix_cycles :
    mixCycles (wr State.reset R.DKL_CFG 0x03) (fun k => if k = 0 then 13108 else 0) = 15412 ∧
    mixCycles (wr State.reset R.DKL_CFG 0x24) (fun k => if k = 0 then 6554 else 0) = 28520 := by decide

/-- The worked example of chapter 7: with LIMIT 300, stamp 5,000 at NOW 5,301 and stamp 65,400 at NOW 165; one tick earlier not. -/
theorem test_aging :
    expired (witR [(R.FWD_AGE_LIMIT, 300), (R.FWD_AGE_NOW, 5301)]) 5000 = true ∧
    expired (witR [(R.FWD_AGE_LIMIT, 300), (R.FWD_AGE_NOW, 165)]) 65400 = true ∧
    expired (witR [(R.FWD_AGE_LIMIT, 300), (R.FWD_AGE_NOW, 5300)]) 5000 = false := by decide

/-- A clear counts only with the current sequence number, and a new setting raises it (R519). -/
theorem test_clear_by_sequence :
    scClear 0x05000003 0x05000001 = 0x05000002 ∧ scClear 0x05000003 0x04000001 = 0x05000003 ∧
    scSet 0xFF000001 2 0 = 0x00000003 ∧ scSet 0x05000001 1 0 = 0x05000001 := by decide

/-- The functions of ALU wrap and shift within the word (R374). -/
theorem test_alu :
    aluResult 0 0xFFFFFFFF 2 = 1 ∧ aluResult 1 0 1 = 0xFFFFFFFF ∧ aluResult 5 1 31 = 0x80000000 ∧ aluResult 6 0x80000000 31 = 1 := by decide

/-- The check values of CRC-32C (R76) and of the Ethernet FCS over the digits 1 to 9. -/
theorem test_crc :
    crc32c [0x31, 0x32, 0x33, 0x34, 0x35, 0x36, 0x37, 0x38, 0x39] = 0xE3069283 ∧
    crc32 [0x31, 0x32, 0x33, 0x34, 0x35, 0x36, 0x37, 0x38, 0x39] = 0xCBF43926 := by decide

/-- A byte written to the deep store reads back, and writing zero removes its entry. -/
theorem test_store_byte :
    dstByte (dstPut [] 7 9) 7 = 9 ∧ dstByte (dstPut [] 7 9) 8 = 0 ∧ dstPut (dstPut [] 7 9) 7 0 = [] := by decide

/-- Antivalent and equivalent pairs, active high (R568). -/
theorem test_dual_channel :
    classifyPair 5 true true = 1 ∧ classifyPair 5 false false = 0 ∧ classifyPair 5 true false = 2 ∧ classifyPair 7 true false = 1 ∧ classifyPair 7 false true = 0 := by decide

/-- The table gives the commands no words. -/
theorem test_no_table_words :
    decodeTableWord 32 0x30000005 = none ∧ State.withFetchWord State.reset 32 0x30000005 = State.reset := ⟨rfl, rfl⟩

/-! ### Hypotheses that can be met -/

theorem wit_StepTakesFrontCommand :
    (State.reset.setPending [.enterBare, .rstNFall]).pending = .enterBare :: [.rstNFall] := rfl

theorem wit_EmptyQueueIdles : State.reset.pending = [] := rfl

theorem wit_EveryStepKeepsSafe :
    ∃ t, Safe (State.reset.setPending [.sensorSample (List.replicate 8 0)]) ∧
      step (State.reset.setPending [.sensorSample (List.replicate 8 0)]) = .next t :=
  ⟨_, ⟨⟨rfl, rfl⟩, by decide⟩, rfl⟩

theorem wit_CommandsLeaveTheQueue :
    ∃ t, Canonical (wit .laid) ∧ exec (.sensorSample (List.replicate 8 0x640)) (wit .laid) = .next t :=
  ⟨_, ⟨rfl, rfl⟩, rfl⟩

theorem wit_DeviceStateFollowsTheTable :
    ∃ t, Canonical (wit .laid) ∧ exec .pwrOkFall (wit .laid) = .next t ∧ (wit .laid).dev = .laid ∧ t.dev = .bare :=
  ⟨_, ⟨rfl, rfl⟩, rfl, rfl, rfl⟩

theorem wit_DeckleNumberMovesAtTicks :
    ∃ t, Canonical (wit .laid) ∧ exec .pwrOkFall (wit .laid) = .next t ∧ (wit .laid).dkl.num = 100 ∧ t.dkl.num = 0 :=
  ⟨_, ⟨rfl, rfl⟩, rfl, rfl, rfl⟩

theorem wit_DeepStoreKeepsItsContent :
    ∃ t, Canonical (wit .laid) ∧ exec (.sensorSample (List.replicate 8 0x640)) (wit .laid) = .next t ∧ ¬ WritesStore (.sensorSample (List.replicate 8 0x640)) :=
  ⟨_, ⟨rfl, rfl⟩, rfl, by unfold WritesStore; decide⟩

theorem wit_ResetRestoresEverything : (rstFall State.reset).pwr.pwrOk = true ∧ (rstFall State.reset).pwr.rstn = false := ⟨rfl, rfl⟩

def witUp (p : Pwr) : State := State.reset.setPwr p
theorem wit_PowerUpSequence : Canonical State.reset ∧ awake State.reset = true ∧ State.reset.pwr.pll = false ∧ State.reset.pwr.dram = .busy :=
  ⟨⟨rfl, rfl⟩, rfl, rfl, rfl⟩
theorem wit_PowerUpSequence_link : (let s := witUp { State.reset.pwr with pll := true, perstn := true, link := true, dram := .ready }
    Canonical s ∧ awake s = true ∧ s.pwr.pll = true ∧ s.pwr.perstn = true ∧ s.pwr.link = true ∧ s.pwr.dram ≠ .busy ∧ s.pwr.bare = false) :=
  ⟨⟨rfl, rfl⟩, rfl, rfl, rfl, rfl, by decide, rfl⟩

theorem wit_HoldInReset : let s := (State.reset.setPwr { State.reset.pwr with pll := true }).setDev .laid
    Canonical s ∧ awake s = true ∧ s.pwr.pll = true ∧ boundaryDue s = true ∧
    (s.setMgt { s.mgt with tripSent := true }).mgt.tripSent = true := ⟨⟨rfl, rfl⟩, rfl, rfl, by decide, rfl⟩

theorem wit_TripAndSample : Canonical State.reset ∧ State.reset.pwr.pwrOk = true ∧ State.reset.pwr.rstn = true ∧ State.reset.pwr.held = false ∧
    (State.reset.setMgt { State.reset.mgt with tripDue := true }).mgt.tripDue = true ∧ State.reset.mgt.tripping = false ∧ running State.reset = false :=
  ⟨⟨rfl, rfl⟩, rfl, rfl, rfl, rfl, rfl, rfl⟩

theorem wit_ManagementPortAndTestAccess :
    (wit .laid).pwr.pwrOk = true ∧ (wit .laid).pwr.rstn = true ∧ (wit .laid).pwr.pll = true := ⟨rfl, rfl, rfl⟩

theorem wit_LoaderCommands : (∀ d, Canonical (witBare d)) ∧ accessOk (witBare .laid) 0 R.MLD_CTL = true ∧
    (fld 3 3 0 ∉ [1, 2, 4, 8] ∧ fld 1 3 0 = 1 ∧ fld 2 3 0 = 2 ∧ fld 4 3 0 = 4 ∧ fld 8 3 0 = 8) := ⟨fun _ => ⟨rfl, rfl⟩, rfl, by decide⟩

theorem wit_ImageIsReadCheckedAndLaid : Canonical (witBare .laying) ∧ (witBare .laying).dev = .laying ∧
    min (witBare .laying).mld.len (2 ^ 29) ≤ (witBare .laying).mld.image.length + ([] : List Byte).length ∧
    ((witBare .laying).setMld { (witBare .laying).mld with len := 8 }).mld.image.length + ([0] : List Byte).length <
      min ((witBare .laying).setMld { (witBare .laying).mld with len := 8 }).mld.len (2 ^ 29) ∧
    (witBare .checking).dev = .checking := ⟨⟨rfl, rfl⟩, rfl, by decide, by decide, rfl⟩

theorem wit_LiftBeginsAndEnds : let a := (witBare .laid).setMld { (witBare .laid).mld with liftReq := true }
    let b := (witBare .lifting).setDkl { (witBare .lifting).dkl with num := 1, started := true }
    Canonical a ∧ boundaryDue a = true ∧ a.mgt.tripSent = false ∧ a.dev = .laid ∧ a.mld.liftReq = true ∧ Canonical b ∧ boundaryDue b = true ∧ b.mgt.tripping = false ∧
      b.dev = .lifting ∧ b.dkl.started = true ∧ (b.mld.liftAt + 2) % 2 ^ 48 = (b.dkl.num + 1) % 2 ^ 48 :=
  ⟨⟨rfl, rfl⟩, by decide, rfl, rfl, rfl, ⟨rfl, rfl⟩, by decide, rfl, rfl, rfl, rfl⟩

theorem wit_PerstStopsTheHostPort :
    Canonical (wit .laying) ∧ (wit .laying).dev = .laying ∧ perstReg (R.HOST_STAT % 0x400000) = true ∧ perstReg (R.GLB_OUTEN % 0x400000) = false ∧ R.GLB_OUTEN ≠ R.HOST_LINK ∧ ¬ TargetReg R.GLB_OUTEN := by
  unfold Canonical TargetReg
  decide

theorem wit_FunctionLevelResetIsItsOwn :
    Canonical (wit .laid) ∧ (3 * 0x400000 + R.UPD_DONE) / 0x400000 = (3 : BitVec 6).toNat ∧ perFn ((3 * 0x400000 + R.UPD_DONE) % 0x400000) = true ∧ (2 * 0x400000 + R.UPD_DONE) / 0x400000 ≠ (3 : BitVec 6).toNat ∧ ¬ TargetReg (2 * 0x400000 + R.UPD_DONE) := by
  unfold Canonical TargetReg
  decide

theorem wit_TicksComplete : let s := (witBare .laid).setPwr { (witBare .laid).pwr with pll := true }
    let h := State.reset.setPwr { State.reset.pwr with held := true }
    let n := s.setDkl { s.dkl with next := 2 ^ 44 }
    Canonical s ∧ awake s = true ∧ s.pwr.pll = true ∧ boundaryDue s = true ∧ s.mgt.tripSent = false ∧ s.dev = .laid ∧ awake h = false ∧ h.pwr.held = true ∧
      boundaryDue n = false ∧ awake n = true ∧ State.reset.pwr.pll = false ∧ State.reset.pwr.held = false :=
  ⟨⟨rfl, rfl⟩, rfl, rfl, by decide, rfl, rfl, rfl, rfl, by decide, rfl, rfl, rfl⟩

theorem wit_ScrubberSteps : let s := (witBare .laid)
    Canonical s ∧ scrubFree s (s.dkl.cyc + 0) = true ∧ scrubHas s = true ∧ s.srch.rewrite = none ∧
      scrubFree State.reset 0 = false ∧ (scrubFree (s.setSrch { s.srch with rewrite := some (5, 1, 1) }) 0) = true :=
  ⟨⟨rfl, rfl⟩, rfl, rfl, rfl, rfl, rfl⟩

theorem wit_SearchesStartAndEnd :
    Canonical witSearch ∧ inWindow witSearch 0 = false ∧ witSearch.srch.hold0 ≤ 0 ∧ (nextReq witSearch 4).filter (mayStart witSearch 0) = some witReq ∧
    classOrder.findSome? (fun cls => (nextReq witSearch cls).filter (mayStart witSearch 0)) = some witReq ∧ inWindow witSearch 512 = true ∧ inWindow witSearch 2559 = true ∧ inWindow witSearch 2560 = false ∧
    4096 ≤ witSearch.srch.noGrant ∧ (wit .laid).srch.noGrant < 4096 ∧ witSearch.srch.flights = [] ∧ ∃ f, witFlight.srch.flights.find? (fun f => f.pipe == (0 : BitVec 1).toNat) = some f := ⟨⟨rfl, rfl⟩, by decide, by decide, by decide, by decide, by decide, by decide, by decide, by decide, by decide, rfl, _, rfl⟩

theorem wit_DiagnosticSearch :
    Canonical (wit .laid) ∧ accessOk (wit .laid) 0 R.SRCH_DIAG_CTL = true ∧ bit (0x80000000 : Word) 31 = true ∧ bit (0 : Word) 31 = false ∧ rdB (wit .laid) R.SRCH_DIAG_STAT 0 = false ∧
    (let u := plainWrite (witR [(R.SRCH_PROFn_CTL 0, 0x80000004)]) 0 R.SRCH_DIAG_CTL .base 0x80000000
     rdB u R.SRCH_DIAG_STAT 0 = false ∧ profDef u (rdF u R.SRCH_DIAG_CTL 5 0) = true ∧ profClass u (rdF u R.SRCH_DIAG_CTL 5 0) = 4 ∧ u.dev = .laid) ∧ running (wit .laid) = true ∧
    profClass (wit .laid) 0 ≠ 4 ∧ Canonical witFlight ∧ (witFlight.srch.flights.map (fun f => (f.pipe, decide (f.who = .diag), f.fails.isEmpty, bit f.res.w0 23))) = [(0, true, true, false)] := by
  unfold Canonical
  decide

theorem wit_BeatIsSeenFromItsCycle :
    ((wit .laid).srch.beats.Pairwise (fun a b => a.land ≤ b.land)) ∧ (∀ b ∈ (wit .laid).srch.beats, b.addr = 5 → b.land ≤ 3) ∧ ([⟨1, 5, .valid 0⟩, ⟨2, 6, .valid 7⟩] : List ArrBeat).Pairwise (fun a b => a.land ≤ b.land) := by decide

theorem wit_UpdateCommandsAreAssembled :
    Canonical (wit .laid) ∧ rdB (wit .laid) R.PAIR_CFG 0 = false ∧ accessOk (wit .laid) 0 (R.UPD_CMD 0) = true ∧ accessOk (wit .laid) 0 R.UPD_FLUSH = true ∧
    ([0x30000005] : List Word).length < 2 ∧ cmdLen (wit .laid) 0x30000005 ≤ ([0x30000005, 0] : List Word).length ∧ ([0x30000005, 0] : List Word).length ≤ updFree (wit .laid) := by
  unfold Canonical
  decide

theorem wit_UpdateCommandBeats :
    Canonical (witCmd [0x30000005, 0]) ∧ rd (witCmd [0x30000005, 0]) R.WMK_INJ = 0 ∧ (witCmd [0x30000005, 0]).srch.rewrite = none ∧
    (∀ ws ∈ ([[0x30000005, 0], [0x40000005, 0], [0x20000005, 0, 1, 2], [0x10000005], [0x50000005], [0x60000005]] : List (List Word)), hostGrant (witCmd ws) 4 = some (.cmd 0 ws, 4)) ∧
    fld 0x30000005 31 28 = 3 ∧ fld 0x40000005 31 28 = 4 ∧ fld 0x20000005 31 28 = 2 ∧ fld 0x10000005 31 28 = 1 ∧ fld 0x50000005 31 28 = 5 ∧ fld 0x60000005 31 28 = 6 ∧
    (bit 0x50000005 27 && portValid (wit .laid) 5 4) = false ∧ (unitAt (wit .laid) 5 4).spar = shadowParity (unitAt (wit .laid) 5 4).sval (unitAt (wit .laid) 5 4).smask := by
  unfold Canonical
  decide

theorem wit_ReplaceSkipsWithCond :
    (let s := (witCmd [0x58000005]).setSrch { (witCmd [0x58000005]).srch with base := [(5, { sunit0 with valid := 7 })] }
    Canonical s ∧ hostGrant s 4 = some (.cmd 0 [0x58000005], 4) ∧ fld 0x58000005 31 28 = 5 ∧ bit 0x58000005 27 = true ∧ portValid s 5 4 = true) := by
  unfold Canonical
  decide

theorem wit_MarkAndCellBeats :
    hostGrant (witCmd [0x70000000, 9]) 4 = some (.cmd 0 [0x70000000, 9], 4) ∧ fld 0x70000000 31 28 = 7 ∧ hostGrant (witItem (.cell 0 5 1 2)) 4 = some (.cell 0 5 1 2, 4) ∧
    hostGrant (witItem (.adw 0 5 9)) 4 = some (.adw 0 5 9, 4) ∧ hostGrant (wit .laid) 4 = none ∧ rd (wit .laid) R.WMK_INJ = 0 := by decide

theorem wit_ZoneSubmissions : let s := witBare .laid
    Canonical s ∧ barUp s = true ∧ s.dev = .laid ∧ AtOnce s ∧ (0 : BitVec 6) ≠ 63 ∧ reachesObj s 63 0x13 0 = false := by unfold Canonical; decide

theorem wit_ParterreWindowAndStatus : let s := ((witBare .laid).setDkl { State.reset.dkl with started := true, tickCyc := 0, cyc := 600 })
    Canonical s ∧ windowDue s = true ∧ windowDue State.reset = false ∧ running s = true ∧ s.dkl.started = true ∧ s.ptr.opened = false ∧
      accessOk s 63 R.PTR_ZSTAT0 = true ∧ accessOk s 63 R.PTR_ZSTAT1 = true ∧ SMap.get s.ptr.latch 63 = none ∧
      SMap.get (SMap.put s.ptr.latch 63 5) 63 = some 5 ∧ accessOk State.reset 63 R.PTR_ZSTAT1 = false := by unfold Canonical; decide

theorem wit_AddressTableCommands : let s := witBare .laid
    Canonical s ∧ AtOnce s ∧ accessOk s (0 : BitVec 6).toNat R.FWD_STA_CMD = true := by unfold Canonical; decide
theorem wit_AddressTableCommands_2 : let s := witBare .laid
    staTenantOk s (0 : BitVec 6).toNat 5 = true ∧ staTenantOk s (3 : BitVec 6).toNat 5 = false ∧
    staBad (staWord s 0) = false ∧ (staLive (staWord s 0) && staKey (staWord s 0) != 7) = false ∧
    staBad (2 ^ 120) = true ∧ staLive (mkSta 7 1 false 0) = true ∧ staKey (mkSta 7 1 false 0) = 7 ∧ (mkSta 7 1 false 0).testBit 76 = true ∧ wayOf (clearBadRows (staOp s 1) 0) 0 = none := by decide

theorem wit_ForwardingTablesByHost : let s := witBare .laid
    Canonical s ∧ AtOnce s ∧ accessOk s (0 : BitVec 6).toNat R.FWD_TBL_CTL = true := by unfold Canonical; decide

def learnSt : State := (witBare .laid).setFwd { (witBare .laid).fwd with queue := [⟨5, 7, 9, 1, 0⟩] }
theorem wit_LearningIsPaced : Canonical learnSt ∧ AtOnce learnSt ∧ accessOk learnSt (0 : BitVec 6).toNat R.FWD_LEARN_CTL = true ∧ learnHeld learnSt = false ∧ learnSt.fwd.flushes = [] ∧ learnSt.fwd.queue = ⟨5, 7, 9, 1, 0⟩ :: [] ∧ learnHeld State.reset = true := by unfold Canonical; decide
def witFr (src : SrcStep) : FrameIn := ⟨0, 1, [], [], 1, 0, false, 1, 0, 0, 14, 0, false, 0, false, none, [], src⟩
def frameSt (src : SrcStep) : State := (witBare .laid).setFwd { (witBare .laid).fwd with frames := [witFr src] }
theorem wit_LearningIsPaced_2 : running (frameSt .due) = true ∧ headFrame (frameSt .due) (1 : BitVec 5).toNat = some (witFr .due) ∧ headFrame (frameSt .due) (2 : BitVec 5).toNat = none ∧
    rdB (frameSt .due) R.FWD_LEARN_CTL 0 = false ∧ rdB (clearBadRows (frameSt .due) (sourceKey (witFr .due))) R.FWD_PROF 15 = false := by decide
theorem wit_LearningIsPaced_3 : wayOf (clearBadRows learnSt (reqKey ⟨5, 7, 9, 1, 0⟩)) (reqKey ⟨5, 7, 9, 1, 0⟩) = none ∧ engineFound learnSt (reqKey ⟨5, 7, 9, 1, 0⟩) 0 = some none := by decide
theorem wit_LearningIsPaced_4 : (freeWay learnSt (reqKey ⟨5, 7, 9, 1, 0⟩)).isSome = true := by decide

def agingSt : State := (wr (witBare .laid) R.FWD_AGE_CFG 0x10005).setFwd { (witBare .laid).fwd with sweep := true, marks := [(3, 9)] }
theorem wit_AgingAndFlush : Canonical agingSt ∧ running agingSt = true ∧ rdF agingSt R.FWD_AGE_CFG 15 0 ≠ 0 ∧ agingSt.fwd.sweep = true ∧ agingOn agingSt = true ∧ agingSt.fwd.marks.head? = some (3, 9) ∧
    agingSt.fwd.staFree ≤ 5 ∧ AtOnce agingSt ∧ accessOk agingSt (0 : BitVec 6).toNat R.FWD_FLUSH_CTL = true := by unfold Canonical; decide
theorem wit_AgingAndFlush_2 : agingOn State.reset = false ∧ State.reset.fwd.flushes.find? (flushOver State.reset 0) = none ∧
    rdB (plainWrite agingSt 0 R.FWD_FLUSH_CTL .base 1) R.FWD_FLUSH_CTL 1 = false := by decide
def flushSt : State := (witBare .laid).setFwd { (witBare .laid).fwd with flushes := [⟨0, false, 0, 0, []⟩] }
theorem wit_AgingAndFlush_3 : flushSt.fwd.flushes.find? (flushOver flushSt flushSt.dkl.cyc) = some ⟨0, false, 0, 0, []⟩ := by decide

def upSt : State := wr (wr (witBare .laid) (R.ETH_PORTp_CFG 1) 0x403) (R.ETH_PORTp_LINK 1) 1
theorem wit_FrameReceptionAndDrops : Canonical upSt ∧ running upSt = true ∧ portUp upSt (1 : BitVec 4).toNat = true ∧ portUp upSt (2 : BitVec 4).toNat = false ∧
    (List.replicate 63 (0 : Byte)).length ≤ 63 ∧ 63 < (List.replicate 64 (0 : Byte)).length ∧ rxLimit false false < 1600 ∧ 64 ≤ rxLimit false false ∧
    bufferUsed upSt + 64 ≤ 8 * 2 ^ 20 ∧ (upSt.fwd.frames.filter (fun f => f.port == 1)).length < fifoSize upSt 1 := by unfold Canonical; decide

def cfgSt : State := (wr (witBare .laid) (R.ETH_PORTp_CFG 1) 0x443).setPwr { (witBare .laid).pwr with ethRef := true }
theorem wit_EthernetPortsComeAndGo : Canonical cfgSt ∧ accessOk cfgSt (0 : BitVec 6).toNat (R.ETH_PORTp_CFG (1 : BitVec 4).toNat) = true ∧ running cfgSt = true ∧
    accessOk State.reset (0 : BitVec 6).toNat (R.ETH_PORTp_CFG (1 : BitVec 4).toNat) = false ∧ cfgSt.pwr.ethRef = true ∧
    bit (rd cfgSt (R.ETH_PORTp_CFG (1 : BitVec 4).toNat)) 10 = true ∧ fld (rd cfgSt (R.ETH_PORTp_CFG (1 : BitVec 4).toNat)) 2 0 ≠ 0 ∧ fld (rd cfgSt (R.ETH_PORTp_CFG (1 : BitVec 4).toNat)) 7 6 ≠ 0 ∧
    portAbsent cfgSt (1 : BitVec 4).toNat = false ∧ rdB cfgSt (R.ETH_PORTp_LINK (1 : BitVec 4).toNat) 0 = false ∧ running State.reset = false := by unfold Canonical; decide
def upSt2 : State := wr (wr (wr (witBare .laid) (R.ETH_PORTp_CFG 1) 0x403) (R.ETH_PORTp_LINK 1) 1) (R.EDL_PORTn_LINK 2) 4
theorem wit_EthernetPortsComeAndGo_2 : portUp upSt2 (1 : BitVec 5).toNat = true ∧ rdF upSt2 (R.EDL_PORTn_LINK ((18 : BitVec 5).toNat - 16)) 2 0 = 4 ∧ portUp upSt2 (3 : BitVec 5).toNat = false := by decide
theorem wit_EthernetPortsComeAndGo_3 : let w := newWord cfgSt 0 (R.ETH_PORTp_CFG 1) .base 0x403
    portCfgOk cfgSt w = true ∧ fld (rd cfgSt (R.ETH_PORTp_CFG 1)) 10 6 ≠ fld w 10 6 ∧ powerRefusal cfgSt (wr cfgSt (R.ETH_PORTp_CFG 1) w) 5 0 = none := by decide

def egSt : State := (wr (wr (witBare .laid) (R.ETH_PORTp_CFG 1) 0x403) (R.ETH_PORTp_LINK 1) 1).setEth
  { (witBare .laid).eth with egress := [{ port := 1, queue := 7, bytes := List.replicate 60 0, launch := none, deckle := none, ingress := none, host := none, bad := false }] }
theorem wit_FramesAreDecidedAndLaunched : Canonical egSt ∧ running egSt = true ∧ portUp egSt (1 : BitVec 5).toNat = true ∧ SMap.getD egSt.eth.idle 1 0 ≤ egSt.dkl.cyc + 0 ∧
    (nextFrame egSt 1 0).isSome = true ∧ headFrame egSt 1 = none ∧ (edlTx egSt 1).frames.any (fun x => x.cls == 6) = false := by unfold Canonical; decide

theorem wit_StagesRunOncePerDeckle : let s := wr (((witBare .laid).setDkl { State.reset.dkl with started := true, cyc := 2580, next := 2 ^ 90 }).setPtr { State.reset.ptr with done := true }) (R.MIX_TIERk_M 0) 5
    Canonical s ∧ running s = true ∧ s.dkl.started = true ∧ s.aud.ranA = false ∧ s.aud.ranC = false ∧ s.aud.packed = false ∧ s.ptr.done = true ∧
      s.aud.tiers.testBit (0 : BitVec 2).toNat = false ∧
      (decide (tierStart s 0 + 29 < deckleCycle s (s.dkl.cyc + tickCycles s)) && decide (deckleCycle s s.dkl.cyc < tierStart s 1)) = true ∧
      running State.reset = false ∧ (s.setAud { s.aud with ranC := true }).aud.ranC = true := by unfold Canonical; decide

theorem wit_StreamDescriptorsByHost : let s := witBare .laid
    Canonical s ∧ AtOnce s ∧ accessOk s (0 : BitVec 6).toNat R.STRM_DESC_CTL = true ∧ accessOk State.reset (0 : BitVec 6).toNat R.STRM_DESC_CTL = false ∧
      reachesTenant s (0 : BitVec 6).toNat 5 = true ∧ reachesTenant s (3 : BitVec 6).toNat 5 = false ∧ (0 : BitVec 2) ≠ 3 ∧ (witBare .bare).dev ≠ .laid := by unfold Canonical; decide

def mixSt : State := (wr (witBare .laid) R.MIX_CHK_CTL 0x40000000).setMix { (witBare .laid).mix with asm := [(0, 5)] }
theorem wit_MixByHost : Canonical mixSt ∧ AtOnce mixSt ∧ accessOk mixSt (0 : BitVec 6).toNat R.MIX_LIVE_CMD = true ∧ SMap.get mixSt.mix.asm (0 : BitVec 6).toNat = some 5 ∧
    SMap.get State.reset.mix.asm 0 = none ∧ reachesObj mixSt (0 : BitVec 6).toNat 0x14 (fld (5 : Word) 13 0) = true ∧ accessOk mixSt (0 : BitVec 6).toNat R.MIX_LIVE_FLUSH = true ∧
    barUp mixSt = true ∧ running mixSt = true ∧ inPlaneTable (0x1000000 : BitVec 26).toNat = true ∧ (0x1000000 : BitVec 26).toNat / 0x1000000 ≠ activePlane mixSt ∧
    (0 : BitVec 26).toNat / 0x1000000 = activePlane mixSt ∧ inPlaneTable (0x810280 : BitVec 26).toNat = false ∧ inPlaneTable (0x81027F : BitVec 26).toNat = true ∧
    rdB mixSt R.SCN_PLANE 1 = false ∧ accessOk mixSt (0 : BitVec 6).toNat R.MIX_CHK_CTL = true ∧ rdB mixSt R.MIX_CHK_CTL 30 = true ∧ rdB State.reset R.MIX_CHK_CTL 30 = false := by unfold Canonical; decide

theorem wit_StripsByHost : let s := (witBare .laid).setStrp { (witBare .laid).strp with latch := [(0, (3, 9))] }
    Canonical s ∧ barUp s = true ∧ s.dev = .laid ∧ AtOnce s ∧ indReach s (0 : BitVec 6).toNat 5 (7 : BitVec 21).toNat = true ∧ stripPlace 7 = some (0, 0, 7, 8) ∧
      stripPlace 6 = some (0, 0, 6, 8) ∧ stripPlace 0x120001 = none ∧ indReach s (0 : BitVec 6).toNat 5 (0x120001 : BitVec 21).toNat = true ∧
      indReach s (5 : BitVec 6).toNat 5 (7 : BitVec 21).toNat = false ∧ running s = true ∧ indReach s (0 : BitVec 6).toNat 5 (0x120000 + 2 * (3 : BitVec 15).toNat + 1) = true ∧
      SMap.get s.strp.latch (0 : BitVec 6).toNat = some ((3 : BitVec 15).toNat, 9) ∧ (3 : Nat) ≠ (4 : BitVec 15).toNat ∧ SMap.get s.strp.latch (1 : BitVec 6).toNat = none := by unfold Canonical; decide

def dueScn : State := (wr dueSt R.MIX_CHK_CTL 0x20000000).setScn { dueSt.scn with pend := some (8, 1, 0), holdEnd := some 10 }
theorem wit_CommitsAreJudgedAndCarriedOut : Canonical dueScn ∧ accessOk dueScn (0 : BitVec 6).toNat R.SCN_COMMIT_CTL = true ∧ dueScn.dev = .laid ∧ newerEpoch dueScn 1 = true ∧
    newerEpoch dueScn 0 = false ∧ dueScn.scn.pend = some (8, 1, 0) ∧ commitDue dueScn (tickNumber dueScn) = true ∧ dueScn.scn.holdEnd = some (tickNumber dueScn) ∧ boundaryDue dueScn = true ∧
    boundaryDue State.reset = false ∧ rdB dueScn R.SCN_PLANE 1 = false ∧ rdB dueScn R.MIX_CHK_CTL 29 = true ∧ rdB dueScn R.MIX_CHK_CTL 30 = false := by unfold Canonical; decide
theorem wit_CommitsAreJudgedAndCarriedOut_2 : GoesOn dueSt := ⟨by decide, rfl, rfl⟩

theorem wit_EdarlinkLinkStates : (∀ st < 7, Canonical (edlSt st) ∧ edlState (edlSt st) (1 : BitVec 2).toNat = st) ∧ (edlSt 0).dev = .laid ∧ edlRole (edlSt 0) (1 : BitVec 2).toNat = 1 ∧
    (edlSt 2).pwr.edlRef = true ∧ trained (edlSt 3) (1 : BitVec 2).toNat = true ∧ trained (edlSt 2) (1 : BitVec 2).toNat = false ∧ (1 : BitVec 2) ≠ 0 ∧ lef (List.replicate 64 (0x11 : Byte)) 2 2 % 4096 ≠ devId (edlSt 1) := by unfold Canonical; decide
def lockSt : State := (wr (witBare .laid) R.TB_DISC 0x203).setTb { (witBare .laid).tb with good := 15 }
theorem wit_EdarlinkLinkStates_2 : tbDisc lockSt = 3 ∧ tbDisc State.reset ≠ 3 := by decide

theorem wit_RingFramesAreChecked : Canonical upEdl ∧ carries upEdl (1 : BitVec 2).toNat = true ∧ carries upEdl (0 : BitVec 2).toNat = false ∧ malformed upEdl (1 : BitVec 2).toNat (frameOf (edlGen1 upEdl 1) (frW 3 9)) = true ∧
    malformed upEdl (1 : BitVec 2).toNat (frameOf (edlGen1 upEdl 1) (frW 1 0)) = false ∧ (let s := wrAll upEdl [(R.PAIR_DIRn 0, 0x80000005), (R.PAIR_DIRn_EPOCH 0, 1)]; let f := frameOf (edlGen1 s 1) (frW 1 0);
      (epochBound (normFrame s 1 f) && !edlGen1 s 1 && leaseStale s (normFrame s 1 f).src (normFrame s 1 f).lepoch) = true) ∧
    rdB upEdl (R.EDL_PORTn_MBOX (1 : BitVec 2).toNat) 28 = false ∧ rdB (wr upEdl (R.EDL_PORTn_MBOX 1) 0x10000000) (R.EDL_PORTn_MBOX (1 : BitVec 2).toNat) 28 = true := by unfold Canonical; decide
theorem wit_RingFramesAreChecked_2 : ∀ q ∈ [(1, 0), (4, 0), (5, 1), (5, 2), (5, 3)], Accepted upEdl (1 : BitVec 2).toNat (frW q.1 q.2) (frG q.1 q.2) := by unfold Accepted; decide

def setW (kind : Byte) (n : Nat) : List Byte := withCrc ([kind, 3, 5, 0] ++ List.replicate (n - 8) 0)
theorem wit_EdarlinkExchange : let s := setEdl upEdl 1 { edlP upEdl 1 with sent := some (0, 0) }
    Canonical s ∧ trained s (1 : BitVec 2).toNat = true ∧ trained s (0 : BitVec 2).toNat = false ∧ (edlP s (1 : BitVec 2).toNat).sent = some (0, 0) ∧ (setW 3 16).length = 16 ∧ crcGood (setW 3 16) = true ∧ lef (setW 3 16) 0 1 = 3 ∧
      lef (setW 4 16) 0 1 = 4 ∧ lef (setW 5 16) 0 1 = 5 ∧ (setW 2 32).length = 32 ∧ crcGood (setW 2 32) = true ∧ lef (setW 2 32) 0 1 = 2 ∧ lef (setW 2 32) 4 6 = 0 ∧
      (markerIn s (1 : BitVec 2).toNat (setW 1 64)).isSome = true ∧ markerIn s (1 : BitVec 2).toNat [] = none ∧ edlState (edlSt 1) (1 : BitVec 2).toNat = 1 ∧ edlRole (edlSt 1) (1 : BitVec 2).toNat ≠ 2 := by
  unfold Canonical; decide

theorem wit_EdarlinkByHost : Canonical (edlSt 0) ∧ accessOk (edlSt 0) (0 : BitVec 6).toNat (R.EDL_PORTn_CTL (1 : BitVec 2).toNat) = true ∧ accessOk (edlSt 0) (0 : BitVec 6).toNat (R.EDL_PORTn_MBOX (1 : BitVec 2).toNat) = true ∧
    AtOnce (edlSt 0) ∧ accessOk (edlSt 0) (0 : BitVec 6).toNat R.EDL_FLOW_CTL = true ∧ accessOk State.reset (0 : BitVec 6).toNat R.EDL_FLOW_CTL = false ∧
    (edlSt 0).dev = .laid ∧ edlRole (edlSt 0) (1 : BitVec 2).toNat = 1 ∧ reachesTenant (edlSt 0) (0 : BitVec 6).toNat 7 = true ∧
    rdF (plainWrite (edlSt 0) 0 (R.EDL_PORTn_MBOX 1) .base 3) (R.EDL_PORTn_MBOX 1) 8 0 = 3 := by unfold Canonical; decide

theorem seqAt_ready : ∀ op ∈ [0x00, 0x01, 0x02, 0x03, 0x04, 0x05, 0x06, 0x07, 0x08, 0x09, 0x0A, 0x0B, 0x0C, 0x0D, 0x10, 0x11, 0x14, 0x15, 0x16, 0x17],
    SeqReady (seqAt op) (0 : BitVec 7).toNat op := by unfold SeqReady; decide
theorem wit_SequencerComputes : Canonical (seqAt 9) ∧ SeqReady (seqAt 9) (0 : BitVec 7).toNat 9 ∧ SeqReady (seqAt 13) (0 : BitVec 7).toNat 13 ∧ fld (seqWord (seqAt 13) (0 : BitVec 7).toNat) 11 8 = 0 ∧
    ¬ SeqReady State.reset (0 : BitVec 7).toNat 9 := by unfold Canonical SeqReady; decide

theorem wit_SequencerBranches : Canonical (seqAt 8) ∧ SeqReady (seqAt 8) (0 : BitVec 7).toNat 8 ∧ SeqReady (seqAt 16) (0 : BitVec 7).toNat 16 ∧ SeqReady (seqAt 6) (0 : BitVec 7).toNat 6 ∧
    ¬ SeqReady (seqAt 8) (1 : BitVec 7).toNat 8 := by unfold Canonical SeqReady; decide

theorem wit_SequencerWaits : Canonical (seqDue 4 { seq0 with until_ := some 10 }) ∧ SeqReady (seqAt 1) (0 : BitVec 7).toNat 1 ∧ SeqReady (seqAt 5) (0 : BitVec 7).toNat 5 ∧
    (let s := seqDue 2 { seq0 with until_ := some 10 }; boundaryDue s = true ∧ (seqState s 0 == 2 && waitDue s 0 (tickNumber s)) = true) ∧
    (let s := seqDue 3 { seq0 with target := 10 }; boundaryDue s = true ∧ (seqState s 0 == 3 && waitDue s 0 (tickNumber s)) = true) ∧
    (let s := seqDue 4 { seq0 with until_ := some 10, mask := 1 }; boundaryDue s = true ∧ (seqState s 0 == 4 && untilCome (seqSt s 0) (tickNumber s)) = true ∧ waiteHolds s 0 = false ∧
      seqState s 0 = 4 ∧ waitDue s 0 10 = true ∧ waitDue s 0 9 = false) := by unfold Canonical SeqReady; decide
theorem wit_SequencerWaits_2 : GoesOn (seqDue 2 { seq0 with until_ := some 10 }) := ⟨by decide, rfl, rfl⟩

theorem wit_SequencerActs : Canonical (seqAt 7) ∧ SeqReady (seqAt 7) (0 : BitVec 7).toNat 7 ∧ seqState (seqAt 7) (fld (seqWord (seqAt 7) (0 : BitVec 7).toNat) 22 16) ≠ 0 ∧
    SeqReady (seqAt 20) (0 : BitVec 7).toNat 20 ∧ SeqReady (seqAt 21) (0 : BitVec 7).toNat 21 ∧ SeqReady (seqAt 22) (0 : BitVec 7).toNat 22 ∧ (seqAt 21).dev = .laid ∧
    playerState (player (playerStart (seqAt 22) 0 5 (some 0)) 0) ≠ 0 ∧ playerState (player (seqAt 22) 0) = 0 := by
  unfold Canonical SeqReady; decide

theorem wit_SequencerControl : let s := seqAt 0
    Canonical s ∧ AtOnce s ∧ accessOk s (0 : BitVec 6).toNat (R.SEQn_CTL (1 : BitVec 7).toNat) = true ∧ bit (0xC0000000 : Word) 31 = true ∧ bit (0xC0000000 : Word) 30 = true ∧
      seqState s (1 : BitVec 7).toNat = 0 ∧ rdB s (R.SEQn_CTL (1 : BitVec 7).toNat) 29 = false ∧ accessOk s (0 : BitVec 6).toNat (R.SEQn_KICK (0 : BitVec 7).toNat) = true ∧
      seqState s (0 : BitVec 7).toNat ≠ 0 ∧ rdB (wr s (R.SEQn_CTL 0) 0x20000000) (R.SEQn_CTL 0) 29 = true ∧ groupStalled (seqDue 4 seq0) (0 : BitVec 3).toNat [] = true ∧
      boundaryDue (seqDue 4 seq0) = true ∧ rdF (wr (seqDue 4 seq0) R.SEQ_CFG 1) R.SEQ_CFG 7 0 ≤ rdF (seqDue 4 seq0) (R.SEQ_GRPg_CNT 0) 7 0 + 1 ∧
      ((List.range 16).map (16 * 0 + ·)).find? (fun n => seqState (seqDue 4 seq0) n == 4) = some 0 := by unfold Canonical; decide

theorem wit_TrellisBuses : Accepted upEdl (1 : BitVec 2).toNat (frW 2 0) (frG 2 0) ∧ Accepted upEdl (1 : BitVec 2).toNat (frW 3 2) (frG 3 2) := by
  unfold Accepted; decide
def busWit : State := dueSt.setTrl { dueSt.trl with bus := [(3, [5, 0, 0]), (4, [1, 0, 0])], migs := [(4, { m := 7, old := 0, new := 9, late := false })], held := [(busKey 4 8 0, [1])] }
def tailWit : State := busWit.setTrl { busWit.trl with arrived := [(busKey 3 ((10 + 2 ^ 48 - transitA busWit - 1) % 2 ^ 48) 0, { sum := [5], late := false, emix := false, port := 1, epoch := 0 })] }
theorem wit_TrellisBuses_2 : Canonical busWit ∧ deadlinePast busWit 2 busWit.dkl.num = true ∧ topoKind busWit ≠ 1 ∧ boundaryDue busWit = true ∧ busEn (busEntry busWit 3) = true ∧ busTail (busEntry busWit 3) = true ∧
    busEn (busEntry busWit 4) = true ∧ busTail (busEntry busWit 4) = false ∧ SMap.get busWit.trl.held (busKey 4 8 0) = some [1] ∧ pairSilent busWit = false ∧
    migDue busWit (tickNumber busWit) 4 = true ∧ SMap.get busWit.trl.migs 4 = some { m := 7, old := 0, new := 9, late := false } ∧ (7 + 3) % 2 ^ 48 = 10 % 2 ^ 48 ∧
    SMap.get busWit.trl.arrived (busKey 3 ((10 + 2 ^ 48 - transitA busWit - 1) % 2 ^ 48) 0) = none ∧
    SMap.get tailWit.trl.arrived (busKey 3 ((10 + 2 ^ 48 - transitA tailWit - 1) % 2 ^ 48) 0) = some { sum := [5], late := false, emix := false, port := 1, epoch := 0 } ∧
    busWit.dev = .laid ∧ (20 + 3) % 2 ^ 48 ≠ busWit.dkl.num ∧ inPast 48 ((20 + 3) % 2 ^ 48) busWit.dkl.num = false ∧ SMap.get busWit.trl.migs 5 = none ∧ 5 ≠ devId busWit ∧
    accessOk busWit (0 : BitVec 6).toNat R.TRL_MIG_CTL = true ∧ AtOnce busWit ∧ accessOk busWit (0 : BitVec 6).toNat R.TRL_BUS_CTL = true ∧
    reachesTenant busWit (0 : BitVec 6).toNat 0 = true := by unfold Canonical; decide
def subWit : State := (wrAll busWit [(R.EDL_TOPO, 1), (R.EDL_PORTn_TOPO 1, 1)]).setPwr busWit.pwr
theorem wit_TrellisBuses_3 : GoesOn busWit ∧ substituteDue subWit (tickNumber subWit) 4 0 = true := ⟨⟨by decide, rfl, rfl⟩, by decide⟩

def pairWit (st : Nat) (ms : List PairMsg) : State :=
  (wrAll dueSt [(R.PAIR_CFG, 0x50001), (R.PAIR_STATE, BitVec.ofNat 32 (st + 48)), (R.PAIR_TIMES, 0x00010001)]).setPair { dueSt.pair with msgs := ms }
theorem wit_PairLeaseProtocol : Accepted upEdl (1 : BitVec 2).toNat (frW 3 3) (frG 3 3) ∧ Accepted upEdl (1 : BitVec 2).toNat (frW 3 4) (frG 3 4) ∧
    Accepted (wr upEdl (R.EDL_PORTn_CTL 1) 2) (1 : BitVec 2).toNat (frW 5 4) (frG 5 4) := by unfold Accepted; decide
theorem wit_PairLeaseProtocol_2 : (∀ st ∈ [1, 3], Canonical (pairWit st []) ∧ pairEn (pairWit st []) = true ∧ pairPartner (dirTake (pairWit st []) 5 0) = 5 ∧ pairEn (dirTake (pairWit st []) 5 0) = true ∧
      pairState (pairHeard (dirTake (pairWit st []) 5 0) 5) = st) ∧ (pairWit 3 []).dkl.num = 9 ∧ pairEn dueSt = false ∧ (pairWit 1 []).dev = .laid ∧ boundaryDue (pairWit 1 []) = true ∧
    fenceComes (pairWit 1 [.conflict]) = true ∧ fenceComes (pairWit 3 []) = false ∧
    takeoverDue (takeMsgs (adopt (pairWit 3 [])) (tickNumber (pairWit 3 []))) (tickNumber (pairWit 3 [])) = true ∧ accessOk dueSt (0 : BitVec 6).toNat R.PAIR_CTL = true := by unfold Canonical; decide
theorem wit_PairLeaseProtocol_3 : GoesOn (pairWit 1 []) := ⟨by decide, rfl, rfl⟩

theorem wit_RegisterWritesAndAliases : let s := witBare .laid
    Canonical s ∧ barOffset (0 : BitVec 6).toNat (4 * (BitVec.ofNat 20 (R.HOST_B2_DST / 4)).toNat) = some R.HOST_B2_DST ∧ accessOk s (0 : BitVec 6).toNat R.HOST_B2_DST = true ∧ mirrorBar0 R.HOST_B2_DST = false ∧ (regFind R.HOST_B2_DST).isSome = true ∧
      ((regFind R.HOST_B2_DST).any (fun r => r.rw != 0 && r.sc == 0)) = true ∧ R.HOST_B2_DST / 0x10000 ≠ 0xA ∧ unitWrite s (0 : BitVec 6).toNat R.HOST_B2_DST .base 0 0 0 = none ∧
      accessOk s (0 : BitVec 6).toNat R.MIX_STAT = true ∧ mirrorBar0 R.MIX_STAT = false ∧ ((regFind R.MIX_STAT).any (fun r => r.sc != 0 && r.rw == 0)) = true ∧ mirrorBar0 R.FWD_LEARN_CTL = true ∧ regFind 0x3FFFFC = none ∧
      accessOk s (5 : BitVec 6).toNat R.HOST_B2_DST = false ∧ barUp s = true ∧ (R.SEQn_CTL 0) / 0x10000 = 0xA ∧ ((regFind (R.SEQn_CTL 0)).any (fun r => r.rw != 0)) = true ∧
      locked (wr s R.GLB_LOCK 2) 65552 = true ∧ ((regFind 65552).any (fun r => r.lk != 0 && r.rw != 0)) = true ∧ (unitWrite s 0 R.GLB_OUTEN .base 0 0 0).isSome = true := by unfold Canonical; decide

theorem wit_GlobalControlsAndIndirect : let s := witBare .laid; let p := setInd s 0 { indOf s 0 with pend := some (8, 5) }
    let q := (setInd s 0 { indOf s 0 with pend := some (1, 5) }).setPwr { s.pwr with perstn := true }; let m := (wrAll s [(R.PAIR_CFG, 0x11), (R.PAIR_STATE, 1)])
    Canonical s ∧ Canonical p ∧ Canonical q ∧ Canonical m ∧ (∀ o ∈ [R.GLB_LOCK_SET, R.GLB_OUTEN, R.GLB_MUTE, R.GLB_TPART, R.GLB_WIDE_REQ, R.IND_DATA, R.IND_ADDR, R.IND_SEL, R.GLB_WIDE_DATAm 3],
        accessOk s (0 : BitVec 6).toNat o = true ∧ locked s o = false) ∧ accessOk State.reset 0 R.IND_DATA = false ∧ running s = true ∧ rdB s R.GLB_CFG 0 = false ∧ rdB (wr s R.GLB_CFG 1) R.GLB_CFG 0 = true ∧
      (indOf p (0 : BitVec 6).toNat).pend = some (8, 5) ∧ (indOf s (0 : BitVec 6).toNat).pend = none ∧ AtOnce s ∧
      hostGrant (indQueue q 0) ((indQueue q 0).dkl.cyc + (0 : BitVec 4).toNat) = some (.fetch (0 : BitVec 6).toNat 1 5, 0) ∧
      rdB m R.PAIR_CFG 0 = true ∧ pairState m = 1 ∧ rdB m R.PAIR_CFG 4 = true ∧ accessOk m (0 : BitVec 6).toNat R.FWD_LEARN_CTL = true ∧ pairEn s = false ∧ pairEn m = true ∧ m.dev = .laid := by unfold Canonical; decide
theorem wit_GlobalControlsAndIndirect_2 : let s := (wr (witBare .laid) R.PAIR_CFG 1).setPair { (witBare .laid).pair with sets := [(7, { recs := [], done := some 8 })] }
    pairEn s = true ∧ s.dev = .laid ∧ pairState s ≠ 1 ∧ SMap.get s.pair.sets (7 : BitVec 48).toNat = some { recs := [], done := some 8 } ∧ SMap.get s.pair.sets (8 : BitVec 48).toNat = none ∧
      s.dkl.num ≠ 8 ∧ (s.setDkl { s.dkl with num := 8 }).dkl.num = ((7 : BitVec 48).toNat + 1) % 2 ^ 48 := by decide

def tbW (l : List (Nat × Word)) : State := wrAll (witBare .laid) l
theorem wit_TimeBases : let s := tbW []
    Canonical s ∧ running s = true ∧ (∀ o ∈ [R.TBn_RATE 0, R.TBn_RATE 1, R.TBn_CTL 0, R.TBn_CTL 1, R.TBn_NS 1, R.TB_CTL, R.TBn_PSTART 1, R.TB_CAPk_NS0 0, R.TB_CAPk_INFO 0], accessOk s (0 : BitVec 6).toNat o = true) ∧
      accessOk State.reset (0 : BitVec 6).toNat (R.TBn_NS 0) = false ∧ tbDisc s < 2 ∧ 2 ≤ tbDisc (tbW [(R.TB_DISC, 0x33)]) ∧ tbDstate (tbW [(R.TB_DISC, 0x33)]) = 3 ∧ tbDisc (tbW [(R.TB_DISC, 0x11)]) = 1 ∧ tbAcquiring (tbW [(R.TB_DISC, 0x11)]) = true ∧
      pulsesRun (tbW [(R.TBn_PCFG 1, 0xC0000000)]) 1 = true ∧ rdB (tbW [(R.TBn_PCFG 1, 0xC0000000)]) (R.TBn_PCFG 1) 30 = true ∧ pulsesRun s 1 = false ∧ (rd s (R.TBn_PNEXT 1)).toNat = tbNs s 1 (0 : BitVec 4).toNat ∧
      (let u := setTbase (tbW [(R.TBn_PCFG 1, 0xC0000000)]) 1 { tbase0 with armed := true }; (tbase u 1).armed = true ∧ pulsesRun u 1 = true ∧ nsPast (rd u (R.TBn_PNEXT 1)).toNat (tbNs u 1 0) = false ∧
        nsPast (rd (wr u (R.TBn_PNEXT 1) 0xFFFFFFFF) (R.TBn_PNEXT 1)).toNat (tbNs u 1 0) = true ∧ nsPast (tbNs u 1 0) (rd (wr u (R.TBn_PNEXT 1) 5) (R.TBn_PNEXT 1)).toNat = true) ∧
      rdB (tbW [(R.TB_CAPk_CFG 0, 0xA1000000)]) (R.TB_CAPk_CFG 0) 31 = true ∧ rdF (tbW [(R.TB_CAPk_CFG 0, 0xA1000000)]) (R.TB_CAPk_CFG 0) 29 28 = 2 ∧ rdF (tbW [(R.TB_CAPk_CFG 0, 0x91000000)]) (R.TB_CAPk_CFG 0) 29 28 = 1 ∧
      (SMap.getD s.tb.cap 0 capture0).last = none := by unfold Canonical; decide

def dstW : State := ((witBare .laid).setPwr { (witBare .laid).pwr with dram := .ready, perstn := true }).setDste { (witBare .laid).dste with queue := [(3, [(1, 7)])], writeBack := [100], noGrant := 4096 }
theorem wit_DeepStoreServesAndReports : Canonical dstW ∧ accessOk dstW (0 : BitVec 6).toNat (R.DST_PLAYn_CTL (0 : BitVec 6).toNat) = true ∧ accessOk State.reset (0 : BitVec 6).toNat (R.DST_PLAYn_CTL (0 : BitVec 6).toNat) = false ∧ running dstW = true ∧
    accessOk (witBare .bare) (0 : BitVec 6).toNat (R.DST_PLAYn_CTL (0 : BitVec 6).toNat) = true ∧ running (witBare .bare) = false ∧ dstServes dstW = true ∧ dstServes State.reset = false ∧ rdF dstW R.DST_SCRUB_POS 28 0 + 1 < 2 ^ 29 ∧
    rdF (wr dstW R.DST_SCRUB_POS 0x1FFFFFFF) R.DST_SCRUB_POS 28 0 + 1 = 2 ^ 29 ∧ 4096 ≤ dstW.dste.noGrant ∧ State.reset.dste.noGrant < 4096 ∧ barUp dstW = true ∧ barUp State.reset = false ∧ AtOnce dstW ∧ dstW.dste.queue.length < 64 ∧
    dstW.dste.queue = (3, [(1, 7)]) :: [] ∧ dstW.dste.writeBack.find? (fun u => mayGrant dstW u 5) = some 100 ∧ State.reset.dste.writeBack.find? (fun u => mayGrant State.reset u 5) = none ∧ dstW.pwr.perstn = true ∧ State.reset.dste.queue = [] ∧ playerState (player (playerStart dstW 0 5 none) 0) ≠ 0 ∧ (let x := dstW.setDste { dstW.dste with queue := [] }; mayGrant x (rdF x R.DST_SCRUB_POS 28 0) 5 = true) ∧ mayGrant dstW (rdF dstW R.DST_SCRUB_POS 28 0) 5 = false ∧ mayGrant dstW 3 4 = true ∧ mayGrant State.reset 0 5 = false ∧ reqUnit dstW (.player 0) 0 = none := by
  unfold Canonical; decide

def dmaW (kind : Word) : State := (wrAll (witBare .laid) [(R.HOST_DMAc_CFG 0, 0xFF000004 + kind), (R.HOST_DMAc_SIZE 0, 16), (R.HOST_DMAc_TAIL 0, 1)]).setPwr { (witBare .laid).pwr with perstn := true }
def descW (w2 : Word) : List Word := [0, 0, w2, 0, 0, 0, 0, 0x80000000]
def pairW : State := wrAll dueSt [(R.DCI_PAIRn_CFG 0, 5), (R.DCI_STATE, 0x10000), (R.DCI_PAIRn_TIME 0, 0x10000)]
theorem wit_DmaChannelsAndInputs : Canonical (dmaW 1) ∧ accessOk (dmaW 1) (0 : BitVec 6).toNat (R.HOST_DMAc_TAIL (0 : BitVec 3).toNat) = true ∧ accessOk State.reset (0 : BitVec 6).toNat (R.HOST_DMAc_TAIL (0 : BitVec 3).toNat) = false ∧
    locked (dmaW 1) (R.HOST_DMAc_TAIL 0) = false ∧ dmaOn State.reset 0 1 = false ∧ dmaOn (dmaW 1) (0 : BitVec 3).toNat 1 = true ∧ dmaWaits (dmaW 1) (0 : BitVec 3).toNat = true ∧ txPending (dmaW 1) (0 : BitVec 3).toNat = false ∧
    bit (dw (descW 0) 7) 31 = true ∧ 20 ≤ fld (dw (descW 0x140000) 2) 20 16 ∧ fld (dw (descW 0x40) 2) 20 16 < 20 ∧ (dmaW 1).eth.toHost = [] ∧ rxChannel (dmaW 1) 0 0 = none ∧ rxChannel (dmaW 2) 0 0 = some 0 ∧ dmaWaits (dmaW 2) 0 = true ∧
    dmaOn (dmaW 3) (0 : BitVec 3).toNat 3 = true ∧ (dw (descW 5) 2).toNat % 4 ≠ 0 ∧ (dw (descW 8) 2).toNat % 4 = 0 ∧ 4 ≤ (dw (descW 8) 2).toNat ∧ (dw (descW 8) 2).toNat ≤ 2 ^ 24 ∧
    rdB pairW (R.DCI_PAIRn_CFG 0) 0 = true ∧ rearmDue pairW (0 : BitVec 4).toNat = true ∧ boundaryDue pairW = true ∧ faultDue pairW (0 : BitVec 4).toNat = false ∧
    faultDue ((wrAll dueSt [(R.DCI_PAIRn_CFG 0, 5)]).setInp { dueSt.inp with dciLvl := 1 }) (0 : BitVec 4).toNat = true := by unfold Canonical; decide
theorem wit_DmaChannelsAndInputs_2 : GoesOn pairW ∧ portUp (wr (dmaW 1) (R.ETH_PORTp_LINK 0) 1) 0 = true := ⟨⟨by decide, rfl, rfl⟩, by decide⟩

def evcW (l : List (Nat × Word)) : State := wrAll (witBare .laid) l
theorem wit_EventControllerAccesses : let s := evcW []
    Canonical s ∧ (∀ o ∈ [R.EVC_PCLRw 0, R.EVC_SETPw 0, R.EVC_TGTt_DB 0, R.EVC_TGTt_EOI 0, R.EVC_TGTt_ACK 0, R.EVC_TGTt_RINGp_BASE_LO 0 0, R.EVC_TGTt_RINGp_CONS 0 0, R.EVC_SRCn_CFG 0, R.EVC_TGTBIND0, R.EVC_TGTBIND1],
        accessOk s (0 : BitVec 6).toNat o = true ∧ accessOk State.reset (0 : BitVec 6).toNat o = false) ∧ tgtBoundTo s (0 : BitVec 3).toNat (0 : BitVec 6).toNat = true ∧ tgtBoundTo s (7 : BitVec 3).toNat (3 : BitVec 6).toNat = false ∧
      (ackWord s 0).2 = none ∧ (ackWord (evcW [(R.EVC_TGTt_RINGp_BASE_LO 0 3, 0x200), (R.EVC_TGTt_RINGp_PROD 0 3, 1)]) 0).2 = some 3 ∧
      10 < fld (newWord s 0 (R.EVC_TGTt_RINGp_BASE_LO 0 0) .base 11) 3 0 ∧ fld (newWord s 0 (R.EVC_TGTt_RINGp_BASE_LO 0 0) .base 0x200) 3 0 ≤ 10 ∧ bit (newWord s 0 (R.EVC_TGTt_RINGp_BASE_LO 0 0) .base 0x200) 9 = true ∧
      locked s (R.EVC_SRCn_CFG 0) = false ∧ locked (evcW [(R.GLB_LOCK, 2)]) (R.EVC_SRCn_CFG 0) = true ∧ senseAllowed 448 (fld (newWord s 0 (R.EVC_SRCn_CFG 448) .base 0) 2 0) = true ∧
      SMap.sorted s.ev.firings = true ∧ s.ev.msixPend.contains (8 * (0 : BitVec 6).toNat + (3 : BitVec 3).toNat) = false ∧ ([3] : List Nat).contains (8 * (0 : BitVec 6).toNat + (3 : BitVec 3).toNat) = true := by unfold Canonical; decide

theorem wit_EndOfInterruptPopsTheStack :
    Canonical (wit .laid) ∧ accessOk (wit .laid) 0 (R.EVC_TGTt_EOI 0) = true ∧ stackLevels (wit .laid) 0 = 0 ∧ (stackLevels (setStack (wit .laid) 0 5) 0).testBit 2 = true ∧ ∀ q, q < 16 → 2 < q → (stackLevels (setStack (wit .laid) 0 5) 0).testBit q = false := by
  unfold Canonical
  decide

end Sys2Proof.Tests
end

section
/-! SUPPORT. What a reset leaves (R3, R16, R96), and the statements of 00_scope about it. -/

namespace Sys2Proof.Machine

variable (s : State) (p : Pwr)

@[simp] theorem rd_coldReset (o : Nat) : rd (coldReset s p) o = regReset (o % 0x400000) := rfl
@[simp] theorem coldReset_pwr : (coldReset s p).pwr = p := rfl
@[simp] theorem coldReset_dev : (coldReset s p).dev = .bare := rfl
@[simp] theorem coldReset_dst : (coldReset s p).dst = [] := rfl
@[simp] theorem coldReset_mld : (coldReset s p).mld = State.reset.mld := rfl
@[simp] theorem coldReset_mgt : (coldReset s p).mgt = { State.reset.mgt with halt := s.mgt.halt, tap := s.mgt.tap } := rfl
@[simp] theorem coldReset_inp :
    (coldReset s p).inp = { State.reset.inp with ext := s.inp.ext, dciPin := s.inp.dciPin, dciSeen := s.inp.dciSeen } := rfl
@[simp] theorem coldReset_out : (coldReset s p).out = s.out := rfl
@[simp] theorem coldReset_ans : (coldReset s p).ans = s.ans := rfl
@[simp] theorem coldReset_free : (coldReset s p).free = s.free := rfl
@[simp] theorem coldReset_pending : (coldReset s p).pending = s.pending := rfl

/-- The power state in which a reset leaves the device: the levels at its pins stand, and nothing has started up. -/
def Pwr.stopped (p : Pwr) : Pwr := { p with pll := false, held := false, dram := .busy, link := false, bare := false }

theorem exec_rstNFall : exec .rstNFall s = .next (coldReset s { s.pwr.stopped with rstn := false }) := rfl

theorem exec_pwrOkFall : exec .pwrOkFall s =
    .next ((coldReset s { s.pwr.stopped with pwrOk := false, rstn := false }).setMgt
      { State.reset.mgt with halt := s.mgt.halt, tap := .idcode }) := rfl

theorem exec_rstNRise {s : State} (straps : Straps) (refs : RefClocks) (hok : s.pwr.pwrOk = true) (hlow : s.pwr.rstn = false) :
    exec (.rstNRise straps refs) s = .next ((coldReset s { s.pwr.stopped with
        rstn := true, cmpt := straps.cmpt, mgtAddr := straps.mgtAddr.toNat, ethRef := refs.eth, edlRef := refs.edl }).setMgt
      { State.reset.mgt with halt := false, tap := s.mgt.tap }) := by
  have arm : exec (.rstNRise straps refs) s = execRstNRise straps refs s := rfl
  rw [arm, execRstNRise, hok, hlow]
  rfl

end Sys2Proof.Machine

namespace Sys2Proof.Claims

open Sys2Proof.Machine

theorem afterReset_coldReset (s : State) (p : Pwr) : AfterReset (coldReset s p) :=
  ⟨rd_coldReset s p, coldReset_dev s p, coldReset_dst s p, congrArg Mld.items (coldReset_mld s p), rfl⟩

/-- HALT_N and the TAP instruction are no part of what a reset restores. -/
theorem AfterReset.setMgt {t : State} (h : AfterReset t) (halt : Bool) (tap : TapIns) :
    AfterReset (t.setMgt { State.reset.mgt with halt := halt, tap := tap }) := by
  obtain ⟨hregs, hdev, hdst, hitems, hrest⟩ := h
  exact ⟨by simpa using hregs, by simpa using hdev, by simpa using hdst, by simpa using hitems,
    (congrArg (State.setMgt · { State.reset.mgt with halt := halt, tap := tap }) hrest).trans rfl⟩

theorem samePins_coldReset (s : State) (p : Pwr) : SamePins s (coldReset s p) := by simp [SamePins]

theorem SamePins.setMgt {s t : State} (h : SamePins s t) (m : Mgt) : SamePins s (t.setMgt m) := by
  simpa [SamePins] using h

/-- Settles O10: each of the three commands answers a cold reset, up to the power state, HALT_N and the TAP instruction. -/
theorem resetRestoresEverything : Obligations.ResetRestoresEverything := by
  unfold Obligations.ResetRestoresEverything
  intro s cmpt ethRef edlRef adr
  refine ⟨fun hok hlow => ?rise, ?fall, ?powerFall⟩
  case rise =>
    refine ⟨_, exec_rstNRise ⟨cmpt, adr⟩ ⟨ethRef, edlRef⟩ hok hlow, (afterReset_coldReset s _).setMgt _ _, ?_⟩
    simp [Pwr.stopped, (samePins_coldReset s _).setMgt]
  case fall =>
    refine ⟨_, exec_rstNFall s, afterReset_coldReset s _, ?_⟩
    simp [Pwr.stopped, samePins_coldReset]
  case powerFall =>
    refine ⟨_, exec_pwrOkFall s, (afterReset_coldReset s _).setMgt _ _, ?_⟩
    simp [Pwr.stopped, (samePins_coldReset s _).setMgt]

end Sys2Proof.Claims
end

section
/-! SUPPORT. Along which rows of the state table a command moves the device state (R70), and O7. -/

namespace Sys2Proof.Machine

open Sys2Proof.Claims

/-- What is kept where only the device state is spoken of: the queue, the canonical form, and a predicate of the device state. -/
def Keep.ofDev (queue : List Instr) (p : DevState → Prop) : Keep :=
  { queue := queue, dev := p, num := fun _ => True, mem := fun _ => True, mld := fun _ => True, mgt := fun _ => True }

/-- The device state is that of s, or one to which the command c may move it from there. -/
def Keep.moving (c : Instr) (s : State) : Keep := Keep.ofDev s.pending (fun d => d = s.dev ∨ StateMove c s.dev d)

/-- The rows of the state table that a command bit of `MLD_CTL` takes. -/
def LoaderMove (a b : DevState) : Prop :=
  (a = .bare ∧ b = .laying) ∨ (a = .refused ∧ b = .laying) ∨ (a = .refused ∧ b = .bare) ∨ (a = .laying ∧ b = .bare)

/-- The device state is that of s, or one to which a command bit of `MLD_CTL` moves it from there. -/
def Keep.loading (s : State) : Keep := Keep.ofDev s.pending (fun d => d = s.dev ∨ LoaderMove s.dev d)

/-- The device state is that of s, or BARE after LAYING. -/
def Keep.aborting (s : State) : Keep := Keep.ofDev s.pending (fun d => d = s.dev ∨ (s.dev = .laying ∧ d = .bare))

section
variable {c : Instr} {s t : State} {p q : DevState → Prop} {queue : List Instr}

theorem kept_ofDev (hs : Canonical s) (hp : p s.dev) : Kept (Keep.ofDev s.pending p) s :=
  ⟨rfl, hs.1, hs.2, hp, trivial, trivial, trivial, trivial⟩

theorem Kept.withDev (h : Kept (Keep.ofDev queue p) t) (hq : q t.dev) : Kept (Keep.ofDev queue q) t :=
  ⟨h.queue, h.regs, h.mem, hq, trivial, trivial, trivial, trivial⟩

theorem KeptN.mono_dev {o : Host.Outcome State Fault Refusal} (h : KeptN (Keep.ofDev queue p) o) (hpq : ∀ d, p d → q d) :
    KeptN (Keep.ofDev queue q) o :=
  ⟨fun t e => (h.kept t e).withDev (hpq _ (h.kept t e).dev)⟩

/-! ### The moves of each cause -/

theorem moving_of_row {a d : DevState} (ha : s.dev = a) (h : StateMove c a d) : (Keep.moving c s).dev d := .inr (ha.symm ▸ h)

theorem stateMove_of_liftBegin (hc : Boundaries c) : StateMove c .laid .lifting := by simp [StateMove, hc]

theorem stateMove_of_liftEnd {d : DevState} (hc : Boundaries c) (hd : d = .bare ∨ d = .laying) : StateMove c .lifting d := by
  simp [StateMove, hc, hd]

theorem stateMove_imageComplete (bytes : List Byte) : StateMove (.imageComplete bytes) .laying .checking := by simp [StateMove]

theorem stateMove_checkingEnd {d : DevState} (hd : d = .laid ∨ d = .refused) : StateMove .checkingEnd .checking d := by
  simp [StateMove, hd]

theorem stateMove_of_loaderMove {a b : DevState} (hc : WritesLoader c) (h : LoaderMove a b) : StateMove c a b := by
  rcases h with ⟨rfl, rfl⟩ | ⟨rfl, rfl⟩ | ⟨rfl, rfl⟩ | ⟨rfl, rfl⟩ <;> simp [StateMove, hc]

theorem stateMove_of_abort (hc : c = .loaderReadError ∨ c = .perstNAssert) : StateMove c .laying .bare := by
  simp [StateMove, hc]

theorem moving_bare (hc : Resets c) : (Keep.moving c s).dev .bare := .inr (.inl ⟨rfl, hc⟩)

/-- One command bit of `MLD_CTL` after another leads no further than one of them does. -/
theorem LoaderMove.trans {a b d : DevState} (h : LoaderMove a b) (h' : LoaderMove b d) : d = a ∨ LoaderMove a d := by
  rcases h with ⟨rfl, rfl⟩ | ⟨rfl, rfl⟩ | ⟨rfl, rfl⟩ | ⟨rfl, rfl⟩
  all_goals rcases h' with ⟨h, rfl⟩ | ⟨h, rfl⟩ | ⟨h, rfl⟩ | ⟨h, rfl⟩ <;> simp_all [LoaderMove]

theorem loading_of_loaderMove {a b : DevState} (hab : LoaderMove a b) : (Keep.loading s).dev a → (Keep.loading s).dev b
  | .inl h => .inr (h ▸ hab)
  | .inr h => h.trans hab

theorem loading_mld : (Keep.loading s).Mld where
  bare := loading_of_loaderMove (.inl ⟨rfl, rfl⟩)
  refused := loading_of_loaderMove (.inr (.inl ⟨rfl, rfl⟩))
  clear := loading_of_loaderMove (.inr (.inr (.inl ⟨rfl, rfl⟩)))
  abort := loading_of_loaderMove (.inr (.inr (.inr ⟨rfl, rfl⟩)))

theorem KeptN.moving_of_loading {o : Host.Outcome State Fault Refusal} (hc : WritesLoader c) (h : KeptN (Keep.loading s) o) :
    KeptN (Keep.moving c s) o :=
  h.mono_dev fun _ => Or.imp_right (stateMove_of_loaderMove hc)

theorem aborting_bare : (Keep.aborting s).dev .laying → (Keep.aborting s).dev .bare := by
  rintro (h | ⟨h, _⟩)
  · exact .inr ⟨h.symm, rfl⟩
  · exact .inr ⟨h, rfl⟩

theorem KeptN.moving_of_aborting {o : Host.Outcome State Fault Refusal} (hc : c = .loaderReadError ∨ c = .perstNAssert)
    (h : KeptN (Keep.aborting s) o) : KeptN (Keep.moving c s) o :=
  h.mono_dev fun _ => Or.imp_right fun ⟨ha, hb⟩ => by rw [ha, hb]; exact stateMove_of_abort hc

theorem abortLaying_kept_of_laying {Q : Keep} (h : Kept Q s) (hA : Q.dev .laying → Q.dev .bare) (hD : ∀ x, Q.mld x) :
    Kept Q (abortLaying s) := by
  unfold abortLaying
  split
  · next e => exact mldCond_kept (State.setMld_kept (State.setDev_kept h _ (hA (e ▸ h.dev))) _ (hD _))
  · exact h

theorem execLoaderReadError_moves (hs : Canonical s) : KeptN (Keep.moving .loaderReadError s) (execLoaderReadError s) :=
  .moving_of_aborting (.inl rfl) (.next (abortLaying_kept_of_laying (kept_ofDev hs (.inl rfl)) aborting_bare fun _ => trivial))

theorem execPerstNAssert_moves (hs : Canonical s) : KeptN (Keep.moving .perstNAssert s) (execPerstNAssert s) := by
  have k : Kept (Keep.aborting s) s := kept_ofDev hs (.inl rfl)
  have hA := aborting_bare (s := s)
  have free : ∀ x, (Keep.aborting s).mld x := fun _ => trivial
  refine .moving_of_aborting (.inr rfl) ?_
  unfold execPerstNAssert
  with_reducible repeat' first
      | assumption | apply free | apply KeptN.next | apply Kept.ite | apply abortLaying_kept_of_laying | apply State.setMld_kept
      | apply State.setEv_kept | apply wrAll_kept | apply Kept.foldl | apply resetTarget_kept | apply State.setEth_kept
      | apply State.setHp_kept | apply State.setMix_kept | apply updDiscard_kept | apply wr_kept | apply State.setPwr_kept
      | apply dropRegs_kept

theorem execImageComplete_moves {bytes : List Byte} (k : Kept (Keep.moving (.imageComplete bytes) s) s) :
    KeptN (Keep.moving (.imageComplete bytes) s) (execImageComplete bytes s) := by
  by_cases hd : s.dev = .laying
  · exact execImageComplete_kept k (moving_of_row hd (stateMove_imageComplete bytes)) (fun _ _ _ _ => trivial) fun _ => trivial
  · simpa [execImageComplete, hd] using KeptN.next k

theorem execCheckingEnd_moves (k : Kept (Keep.moving .checkingEnd s) s) : KeptN (Keep.moving .checkingEnd s) (execCheckingEnd s) := by
  by_cases hd : s.dev = .checking
  · exact execCheckingEnd_kept k (moving_of_row hd (stateMove_checkingEnd (.inl rfl)))
      (moving_of_row hd (stateMove_checkingEnd (.inr rfl))) trivial fun _ => trivial
  · simpa [execCheckingEnd, hd] using KeptN.next k

/-- The lift's part of a boundary moves LAID to LIFTING, LIFTING to BARE or LAYING, and no other device state. -/
theorem liftStep_kept_of_dev {Q : Keep} {e : Nat} (h : Kept Q s) (hLaid : s.dev = .laid → Q.dev .lifting)
    (hLifting : s.dev = .lifting → Q.dev .bare ∧ Q.dev .laying) (h0 : Q.num 0) (hD : ∀ x, Q.mld x) : Kept Q (liftStep s e) := by
  unfold liftStep
  split
  · next hl => exact liftBegin_kept h.anyDev (hLaid hl.1) hD
  · split
    · next he =>
      have hdev : s.dev = .lifting := by simp only [liftEnds, Bool.and_eq_true, beq_iff_eq] at he; exact he.1
      exact liftEnd_kept h.anyDev (hLifting hdev).1 (hLifting hdev).2 h0 hD
    · exact h

/-- Up to the lift the steps of a boundary leave the device state as it is, and so do those after it (R62). -/
theorem deckleTick_moves {wck : List Nat} (hs : Canonical s) (hc : Boundaries c) :
    Kept (Keep.moving c s) (deckleTick s wck) := by
  have h2 := launchPackets_kept (launchFrames_kept (stepLease_kept (first := !s.dkl.started) (wck := wck) (tickCount_kept
    (audioTurn_kept (overruns_kept (kept_ofDev (p := (· = s.dev)) hs rfl).anyNum)) trivial fun _ _ _ => trivial)))
  have hdev := h2.dev
  have h3 := liftStep_kept_of_dev (Q := Keep.moving c s)
    (e := (launchPackets (launchFrames (stepLease (tickCount (audioTurn (overruns s))) (!s.dkl.started) wck))).dkl.num)
    (h2.withDev (.inl hdev)) (fun hl => moving_of_row (hdev ▸ hl) (stateMove_of_liftBegin hc))
    (fun hl => ⟨moving_bare (.inl hc), moving_of_row (hdev ▸ hl) (stateMove_of_liftEnd hc (.inr rfl))⟩) trivial fun _ => trivial
  have h4 := tickCredits_kept (first := !s.dkl.started) (stepRest_kept (sendMarkers_kept
    (lease := ownLease (tickCount (audioTurn (overruns s)))) (stepStructure_kept h3)))
  unfold deckleTick
  exact Kept.ite (Kept.ite (enterHold_kept h3 (moving_bare (.inl hc)) trivial (fun _ => trivial) fun _ => trivial) h3)
    (Kept.ite (State.setMgt_kept h4 _ trivial) h4)

theorem boundary_moves {wck : List Nat} (hs : Canonical s) (hc : Boundaries c) : Kept (Keep.moving c s) (boundary s wck) :=
  Kept.ite (enterHold_kept (kept_ofDev hs (.inl rfl)) (moving_bare (.inl hc)) trivial (fun _ => trivial) fun _ => trivial)
    (deckleTick_moves hs hc)

theorem boundaryFor_moves {cause : Bool} (hs : Canonical s) (hc : Boundaries c) :
    KeptN (Keep.moving c s) (.next (boundaryFor s cause)) :=
  .next (Kept.ite (boundary_moves hs hc) (kept_ofDev hs (.inl rfl)))

theorem execDeckleTick_moves {wck : List Nat} (hs : Canonical s) :
    KeptN (Keep.moving (.deckleTick wck) s) (execDeckleTick wck s) :=
  .next (Kept.ite (boundary_moves hs trivial) (kept_ofDev hs (.inl rfl)))

/-- Every command moves the device state along a row of the table of which it is a cause, or leaves it (R70). -/
theorem exec_moves (c : Instr) (hs : Canonical s) : KeptN (Keep.moving c s) (exec c s) := by
  have k : Kept (Keep.moving c s) s := kept_ofDev hs (.inl rfl)
  have kl : Kept (Keep.loading s) s := kept_ofDev hs (.inl rfl)
  have free : ∀ {α : Type} (x : α), True := fun _ => trivial
  have stores : (Keep.moving c s).Stores := fun _ _ _ _ => trivial
  cases c with
  -- A reset and the reset hold end in BARE.
  | pwrOkFall => exact execPwrOkFall_kept k (moving_bare (.inr trivial)) trivial trivial free free
  | rstNFall => exact execRstNFall_kept k (moving_bare (.inr trivial)) trivial trivial free free
  | rstNRise => exact execRstNRise_kept k (moving_bare (.inr trivial)) trivial trivial free free
  | pllLossOfLock => exact execPllLossOfLock_kept k (moving_bare (.inr trivial)) trivial free free
  | thermalTrip => exact execThermalTrip_kept k (moving_bare (.inr trivial)) trivial free free
  -- A deckle boundary begins or ends a lift.
  | liftBegin => exact boundaryFor_moves hs trivial
  | liftEnd => exact boundaryFor_moves hs trivial
  | deckleTick => exact execDeckleTick_moves hs
  | commitCarryOut => exact boundaryFor_moves hs trivial
  | holdEnd => exact boundaryFor_moves hs trivial
  | waiteTimeout => exact boundaryFor_moves hs trivial
  | waitdExpiry => exact boundaryFor_moves hs trivial
  | waituReached => exact boundaryFor_moves hs trivial
  | stallRelease => exact boundaryFor_moves hs trivial
  | trellisDeadline => exact boundaryFor_moves hs trivial
  | substituteLaunch => exact boundaryFor_moves hs trivial
  | migrationEffect => exact boundaryFor_moves hs trivial
  | fence => exact boundaryFor_moves hs trivial
  | takeover => exact boundaryFor_moves hs trivial
  | faultn => exact boundaryFor_moves hs trivial
  | rearm => exact boundaryFor_moves hs trivial
  -- A write may reach `MLD_CTL`.
  | load => exact .moving_of_loading trivial (execLoad_kept kl loading_mld free)
  | abort => exact .moving_of_loading trivial (execAbort_kept kl loading_mld free)
  | clear => exact .moving_of_loading trivial (execClear_kept kl loading_mld free)
  | lift => exact .moving_of_loading trivial (execLift_kept kl loading_mld free)
  | mirrorSetApply => exact .moving_of_loading trivial (execMirrorSetApply_kept kl loading_mld free)
  | registerWrite => exact .moving_of_loading trivial (execRegisterWrite_kept kl loading_mld free)
  | setAliasWrite => exact .moving_of_loading trivial (execSetAliasWrite_kept kl loading_mld free)
  | clearAliasWrite => exact .moving_of_loading trivial (execClearAliasWrite_kept kl loading_mld free)
  | toggleAliasWrite => exact .moving_of_loading trivial (execToggleAliasWrite_kept kl loading_mld free)
  | clearBySequence => exact .moving_of_loading trivial (execClearBySequence_kept kl loading_mld free)
  | wideReq => exact .moving_of_loading trivial (execWideReq_kept kl loading_mld free)
  | indSelAddrWrite => exact .moving_of_loading trivial (execIndSelAddrWrite_kept kl loading_mld free)
  | indDataWrite => exact .moving_of_loading trivial (execIndDataWrite_kept kl loading_mld free)
  | lockSet => exact .moving_of_loading trivial (execLockSet_kept kl loading_mld free)
  | tpartWrite => exact .moving_of_loading trivial (execTpartWrite_kept kl loading_mld free)
  | outenWrite => exact .moving_of_loading trivial (execOutenWrite_kept kl loading_mld free)
  | muteWrite => exact .moving_of_loading trivial (execMuteWrite_kept kl loading_mld free)
  | dmaTailWrite => exact .moving_of_loading trivial (execDmaTailWrite_kept kl loading_mld free)
  -- The rows that name their cause themselves.
  | perstNAssert => exact execPerstNAssert_moves hs
  | loaderReadError => exact execLoaderReadError_moves hs
  | imageComplete => exact execImageComplete_moves k
  | checkingEnd => exact execCheckingEnd_moves k
  -- The rest leave the device state as it is.
  | fabricPllLock => exact execFabricPllLock_kept k
  | pllLockTimeout => exact execPllLockTimeout_kept k
  | dramInitDone => exact execDramInitDone_kept k trivial
  | dramInitTimeout => exact execDramInitTimeout_kept k
  | pcieLinkUp => exact execPcieLinkUp_kept k
  | enterBare => exact execEnterBare_kept k
  | perstNDeassert => exact execPerstNDeassert_kept k
  | functionLevelReset => exact execFunctionLevelReset_kept k
  | sensorSample => exact execSensorSample_kept k free
  | powerMonitorSample => exact execPowerMonitorSample_kept k
  | mgtRead => exact execMgtRead_kept k
  | tapInstruction => exact execTapInstruction_kept k free
  | eventTick => exact execEventTick_kept k
  | parterreWindow => exact execParterreWindow_kept k
  | searchIssue => exact execSearchIssue_kept k
  | searchResult => exact execSearchResult_kept k
  | diagGo => exact execDiagGo_kept k
  | scrubVisit => exact execScrubVisit_kept k
  | scrubRewrite => exact execScrubRewrite_kept k
  | scrubStall => exact execScrubStall_kept k
  | updCmdWord => exact execUpdCmdWord_kept k
  | updFlush => exact execUpdFlush_kept k
  | write => exact execWrite_kept k
  | writeAd => exact execWriteAd_kept k
  | invalidate => exact execInvalidate_kept k
  | validate => exact execValidate_kept k
  | replace => exact execReplace_kept k
  | move => exact execMove_kept k
  | mark => exact execMark_kept k
  | quireCellWrite => exact execQuireCellWrite_kept k
  | frameReceive => exact execFrameReceive_kept k
  | forwardDecision => exact execForwardDecision_kept k stores
  | sourceLookup => exact execSourceLookup_kept k
  | learningRequest => exact execLearningRequest_kept k
  | hold => exact execHold_kept k
  | agingTick => exact execAgingTick_kept k
  | agingRemoval => exact execAgingRemoval_kept k
  | staLookup => exact execStaLookup_kept k
  | staRead => exact execStaRead_kept k
  | staWrite => exact execStaWrite_kept k
  | staDelete => exact execStaDelete_kept k
  | staMove => exact execStaMove_kept k
  | staHash => exact execStaHash_kept k
  | flushGo => exact execFlushGo_kept k
  | flushDone => exact execFlushDone_kept k
  | tableRead => exact execTableRead_kept k
  | tableWrite => exact execTableWrite_kept k
  | ethPortCfgWrite => exact execEthPortCfgWrite_kept k
  | ethLinkUp => exact execEthLinkUp_kept k
  | ethLinkDown => exact execEthLinkDown_kept k
  | anFail => exact execAnFail_kept k
  | frameLaunch => exact execFrameLaunch_kept k
  | streamDescRead => exact execStreamDescRead_kept k
  | streamDescWrite => exact execStreamDescWrite_kept k
  | stageA => exact execStageA_kept k stores
  | stageC => exact execStageC_kept k stores
  | packetise => exact execPacketise_kept k
  | mixTier => exact execMixTier_kept k
  | liveCommand => exact execLiveCommand_kept k
  | mixLiveFlush => exact execMixLiveFlush_kept k
  | couchWrite => exact execCouchWrite_kept k
  | couchCheck => exact execCouchCheck_kept k
  | couchCheckDone => exact execCouchCheckDone_kept k
  | stripSubmit => exact execStripSubmit_kept k
  | meterRecordRead => exact execMeterRecordRead_kept k
  | hostCommit => exact execHostCommit_kept k
  | commitFrame => exact execCommitFrame_kept k
  | zoneDescriptorSubmit => exact execZoneDescriptorSubmit_kept k
  | overrideSetSubmit => exact execOverrideSetSubmit_kept k
  | zoneStatusRead => exact execZoneStatusRead_kept k
  | start => exact execStart_kept k
  | programCheckEnd => exact execProgramCheckEnd_kept k
  | stop => exact execStop_kept k
  | kick => exact execKick_kept k
  | nop => exact execNop_kept k
  | halt => exact execHalt_kept k
  | yieldRow => exact execYieldRow_kept k
  | waitd => exact execWaitd_kept k
  | waitu => exact execWaitu_kept k
  | waite => exact execWaite_kept k
  | clrc => exact execClrc_kept k
  | sig => exact execSig_kept k
  | flags => exact execFlags_kept k
  | ldi => exact execLdi_kept k
  | ldih => exact execLdih_kept k
  | alu => exact execAlu_kept k
  | addi => exact execAddi_kept k
  | rdin => exact execRdin_kept k
  | br => exact execBr_kept k
  | brb => exact execBrb_kept k
  | commit => exact execCommit_kept k
  | live => exact execLive_kept k
  | play => exact execPlay_kept k
  | raise => exact execRaise_kept k
  | restart => exact execRestart_kept k
  | edlPnpWrite => exact execEdlPnpWrite_kept k
  | gen1Write => exact execGen1Write_kept k
  | parleyStart => exact execParleyStart_kept k
  | capabilityPage => exact execCapabilityPage_kept k
  | nomodeRetry => exact execNomodeRetry_kept k
  | trainingSuccess => exact execTrainingSuccess_kept k
  | trainingTimeout => exact execTrainingTimeout_kept k
  | marker => exact execMarker_kept k
  | echo => exact execEcho_kept k
  | pnp => exact execPnp_kept k
  | leave => exact execLeave_kept k
  | abortSet => exact execAbortSet_kept k
  | lossOfSignal => exact execLossOfSignal_kept k
  | lossOfLock => exact execLossOfLock_kept k
  | markerMissing => exact execMarkerMissing_kept k
  | lockChange => exact execLockChange_kept k
  | audio => exact execAudio_kept k
  | tsum => exact execTsum_kept k
  | ethChunk => exact execEthChunk_kept k
  | loopReq => exact execLoopReq_kept k
  | loopRsp => exact execLoopRsp_kept k
  | mailbox => exact execMailbox_kept k
  | mailboxSend => exact execMailboxSend_kept k
  | mailboxRelease => exact execMailboxRelease_kept k
  | flowDescRead => exact execFlowDescRead_kept k
  | flowDescWrite => exact execFlowDescWrite_kept k
  | hostMigration => exact execHostMigration_kept k
  | migrate => exact execMigrate_kept k
  | busEntryRead => exact execBusEntryRead_kept k
  | busEntryWrite => exact execBusEntryWrite_kept k
  | lease => exact execLease_kept k
  | leaseAck => exact execLeaseAck_kept k
  | yieldPair => exact execYieldPair_kept k
  | pairHold => exact execPairHold_kept k
  | alone => exact execAlone_kept k
  | mirror => exact execMirror_kept k
  | tbRateWrite => exact execTbRateWrite_kept k
  | tbStep => exact execTbStep_kept k
  | tbNsRead => exact execTbNsRead_kept k
  | acq => exact execAcq_kept k
  | hostWatchdogExpiry => exact execHostWatchdogExpiry_kept k
  | wordClockLoss => exact execWordClockLoss_kept k
  | pulse => exact execPulse_kept k
  | pstartWrite => exact execPstartWrite_kept k
  | capture => exact execCapture_kept k
  | captureNs0Read => exact execCaptureNs0Read_kept k
  | captureInfoRead => exact execCaptureInfoRead_kept k
  | playerStart => exact execPlayerStart_kept k
  | playerStop => exact execPlayerStop_kept k
  | deadlineMiss => exact execDeadlineMiss_kept k stores
  | dstScrubRead => exact execDstScrubRead_kept k
  | dstScrubWriteback => exact execDstScrubWriteback_kept k
  | dstScrubStall => exact execDstScrubStall_kept k
  | apertureWrite => exact execApertureWrite_kept k
  | apertureRead => exact execApertureRead_kept k
  | apertureReadTimeout => exact execApertureReadTimeout_kept k
  | wideData3Read => exact execWideData3Read_kept k
  | indDataRead => exact execIndDataRead_kept k
  | indFetch => exact execIndFetch_kept k
  | indtmo => exact execIndtmo_kept k
  | dmaTransmit => exact execDmaTransmit_kept k
  | dmaReceive => exact execDmaReceive_kept k
  | dmaCopy => exact execDmaCopy_kept k
  | pclr => exact execPclr_kept k
  | setPending => exact execSetPending_kept k
  | doorbell => exact execDoorbell_kept k
  | ack => exact execAck_kept k
  | eoi => exact execEoi_kept k
  | ringBaseWrite => exact execRingBaseWrite_kept k
  | consWrite => exact execConsWrite_kept k
  | sourceConfigWrite => exact execSourceConfigWrite_kept k
  | targetBindWrite => exact execTargetBindWrite_kept k
  | dciFilterChange => exact execDciFilterChange_kept k
  | gpioLevelChange => exact execGpioLevelChange_kept k
  | pwrOkRise => exact execPwrOkRise_kept k
  | msixVectorUnmask => exact execMsixVectorUnmask_kept k
  | agingSweepEnd => exact execAgingSweepEnd_kept k
  | apertureWriteServed => exact execApertureWriteServed_kept k stores
  | uncorrectableCodeword => exact execUncorrectableCodeword_kept k

end

end Sys2Proof.Machine

namespace Sys2Proof.Claims

open Sys2Proof.Machine

/-- Settles O7: what is kept of the device state by every command is that it moves along the table. -/
theorem deviceStateFollowsTheTable : Obligations.DeviceStateFollowsTheTable := by
  unfold Obligations.DeviceStateFollowsTheTable
  intro c s t hs ht
  exact ((exec_moves c hs).kept t ht).dev

end Sys2Proof.Claims
end

section
/-! SUPPORT. What one write of `MLD_CTL` does in each device state (R70 to R72, R85), and O15. -/

namespace Sys2Proof.Machine

open Sys2Proof.Claims

variable {s : State} {v : Word}

/-! ### The report -/

theorem rd_wrAll_of_not_mem {l : List (Nat × Word)} {o : Nat} (ho : o ∉ l.map Prod.fst) : rd (wrAll s l) o = rd s o := by
  induction l generalizing s with
  | nil => rfl
  | cons e l ih =>
    rw [List.map_cons, List.mem_cons, not_or] at ho
    calc rd (wrAll s (e :: l)) o = rd (wr s e.1 e.2) o := ih ho.2
      _ = rd s o := rd_wr_ne s e.2 ho.1

theorem rd_wrAll_of_forall_eq {l : List (Nat × Word)} {o : Nat} {w : Word} (hs : Registers.wf s.regs = true)
    (hl : ∀ e ∈ l, e.2 = w) (ho : o ∈ l.map Prod.fst) : rd (wrAll s l) o = w := by
  induction l generalizing s with
  | nil => simp at ho
  | cons e l ih =>
    have hw : e.2 = w := hl e List.mem_cons_self
    by_cases hm : o ∈ l.map Prod.fst
    · exact ih (wf_wr hs e.1 e.2) (fun x hx => hl x (List.mem_cons_of_mem e hx)) hm
    · have he : o = e.1 := by simpa [hm] using ho
      calc rd (wrAll s (e :: l)) o = rd (wr s e.1 e.2) o := rd_wrAll_of_not_mem hm
        _ = w := by rw [rd_wr hs, if_pos he, hw]

/-- The registers of the report on a refused image (R85). -/
def reportRegs : List Nat := [R.MLD_REFUSE, R.MLD_ITEM, R.MLD_NEED, R.MLD_HAVE]

theorem regsBut_clearReport (s : State) : RegsBut s (clearReport s) reportRegs := fun _ ho => rd_wrAll_of_not_mem ho

theorem rd_clearReport_of_mem (hs : Canonical s) {o : Nat} (ho : o ∈ reportRegs) : rd (clearReport s) o = 0 :=
  rd_wrAll_of_forall_eq hs.1 (by simp) ho

/-! ### The command bits -/

theorem mldCtl_ignored (hv : fld v 3 0 ∉ [1, 2, 4, 8]) : mldCtl s v = s := by
  unfold mldCtl
  split
  all_goals simp_all

theorem mldCtl_load_of_bare_or_refused (hv : fld v 3 0 = 1) (hd : s.dev = .bare ∨ s.dev = .refused) :
    mldCtl s v = startLaying (clearReport s) := by
  rcases hd with hd | hd <;> simp [mldCtl, hv, hd]

theorem mldCtl_load_of_laid (hv : fld v 3 0 = 1) (hd : s.dev = .laid) :
    mldCtl s v = (clearReport s).setMld { s.mld with liftReq := true, pendLoad := true } := by simp [mldCtl, hv, hd]

theorem mldCtl_load_of_lifting (hv : fld v 3 0 = 1) (hd : s.dev = .lifting) :
    mldCtl s v = (clearReport s).setMld { s.mld with pendLoad := true } := by simp [mldCtl, hv, hd]

theorem mldCtl_abort_of_laying (hv : fld v 3 0 = 2) (hd : s.dev = .laying) :
    mldCtl s v = mldCond ((s.setDev .bare).setMld { s.mld with image := [] }) 2 [] := by simp [mldCtl, abortLaying, hv, hd]

theorem mldCtl_abort_of_lifting (hv : fld v 3 0 = 2) (hd : s.dev = .lifting) :
    mldCtl s v = s.setMld { s.mld with pendLoad := false } := by simp [mldCtl, hv, hd]

theorem mldCtl_clear_of_refused (hv : fld v 3 0 = 4) (hd : s.dev = .refused) : mldCtl s v = s.setDev .bare := by
  simp [mldCtl, hv, hd]

theorem mldCtl_lift_of_laid (hv : fld v 3 0 = 8) (hd : s.dev = .laid) :
    mldCtl s v = s.setMld { s.mld with liftReq := true } := by simp [mldCtl, hv, hd]

/-- The four rows of `MLD_CTL` are one write, whichever of them brings it. -/
theorem exec_of_mldCtl_row {c : Instr} {fn : BitVec 6} (ha : accessOk s fn.toNat R.MLD_CTL = true)
    (hc : c ∈ [Instr.load fn v, .abort fn v, .clear fn v, .lift fn v]) : exec c s = .next (mldCtl s v) := by
  have row : (.next (if accessOk s fn.toNat R.MLD_CTL then mldCtl s v else s) : Host.Outcome State Fault Refusal) =
      .next (mldCtl s v) := by rw [if_pos ha]
  simp only [List.mem_cons, List.not_mem_nil, or_false] at hc
  rcases hc with rfl | rfl | rfl | rfl <;> exact row

/-- A condition of `MLD_STAT` is a request, and a request is all that it changes (R74). -/
theorem mldCond_eq_setEv (s : State) (bits : Nat) : mldCond s bits [] = s.setEv (mldCond s bits []).ev := by
  unfold mldCond
  split <;> rfl

theorem mem_reqs_mldCond (s : State) (bits : Nat) :
    HwReq.cond R.MLD_STAT 0 (BitVec.ofNat 32 bits) [] 0 .newBits ∈ (mldCond s bits []).ev.reqs := by
  unfold mldCond
  split <;> simp [setCondWith, fireSrc]

end Sys2Proof.Machine

namespace Sys2Proof.Claims

open Sys2Proof.Machine

/-- Settles O15: each of the four rows is the one write of `MLD_CTL`, which is then taken bit by bit and state by state. -/
theorem loaderCommands : Obligations.LoaderCommands := by
  unfold Obligations.LoaderCommands
  intro s fn v hs ha c hc
  rw [exec_of_mldCtl_row ha hc]
  refine ⟨fun hv => ?ignored, fun hv hd => ?start, fun hv hd => ?loadLaid, fun hv hd => ?loadLifting, fun hv hd => ?abortLaying,
    fun hv hd => ?abortLifting, fun hv hd => ?clear, fun hv hd => ?lift⟩
  case ignored => rw [mldCtl_ignored hv]
  case start =>
    rw [mldCtl_load_of_bare_or_refused hv hd]
    have hbut := regsBut_clearReport s
    have hzero := fun o => rd_clearReport_of_mem hs (o := o)
    refine ⟨_, rfl, rfl, ?_, rfl, hbut, hzero _ (by decide), hzero _ (by decide), hzero _ (by decide), hzero _ (by decide)⟩
    rw [← hbut R.MLD_SRC_LO (by decide), ← hbut R.MLD_SRC_HI (by decide), ← hbut R.MLD_LEN (by decide)]
    rfl
  case loadLaid => exact ⟨_, congrArg _ (mldCtl_load_of_laid hv hd), rfl, regsBut_clearReport s⟩
  case loadLifting => exact ⟨_, congrArg _ (mldCtl_load_of_lifting hv hd), rfl, regsBut_clearReport s⟩
  case abortLaying =>
    rw [mldCtl_abort_of_laying hv hd]
    refine ⟨_, rfl, ?_, mem_reqs_mldCond _ 2, mldCond_eq_setEv _ 2⟩
    rw [mldCond_eq_setEv]
    rfl
  case abortLifting => rw [mldCtl_abort_of_lifting hv hd]
  case clear => rw [mldCtl_clear_of_refused hv hd]
  case lift => rw [mldCtl_lift_of_laid hv hd]

end Sys2Proof.Claims
end

section
/-! SUPPORT. What the end of a rank-0 transfer changes (R173, R178), and O27: a conditional REPLACE of a valid entry (R174). -/

namespace Sys2Proof.Machine

variable {s : State}

/-- The request by which a discarded command is reported in `UPD_STAT` and `UPD_REJ` (R174 to R178). -/
def rejectReq (s : State) (bitNo op reason addr : Nat) : HwReq :=
  .cond R.UPD_STAT 67 (BitVec.ofNat 32 (2 ^ bitNo)) [(R.UPD_REJ, rejWord op reason addr)] (regionTenant s addr) .newBits

/-- A discarded command leaves behind its request and nothing else. -/
theorem updReject_eq (s : State) (bitNo op reason addr : Nat) : updReject s bitNo op reason addr =
    s.setEv { s.ev with reqs := s.ev.reqs ++ [rejectReq s bitNo op reason addr] } := rfl

/-- The checks at the head of the FIFO set a new FIFO, a tail of the old one, and add requests; all else stands (R178). -/
theorem settleHead_eq (s : State) (l : List UpdItem) : ∃ reqs fifo, fifo <:+ l ∧
    settleHead s l = (s.setEv { s.ev with reqs := s.ev.reqs ++ reqs }).setUpd { s.upd with fifo := fifo } := by
  induction l generalizing s with
  | nil => exact ⟨[], [], List.suffix_refl [], by rw [List.append_nil]; rfl⟩
  | cons i l ih =>
    cases hf : itemFault s i with
    | none => exact ⟨[], i :: l, List.suffix_refl _, by rw [settleHead, hf, List.append_nil]; rfl⟩
    | some r =>
      obtain ⟨reqs, fifo, htail, heq⟩ := ih (updReject s 2 (itemOpAddr i).1 r (itemOpAddr i).2)
      refine ⟨rejectReq s 2 (itemOpAddr i).1 r (itemOpAddr i).2 :: reqs, fifo, htail.trans (List.suffix_cons i l), ?_⟩
      rw [settleHead, hf, List.append_cons]
      exact heq

/-- The end of a rank-0 transfer frees the port, sets what the checks left of the FIFO behind its head, and adds their requests; all
else stands (R173, R178). -/
theorem endTransfer_eq (s : State) (c : Nat) : ∃ reqs fifo, fifo <:+ s.upd.fifo.drop 1 ∧
    endTransfer s c = (s.setEv { s.ev with reqs := s.ev.reqs ++ reqs }).setUpd { s.upd with free := c, rank := 0, fifo := fifo } :=
  settleHead_eq (s.setUpd { s.upd with free := c, rank := 0 }) (s.upd.fifo.drop 1)

/-- A granted command of the operation that a row serves is executed from the cycle of its grant. -/
theorem serveCmd_of_hostGrant {op c fn c0 : Nat} {ws : List Word} (f : State → Nat → List Word → Nat → State)
    (hg : hostGrant s c = some (.cmd fn ws, c0)) (hop : fld (ws.headD 0) 31 28 = op) : serveCmd s op c f = f s fn ws c0 := by
  simp only [serveCmd, hg, if_pos hop]

/-- A conditional REPLACE of a valid entry is its SKIP alone (R174). -/
theorem doReplace_of_skip {ws : List Word} {c : Nat} (hcond : bit (ws.headD 0) 27 = true)
    (hvalid : portValid s (fld (ws.headD 0) 19 0) c = true) :
    doReplace s ws c = endTransfer (updReject s 3 5 8 (fld (ws.headD 0) 19 0)) (c + 1) := by
  simp only [doReplace, hcond, hvalid, Bool.and_self, if_true]

theorem exec_replace_of_hostGrant {cyc : BitVec 4} {fn c0 : Nat} {ws : List Word}
    (hg : hostGrant s (s.dkl.cyc + cyc.toNat) = some (.cmd fn ws, c0)) (hop : fld (ws.headD 0) 31 28 = 5) :
    exec (.replace cyc) s = .next (doReplace s ws c0) :=
  congrArg Host.Outcome.next (serveCmd_of_hostGrant (fun s _ ws c => doReplace s ws c) hg hop)

end Sys2Proof.Machine

namespace Sys2Proof.Claims

open Sys2Proof.Machine

/-- Settles O27: the command is a SKIP request and the end of its transfer, which adds requests behind that one and leaves
everything but the port and its FIFO. -/
theorem replaceSkipsWithCond : Obligations.ReplaceSkipsWithCond := by
  unfold Obligations.ReplaceSkipsWithCond
  intro s cyc fn c0 ws hs hg hop hcond hvalid
  obtain ⟨reqs, fifo, -, hend⟩ := endTransfer_eq (updReject s 3 5 8 (fld (ws.headD 0) 19 0)) (c0 + 1)
  have hexec := exec_replace_of_hostGrant hg hop
  rw [doReplace_of_skip hcond hvalid, hend] at hexec
  refine ⟨_, hexec, ⟨rfl, rfl, rfl, rfl, hs⟩, rfl, rfl, ⟨rfl, rfl⟩, ?_⟩
  rw [updReject_eq]
  exact List.mem_append_left reqs (List.mem_append_right s.ev.reqs List.mem_cons_self)

end Sys2Proof.Claims
end

section
/-! SUPPORT. What the pop of a running priority changes (R552 to R554), and O60. -/

namespace Sys2Proof.Machine

open Sys2Proof.Claims

variable {s : State} {t p n m : Nat}

/-! ### Bits and fields -/

theorem highestBit_zero (n : Nat) : highestBit n 0 = none := by
  induction n with
  | zero => rfl
  | succ n ih => simp [highestBit, ih]

theorem highestBit_eq_some {v : Nat} (hp : p < n) (hbit : v.testBit p = true)
    (habove : ∀ q, q < n → p < q → v.testBit q = false) : highestBit n v = some p := by
  induction n with
  | zero => omega
  | succ n ih =>
    rcases Nat.lt_succ_iff_lt_or_eq.1 hp with hlt | rfl
    · rw [highestBit, habove n n.lt_succ_self hlt]
      exact ih hlt fun q hq => habove q (Nat.lt_succ_of_lt hq)
    · rw [highestBit, if_pos hbit]

/-- A word is what a mask keeps of it and what the mask takes from it. -/
theorem and_not_eq_sub (w x : Word) : w &&& ~~~x = w - (w &&& x) := by
  have hdisjoint : (w &&& ~~~x) &&& (w &&& x) = 0#32 := by ext i; grind
  have hsum : (w &&& ~~~x) + (w &&& x) = w := by
    rw [BitVec.add_eq_or_of_and_eq_zero _ _ hdisjoint]
    ext i; grind
  rw [eq_comm, BitVec.sub_eq_iff_eq_add, hsum]

theorem setFld_bit_zero (w : Word) {i : Nat} (hi : i < 32) : setFld w i i 0 = w &&& ~~~BitVec.twoPow 32 i := by
  have hbits : bits w.toNat i i * 2 ^ i = (w &&& BitVec.twoPow 32 i).toNat := by
    rw [BitVec.and_twoPow, bits, Nat.add_sub_cancel_left, BitVec.getLsbD, Nat.testBit_eq_decide_div_mod_eq]
    rcases Nat.mod_two_eq_zero_or_one (w.toNat / 2 ^ i) with h | h
    · simp [h]
    · have hlt : 2 ^ i < 2 ^ 32 := Nat.pow_lt_pow_right (by decide) hi
      simpa [h, BitVec.toNat_twoPow] using (Nat.mod_eq_of_lt hlt).symm
  have hle : (w &&& BitVec.twoPow 32 i).toNat ≤ w.toNat := by
    rw [BitVec.toNat_and]; exact Nat.and_le_left
  rw [and_not_eq_sub, setFld, hbits, Nat.zero_mod, Nat.zero_mul, Nat.add_zero,
    ← BitVec.ofNat_sub_ofNat_of_le _ _ (BitVec.isLt _) hle, BitVec.ofNat_toNat, BitVec.ofNat_toNat, BitVec.setWidth_eq,
    BitVec.setWidth_eq]

theorem bit_setFld_bit_zero (w : Word) {i : Nat} (hi : i < 32) (j : Nat) : bit (setFld w i i 0) j = (bit w j && j != i) := by
  rw [setFld_bit_zero w hi]
  show (w &&& ~~~BitVec.twoPow 32 i).getLsbD j = (w.getLsbD j && j != i)
  rw [BitVec.getLsbD_and, BitVec.getLsbD_not, BitVec.getLsbD_twoPow]
  grind

/-! ### The running-priority stack -/

theorem stackLevels_lt (s : State) (t : Nat) : stackLevels s t < 2 ^ 16 := Nat.mod_lt _ (by decide)

theorem stackLevels_setStack (hs : Registers.wf s.regs = true) {levels : Nat} (hl : levels < 2 ^ 16) :
    stackLevels (setStack s t levels) t = levels := by
  rw [stackLevels, rdF, setStack, rd_wr hs, if_pos rfl, fld, bits, BitVec.toNat_ofNat]
  split <;> omega

@[simp] theorem stackLevels_setEv (s : State) (e : Ev) (t : Nat) : stackLevels (s.setEv e) t = stackLevels s t := rfl

theorem rd_setStack_of_ne {levels o : Nat} (ho : o ≠ R.EVC_TGTt_RUN t) : rd (setStack s t levels) o = rd s o :=
  rd_wr_ne s _ ho

/-! ### The active bits -/

@[simp] theorem srcActive_setEv (s : State) (e : Ev) (n : Nat) : srcActive (s.setEv e) n = srcActive s n := rfl

theorem rd_setActive_of_ne {b : Bool} {o : Nat} (ho : o ≠ R.EVC_ACTw (n / 32)) : rd (setActive s n b) o = rd s o :=
  rd_wr_ne s _ ho

theorem srcActive_setActive_false (hs : Registers.wf s.regs = true) (n m : Nat) :
    srcActive (setActive s n false) m = (srcActive s m && m != n) := by
  rw [srcActive, rdB, setActive, wrF, rd_wr hs]
  by_cases hw : m / 32 = n / 32
  · have hmn : (m % 32 != n % 32) = (m != n) := by grind
    rw [hw, if_pos rfl, b2n, if_neg Bool.false_ne_true, bit_setFld_bit_zero _ (Nat.mod_lt _ (by decide)), hmn, srcActive, rdB, hw]
  · have hne : R.EVC_ACTw (m / 32) ≠ R.EVC_ACTw (n / 32) := by unfold R.EVC_ACTw; omega
    have hmn : (m != n) = true := by grind
    rw [if_neg hne, hmn, Bool.and_true]
    rfl

/-! The stack, the configuration of a source and the active bits stand in different registers. -/

theorem run_ne_actw (hn : n < 512) : R.EVC_TGTt_RUN t ≠ R.EVC_ACTw (n / 32) := by
  unfold R.EVC_TGTt_RUN R.EVC_ACTw; omega

theorem cfg_ne_actw (hn : n < 512) : R.EVC_SRCn_CFG m ≠ R.EVC_ACTw (n / 32) := by
  unfold R.EVC_SRCn_CFG R.EVC_ACTw; omega

theorem cfg_ne_run (hm : m < 512) : R.EVC_SRCn_CFG m ≠ R.EVC_TGTt_RUN t := by
  unfold R.EVC_SRCn_CFG R.EVC_TGTt_RUN; omega

/-! ### The pop -/

/-- A source of target t and priority p. -/
def servedBy (s : State) (t p n : Nat) : Bool := srcTarget s n == t && srcPrio s n == p

/-- What the pop of priority p of target t does to one source (R554). -/
def endService (t p : Nat) (u : State) (n : Nat) : State :=
  if srcActive u n && srcTarget u n == t && srcPrio u n == p then setActive u n false else u

/-- The state behind a pop of priority p of target t, up to its note for the event tick: the stack keeps the other priorities, and the
sources of the popped one are no longer active (R553, R554). -/
def popService (s : State) (t p : Nat) : State :=
  (List.range 512).foldl (endService t p) (setStack s t (stackLevels s t - 2 ^ p))

theorem servedBy_congr {u : State} (h : rd u (R.EVC_SRCn_CFG m) = rd s (R.EVC_SRCn_CFG m)) :
    servedBy u t p m = servedBy s t p m := by
  simp only [servedBy, srcTarget, srcPrio, rdF, h]

/-- The pop either clears the active bit of a source, which it serves, or finds nothing to clear. -/
theorem endService_eq_self_or (t p : Nat) (u : State) (n : Nat) :
    (endService t p u n = setActive u n false ∧ servedBy u t p n = true) ∨
      (endService t p u n = u ∧ (srcActive u n = false ∨ servedBy u t p n = false)) := by
  unfold endService servedBy
  split <;> grind

theorem endService_eq_setRegs (t p : Nat) (u : State) (n : Nat) : endService t p u n = u.setRegs (endService t p u n).regs := by
  rcases endService_eq_self_or t p u n with ⟨h, -⟩ | ⟨h, -⟩ <;> rw [h] <;> rfl

theorem wf_endService (hs : Registers.wf s.regs = true) (t p n : Nat) : Registers.wf (endService t p s n).regs = true := by
  rcases endService_eq_self_or t p s n with ⟨h, -⟩ | ⟨h, -⟩ <;> rw [h]
  · exact wf_wr hs _ _
  · exact hs

theorem rd_endService_of_ne {o : Nat} (ho : o ≠ R.EVC_ACTw (n / 32)) : rd (endService t p s n) o = rd s o := by
  rcases endService_eq_self_or t p s n with ⟨h, -⟩ | ⟨h, -⟩ <;> rw [h]
  exact rd_setActive_of_ne ho

theorem srcActive_endService (hs : Registers.wf s.regs = true) (n m : Nat) :
    srcActive (endService t p s n) m = (srcActive s m && !(m == n && servedBy s t p m)) := by
  rcases endService_eq_self_or t p s n with ⟨h, hn⟩ | ⟨h, hn⟩ <;> rw [h]
  · rw [srcActive_setActive_false hs]
    grind
  · grind

theorem foldl_endService_eq_setRegs (l : List Nat) (s : State) :
    l.foldl (endService t p) s = s.setRegs (l.foldl (endService t p) s).regs := by
  induction l generalizing s with
  | nil => rfl
  | cons n l ih =>
    rw [List.foldl_cons, ih, endService_eq_setRegs t p s n]
    rfl

theorem rd_foldl_endService_of_ne {l : List Nat} {o : Nat} (ho : ∀ n ∈ l, o ≠ R.EVC_ACTw (n / 32)) :
    rd (l.foldl (endService t p) s) o = rd s o := by
  induction l generalizing s with
  | nil => rfl
  | cons n l ih =>
    rw [List.foldl_cons, ih fun k hk => ho k (List.mem_cons_of_mem n hk), rd_endService_of_ne (ho n List.mem_cons_self)]

/-- Of the sources gone through, those of the target and priority are no longer active; every other active bit stands (R554). -/
theorem srcActive_foldl_endService {l : List Nat} (hs : Registers.wf s.regs = true) (hl : ∀ n ∈ l, n < 512) (m : Nat) :
    srcActive (l.foldl (endService t p) s) m = (srcActive s m && !(decide (m ∈ l) && servedBy s t p m)) := by
  induction l generalizing s with
  | nil => simp
  | cons n l ih =>
    have hserved : servedBy (endService t p s n) t p m = servedBy s t p m :=
      servedBy_congr (rd_endService_of_ne (cfg_ne_actw (hl n List.mem_cons_self)))
    rw [List.foldl_cons, ih (wf_endService hs t p n) fun k hk => hl k (List.mem_cons_of_mem n hk), srcActive_endService hs, hserved]
    grind

theorem popService_eq_setRegs (s : State) (t p : Nat) : popService s t p = s.setRegs (popService s t p).regs :=
  foldl_endService_eq_setRegs _ _

theorem rd_popService_of_ne {o : Nat} (hrun : o ≠ R.EVC_TGTt_RUN t) (hact : ∀ n, n < 512 → o ≠ R.EVC_ACTw (n / 32)) :
    rd (popService s t p) o = rd s o :=
  (rd_foldl_endService_of_ne fun n hn => hact n (List.mem_range.1 hn)).trans (rd_setStack_of_ne hrun)

theorem stackLevels_popService (hs : Registers.wf s.regs = true) (t p : Nat) :
    stackLevels (popService s t p) t = stackLevels s t - 2 ^ p := by
  have hrun : rd (popService s t p) (R.EVC_TGTt_RUN t) = rd (setStack s t (stackLevels s t - 2 ^ p)) (R.EVC_TGTt_RUN t) :=
    rd_foldl_endService_of_ne fun n hn => run_ne_actw (List.mem_range.1 hn)
  rw [stackLevels, rdF, hrun]
  exact stackLevels_setStack hs (Nat.lt_of_le_of_lt (Nat.sub_le _ _) (stackLevels_lt s t))

theorem srcActive_popService (hs : Registers.wf s.regs = true) (t p : Nat) (hn : n < 512) :
    srcActive (popService s t p) n = (srcActive s n && !servedBy s t p n) := by
  have hactive : srcActive (setStack s t (stackLevels s t - 2 ^ p)) n = srcActive s n :=
    congrArg (bit · (n % 32)) (rd_setStack_of_ne (run_ne_actw hn).symm)
  have hserved : servedBy (setStack s t (stackLevels s t - 2 ^ p)) t p n = servedBy s t p n :=
    servedBy_congr (rd_setStack_of_ne (cfg_ne_run hn))
  rw [popService, srcActive_foldl_endService (s := setStack s t _) (wf_wr hs _ _) (fun _ => List.mem_range.1), hactive, hserved,
    decide_eq_true (List.mem_range.2 hn), Bool.true_and]

/-! ### The command -/

theorem mem_reqs_evcCond (s : State) (cond t p n : Nat) :
    HwReq.cond R.EVC_STAT 19 (BitVec.ofNat 32 (2 ^ cond))
      [(R.EVC_LAST, BitVec.ofNat 32 (cond * 2 ^ 30 + t * 2 ^ 24 + p * 2 ^ 16 + n))] 0 .newBits ∈ (evcCond s cond t p n).ev.reqs :=
  List.mem_append_right s.ev.reqs List.mem_cons_self

theorem writeEoi_of_empty (h : stackLevels s t = 0) : writeEoi s t = evcCond s 1 t 0 0 := by
  rw [writeEoi, h, highestBit_zero]

theorem writeEoi_of_highestBit (h : highestBit 16 (stackLevels s t) = some p) :
    writeEoi s t = (popService s t p).setEv { s.ev with pops := s.ev.pops ++ [(t, p)] } := by
  have hpass : endService t p =
      fun u n => if srcActive u n && srcTarget u n == t && srcPrio u n == p then setActive u n false else u := rfl
  have hev : (popService s t p).ev = s.ev := by rw [popService_eq_setRegs, State.setRegs_ev]
  rw [← hev, popService, hpass]
  simp only [writeEoi, h]

theorem exec_eoi {fn : BitVec 6} {t : BitVec 3} (ha : accessOk s fn.toNat (R.EVC_TGTt_EOI t.toNat) = true) :
    exec (.eoi fn t) s = .next (writeEoi s t.toNat) := congrArg Host.Outcome.next (if_pos ha)

theorem setEv_eq_of_eq_setRegs {u : State} (h : u = s.setRegs u.regs) (e : Ev) :
    u.setEv e = (s.setRegs (u.setEv e).regs).setEv (u.setEv e).ev := congrArg (State.setEv · e) h

/-- What `KeepsMain` says is kept from a state on. -/
def Keep.main (s : State) : Keep :=
  { queue := s.pending, dev := (· = s.dev), num := (· = s.dkl.num), mem := (· = s.dst), mld := fun _ => True, mgt := fun _ => True }

theorem kept_main (hs : Canonical s) : Kept (Keep.main s) s := ⟨rfl, hs.1, hs.2, rfl, rfl, rfl, trivial, trivial⟩

theorem Kept.keepsMain {u : State} (h : Kept (Keep.main s) u) : KeepsMain s u := ⟨h.queue, h.dev, h.num, h.store, h.regs, h.mem⟩

end Sys2Proof.Machine

namespace Sys2Proof.Claims

open Sys2Proof.Machine

/-- Settles O60: on an empty stack the write is one request; otherwise it is a write of the stack, a pass over the sources that
clears active bits alone, and the note of the pop. -/
theorem endOfInterruptPopsTheStack : Obligations.EndOfInterruptPopsTheStack := by
  unfold Obligations.EndOfInterruptPopsTheStack
  intro s fn t hs ha
  have hmain : KeepsMain s (writeEoi s t.toNat) := (writeEoi_kept (kept_main hs)).keepsMain
  refine ⟨fun hempty => ?empty, fun p hp hbit habove => ?pop⟩
  case empty =>
    have heq := writeEoi_of_empty hempty
    exact ⟨_, exec_eoi ha, hmain, heq, _, _, heq ▸ mem_reqs_evcCond s 1 t.toNat 0 0⟩
  case pop =>
    have heq := writeEoi_of_highestBit (highestBit_eq_some hp hbit habove)
    refine ⟨_, exec_eoi ha, hmain, ?_⟩
    rw [heq, stackLevels_setEv, State.setEv_ev]
    refine ⟨stackLevels_popService hs.1 t.toNat p, rfl, setEv_eq_of_eq_setRegs (popService_eq_setRegs s t.toNat p) _,
      fun n hn => (srcActive_setEv _ _ n).trans (srcActive_popService hs.1 t.toNat p hn), fun o ho => ?_⟩
    rw [List.mem_cons, not_or] at ho
    obtain ⟨hrun, hact⟩ := ho
    rw [rd_setEv]
    refine rd_popService_of_ne hrun fun n hn he => hact ?_
    exact List.mem_map.2 ⟨n / 32, List.mem_range.2 (by omega), he.symm⟩

end Sys2Proof.Claims
end

section
/-! SUPPORT. What every command keeps (R39, R42, R70, R490), and O4, O5, O8 and O9. -/

namespace Sys2Proof.Machine

open Sys2Proof.Claims

variable {Q : Keep} {s t : State} {c : Instr}

/-! ### The number that a boundary opens -/

theorem foldl_dkl_eq {α : Type} {f : State → α → State} (hf : ∀ t a, (f t a).dkl = t.dkl) (l : List α) (s : State) :
    (l.foldl f s).dkl = s.dkl := by
  induction l generalizing s with
  | nil => rfl
  | cons a l ih => exact (ih _).trans (hf s a)

@[simp] theorem dklCond_dkl (s : State) (b : Nat) (on : Bool) : (dklCond s b on).dkl = s.dkl := by
  unfold dklCond; split <;> rfl

theorem txAll_dkl (s : State) (d : Nat) : (txAll s d).1.dkl = s.dkl := by
  unfold txAll
  generalize s.strm.tx = l
  generalize hp : (s, ([] : List (Nat × Nat × Nat × List Byte))) = p
  rw [show s = p.1 by rw [← hp]]
  clear hp
  induction l generalizing p with
  | nil => rfl
  | cons e l ih =>
    rw [List.foldl_cons, ih]
    dsimp only
    split <;> rfl

/-- What a tick finds unfinished does not touch the counter of deckles. -/
@[simp] theorem overruns_dkl (s : State) : (overruns s).dkl = s.dkl := by
  have hcut : (if mixUnfinished s then dklCond (cutMix s (deckleCycle s s.dkl.cyc)) 0 true else s).dkl = s.dkl := by
    split <;> simp [cutMix]
  unfold overruns
  split
  · rfl
  · dsimp only
    split <;> simp [txSkip, txAll_dkl, hcut]

theorem tickNumber_overruns (s : State) : tickNumber (audioTurn (overruns s)) = tickNumber s := by
  have h : (audioTurn (overruns s)).dkl = s.dkl := overruns_dkl s
  simp only [tickNumber, h]

/-! ### Every command -/

theorem boundaryFor_kept_of_due {cause : Bool} (k : Kept Q s) (hdev : ∀ d, Q.dev d) (hmld : ∀ x, Q.mld x) (hmgt : ∀ x, Q.mgt x)
    (hnum : boundaryDue s = true → Q.num (tickNumber s)) (h0 : Q.num 0) : KeptN Q (.next (boundaryFor s cause)) := by
  refine .next ?_
  unfold boundaryFor
  split
  · next h =>
    rw [Bool.and_eq_true] at h
    exact boundary_kept k (hdev _) (hdev _) (hdev _) h0 (tickNumber_overruns s ▸ hnum h.1) hmld hmgt
  · exact k

theorem execDeckleTick_kept_of_due {wck : List Nat} (k : Kept Q s) (hdev : ∀ d, Q.dev d) (hmld : ∀ x, Q.mld x) (hmgt : ∀ x, Q.mgt x)
    (hnum : boundaryDue s = true → Q.num (tickNumber s)) (h0 : Q.num 0) : KeptN Q (execDeckleTick wck s) := by
  refine .next ?_
  split
  · next h => exact boundary_kept k (hdev _) (hdev _) (hdev _) h0 (tickNumber_overruns s ▸ hnum h) hmld hmgt
  · exact k

/-- What a predicate of the deckle number and of the deep store asks of a command to outlast it: of those that write the deep store
that it outlasts their bytes, of those that bring a boundary that it holds of the number that a due one opens, and of those after which
the count starts again that it holds of zero. -/
theorem exec_kept (c : Instr) (k : Kept Q s) (hdev : ∀ d, Q.dev d) (hmld : ∀ x, Q.mld x) (hmgt : ∀ x, Q.mgt x)
    (hmem : WritesStore c → Q.Stores ∧ Q.mem []) (hnum : Boundaries c → boundaryDue s = true → Q.num (tickNumber s))
    (h0 : c = .checkingEnd ∨ Resets c → Q.num 0) : KeptN Q (exec c s) := by
  have hM : Q.Mld := ⟨fun _ => hdev _, fun _ => hdev _, fun _ => hdev _, fun _ => hdev _⟩
  have tick : Boundaries c → ∀ cause, KeptN Q (.next (boundaryFor s cause)) :=
    fun hb _ => boundaryFor_kept_of_due k hdev hmld hmgt (hnum hb) (h0 (.inr (.inl hb)))
  cases c with
  -- Resets and the reset hold.
  | pwrOkFall => exact execPwrOkFall_kept k (hdev _) (h0 (.inr (.inr trivial))) (hmem trivial).2 hmld hmgt
  | rstNFall => exact execRstNFall_kept k (hdev _) (h0 (.inr (.inr trivial))) (hmem trivial).2 hmld hmgt
  | rstNRise => exact execRstNRise_kept k (hdev _) (h0 (.inr (.inr trivial))) (hmem trivial).2 hmld hmgt
  | pllLossOfLock => exact execPllLossOfLock_kept k (hdev _) (h0 (.inr (.inr trivial))) hmld hmgt
  | thermalTrip => exact execThermalTrip_kept k (hdev _) (h0 (.inr (.inr trivial))) hmld hmgt
  -- Boundaries.
  | deckleTick => exact execDeckleTick_kept_of_due k hdev hmld hmgt (hnum trivial) (h0 (.inr (.inl trivial)))
  | liftBegin => exact tick trivial _
  | liftEnd => exact tick trivial _
  | commitCarryOut => exact tick trivial _
  | holdEnd => exact tick trivial _
  | waiteTimeout => exact tick trivial _
  | waitdExpiry => exact tick trivial _
  | waituReached => exact tick trivial _
  | stallRelease => exact tick trivial _
  | trellisDeadline => exact tick trivial _
  | substituteLaunch => exact tick trivial _
  | migrationEffect => exact tick trivial _
  | fence => exact tick trivial _
  | takeover => exact tick trivial _
  | faultn => exact tick trivial _
  | rearm => exact tick trivial _
  -- Writes of the deep store.
  | dramInitDone => exact execDramInitDone_kept k (hmem trivial).2
  | forwardDecision => exact execForwardDecision_kept k (hmem trivial).1
  | stageA => exact execStageA_kept k (hmem trivial).1
  | stageC => exact execStageC_kept k (hmem trivial).1
  | deadlineMiss => exact execDeadlineMiss_kept k (hmem trivial).1
  | apertureWriteServed => exact execApertureWriteServed_kept k (hmem trivial).1
  | imageComplete => exact execImageComplete_kept k (hdev _) (hmem trivial).1 hmld
  | checkingEnd => exact execCheckingEnd_kept k (hdev _) (hdev _) (h0 (.inl rfl)) hmld
  -- Commands that may reach the loader, or the state of the sensors and of the test access port.
  | load => exact execLoad_kept k hM hmld
  | abort => exact execAbort_kept k hM hmld
  | clear => exact execClear_kept k hM hmld
  | lift => exact execLift_kept k hM hmld
  | mirrorSetApply => exact execMirrorSetApply_kept k hM hmld
  | registerWrite => exact execRegisterWrite_kept k hM hmld
  | setAliasWrite => exact execSetAliasWrite_kept k hM hmld
  | clearAliasWrite => exact execClearAliasWrite_kept k hM hmld
  | toggleAliasWrite => exact execToggleAliasWrite_kept k hM hmld
  | clearBySequence => exact execClearBySequence_kept k hM hmld
  | wideReq => exact execWideReq_kept k hM hmld
  | indSelAddrWrite => exact execIndSelAddrWrite_kept k hM hmld
  | indDataWrite => exact execIndDataWrite_kept k hM hmld
  | lockSet => exact execLockSet_kept k hM hmld
  | tpartWrite => exact execTpartWrite_kept k hM hmld
  | outenWrite => exact execOutenWrite_kept k hM hmld
  | muteWrite => exact execMuteWrite_kept k hM hmld
  | dmaTailWrite => exact execDmaTailWrite_kept k hM hmld
  | perstNAssert => exact execPerstNAssert_kept k hM hmld
  | loaderReadError => exact execLoaderReadError_kept k hM hmld
  | sensorSample => exact execSensorSample_kept k hmgt
  | tapInstruction => exact execTapInstruction_kept k hmgt
  -- The rest.
  | fabricPllLock => exact execFabricPllLock_kept k
  | pllLockTimeout => exact execPllLockTimeout_kept k
  | dramInitTimeout => exact execDramInitTimeout_kept k
  | pcieLinkUp => exact execPcieLinkUp_kept k
  | enterBare => exact execEnterBare_kept k
  | perstNDeassert => exact execPerstNDeassert_kept k
  | functionLevelReset => exact execFunctionLevelReset_kept k
  | powerMonitorSample => exact execPowerMonitorSample_kept k
  | mgtRead => exact execMgtRead_kept k
  | eventTick => exact execEventTick_kept k
  | parterreWindow => exact execParterreWindow_kept k
  | searchIssue => exact execSearchIssue_kept k
  | searchResult => exact execSearchResult_kept k
  | diagGo => exact execDiagGo_kept k
  | scrubVisit => exact execScrubVisit_kept k
  | scrubRewrite => exact execScrubRewrite_kept k
  | scrubStall => exact execScrubStall_kept k
  | updCmdWord => exact execUpdCmdWord_kept k
  | updFlush => exact execUpdFlush_kept k
  | write => exact execWrite_kept k
  | writeAd => exact execWriteAd_kept k
  | invalidate => exact execInvalidate_kept k
  | validate => exact execValidate_kept k
  | replace => exact execReplace_kept k
  | move => exact execMove_kept k
  | mark => exact execMark_kept k
  | quireCellWrite => exact execQuireCellWrite_kept k
  | frameReceive => exact execFrameReceive_kept k
  | sourceLookup => exact execSourceLookup_kept k
  | learningRequest => exact execLearningRequest_kept k
  | hold => exact execHold_kept k
  | agingTick => exact execAgingTick_kept k
  | agingRemoval => exact execAgingRemoval_kept k
  | staLookup => exact execStaLookup_kept k
  | staRead => exact execStaRead_kept k
  | staWrite => exact execStaWrite_kept k
  | staDelete => exact execStaDelete_kept k
  | staMove => exact execStaMove_kept k
  | staHash => exact execStaHash_kept k
  | flushGo => exact execFlushGo_kept k
  | flushDone => exact execFlushDone_kept k
  | tableRead => exact execTableRead_kept k
  | tableWrite => exact execTableWrite_kept k
  | ethPortCfgWrite => exact execEthPortCfgWrite_kept k
  | ethLinkUp => exact execEthLinkUp_kept k
  | ethLinkDown => exact execEthLinkDown_kept k
  | anFail => exact execAnFail_kept k
  | frameLaunch => exact execFrameLaunch_kept k
  | streamDescRead => exact execStreamDescRead_kept k
  | streamDescWrite => exact execStreamDescWrite_kept k
  | packetise => exact execPacketise_kept k
  | mixTier => exact execMixTier_kept k
  | liveCommand => exact execLiveCommand_kept k
  | mixLiveFlush => exact execMixLiveFlush_kept k
  | couchWrite => exact execCouchWrite_kept k
  | couchCheck => exact execCouchCheck_kept k
  | couchCheckDone => exact execCouchCheckDone_kept k
  | stripSubmit => exact execStripSubmit_kept k
  | meterRecordRead => exact execMeterRecordRead_kept k
  | hostCommit => exact execHostCommit_kept k
  | commitFrame => exact execCommitFrame_kept k
  | zoneDescriptorSubmit => exact execZoneDescriptorSubmit_kept k
  | overrideSetSubmit => exact execOverrideSetSubmit_kept k
  | zoneStatusRead => exact execZoneStatusRead_kept k
  | start => exact execStart_kept k
  | programCheckEnd => exact execProgramCheckEnd_kept k
  | stop => exact execStop_kept k
  | kick => exact execKick_kept k
  | nop => exact execNop_kept k
  | halt => exact execHalt_kept k
  | yieldRow => exact execYieldRow_kept k
  | waitd => exact execWaitd_kept k
  | waitu => exact execWaitu_kept k
  | waite => exact execWaite_kept k
  | clrc => exact execClrc_kept k
  | sig => exact execSig_kept k
  | flags => exact execFlags_kept k
  | ldi => exact execLdi_kept k
  | ldih => exact execLdih_kept k
  | alu => exact execAlu_kept k
  | addi => exact execAddi_kept k
  | rdin => exact execRdin_kept k
  | br => exact execBr_kept k
  | brb => exact execBrb_kept k
  | commit => exact execCommit_kept k
  | live => exact execLive_kept k
  | play => exact execPlay_kept k
  | raise => exact execRaise_kept k
  | restart => exact execRestart_kept k
  | edlPnpWrite => exact execEdlPnpWrite_kept k
  | gen1Write => exact execGen1Write_kept k
  | parleyStart => exact execParleyStart_kept k
  | capabilityPage => exact execCapabilityPage_kept k
  | nomodeRetry => exact execNomodeRetry_kept k
  | trainingSuccess => exact execTrainingSuccess_kept k
  | trainingTimeout => exact execTrainingTimeout_kept k
  | marker => exact execMarker_kept k
  | echo => exact execEcho_kept k
  | pnp => exact execPnp_kept k
  | leave => exact execLeave_kept k
  | abortSet => exact execAbortSet_kept k
  | lossOfSignal => exact execLossOfSignal_kept k
  | lossOfLock => exact execLossOfLock_kept k
  | markerMissing => exact execMarkerMissing_kept k
  | lockChange => exact execLockChange_kept k
  | audio => exact execAudio_kept k
  | tsum => exact execTsum_kept k
  | ethChunk => exact execEthChunk_kept k
  | loopReq => exact execLoopReq_kept k
  | loopRsp => exact execLoopRsp_kept k
  | mailbox => exact execMailbox_kept k
  | mailboxSend => exact execMailboxSend_kept k
  | mailboxRelease => exact execMailboxRelease_kept k
  | flowDescRead => exact execFlowDescRead_kept k
  | flowDescWrite => exact execFlowDescWrite_kept k
  | hostMigration => exact execHostMigration_kept k
  | migrate => exact execMigrate_kept k
  | busEntryRead => exact execBusEntryRead_kept k
  | busEntryWrite => exact execBusEntryWrite_kept k
  | lease => exact execLease_kept k
  | leaseAck => exact execLeaseAck_kept k
  | yieldPair => exact execYieldPair_kept k
  | pairHold => exact execPairHold_kept k
  | alone => exact execAlone_kept k
  | mirror => exact execMirror_kept k
  | tbRateWrite => exact execTbRateWrite_kept k
  | tbStep => exact execTbStep_kept k
  | tbNsRead => exact execTbNsRead_kept k
  | acq => exact execAcq_kept k
  | hostWatchdogExpiry => exact execHostWatchdogExpiry_kept k
  | wordClockLoss => exact execWordClockLoss_kept k
  | pulse => exact execPulse_kept k
  | pstartWrite => exact execPstartWrite_kept k
  | capture => exact execCapture_kept k
  | captureNs0Read => exact execCaptureNs0Read_kept k
  | captureInfoRead => exact execCaptureInfoRead_kept k
  | playerStart => exact execPlayerStart_kept k
  | playerStop => exact execPlayerStop_kept k
  | dstScrubRead => exact execDstScrubRead_kept k
  | dstScrubWriteback => exact execDstScrubWriteback_kept k
  | dstScrubStall => exact execDstScrubStall_kept k
  | apertureWrite => exact execApertureWrite_kept k
  | apertureRead => exact execApertureRead_kept k
  | apertureReadTimeout => exact execApertureReadTimeout_kept k
  | wideData3Read => exact execWideData3Read_kept k
  | indDataRead => exact execIndDataRead_kept k
  | indFetch => exact execIndFetch_kept k
  | indtmo => exact execIndtmo_kept k
  | dmaTransmit => exact execDmaTransmit_kept k
  | dmaReceive => exact execDmaReceive_kept k
  | dmaCopy => exact execDmaCopy_kept k
  | pclr => exact execPclr_kept k
  | setPending => exact execSetPending_kept k
  | doorbell => exact execDoorbell_kept k
  | ack => exact execAck_kept k
  | eoi => exact execEoi_kept k
  | ringBaseWrite => exact execRingBaseWrite_kept k
  | consWrite => exact execConsWrite_kept k
  | sourceConfigWrite => exact execSourceConfigWrite_kept k
  | targetBindWrite => exact execTargetBindWrite_kept k
  | dciFilterChange => exact execDciFilterChange_kept k
  | gpioLevelChange => exact execGpioLevelChange_kept k
  | pwrOkRise => exact execPwrOkRise_kept k
  | msixVectorUnmask => exact execMsixVectorUnmask_kept k
  | agingSweepEnd => exact execAgingSweepEnd_kept k
  | uncorrectableCodeword => exact execUncorrectableCodeword_kept k

end Sys2Proof.Machine

namespace Sys2Proof.Claims

open Sys2Proof.Machine

variable {s t : State} {c : Instr}

/-- What is kept where only the queue and the canonical form are spoken of. -/
def Keep.canonical (s : State) : Keep :=
  { queue := s.pending, dev := fun _ => True, num := fun _ => True, mem := fun _ => True, mld := fun _ => True, mgt := fun _ => True }

theorem exec_keeps_queue_and_canonical (hs : Canonical s) (ht : exec c s = .next t) : t.pending = s.pending ∧ Canonical t := by
  have k : Kept (Keep.canonical s) s := ⟨rfl, hs.1, hs.2, trivial, trivial, trivial, trivial, trivial⟩
  have h := (exec_kept c k (fun _ => trivial) (fun _ => trivial) (fun _ => trivial) (fun _ => ⟨fun _ _ _ _ => trivial, trivial⟩)
    (fun _ _ => trivial) fun _ => trivial).kept t ht
  exact ⟨h.queue, h.regs, h.mem⟩

/-- Settles O5: what every command keeps, of which nothing but the queue and the canonical form is asked. -/
theorem commandsLeaveTheQueue : Obligations.CommandsLeaveTheQueue := by
  unfold Obligations.CommandsLeaveTheQueue
  intro c s t hs ht
  exact exec_keeps_queue_and_canonical hs ht

/-- Settles O1: it is the definition of a step. -/
theorem stepTakesFrontCommand : Obligations.StepTakesFrontCommand := by
  unfold Obligations.StepTakesFrontCommand
  intro s c rest h
  rw [step, h]

/-- Settles O2: it is the definition of a step. -/
theorem emptyQueueIdles : Obligations.EmptyQueueIdles := by
  unfold Obligations.EmptyQueueIdles
  intro s h
  rw [step, h]

/-- Settles O3: after reset nothing is stored and no command waits. -/
theorem resetIsSafe : Obligations.ResetIsSafe := by
  unfold Obligations.ResetIsSafe
  exact ⟨⟨rfl, rfl⟩, fun c hc => absurd hc List.not_mem_nil⟩

/-- Settles O4: a step takes a command off the queue, and the command keeps the rest of the queue and the canonical form. -/
theorem everyStepKeepsSafe : Obligations.EveryStepKeepsSafe := by
  unfold Obligations.EveryStepKeepsSafe
  intro s t ⟨hs, hwf⟩ ht
  cases hp : s.pending with
  | nil =>
    rw [emptyQueueIdles s hp, Host.Outcome.next.injEq] at ht
    exact ht ▸ ⟨hs, hwf⟩
  | cons c rest =>
    rw [stepTakesFrontCommand s c rest hp] at ht
    obtain ⟨hqueue, hcanon⟩ := exec_keeps_queue_and_canonical (s := s.setPending rest) hs ht
    refine ⟨hcanon, fun d hd => hwf d ?_⟩
    rw [hqueue] at hd
    exact hp ▸ List.mem_cons_of_mem c hd

/-- What O8 says of a deckle number behind the command c. -/
def NumMove (c : Instr) (s : State) (n : Nat) : Prop :=
  n = s.dkl.num ∨ (Boundaries c ∧ running s = true ∧ boundaryDue s = true ∧ n = tickNumber s) ∨
    (n = 0 ∧ (c = .checkingEnd ∨ Resets c))

theorem running_of_boundaryDue (h : boundaryDue s = true) : running s = true := by
  simp only [boundaryDue, ticking, Bool.and_eq_true] at h
  exact h.1.1

/-- Settles O8: the number is kept up to the two ways in which a command may set it. -/
theorem deckleNumberMovesAtTicks : Obligations.DeckleNumberMovesAtTicks := by
  unfold Obligations.DeckleNumberMovesAtTicks
  intro c s t hs ht
  have k : Kept { Keep.canonical s with num := NumMove c s } s := ⟨rfl, hs.1, hs.2, trivial, .inl rfl, trivial, trivial, trivial⟩
  exact ((exec_kept c k (fun _ => trivial) (fun _ => trivial) (fun _ => trivial) (fun _ => ⟨fun _ _ _ _ => trivial, trivial⟩)
    (fun hb hdue => .inr (.inl ⟨hb, running_of_boundaryDue hdue, hdue, rfl⟩)) fun h => .inr (.inr ⟨rfl, h⟩)).kept t ht).num

/-- Settles O9: the content is kept by every command that is not one of those that write it. -/
theorem deepStoreKeepsItsContent : Obligations.DeepStoreKeepsItsContent := by
  unfold Obligations.DeepStoreKeepsItsContent
  intro c s t hs ht hc
  have k : Kept { Keep.canonical s with mem := (· = s.dst) } s := ⟨rfl, hs.1, hs.2, trivial, trivial, rfl, trivial, trivial⟩
  exact ((exec_kept c k (fun _ => trivial) (fun _ => trivial) (fun _ => trivial) (fun h => absurd h hc)
    (fun _ _ => trivial) fun _ => trivial).kept t ht).store

end Sys2Proof.Claims
end

section
/-! SUPPORT. Bits and fields of a word (R11), registers written one field at a time, and which registers a write leaves alone. -/

namespace Sys2Proof.Machine

/-! ### Fields of a word -/

theorem testBit_bits (n hi lo i : Nat) : (bits n hi lo).testBit i = (decide (i < hi + 1 - lo) && n.testBit (lo + i)) := by
  rw [bits, Nat.testBit_mod_two_pow, Nat.testBit_div_two_pow, Nat.add_comm i]

theorem bits_lt (n hi lo : Nat) : bits n hi lo < 2 ^ (hi + 1 - lo) := Nat.mod_lt _ (Nat.two_pow_pos _)

theorem fld_lt (w : Word) (hi lo : Nat) : fld w hi lo < 2 ^ (hi + 1 - lo) := bits_lt _ hi lo

theorem testBit_fld (w : Word) (hi lo i : Nat) : (fld w hi lo).testBit i = (decide (i < hi + 1 - lo) && bit w (lo + i)) :=
  testBit_bits _ hi lo i

/-- A choice between two values depends on what its condition says only. -/
theorem ite_cond_congr {α : Type} {p q : Prop} [Decidable p] [Decidable q] {a b : α} (h : p ↔ q) : (if p then a else b) = if q then a else b :=
  ite_congr (propext h) (fun _ => rfl) fun _ => rfl

theorem bit_of_le (w : Word) {i : Nat} (hi : 32 ≤ i) : bit w i = false :=
  Nat.testBit_lt_two_pow (Nat.lt_of_lt_of_le w.isLt (Nat.pow_le_pow_right (by decide) hi))

/-- A word is what stands above, in and below a field of it. -/
theorem split_at_field (n : Nat) {hi lo : Nat} (h : lo ≤ hi) :
    n = 2 ^ lo * (2 ^ (hi + 1 - lo) * (n / 2 ^ (hi + 1)) + bits n hi lo) + n % 2 ^ lo := by
  have hpow : 2 ^ (hi + 1) = 2 ^ lo * 2 ^ (hi + 1 - lo) := by rw [← Nat.pow_add]; congr 1; omega
  rw [bits, hpow, ← Nat.div_div_eq_div_mul, Nat.div_add_mod, Nat.div_add_mod]

/-- A word with a field replaced, put together from its parts. -/
theorem setFld_toNat (w : Word) {hi lo : Nat} (v : Nat) (h : lo ≤ hi) (hhi : hi < 32) : (setFld w hi lo v).toNat =
    2 ^ lo * (2 ^ (hi + 1 - lo) * (w.toNat / 2 ^ (hi + 1)) + v % 2 ^ (hi + 1 - lo)) + w.toNat % 2 ^ lo := by
  have hsplit := split_at_field w.toNat h
  have hpow : 2 ^ (hi + 1) = 2 ^ lo * 2 ^ (hi + 1 - lo) := by rw [← Nat.pow_add]; congr 1; omega
  have hv : v % 2 ^ (hi + 1 - lo) < 2 ^ (hi + 1 - lo) := Nat.mod_lt _ (Nat.two_pow_pos _)
  have hlow : w.toNat % 2 ^ lo < 2 ^ lo := Nat.mod_lt _ (Nat.two_pow_pos _)
  have htop : w.toNat / 2 ^ (hi + 1) < 2 ^ (31 - hi) := by
    rw [Nat.div_lt_iff_lt_mul (Nat.two_pow_pos _), ← Nat.pow_add]
    exact Nat.lt_of_lt_of_le w.isLt (Nat.pow_le_pow_right (by decide) (by omega))
  have hall : 2 ^ 32 = 2 ^ lo * (2 ^ (hi + 1 - lo) * 2 ^ (31 - hi)) := by rw [← Nat.pow_add, ← Nat.pow_add]; congr 1; omega
  have hle : 2 ^ lo * (2 ^ (hi + 1 - lo) * (w.toNat / 2 ^ (hi + 1)) + v % 2 ^ (hi + 1 - lo)) + w.toNat % 2 ^ lo < 2 ^ 32 := by
    rw [hall]
    generalize 2 ^ lo = a at *
    generalize 2 ^ (hi + 1 - lo) = b at *
    generalize 2 ^ (31 - hi) = c at *
    generalize w.toNat / 2 ^ (hi + 1) = x at *
    generalize v % b = y at *
    generalize w.toNat % a = z at *
    calc a * (b * x + y) + z < a * (b * x + y) + a := by omega
      _ = a * (b * x + y + 1) := (Nat.mul_succ a _).symm
      _ ≤ a * (b * x + b) := Nat.mul_le_mul_left _ (by omega)
      _ = a * (b * (x + 1)) := by rw [Nat.mul_succ b x]
      _ ≤ a * (b * c) := Nat.mul_le_mul_left _ (Nat.mul_le_mul_left _ htop)
  rw [setFld, BitVec.toNat_ofNat]
  have hsub : w.toNat - bits w.toNat hi lo * 2 ^ lo =
      2 ^ lo * (2 ^ (hi + 1 - lo) * (w.toNat / 2 ^ (hi + 1))) + w.toNat % 2 ^ lo := by
    rw [Nat.mul_add] at hsplit
    rw [Nat.mul_comm (bits _ _ _)]
    omega
  rw [hsub, Nat.mod_eq_of_lt (by rw [Nat.mul_add] at hle; rw [Nat.mul_comm (v % _)]; omega)]
  rw [Nat.mul_add (2 ^ lo), Nat.mul_comm (v % _)]
  omega

/-- Bit i of a word with a field replaced. -/
theorem bit_setFld (w : Word) {hi lo : Nat} (v : Nat) (h : lo ≤ hi) (hhi : hi < 32) (i : Nat) :
    bit (setFld w hi lo v) i = if lo ≤ i ∧ i ≤ hi then v.testBit (i - lo) else bit w i := by
  have hv : v % 2 ^ (hi + 1 - lo) < 2 ^ (hi + 1 - lo) := Nat.mod_lt _ (Nat.two_pow_pos _)
  have hlow : w.toNat % 2 ^ lo < 2 ^ lo := Nat.mod_lt _ (Nat.two_pow_pos _)
  rw [bit, setFld_toNat w v h hhi, Nat.testBit_two_pow_mul_add _ hlow, Nat.testBit_two_pow_mul_add _ hv, Nat.testBit_mod_two_pow,
    Nat.testBit_mod_two_pow, Nat.testBit_div_two_pow, bit]
  by_cases h1 : i < lo
  · simp [h1, Nat.not_le.2 h1]
  · by_cases h2 : i ≤ hi
    · have : i - lo < hi + 1 - lo := by omega
      simp [h1, h2, Nat.not_lt.1 h1, this]
    · have h3 : ¬ i - lo < hi + 1 - lo := by omega
      have h4 : i - lo - (hi + 1 - lo) + (hi + 1) = i := by omega
      simp [h1, h2, h3, h4]

theorem fld_setFld_same (w : Word) {hi lo : Nat} (v : Nat) (h : lo ≤ hi) (hhi : hi < 32) :
    fld (setFld w hi lo v) hi lo = v % 2 ^ (hi + 1 - lo) := by
  refine Nat.eq_of_testBit_eq fun i => ?_
  rw [testBit_fld, bit_setFld w v h hhi, Nat.testBit_mod_two_pow]
  by_cases hi' : i < hi + 1 - lo
  · rw [if_pos ⟨by omega, by omega⟩, Nat.add_sub_cancel_left]
  · simp [hi']

theorem fld_setFld_of_disjoint (w : Word) {hi lo hi' lo' : Nat} (v : Nat) (h : lo ≤ hi) (hhi : hi < 32)
    (hd : hi' < lo ∨ hi < lo') : fld (setFld w hi lo v) hi' lo' = fld w hi' lo' := by
  refine Nat.eq_of_testBit_eq fun i => ?_
  rw [testBit_fld, testBit_fld, bit_setFld w v h hhi]
  by_cases hi1 : i < hi' + 1 - lo'
  · rw [if_neg (by omega)]
  · simp [hi1]

theorem bit_setFld_of_not_mem (w : Word) {hi lo i : Nat} (v : Nat) (h : lo ≤ hi) (hhi : hi < 32) (hi' : i < lo ∨ hi < i) :
    bit (setFld w hi lo v) i = bit w i := by rw [bit_setFld w v h hhi, if_neg (by omega)]

theorem bit_setFld_bit (w : Word) {i : Nat} (b : Bool) (hi : i < 32) : bit (setFld w i i (b2n b)) i = b := by
  rw [bit_setFld w _ (Nat.le_refl _) hi, if_pos ⟨Nat.le_refl _, Nat.le_refl _⟩, Nat.sub_self]
  cases b <;> rfl

theorem bit_ofNat (n i : Nat) : bit (BitVec.ofNat 32 n) i = (decide (i < 32) && n.testBit i) := by
  rw [bit, BitVec.toNat_ofNat, Nat.testBit_mod_two_pow]

theorem fld_ofNat {n : Nat} (hi lo : Nat) (hhi : hi < 32) : fld (BitVec.ofNat 32 n) hi lo = bits n hi lo := by
  refine Nat.eq_of_testBit_eq fun i => ?_
  rw [testBit_fld, testBit_bits, bit_ofNat]
  by_cases hi' : i < hi + 1 - lo
  · have : lo + i < 32 := by omega
    simp [this]
  · simp [hi']

theorem word_ext {w x : Word} (h : ∀ i, i < 32 → bit w i = bit x i) : w = x :=
  BitVec.eq_of_getLsbD_eq fun i hi => h i hi

/-! ### Requests -/

/-- The state with further happenings handed to the event tick. -/
def ask (s : State) (l : List HwReq) : State := s.setEv { s.ev with reqs := s.ev.reqs ++ l }

theorem ask_nil (s : State) : ask s [] = s := by
  rw [ask, List.append_nil]
  rfl

theorem ask_ask (s : State) (k l : List HwReq) : ask (ask s k) l = ask s (k ++ l) := by
  show s.setEv { s.ev with reqs := (s.ev.reqs ++ k) ++ l } = _
  rw [List.append_assoc]
  rfl

theorem request_eq_ask (s : State) (q : HwReq) : request s q = ask s [q] := rfl

@[simp] theorem ask_reqs (s : State) (l : List HwReq) : (ask s l).ev.reqs = s.ev.reqs ++ l := rfl

@[simp] theorem ask_regs (s : State) (l : List HwReq) : (ask s l).regs = s.regs := rfl

@[simp] theorem rd_ask (s : State) (l : List HwReq) (o : Nat) : rd (ask s l) o = rd s o := rfl

/-! ### Registers -/

section
variable {s t : State} {o o' : Nat} {w : Word}

theorem rd_wr_self (hs : Registers.wf s.regs = true) (o : Nat) (w : Word) : rd (wr s o w) o = w :=
  rd_wr_same o w (Registers.sorted_of_wf hs)

theorem rd_wrF_self (hs : Registers.wf s.regs = true) (o hi lo v : Nat) : rd (wrF s o hi lo v) o = setFld (rd s o) hi lo v :=
  rd_wr_self hs o _

theorem rd_wrF_ne {hi lo v : Nat} (h : o' ≠ o) : rd (wrF s o hi lo v) o' = rd s o' := rd_wr_ne s _ h

theorem rdF_wrF_self (hs : Registers.wf s.regs = true) (o : Nat) {hi lo : Nat} (v : Nat) (h : lo ≤ hi) (hhi : hi < 32) :
    rdF (wrF s o hi lo v) o hi lo = v % 2 ^ (hi + 1 - lo) := by
  rw [rdF, rd_wrF_self hs, fld_setFld_same _ v h hhi]

theorem rdF_congr {hi lo : Nat} (h : rd t o = rd s o) : rdF t o hi lo = rdF s o hi lo := congrArg (fld · hi lo) h

theorem rdB_congr {i : Nat} (h : rd t o = rd s o) : rdB t o i = rdB s o i := congrArg (bit · i) h

theorem wf_wrF (hs : Registers.wf s.regs = true) (o hi lo v : Nat) : Registers.wf (wrF s o hi lo v).regs = true := wf_wr hs o _

theorem wf_wrAll {l : List (Nat × Word)} (hs : Registers.wf s.regs = true) : Registers.wf (wrAll s l).regs = true := by
  induction l generalizing s with
  | nil => exact hs
  | cons e l ih => exact ih (wf_wr hs e.1 e.2)

theorem wrAll_eq_setRegs (s : State) (l : List (Nat × Word)) : wrAll s l = s.setRegs (wrAll s l).regs := by
  induction l generalizing s with
  | nil => rfl
  | cons e l ih => exact (ih (wr s e.1 e.2)).trans rfl

theorem rd_wrAll_of_mem {l : List (Nat × Word)} (hs : Registers.wf s.regs = true) (hl : (l.map Prod.fst).Nodup) (he : (o, w) ∈ l) :
    rd (wrAll s l) o = w := by
  induction l generalizing s with
  | nil => exact absurd he List.not_mem_nil
  | cons e l ih =>
    rw [List.map_cons, List.nodup_cons] at hl
    rcases List.mem_cons.1 he with rfl | he
    · exact (rd_wrAll_of_not_mem (s := wr s o w) hl.1).trans (rd_wr_self hs o w)
    · exact ih (wf_wr hs e.1 e.2) hl.2 he

theorem SMap.get_filter {α : Type} (m : SMap α) (p : Nat → Bool) (i : Nat) :
    SMap.get (m.filter fun e => p e.1) i = if p i then SMap.get m i else none := by
  induction m with
  | nil => simp [SMap.get]
  | cons e m ih =>
    obtain ⟨k, v⟩ := e
    by_cases hk : p k
    · rw [List.filter_cons_of_pos (by exact hk), SMap.get, SMap.get, ih]
      by_cases h : i = k
      · simp [h, hk]
      · simp [h]
    · rw [List.filter_cons_of_neg (by exact hk), ih, SMap.get]
      by_cases h : i = k
      · simp [h, hk]
      · simp [h]

theorem rd_filter (s : State) (p : Nat → Bool) (o : Nat) :
    rd (s.setRegs (s.regs.filter fun e => p e.1)) o = if p o then rd s o else regReset (o % 0x400000) := by
  rw [rd, SMap.getD, State.setRegs_regs, SMap.get_filter]
  split <;> rfl

/-- Of dropped registers each reads its reset value, every other as before. -/
theorem rd_dropRegs (s : State) (p : Nat → Bool) (o : Nat) :
    rd (dropRegs s p) o = if p o then regReset (o % 0x400000) else rd s o := by
  rw [dropRegs, rd_filter s fun k => !p k]
  cases p o <;> rfl

theorem rd_of_regs_eq (hr : t.regs = s.regs) (o : Nat) : rd t o = rd s o := by rw [rd, rd, hr]

end

end Sys2Proof.Machine

namespace Sys2Proof.Claims

open Sys2Proof.Machine

variable {s t u : State} {o o' : Nat} {w : Word} {os os' : List Nat}

theorem regsBut_refl (s : State) (os : List Nat) : RegsBut s s os := fun _ _ => rfl

theorem regsBut_wr (s : State) (o : Nat) (w : Word) : RegsBut s (wr s o w) [o] :=
  fun _ ho => rd_wr_ne s w (List.ne_of_not_mem_cons ho)

theorem regsBut_wrF (s : State) (o hi lo v : Nat) : RegsBut s (wrF s o hi lo v) [o] := regsBut_wr s o _

theorem regsBut_wrAll (s : State) (l : List (Nat × Word)) : RegsBut s (wrAll s l) (l.map Prod.fst) :=
  fun _ ho => rd_wrAll_of_not_mem ho

theorem RegsBut.mono (h : RegsBut s t os) (hsub : os ⊆ os') : RegsBut s t os' := fun o ho => h o fun hm => ho (hsub hm)

theorem RegsBut.trans (h : RegsBut s t os) (h' : RegsBut t u os') : RegsBut s u (os ++ os') := fun o ho => by
  rw [List.mem_append, not_or] at ho
  exact (h' o ho.2).trans (h o ho.1)

theorem RegsBut.trans_same (h : RegsBut s t os) (h' : RegsBut t u os) : RegsBut s u os :=
  fun o ho => (h' o ho).trans (h o ho)

theorem RegsBut.of_regs_eq (h : RegsBut s t os) (hr : u.regs = t.regs) : RegsBut s u os := fun o ho => by
  rw [← h o ho, rd, rd, hr]

/-- What a command keeps of the parts that most commands leave alone. -/
theorem keepsMain_of_kept {x : Host.Outcome State Fault Refusal} (h : KeptN (Keep.main s) x) (e : x = .next t) : KeepsMain s t :=
  (h.kept t e).keepsMain

/-- Of a command that answers a next state, what it answers and what it keeps. -/
theorem exists_next_keepsMain {c : Instr} (h : KeptN (Keep.main s) (exec c s)) (e : exec c s = .next t) {P : State → Prop} (hP : P t) :
    ∃ t, exec c s = .next t ∧ KeepsMain s t ∧ P t := ⟨t, e, keepsMain_of_kept h e, hP⟩

end Sys2Proof.Claims
end

section
/-! SUPPORT. Power-up, the reset hold, the sensors and the ports of chapter 23 (R92 to R97, R593 to R604), and O6, O11 to O14. -/

namespace Sys2Proof.Claims

open Sys2Proof.Machine

variable {s : State}

/-- Settles O6: the boundary-scan instruction is the only arm with a refusal. -/
theorem onlyBoundaryScanStops : Obligations.OnlyBoundaryScanStops := by
  unfold Obligations.OnlyBoundaryScanStops
  intro c s
  cases c
  case tapInstruction ins trst =>
    show (∃ t, execTapInstruction ins trst s = .next t) ∨ (_ ∧ _ ∧ _ ∧ execTapInstruction ins trst s = .refused .boundaryScan)
    unfold execTapInstruction
    cases ins <;> cases trst <;> cases s.pwr.pwrOk <;> cases s.pwr.rstn <;> simp
  all_goals exact .inl ⟨_, rfl⟩

theorem mgtWord_eq (s : State) {w : Nat} (hw : w < 16) : mgtWord s w =
    if w = 11 ∨ w = 14 ∨ w = 15 then 0 else if w = 13 then BitVec.ofNat 32 s.pwr.mgtAddr else rd s (0xF2000 + 4 * w) := by
  have h : (w = 11 ∨ 14 ≤ w) ↔ (w = 11 ∨ w = 14 ∨ w = 15) := by omega
  simp only [mgtWord, h]

/-- Settles O14: both ports are their definitions, the words of the management port being those of its sixteen. -/
theorem managementPortAndTestAccess : Obligations.ManagementPortAndTestAccess := by
  unfold Obligations.ManagementPortAndTestAccess
  intro s
  refine ⟨fun k n hok hrst hpll => ?management, fun hok => ?tap⟩
  case management =>
    have hexec : exec (.mgtRead k n) s = execMgtRead k n s := rfl
    rw [hexec, execMgtRead, hok, hrst, hpll]
    simp only [Bool.and_self, if_true, emit]
    congr 5
    exact List.map_congr_left fun i _ => mgtWord_eq s (Nat.mod_lt _ (by decide))
  case tap =>
    have hexec : ∀ ins trst, exec (.tapInstruction ins trst) s = execTapInstruction ins trst s := fun _ _ => rfl
    simp +contextual [hexec, execTapInstruction, hok, emit]

/-! ### Power-up -/

theorem fld_hostLink (gen : BitVec 4) (width : BitVec 5) :
    let w : Word := BitVec.ofNat 32 (gen.toNat + width.toNat * 16 + 512)
    fld w 3 0 = gen.toNat ∧ fld w 8 4 = width.toNat ∧ bit w 9 = true := by
  have hg := gen.isLt
  have hw := width.isLt
  refine ⟨?_, ?_, ?_⟩
  · rw [fld_ofNat _ _ (by decide), bits]; omega
  · rw [fld_ofNat _ _ (by decide), bits]; omega
  · rw [bit_ofNat, Nat.testBit_eq_decide_div_mod_eq]
    simp only [Nat.reduceLT, decide_true, Bool.true_and, decide_eq_true_eq]
    omega

/-- Settles O11: each event of the sequence sets its part of the power state. -/
theorem powerUpSequence : Obligations.PowerUpSequence := by
  unfold Obligations.PowerUpSequence
  intro s hs
  refine ⟨rfl, rfl, fun ha => ⟨?lock, fun hpll => ?timeout, fun hbusy => ⟨?dram, ?dramFailed⟩, fun hpll hperst gen width => ?link,
    fun hpll hlink hdram hbare => ?bare⟩⟩
  case lock => exact congrArg Host.Outcome.next (if_pos ha)
  case timeout => exact congrArg Host.Outcome.next (if_pos (by simp [ha, hpll]))
  case dram =>
    exact ⟨_, congrArg Host.Outcome.next (if_pos (by simp [ha, hbusy])), fun _ => rfl, rfl⟩
  case dramFailed =>
    have heq := mldCond_eq_setEv (s.setPwr { s.pwr with dram := .failed }) 8
    refine ⟨_, congrArg Host.Outcome.next (if_pos (by simp [ha, hbusy])), ?_, mem_reqs_mldCond _ 8, ?_⟩
    · rw [heq]; rfl
    · rw [heq]; rfl
  case link =>
    refine ⟨_, congrArg Host.Outcome.next (if_pos (by simp [ha, hpll, hperst])), wr_frame _ _ _, regsBut_wr (s.setPwr _) _ _, ?_⟩
    rw [rd_wr_self (s := s.setPwr { s.pwr with link := true }) hs.1]
    exact fld_hostLink gen width
  case bare =>
    have hexec : exec .enterBare s = execEnterBare s := rfl
    have hon : (awake s && s.pwr.pll && s.pwr.link && decide (s.pwr.dram ≠ .busy) && !s.pwr.bare) = true := by
      rw [ha, hpll, hlink, hbare, decide_eq_true hdram]
      rfl
    rw [hexec, execEnterBare, if_pos hon]

/-! ### The reset hold -/

/-- The registers of the management block. -/
def mgtReg (o : Nat) : Bool := decide (0xF2000 ≤ o ∧ o < 0xF3000)

theorem regsBut_enterHold (s : State) (pll : Bool) :
    RegsBut (s.setRegs (s.regs.filter fun e => mgtReg e.1)) (enterHold s pll) [R.MGT_STAT] :=
  (regsBut_wr _ _ _).of_regs_eq rfl

theorem rd_enterHold_of_not_mgt (s : State) (pll : Bool) {o : Nat} (ho : ¬ (0xF2000 ≤ o ∧ o < 0xF3000)) :
    rd (enterHold s pll) o = regReset (o % 0x400000) := by
  have hne : o ∉ [R.MGT_STAT] := by
    rw [List.mem_singleton]; rintro rfl; exact ho (by decide)
  rw [regsBut_enterHold s pll o hne, rd_filter, if_neg (by simpa [mgtReg] using ho)]

theorem rd_enterHold_of_mgt (s : State) (pll : Bool) {o : Nat} (ho : 0xF2000 ≤ o ∧ o < 0xF3000) (hne : o ≠ R.MGT_STAT) :
    rd (enterHold s pll) o = rd s o := by
  rw [regsBut_enterHold s pll o (by simpa using hne), rd_filter, if_pos (by simpa [mgtReg] using ho)]

/-- Settles O12: both rows enter the reset hold. -/
theorem holdInReset : Obligations.HoldInReset := by
  unfold Obligations.HoldInReset
  intro s hs ha hpll
  refine ⟨⟨enterHold s false, ?loss, rfl, rfl, rfl, rfl, rfl, rfl, ?asleep, fun o => rd_enterHold_of_not_mgt s false,
    fun o ho hne => rd_enterHold_of_mgt s false ho hne⟩, fun hdue hsent wck => ⟨enterHold s s.pwr.pll, ?tick, rfl, rfl, rfl, rfl, rfl⟩⟩
  case loss => exact congrArg Host.Outcome.next (if_pos (by simp [ha, hpll]))
  case asleep => exact Bool.and_false _
  case tick => exact congrArg Host.Outcome.next ((if_pos hdue).trans (if_pos hsent))

/-! ### The sensors -/

/-- The request for a thermal condition. -/
def thermalReq (b : Nat) (c : Bool) : List HwReq := if c then [.cond R.MGT_STAT 2 (BitVec.ofNat 32 (2 ^ b)) [] 0 .newBits] else []

theorem thermalCond_eq (s : State) (b : Nat) (c : Bool) : thermalCond s b c = ask s (thermalReq b c) := by
  cases c
  · exact (ask_nil s).symm
  · rfl

/-- The registers that a sample of the sensors writes, each with its word: the readings at every fiftieth sample (R599). -/
def sampleWords (s : State) (temps : List (BitVec 16)) : List (Nat × Word) :=
  (R.MGT_TMAX, match hottest temps with
    | some (n, _) => BitVec.ofNat 32 (n * 65536 + (reading temps n).toNat)
    | none => 0) ::
  if s.mgt.count = 49 then (List.range 8).map (fun n => (R.MGT_TEMPn n, BitVec.ofNat 32 (reading temps n).toNat)) else []

theorem wrAll_map {α : Type} (s : State) (l : List α) (f : α → Nat × Word) :
    wrAll s (l.map f) = l.foldl (fun u n => wr u (f n).1 (f n).2) s := by
  rw [wrAll, List.foldl_map]

/-- A sample writes registers, the sensors' own state and the mark of a new threshold, and asks for its conditions. -/
theorem sampleSensors_eq_wrAll (s : State) (temps : List (BitVec 16)) :
    let w : Int := sext 16 (rdF s R.MGT_WARN 15 0)
    let warm := match hottest temps with | some (_, v) => decide (w ≤ v) | none => false
    let calm := match hottest temps with | some (_, v) => decide (v ≤ w - 32) | none => true
    let stk := decide (reading temps 7 ≠ 0x8000 ∧ 1680 ≤ (reading temps 7).toInt)
    sampleSensors s temps = thermalCond (thermalCond (thermalCond (thermalCond
        (((wrAll s (sampleWords s temps)).setMgt { (wrAll s (sampleWords s temps)).mgt with
          count := if s.mgt.count = 49 then 0 else s.mgt.count + 1
          hot := tripMask temps, above := warm, cool := calm, stk := stk
          tripDue := s.mgt.tripDue || decide (tripMask temps &&& s.mgt.hot ≠ 0) }).setHp
          { (wrAll s (sampleWords s temps)).hp with warnSet := false })
        0 (warm && (!s.mgt.above || s.hp.warnSet))) 1 (calm && !s.mgt.cool)) 2 (stk && !s.mgt.stk)) 4
        ((List.range 8).any (fun n => reading temps n == 0x8000)) := by
  intro w warm calm stk
  have hall : ∀ x, wrAll s ((R.MGT_TMAX, x) ::
      if s.mgt.count = 49 then (List.range 8).map (fun n => (R.MGT_TEMPn n, BitVec.ofNat 32 (reading temps n).toNat)) else []) =
      if s.mgt.count = 49 then
        (List.range 8).foldl (fun u n => wr u (R.MGT_TEMPn n) (BitVec.ofNat 32 (reading temps n).toNat)) (wr s R.MGT_TMAX x)
      else wr s R.MGT_TMAX x := by
    intro x
    split
    · exact wrAll_map (wr s R.MGT_TMAX x) _ _
    · rfl
  simp only [sampleWords, hall, sampleSensors, w, warm, calm, stk]
  cases hottest temps <;> rfl

theorem sampleSensors_eq (s : State) (temps : List (BitVec 16)) :
    let w : Int := sext 16 (rdF s R.MGT_WARN 15 0)
    let warm := match hottest temps with | some (_, v) => decide (w ≤ v) | none => false
    let calm := match hottest temps with | some (_, v) => decide (v ≤ w - 32) | none => true
    let stk := decide (reading temps 7 ≠ 0x8000 ∧ 1680 ≤ (reading temps 7).toInt)
    sampleSensors s temps = (((s.setRegs (wrAll s (sampleWords s temps)).regs).setMgt { s.mgt with
          count := if s.mgt.count = 49 then 0 else s.mgt.count + 1
          hot := tripMask temps, above := warm, cool := calm, stk := stk
          tripDue := s.mgt.tripDue || decide (tripMask temps &&& s.mgt.hot ≠ 0) }).setHp { s.hp with warnSet := false }).setEv
        { s.ev with reqs := s.ev.reqs ++ (thermalReq 0 (warm && (!s.mgt.above || s.hp.warnSet)) ++ thermalReq 1 (calm && !s.mgt.cool) ++
          thermalReq 2 (stk && !s.mgt.stk) ++ thermalReq 4 ((List.range 8).any (fun n => reading temps n == 0x8000))) } := by
  have hregs := wrAll_eq_setRegs s (sampleWords s temps)
  intro w warm calm stk
  rw [sampleSensors_eq_wrAll]
  generalize (wrAll s (sampleWords s temps)).regs = r at hregs ⊢
  rw [hregs]
  simp only [thermalCond_eq, ask_ask]
  rfl

theorem sampleSensors_regs (s : State) (temps : List (BitVec 16)) :
    (sampleSensors s temps).regs = (wrAll s (sampleWords s temps)).regs := by
  rw [sampleSensors_eq]
  rfl

theorem keys_sampleWords (s : State) (temps : List (BitVec 16)) : (sampleWords s temps).map Prod.fst =
    R.MGT_TMAX :: if s.mgt.count = 49 then (List.range 8).map R.MGT_TEMPn else [] := by
  rw [sampleWords, List.map_cons, apply_ite (List.map Prod.fst), List.map_map]
  rfl

theorem nodup_sampleWords (s : State) (temps : List (BitVec 16)) : ((sampleWords s temps).map Prod.fst).Nodup := by
  rw [keys_sampleWords]
  by_cases hc : s.mgt.count = 49
  · rw [if_pos hc]; decide
  · rw [if_neg hc]; decide

theorem rd_sampleSensors_of_mem (hs : Canonical s) {temps : List (BitVec 16)} {o : Nat} {w : Word} (h : (o, w) ∈ sampleWords s temps) :
    rd (sampleSensors s temps) o = w := by
  rw [rd_of_regs_eq (sampleSensors_regs s temps)]
  exact rd_wrAll_of_mem hs.1 (nodup_sampleWords s temps) h

theorem rd_sampleSensors_of_not_mem {temps : List (BitVec 16)} {o : Nat} (h : o ∉ (sampleWords s temps).map Prod.fst) :
    rd (sampleSensors s temps) o = rd s o := by
  rw [rd_of_regs_eq (sampleSensors_regs s temps)]
  exact rd_wrAll_of_not_mem h

/-- Settles O13: a sample writes its registers and asks for its conditions, and a trip leaves the device in one of two ways. -/
theorem tripAndSample : Obligations.TripAndSample := by
  unfold Obligations.TripAndSample
  intro s hs hok
  refine ⟨fun temps => ⟨sampleSensors s temps, congrArg Host.Outcome.next (if_pos hok), ?change, ?hottest, fun n hn => ?readings, fun o hmax htemp => ?frame⟩,
    fun mw => ?power, fun hrst hheld hdue htrip u hu => ?trip⟩
  case change => rw [sampleSensors_regs]; exact sampleSensors_eq s temps
  case hottest => exact rd_sampleSensors_of_mem hs List.mem_cons_self
  case readings =>
    by_cases hc : s.mgt.count = 49
    · rw [if_pos hc]
      refine rd_sampleSensors_of_mem hs (List.mem_cons_of_mem _ ?_)
      rw [if_pos hc]
      exact List.mem_map_of_mem (List.mem_range.2 hn)
    · rw [if_neg hc]
      refine rd_sampleSensors_of_not_mem ?_
      rw [keys_sampleWords, if_neg hc, List.mem_singleton]
      unfold R.MGT_TEMPn R.MGT_TMAX
      omega
  case frame =>
    refine rd_sampleSensors_of_not_mem ?_
    rw [keys_sampleWords, List.mem_cons, not_or]
    refine ⟨hmax, fun ho => ?_⟩
    split at ho
    · obtain ⟨n, hn, rfl⟩ := List.mem_map.1 ho
      exact htemp n (List.mem_range.1 hn) rfl
    · exact absurd ho List.not_mem_nil
  case power =>
    have hexec : exec (.powerMonitorSample mw) s = execPowerMonitorSample mw s := rfl
    have hword : BitVec.ofNat 32 mw.toNat = mw.zeroExtend 32 := BitVec.ofNat_toNat ..
    rw [hexec, execPowerMonitorSample, if_pos hok, hword]
    by_cases hmw : 71250 < mw.toNat
    · rw [if_pos hmw, if_pos hmw]
      exact ⟨_, rfl, rfl, (regsBut_wr s _ _).of_regs_eq rfl, rd_wr_self hs.1 _ _, rfl⟩
    · rw [if_neg hmw, if_neg hmw, List.append_nil]
      exact ⟨_, rfl, rfl, regsBut_wr s _ _, rd_wr_self hs.1 _ _, rfl⟩
  case trip =>
    have hexec : exec .thermalTrip s = .next (thermalTrip s) :=
      congrArg Host.Outcome.next (if_pos (by simp [awake, hok, hrst, hheld, hdue, htrip]))
    have hu' : setCond (s.setMgt { s.mgt with tripDue := false, tripping := true }) R.MGT_STAT 2 32 = u := hu.symm
    have hrun : running u = running s := by rw [hu]; rfl
    have hstart : u.dkl.started = s.dkl.started := by rw [hu]; rfl
    have hpll : u.pwr.pll = s.pwr.pll := by rw [hu]; rfl
    rw [hexec, thermalTrip, hu']
    show ((running s = true → s.dkl.started = true → _) ∧ _)
    rw [hrun, hstart, hpll]
    refine ⟨fun h1 h2 => by rw [if_pos (by rw [h1, h2]; rfl)], fun h => by rw [if_neg (by simpa using fun h1 => h.resolve_left (by simp [h1]))]⟩

end Sys2Proof.Claims
end

section
/-! SUPPORT. The boundary up to its lift (R36, R62, R99), and O17 and O20. -/

namespace Sys2Proof.Machine

open Sys2Proof.Claims

variable {Q : Keep} {s t : State} {wck : List Nat}

/-! ### Up to the lift -/

/-- A due boundary up to the launch of what was built for it (R62). -/
def opened (s : State) (wck : List Nat) : State :=
  launchPackets (launchFrames (stepLease (tickCount (audioTurn (overruns s))) (!s.dkl.started) wck))

/-- A due boundary up to the lift that begins or ends there. -/
def lifted (s : State) (wck : List Nat) : State := liftStep (opened s wck) (opened s wck).dkl.num

/-- A boundary of a device that goes on running behind the lift. -/
def wentOn (s : State) (wck : List Nat) : State :=
  stepRest (sendMarkers (ownLease (tickCount (audioTurn (overruns s)))) (stepStructure (lifted s wck)))

theorem boundaryOpened_eq (s : State) : boundaryOpened s = lifted s [] := by
  unfold boundaryOpened lifted opened
  rfl

theorem boundaryMarked_eq (s : State) :
    boundaryMarked s = sendMarkers (ownLease (tickCount (audioTurn (overruns s)))) (stepStructure (lifted s [])) := by
  rw [boundaryMarked, boundaryOpened_eq]

theorem deckleTick_eq (s : State) (wck : List Nat) : deckleTick s wck = if !running (lifted s wck) then
    if (lifted s wck).mgt.tripping then enterHold (lifted s wck) (lifted s wck).pwr.pll else lifted s wck
    else boundaryClosed s (wentOn s wck) := by
  unfold deckleTick boundaryClosed wentOn lifted opened
  rfl

theorem deckleTick_of_running (h : running (lifted s wck) = true) : deckleTick s wck = boundaryClosed s (wentOn s wck) := by
  rw [deckleTick_eq, h, Bool.not_true, if_neg Bool.false_ne_true]

theorem deckleTick_of_not_running (h : running (lifted s wck) = false) :
    deckleTick s wck = if (lifted s wck).mgt.tripping then enterHold (lifted s wck) (lifted s wck).pwr.pll else lifted s wck := by
  rw [deckleTick_eq, h, Bool.not_false, if_pos rfl]

theorem opened_kept (k : Kept Q.anyNum s) (hnum : Q.num (tickNumber s)) (hjump : ∀ (m : Mld) a, Q.mld m → Q.mld { m with liftAt := a }) :
    Kept Q (opened s wck) :=
  launchPackets_kept (launchFrames_kept (stepLease_kept (tickCount_kept (audioTurn_kept (overruns_kept k))
    (tickNumber_overruns s ▸ hnum) hjump)))

theorem boundaryClosed_kept (k : Kept Q t) (hmgt : ∀ x, Q.mgt x) : Kept Q (boundaryClosed s t) :=
  Kept.ite (State.setMgt_kept (tickCredits_kept k) _ (hmgt _)) (tickCredits_kept k)

theorem wentOn_kept (k : Kept Q (lifted s wck)) : Kept Q (wentOn s wck) := stepRest_kept (sendMarkers_kept (stepStructure_kept k))

/-! ### The lift -/

theorem foldl_eq_setRegs {α : Type} {f : State → α → State} (hf : ∀ t a, f t a = t.setRegs (f t a).regs) (l : List α) (s : State) :
    l.foldl f s = s.setRegs (l.foldl f s).regs := by
  induction l generalizing s with
  | nil => rfl
  | cons a l ih =>
    rw [List.foldl_cons, ih, hf s a]
    rfl

theorem clearMould_eq_setRegs (s : State) : clearMould s = s.setRegs (clearMould s).regs := by
  refine foldl_eq_setRegs (fun t e => ?_) s.regs s
  split <;> rfl

/-- What a lift leaves at its end: no mould in force, and nothing asked of the loader any more (R99). -/
structure LiftEnded (pendLoad : Bool) (t : State) : Prop where
  dev : t.dev = if pendLoad then .laying else .bare
  num : t.dkl.num = 0
  items : t.mld.items = []
  liftReq : t.mld.liftReq = false
  pendLoad : t.mld.pendLoad = false
  drivers : t.inp.drvEn = 0

theorem liftEnded_liftEnd (s : State) : LiftEnded s.mld.pendLoad (liftEnd s) := by
  unfold liftEnd
  dsimp only
  rw [clearMould_eq_setRegs]
  cases s.mld.pendLoad <;> exact ⟨rfl, rfl, rfl, rfl, rfl, rfl⟩

theorem LiftEnded.not_running {p : Bool} (h : LiftEnded p t) : running t = false := by
  rw [running, h.dev]
  cases p <;> rfl

/-- What is kept where the queue, the canonical form and the deep store alone are spoken of. -/
def Keep.stored (s : State) : Keep :=
  { queue := s.pending, dev := fun _ => True, num := fun _ => True, mem := (· = s.dst), mld := fun _ => True, mgt := fun _ => True }

theorem kept_stored (hs : Canonical s) : Kept (Keep.stored s) s := ⟨rfl, hs.1, hs.2, trivial, trivial, rfl, trivial, trivial⟩

theorem Kept.store_queue_canonical (k : Kept (Keep.stored s) t) : t.dst = s.dst ∧ t.pending = s.pending ∧ Canonical t :=
  ⟨k.store, k.queue, k.regs, k.mem⟩

theorem deckleTick_stored (hs : Canonical s) : Kept (Keep.stored s) (deckleTick s wck) :=
  deckleTick_kept (kept_stored hs).anyNum trivial trivial trivial trivial trivial (fun _ => trivial) fun _ => trivial

/-- What is kept up to the lift: the device state, the requests of a lift and of a load, and the trip; the number is the one that the
boundary opens. -/
def Keep.opening (s : State) : Keep :=
  { queue := s.pending, dev := (· = s.dev), num := (· = tickNumber s), mem := (· = s.dst)
    mld := fun m => m.liftReq = s.mld.liftReq ∧ m.pendLoad = s.mld.pendLoad, mgt := (· = s.mgt) }

theorem opened_opening (hs : Canonical s) : Kept (Keep.opening s) (opened s wck) :=
  opened_kept ⟨rfl, hs.1, hs.2, rfl, trivial, rfl, ⟨rfl, rfl⟩, rfl⟩ rfl fun _ _ h => h

/-- A lift that begins leaves the number that its boundary opens, and the trip. -/
theorem lifted_of_liftBegin (hs : Canonical s) (hd : s.dev = .laid) (hl : s.mld.liftReq = true) :
    Kept { Keep.opening s with dev := (· = .lifting), mld := fun _ => True } (lifted s wck) := by
  have k : Kept (Keep.opening s) (opened s wck) := opened_opening hs
  have hstep : lifted s wck = liftBegin (opened s wck) (opened s wck).dkl.num := if_pos ⟨k.dev.trans hd, k.mld.1.trans hl⟩
  rw [hstep]
  exact liftBegin_kept ⟨k.queue, k.regs, k.mem, trivial, k.num, k.store, trivial, k.mgt⟩ rfl fun _ => trivial

theorem lifted_of_laid (hs : Canonical s) (hd : s.dev = .laid) (hl : s.mld.liftReq = false) : lifted s wck = opened s wck := by
  have k : Kept (Keep.opening s) (opened s wck) := opened_opening hs
  have h1 : ¬ ((opened s wck).dev = .laid ∧ (opened s wck).mld.liftReq = true) := by
    rw [k.mld.1, hl]; simp
  have h2 : ¬ liftEnds (opened s wck) (opened s wck).dkl.num = true := by
    rw [liftEnds, k.dev, hd]; simp
  rw [lifted, liftStep, if_neg h1, if_neg h2]

/-- A boundary of a device that was LAID goes on: it has the number that the boundary opens, and is LIFTING where a lift was asked for. -/
theorem lifted_of_dev_laid (hs : Canonical s) (hd : s.dev = .laid) :
    Kept { Keep.opening s with dev := (· = if s.mld.liftReq then .lifting else .laid), mld := fun _ => True } (lifted s wck) := by
  cases hl : s.mld.liftReq
  case true =>
    simpa only [if_true] using lifted_of_liftBegin hs hd hl
  case false =>
    have k : Kept (Keep.opening s) (opened s wck) := opened_opening hs
    rw [lifted_of_laid hs hd hl]
    exact ⟨k.queue, k.regs, k.mem, k.dev.trans hd, k.num, k.store, trivial, k.mgt⟩

theorem running_lifted_of_laid (hs : Canonical s) (hd : s.dev = .laid) : running (lifted s wck) = true := by
  rw [running, (lifted_of_dev_laid hs hd).dev]
  cases s.mld.liftReq <;> rfl

/-- The deckle tick of a LAID device does all the steps of a boundary. -/
theorem deckleTick_of_laid (hs : Canonical s) (hd : s.dev = .laid) : deckleTick s wck = boundaryClosed s (wentOn s wck) :=
  deckleTick_of_running (running_lifted_of_laid hs hd)

/-- A boundary that is due in a LAID device with no ramped block sent does all its steps in their order (R62). -/
theorem boundary_of_goesOn (hs : Canonical s) (h : GoesOn s) : boundary s [] = boundaryClosed s (stepRest (boundaryMarked s)) := by
  obtain ⟨-, hsent, hd⟩ := h
  rw [boundary, hsent, if_neg Bool.false_ne_true, deckleTick_of_laid hs hd]
  rfl

theorem deckleTick_num_dev_of_laid (hs : Canonical s) (hd : s.dev = .laid) :
    (deckleTick s wck).dkl.num = tickNumber s ∧ (deckleTick s wck).dev = if s.mld.liftReq then .lifting else .laid := by
  have k := lifted_of_dev_laid (wck := wck) hs hd
  have k' : Kept { Keep.opening s with
      dev := (· = if s.mld.liftReq then .lifting else .laid), mld := fun _ => True, mgt := fun _ => True } (deckleTick s wck) := by
    rw [deckleTick_of_laid hs hd]
    exact boundaryClosed_kept (wentOn_kept ⟨k.queue, k.regs, k.mem, k.dev, k.num, k.store, trivial, trivial⟩) fun _ => trivial
  exact ⟨k'.num, k'.dev⟩

/-- Of the other device states that run there is LIFTING: the lift ends, and the count starts again, or goes on. -/
theorem lifted_of_lifting (hs : Canonical s) (hd : s.dev = .lifting) :
    (liftEnds (opened s wck) (opened s wck).dkl.num = true ∧ LiftEnded s.mld.pendLoad (lifted s wck)) ∨
      (liftEnds (opened s wck) (opened s wck).dkl.num = false ∧ lifted s wck = opened s wck) := by
  have k : Kept (Keep.opening s) (opened s wck) := opened_opening hs
  have h1 : ¬ ((opened s wck).dev = .laid ∧ (opened s wck).mld.liftReq = true) := by
    rw [k.dev, hd]; simp
  rw [lifted, liftStep, if_neg h1]
  cases he : liftEnds (opened s wck) (opened s wck).dkl.num
  case true => exact .inl ⟨rfl, by rw [if_pos rfl, ← k.mld.2]; exact liftEnded_liftEnd _⟩
  case false => exact .inr ⟨rfl, if_neg Bool.false_ne_true⟩

theorem deckleTick_num (hs : Canonical s) (hrun : running s = true) : (deckleTick s wck).dkl.num = tickNumber s ∨
    (((deckleTick s wck).dev = .bare ∨ (deckleTick s wck).dev = .laying) ∧ (deckleTick s wck).dkl.num = 0) := by
  rcases of_decide_eq_true hrun with hd | hd
  · exact .inl (deckleTick_num_dev_of_laid hs hd).1
  rcases lifted_of_lifting (wck := wck) hs hd with ⟨-, h⟩ | ⟨-, h⟩
  · rw [deckleTick_of_not_running h.not_running]
    split
    · exact .inr ⟨.inl rfl, rfl⟩
    · refine .inr ⟨?_, h.num⟩
      rw [h.dev]
      cases s.mld.pendLoad <;> simp
  · have k : Kept (Keep.opening s) (opened s wck) := opened_opening hs
    have hr : running (lifted s wck) = true := by rw [h, running, k.dev, hd]; rfl
    have k' : Kept { Keep.opening s with mgt := fun _ => True } (lifted s wck) :=
      h ▸ ⟨k.queue, k.regs, k.mem, k.dev, k.num, k.store, k.mld, trivial⟩
    rw [deckleTick_of_running hr]
    exact .inl (boundaryClosed_kept (wentOn_kept k') fun _ => trivial).num

/-! ### The end of a lift -/

@[simp] theorem dklCond_mld (s : State) (b : Nat) (on : Bool) : (dklCond s b on).mld = s.mld := by unfold dklCond; split <;> rfl

@[simp] theorem dklCond_dev (s : State) (b : Nat) (on : Bool) : (dklCond s b on).dev = s.dev := by unfold dklCond; split <;> rfl

/-- What is kept where only the loader's state is spoken of. -/
def Keep.loader (m : Machine.Mld) (queue : List Instr) : Keep :=
  { queue := queue, dev := fun _ => True, num := fun _ => True, mem := fun _ => True, mld := (· = m), mgt := fun _ => True }

theorem kept_loader (hs : Canonical s) : Kept (Keep.loader s.mld s.pending) s :=
  ⟨rfl, hs.1, hs.2, trivial, trivial, trivial, rfl, trivial⟩

/-- What a tick reports of the counter, and the registers that show its number. -/
def tickRegs (s : State) : State :=
  let s2 := dklCond (dklCond s 4 (s.dkl.started && tickNumber s != (s.dkl.num + 1) % 2 ^ 48)) 3
    (s.dkl.started && decide (s.dkl.cyc - s.dkl.tickCyc < (rd s R.DKL_U).toNat + 512))
  let s3 := if s.dkl.started then wr s2 R.DKL_LAST (BitVec.ofNat 32 ((s.dkl.cyc - s.dkl.tickCyc) % 2 ^ 20)) else s2
  wrAll s3 [(R.DKL_NUM_LO, BitVec.ofNat 32 (tickNumber s)), (R.DKL_NUM_HI, BitVec.ofNat 32 (tickNumber s / 2 ^ 32))]

/-- The counter of a tick, up to what a jump changes beside it. -/
def counted (s : State) : State :=
  nextBoundary ((tickRegs s).setDkl
    { (tickRegs s).dkl with num := tickNumber s, tickCyc := s.dkl.cyc, evt := 0, started := true, jump := none })

theorem tickRegs_kept (k : Kept Q s) : Kept Q (tickRegs s) :=
  wrAll_kept (Kept.ite (wr_kept (dklCond_kept (dklCond_kept k)) _ _) (dklCond_kept (dklCond_kept k)))

theorem counted_mld_dev (s : State) : (counted s).mld = s.mld ∧ (counted s).dev = s.dev := by
  unfold counted tickRegs
  dsimp only
  split <;> simp [nextBoundary, wrAll]

/-- The number that a tick opens was taken from a marker and is not the next one (R40). -/
def jumps (s : State) : Bool := s.dkl.started && tickNumber s != (s.dkl.num + 1) % 2 ^ 48

/-- The mark of a lift behind a jump of the number: as far from the new number as it was from the next one (R99). -/
def movedMark (s : State) (m : Nat) : Nat := (m + modDist 48 (tickNumber s) ((s.dkl.num + 1) % 2 ^ 48)) % 2 ^ 48

/-- The mark of a lift behind the counter of a tick (R40, R99). -/
def markAfter (s : State) : Nat := if jumps s then movedMark s s.mld.liftAt else s.mld.liftAt

/-- The counter of a tick with the mark of the lift. -/
def marked (s : State) : State :=
  if jumps s && (counted s).dev == .lifting then
    (counted s).setMld { (counted s).mld with liftAt := movedMark s (counted s).mld.liftAt }
  else counted s

theorem tickCount_eq (s : State) : tickCount s = if jumps s then sceneJump (marked s) (tickNumber s) else marked s := by
  unfold tickCount marked counted tickRegs jumps movedMark
  rfl

theorem marked_mld_of_lifting (hd : s.dev = .lifting) : (marked s).mld = { s.mld with liftAt := markAfter s } := by
  obtain ⟨hm, hd'⟩ := counted_mld_dev s
  have hl : ((counted s).dev == .lifting) = true := by rw [hd', hd]; rfl
  rw [marked, markAfter, hl, Bool.and_true]
  cases jumps s
  case false => exact hm
  case true =>
    rw [if_pos rfl, if_pos rfl, hm]
    exact State.setMld_mld _ _

theorem canonical_marked (hs : Canonical s) : Canonical (marked s) := by
  have k : Kept (Keep.stored s) (counted s) :=
    nextBoundary_kept (Kept.setDkl (tickRegs_kept (kept_stored hs).anyNum) _ trivial)
  have k' : Kept (Keep.stored s) (marked s) := Kept.ite (State.setMld_kept k _ trivial) k
  exact ⟨k'.regs, k'.mem⟩

theorem tickCount_mld_of_lifting (hs : Canonical s) (hd : s.dev = .lifting) :
    (tickCount s).mld = { s.mld with liftAt := markAfter s } := by
  have hm : (tickCount s).mld = (marked s).mld := by
    rw [tickCount_eq]
    exact (Kept.ite (sceneJump_kept (kept_loader (canonical_marked hs))) (kept_loader (canonical_marked hs))).mld
  rw [hm, marked_mld_of_lifting hd]

/-- A mark two deckles back stays two deckles back where the number jumps (R99). -/
theorem moved_two {m e n : Nat} (_he : e < 2 ^ 48) (hm : (m + 2) % 2 ^ 48 = n % 2 ^ 48) :
    ((m + modDist 48 e (n % 2 ^ 48)) % 2 ^ 48 + 2) % 2 ^ 48 = e % 2 ^ 48 := by
  rw [modDist]
  omega

theorem tickNumber_lt (s : State) : tickNumber s < 2 ^ 48 := by
  unfold tickNumber
  split <;> exact Nat.mod_lt _ (Nat.two_pow_pos 48)

theorem markAfter_two (hst : s.dkl.started = true) (hm : (s.mld.liftAt + 2) % 2 ^ 48 = (s.dkl.num + 1) % 2 ^ 48) :
    (markAfter s + 2) % 2 ^ 48 = tickNumber s % 2 ^ 48 := by
  rw [markAfter]
  cases hj : jumps s
  case false =>
    rw [jumps, hst, Bool.true_and, bne_eq_false_iff_eq] at hj
    rw [if_neg Bool.false_ne_true, hm, hj, Nat.mod_mod]
  case true =>
    rw [if_pos rfl, movedMark]
    exact moved_two (tickNumber_lt s) hm

theorem opened_mld_of_lifting (hs : Canonical s) (hd : s.dev = .lifting) :
    (opened s wck).mld = { s.mld with liftAt := markAfter (audioTurn (overruns s)) } := by
  have k : Kept { Keep.loader s.mld s.pending with dev := (· = s.dev) } (audioTurn (overruns s)) :=
    audioTurn_kept (overruns_kept ⟨rfl, hs.1, hs.2, rfl, trivial, trivial, rfl, trivial⟩)
  have hu : Canonical (audioTurn (overruns s)) := ⟨k.regs, k.mem⟩
  have hc : Kept (Keep.stored (audioTurn (overruns s))) (tickCount (audioTurn (overruns s))) :=
    tickCount_kept (kept_stored hu).anyNum trivial fun _ _ _ => trivial
  have ho := launchPackets_kept (launchFrames_kept (stepLease_kept (first := !s.dkl.started) (wck := wck)
    (kept_loader (s := tickCount (audioTurn (overruns s))) ⟨hc.regs, hc.mem⟩)))
  rw [opened, ho.mld, tickCount_mld_of_lifting hu (k.dev.trans hd), k.mld]

theorem liftEnds_opened (hs : Canonical s) (hd : s.dev = .lifting) (hst : s.dkl.started = true)
    (hm : (s.mld.liftAt + 2) % 2 ^ 48 = (s.dkl.num + 1) % 2 ^ 48) : liftEnds (opened s wck) (opened s wck).dkl.num = true := by
  have k : Kept (Keep.opening s) (opened s wck) := opened_opening hs
  have hu : (audioTurn (overruns s)).dkl = s.dkl := overruns_dkl s
  have hmld : (audioTurn (overruns s)).mld = s.mld := (audioTurn_kept (overruns_kept (kept_loader hs))).mld
  have h2 := markAfter_two (s := audioTurn (overruns s)) (by rw [hu, hst]) (by rw [hu, hmld, hm])
  rw [liftEnds, k.dev, hd, k.num, opened_mld_of_lifting hs hd, h2, tickNumber_overruns]
  simp

/-- LIFT_END of a boundary at which the lift ends. -/
theorem deckleTick_of_liftEnds (hs : Canonical s) (hd : s.dev = .lifting) (htrip : s.mgt.tripping = false)
    (he : liftEnds (opened s wck) (opened s wck).dkl.num = true) :
    LiftEnded s.mld.pendLoad (deckleTick s wck) := by
  rcases lifted_of_lifting (wck := wck) hs hd with ⟨-, h⟩ | ⟨h, -⟩
  · have ho : Kept (Keep.opening s) (opened s wck) := opened_opening hs
    have k : Kept { Keep.opening s with dev := fun _ => True, num := fun _ => True, mld := fun _ => True } (lifted s wck) :=
      liftStep_kept_of_dev ⟨ho.queue, ho.regs, ho.mem, trivial, trivial, ho.store, trivial, ho.mgt⟩ (fun _ => trivial)
        (fun _ => ⟨trivial, trivial⟩) trivial fun _ => trivial
    rw [deckleTick_of_not_running h.not_running, k.mgt, htrip]
    exact h
  · exact absurd (he.symm.trans h) (by decide)

end Sys2Proof.Machine

namespace Sys2Proof.Claims

open Sys2Proof.Machine

variable {s : State}

theorem boundaryFor_of_due {cause : Bool} (hdue : boundaryDue s = true) (hsent : s.mgt.tripSent = false) (hc : cause = true) :
    boundaryFor s cause = deckleTick s [] := by
  rw [boundaryFor, hdue, hc, Bool.and_true, if_pos rfl, boundary, hsent, if_neg Bool.false_ne_true]

theorem boundaryFor_of_not_due {cause : Bool} (hdue : boundaryDue s = false) : boundaryFor s cause = s := by
  rw [boundaryFor, hdue, Bool.false_and, if_neg Bool.false_ne_true]

/-- Settles O17: a boundary up to the lift keeps the loader's requests and the trip, and a jump of the number moves the mark of the lift
with it. -/
theorem liftBeginsAndEnds : Obligations.LiftBeginsAndEnds := by
  intro s hs
  refine ⟨fun hdue hsent hd hl => ?_, fun hdue hsent htrip hd hst hm => ?_, fun hdue => ?_⟩
  case refine_1 =>
    have hrow : execLiftBegin s = .next (deckleTick s []) :=
      congrArg Host.Outcome.next (boundaryFor_of_due hdue hsent (by rw [hd, hl]; rfl))
    obtain ⟨hnum, hdev⟩ := deckleTick_num_dev_of_laid (wck := []) hs hd
    rw [hl, if_pos rfl] at hdev
    exact ⟨_, hrow, hdev, hnum, (deckleTick_stored hs).store_queue_canonical⟩
  case refine_2 =>
    have hcause : liftEnds s (if s.dkl.started then s.dkl.num + 1 else s.dkl.first) = true := by
      rw [liftEnds, hst, if_pos rfl, hd, hm]
      simp
    have hrow : execLiftEnd s = .next (deckleTick s []) := congrArg Host.Outcome.next (boundaryFor_of_due hdue hsent hcause)
    have hend := deckleTick_of_liftEnds (wck := []) hs hd htrip (liftEnds_opened hs hd hst hm)
    obtain ⟨hmem, hqueue, hcanon⟩ := (deckleTick_stored (wck := []) hs).store_queue_canonical
    exact ⟨_, hrow, hend.dev, hend.num, hmem, hend.items, hend.liftReq, hend.pendLoad, hend.drivers, hqueue, hcanon⟩
  case refine_3 =>
    exact ⟨congrArg Host.Outcome.next (boundaryFor_of_not_due hdue), congrArg Host.Outcome.next (boundaryFor_of_not_due hdue)⟩

theorem execEventTick_of_running {flips : List RamFlip} {upsets : List (Nat × Nat)} (ha : awake s = true) (hp : s.pwr.pll = true) :
    execEventTick flips upsets s = .next (if boundaryDue s then s else eventTick s (tickCycles s) flips upsets) := by
  rw [execEventTick, ha, hp, Bool.and_true, if_pos rfl]

theorem execEventTick_of_stopped {flips : List RamFlip} {upsets : List (Nat × Nat)} (h : awake s = false ∨ s.pwr.pll = false) :
    execEventTick flips upsets s = .next (if s.pwr.held then holdTick s else s) := by
  rw [execEventTick, if_neg]
  rcases h with h | h <;> simp [h]

/-- An event tick has at most sixteen cycles (R37). -/
theorem tickCycles_le (s : State) : tickCycles s ≤ 16 := by
  unfold tickCycles
  split
  · exact Nat.min_le_left _ _
  · exact Nat.le_refl _

theorem rd_holdTick (hs : Canonical s) : rd (holdTick s) R.MGT_STAT = scSet (rd s R.MGT_STAT) (mgtBits s) 0 ∧ RegsBut s (holdTick s) [R.MGT_STAT] := by
  unfold holdTick
  exact ⟨rd_wr_self (s := s.setEv _) hs.1 _ _, regsBut_wr (s.setEv _) R.MGT_STAT _⟩

/-- Settles O20: the ticks by the power state and by the boundary that is due. -/
theorem ticksComplete : Obligations.TicksComplete := by
  intro s hs
  refine ⟨fun flips upsets => ?_, fun w hdue => ?_, fun w hdue hsent => ?_, fun w hdue hsent => ?_⟩
  case refine_1 =>
    obtain ⟨t, ht, hk⟩ : ∃ t, execEventTick flips upsets s = .next t ∧ KeepsMain s t :=
      ⟨_, rfl, keepsMain_of_kept (execEventTick_kept (kept_main hs)) rfl⟩
    refine ⟨t, ht, hk, fun ha hp hdue => ?_, fun ha hp hdue => ?_, fun ha hheld => ?_, fun hstop hheld => ?_⟩
    · rw [execEventTick_of_running ha hp, hdue] at ht
      exact ⟨(Host.Outcome.next.inj ht).symm, tickCycles_le s⟩
    · rw [execEventTick_of_running ha hp, hdue] at ht
      exact (Host.Outcome.next.inj ht).symm
    · rw [execEventTick_of_stopped (.inl ha), hheld] at ht
      obtain rfl : holdTick s = t := Host.Outcome.next.inj ht
      exact ⟨rfl, (rd_holdTick hs).symm⟩
    · rw [execEventTick_of_stopped hstop, hheld] at ht
      exact (Host.Outcome.next.inj ht).symm
  case refine_2 =>
    exact congrArg Host.Outcome.next (by rw [hdue, if_neg Bool.false_ne_true])
  case refine_3 =>
    have hrow : execDeckleTick w s = .next (deckleTick s w) := by
      rw [execDeckleTick, hdue, if_pos rfl, boundary, hsent, if_neg Bool.false_ne_true]
    obtain ⟨hmem, hqueue, hcanon⟩ := (deckleTick_stored (wck := w) hs).store_queue_canonical
    have hrun : running s = true := by
      exact running_of_boundaryDue hdue
    exact ⟨_, hrow, rfl, hmem, hqueue, hcanon, deckleTick_num hs hrun, deckleTick_num_dev_of_laid hs⟩
  case refine_4 =>
    exact congrArg Host.Outcome.next (by rw [hdue, if_pos rfl, boundary, hsent, if_pos rfl])

end Sys2Proof.Claims

end

section
/-! SUPPORT. The array of the search core, its searches and its scrubber (chapters 04 and 05), and O21 to O24. -/

namespace Sys2Proof.Machine

open Sys2Proof.Claims

variable {s t : State}

/-! ### Beats -/

/-- A beat that is no automatic invalidation changes a unit without looking at the other beats. -/
theorem applyArr_of_not_auto {b : ArrBeat} (h : ∀ i w, b.op ≠ .auto i w) (bs bs' : List ArrBeat) (u : SUnit) :
    applyArr bs u b = applyArr bs' u b := by
  unfold applyArr
  cases hb : b.op with
  | auto i w => exact absurd hb (h i w)
  | _ => rfl

theorem fixFirst_of_not_auto {b c : ArrBeat} (h : ∀ i w, c.op ≠ .auto i w) : fixFirst b c = false := by
  unfold fixFirst
  split
  · next _ _ _ i w _ hc => exact absurd hc (h i w)
  · rfl

/-- A beat is put behind those of its cycle and before the later ones (R155, R186). -/
theorem insBeat_split {b : ArrBeat} {l : List ArrBeat} (hsort : l.Pairwise (fun a b => a.land ≤ b.land))
    (hauto : ∀ c ∈ l, ∀ i w, c.op ≠ .auto i w) :
    ∃ l₁ l₂, l = l₁ ++ l₂ ∧ insBeat b l = l₁ ++ b :: l₂ ∧ (∀ c ∈ l₁, c.land ≤ b.land) ∧ ∀ c ∈ l₂, b.land < c.land := by
  induction l with
  | nil => exact ⟨[], [], rfl, rfl, by simp, by simp⟩
  | cons c l ih =>
    obtain ⟨hc, hl⟩ := List.pairwise_cons.1 hsort
    have hfix : fixFirst b c = false := fixFirst_of_not_auto (hauto c List.mem_cons_self)
    by_cases hlt : b.land < c.land
    · refine ⟨[], c :: l, rfl, if_pos (.inl hlt), by simp, ?_⟩
      rintro d (_ | ⟨_, hd⟩)
      · exact hlt
      · exact Nat.lt_of_lt_of_le hlt (hc d hd)
    · obtain ⟨l₁, l₂, hsplit, hins, hle, hgt⟩ := ih hl fun d hd => hauto d (List.mem_cons_of_mem c hd)
      refine ⟨c :: l₁, l₂, by rw [hsplit]; rfl, ?_, ?_, hgt⟩
      · rw [insBeat, if_neg (by simp [hlt, hfix]), hins]
        rfl
      · rintro d (_ | ⟨_, hd⟩)
        · exact Nat.le_of_not_lt hlt
        · exact hle d hd

theorem insBeat_sorted {b : ArrBeat} {l : List ArrBeat} (hsort : l.Pairwise (fun a b => a.land ≤ b.land))
    (hauto : ∀ c ∈ l, ∀ i w, c.op ≠ .auto i w) : (insBeat b l).Pairwise (fun a b => a.land ≤ b.land) := by
  obtain ⟨l₁, l₂, rfl, hins, hle, hgt⟩ := insBeat_split (b := b) hsort hauto
  obtain ⟨h₁, h₂, h₁₂⟩ := List.pairwise_append.1 hsort
  rw [hins]
  refine List.pairwise_append.2 ⟨h₁, List.pairwise_cons.2 ⟨fun c hc => Nat.le_of_lt (hgt c hc), h₂⟩, ?_⟩
  rintro c hc d (_ | ⟨_, hd⟩)
  · exact hle c hc
  · exact h₁₂ c hc d hd

/-- What a beat of a list does to the unit of an address, read in a cycle: the fold of `unitAt`. -/
def seenBeat (bs : List ArrBeat) (addr l : Nat) (u : SUnit) (b : ArrBeat) : SUnit :=
  if b.addr = addr ∧ b.land ≤ l then applyArr bs u b else u

theorem unitAt_eq (s : State) (addr l : Nat) :
    unitAt s addr l = s.srch.beats.foldl (seenBeat s.srch.beats addr l) (SMap.getD s.srch.base addr sunit0) := rfl

theorem foldl_seenBeat_congr {bs bs' l : List ArrBeat} (h : ∀ b ∈ l, ∀ i w, b.op ≠ .auto i w) (addr c : Nat) (u : SUnit) :
    l.foldl (seenBeat bs addr c) u = l.foldl (seenBeat bs' addr c) u := by
  induction l generalizing u with
  | nil => rfl
  | cons b l ih =>
    have hb : seenBeat bs addr c u b = seenBeat bs' addr c u b := by
      rw [seenBeat, seenBeat, applyArr_of_not_auto (h b List.mem_cons_self) bs bs']
    rw [List.foldl_cons, List.foldl_cons, hb, ih fun d hd => h d (List.mem_cons_of_mem b hd)]

theorem foldl_seenBeat_unseen {bs l : List ArrBeat} {addr c : Nat} (h : ∀ b ∈ l, ¬ (b.addr = addr ∧ b.land ≤ c)) (u : SUnit) :
    l.foldl (seenBeat bs addr c) u = u := by
  induction l with
  | nil => rfl
  | cons b l ih =>
    rw [List.foldl_cons, seenBeat, if_neg (h b List.mem_cons_self), ih fun d hd => h d (List.mem_cons_of_mem b hd)]

/-- A unit behind one more beat: the new one is the last that its address sees, and no other address sees it. -/
theorem unitAt_landBeat {land addr : Nat} {op : ArrOp} (hsort : s.srch.beats.Pairwise (fun a b => a.land ≤ b.land))
    (hauto : ∀ b ∈ s.srch.beats, ∀ i w, b.op ≠ .auto i w) (hlast : ∀ b ∈ s.srch.beats, b.addr = addr → b.land ≤ land)
    (hop : ∀ i w, op ≠ .auto i w) (a l : Nat) :
    unitAt (landBeat s land addr op) a l = seenBeat [] a l (unitAt s a l) ⟨land, addr, op⟩ := by
  obtain ⟨l₁, l₂, hsplit, hins, -, hgt⟩ := insBeat_split (b := ⟨land, addr, op⟩) hsort hauto
  have hb : (landBeat s land addr op).srch.beats = l₁ ++ ⟨land, addr, op⟩ :: l₂ := hins
  have hbase : (landBeat s land addr op).srch.base = s.srch.base := rfl
  have hauto' : ∀ b ∈ l₁ ++ ⟨land, addr, op⟩ :: l₂, ∀ i w, b.op ≠ .auto i w := by
    rw [hsplit] at hauto
    simp only [List.mem_append, List.mem_cons] at hauto ⊢
    rintro b (h | rfl | h)
    · exact hauto b (.inl h)
    · exact hop
    · exact hauto b (.inr h)
  rw [unitAt_eq, unitAt_eq, hb, hbase, foldl_seenBeat_congr (bs' := []) hauto', foldl_seenBeat_congr (bs' := []) hauto, hsplit,
    List.foldl_append, List.foldl_append, List.foldl_cons]
  by_cases ha : addr = a
  · have hl₂ : ∀ b ∈ l₂, ¬ (b.addr = a ∧ b.land ≤ l) := fun b hb' ⟨hba, _⟩ =>
      absurd (hlast b (hsplit ▸ List.mem_append_right l₁ hb') (hba.trans ha.symm)) (Nat.not_le.2 (hgt b hb'))
    rw [foldl_seenBeat_unseen hl₂, foldl_seenBeat_unseen hl₂]
  · have hnot : ¬ (addr = a ∧ land ≤ l) := fun h => ha h.1
    rw [seenBeat, seenBeat, if_neg hnot, if_neg hnot]

end Sys2Proof.Machine

namespace Sys2Proof.Claims

open Sys2Proof.Machine

/-- Settles O24: the beat is put behind those of its address, so it is the last that its address sees. -/
theorem beatIsSeenFromItsCycle : Obligations.BeatIsSeenFromItsCycle := by
  intro s land addr op hsort hauto hlast hop
  have hunit := unitAt_landBeat hsort hauto hlast hop
  have hseen : ∀ l, land ≤ l → unitAt (landBeat s land addr op) addr l = applyArr [] (unitAt s addr l) ⟨land, addr, op⟩ :=
    fun l hl => (hunit addr l).trans (if_pos ⟨rfl, hl⟩)
  refine ⟨fun l hl => ?_, fun a l ha => ?_, fun v l hl h => ?_, fun val m sv sm sp ad ap l hl h => ?_, fun ad ap l hl h => ?_, ?_⟩
  case refine_1 => exact (hunit addr l).trans (if_neg fun h => absurd h.2 (Nat.not_le.2 hl))
  case refine_2 => exact (hunit a l).trans (if_neg fun h => ha h.1.symm)
  case refine_3 => rw [hseen l hl, applyArr, h]
  case refine_4 => rw [hseen l hl, applyArr, h]
  case refine_5 => rw [hseen l hl, applyArr, h]
  case refine_6 => exact insBeat_sorted hsort hauto

end Sys2Proof.Claims
namespace Sys2Proof.Machine

open Sys2Proof.Claims

variable {s t : State}

/-! ### What the array's reports and beats change -/

/-- A state with more beats of the array and more findings of the search core. -/
def found (s : State) (bs : List ArrBeat) (fs : List (Nat × HwReq)) : State :=
  (s.setSrch { s.srch with beats := bs.foldl (fun m b => insBeat b m) s.srch.beats }).setEv { s.ev with finds := s.ev.finds ++ fs }

@[simp] theorem found_nil (s : State) : found s [] [] = s := by
  rw [found, List.append_nil]
  rfl

@[simp] theorem found_found (s : State) (bs bs' : List ArrBeat) (fs fs' : List (Nat × HwReq)) :
    found (found s bs fs) bs' fs' = found s (bs ++ bs') (fs ++ fs') := by
  rw [found, found, found, List.foldl_append, ← List.append_assoc]
  rfl

@[simp] theorem found_regs (s : State) (bs : List ArrBeat) (fs : List (Nat × HwReq)) : (found s bs fs).regs = s.regs := rfl
@[simp] theorem found_dev (s : State) (bs : List ArrBeat) (fs : List (Nat × HwReq)) : (found s bs fs).dev = s.dev := rfl
@[simp] theorem found_dkl (s : State) (bs : List ArrBeat) (fs : List (Nat × HwReq)) : (found s bs fs).dkl = s.dkl := rfl

@[simp] theorem found_upd (s : State) (bs : List ArrBeat) (fs : List (Nat × HwReq)) : (found s bs fs).upd = s.upd := rfl
@[simp] theorem found_finds (s : State) (bs : List ArrBeat) (fs : List (Nat × HwReq)) : (found s bs fs).ev.finds = s.ev.finds ++ fs := rfl
@[simp] theorem found_srch (s : State) (fs : List (Nat × HwReq)) : (found s [] fs).srch = s.srch := rfl
@[simp] theorem rd_found (s : State) (bs : List ArrBeat) (fs : List (Nat × HwReq)) (o : Nat) : rd (found s bs fs) o = rd s o := rfl

theorem landBeat_eq (s : State) (land addr : Nat) (op : ArrOp) : landBeat s land addr op = found s [⟨land, addr, op⟩] [] := by
  rw [found, List.append_nil]
  rfl

theorem noteFind_eq (s : State) (c ord : Nat) (q : HwReq) : noteFind s c ord q = found s [] [(4 * c + ord, q)] := rfl

theorem wmkFinding_eq (s : State) (c bits : Nat) (lasts : List (Nat × Word)) (tenant : Nat) :
    wmkFinding s c 0 bits lasts tenant = found s [] (scrubFinding c bits lasts tenant) := by
  rw [wmkFinding, noteFind_eq, noteFind_eq, found_found]
  rfl

theorem regionOf_congr (h : t.regs = s.regs) (addr n : Nat) : regionOf t addr n = regionOf s addr n := by
  induction n with
  | zero => rfl
  | succ n ih => simp only [regionOf, ih, rd_of_regs_eq h]

theorem regionTenant_congr (h : t.regs = s.regs) (addr : Nat) : regionTenant t addr = regionTenant s addr := by
  unfold regionTenant
  rw [regionOf_congr h]
  cases regionOf s addr 256 with
  | none => rfl
  | some n => simp only [rdF, rd_of_regs_eq h]

theorem regionTenant_found (s : State) (bs : List ArrBeat) (fs : List (Nat × HwReq)) (addr : Nat) :
    regionTenant (found s bs fs) addr = regionTenant s addr :=
  regionTenant_congr (s := s) (t := found s bs fs) rfl addr

theorem regionTenant_setSrch (s : State) (x : Srch) (addr : Nat) : regionTenant (s.setSrch x) addr = regionTenant s addr :=
  regionTenant_congr (s := s) (t := s.setSrch x) rfl addr

theorem quireCode_congr (h : t.regs = s.regs) (hd : t.dev = s.dev) (q : Nat) : quireCode t q = quireCode s q := by
  have hr : running t = running s := by rw [running, running, hd]
  simp only [quireCode, hr, rdF, rd_of_regs_eq h]

theorem nextQuire_congr (h : t.regs = s.regs) (hd : t.dev = s.dev) (q n : Nat) : nextQuire t q n = nextQuire s q n := by
  induction n generalizing q with
  | zero => rfl
  | succ n ih => simp only [nextQuire, ih, quireCode_congr h hd]

theorem scrubNext_congr (h : t.regs = s.regs) (hd : t.dev = s.dev) : scrubNext t = scrubNext s := by
  simp only [scrubNext, scrubFirst, nextQuire_congr h hd, rd_of_regs_eq h]

theorem scrubPass_congr (h : t.regs = s.regs) (hd : t.dev = s.dev) (hk : t.dkl = s.dkl) : scrubPass t = scrubPass s := by
  simp only [scrubPass, nextQuire_congr h hd, rd_of_regs_eq h, hk]

theorem wrF_upd (s : State) (o hi lo v : Nat) : (wrF s o hi lo v).upd = s.upd := rfl
theorem wrF_srch (s : State) (o hi lo v : Nat) : (wrF s o hi lo v).srch = s.srch := rfl
theorem wrF_ev (s : State) (o hi lo v : Nat) : (wrF s o hi lo v).ev = s.ev := rfl

/-! ### The scrubber -/

/-- What a grant of the scrubber leaves: the port taken, the beats it takes, the rewrite that waits, the position and the findings. -/
structure Scrubbed (s t : State) (c : Nat) (beats : List ArrBeat) (rewrite : Option (Nat × Nat × Nat)) (pos : Word)
    (finds : List (Nat × HwReq)) : Prop where
  port : PortFreeAt t (c + 1) 3
  granted : t.srch.granted = true
  rewrite : t.srch.rewrite = rewrite
  pos : rd t R.WMK_SCRUB_POS = pos
  regs : RegsBut s t [R.WMK_SCRUB_POS]
  beats : Landed s t beats
  finds : t.ev.finds = s.ev.finds ++ finds

/-- The scrubber goes on: the next position, the report at the end of a pass, and no rewrite. -/
structure Advanced (s t : State) : Prop where
  pos : rd t R.WMK_SCRUB_POS = scrubNext s
  regs : RegsBut s t [R.WMK_SCRUB_POS]
  upd : t.upd = s.upd
  srch : t.srch = { s.srch with rewrite := none }
  finds : t.ev.finds = s.ev.finds ++ scrubPass s

theorem scrubAdvance_of_lt (hlt : rdF s R.WMK_SCRUB_POS 19 0 % 16384 < 16383) : scrubAdvance s =
    wrF (s.setSrch { s.srch with rewrite := none }) R.WMK_SCRUB_POS 19 0 (rdF s R.WMK_SCRUB_POS 19 0 + 1) := by
  unfold scrubAdvance
  exact if_pos hlt

theorem scrubAdvance_of_some {q : Nat} (hlt : ¬ rdF s R.WMK_SCRUB_POS 19 0 % 16384 < 16383)
    (hq : nextQuire s (rdF s R.WMK_SCRUB_POS 19 0 / 16384 + 1) 64 = some q) :
    scrubAdvance s = wrF (s.setSrch { s.srch with rewrite := none }) R.WMK_SCRUB_POS 19 0 (q * 16384) := by
  unfold scrubAdvance
  simp only [if_neg hlt, hq]

theorem scrubAdvance_of_none (hlt : ¬ rdF s R.WMK_SCRUB_POS 19 0 % 16384 < 16383)
    (hq : nextQuire s (rdF s R.WMK_SCRUB_POS 19 0 / 16384 + 1) 64 = none) :
    scrubAdvance s = found (wrF (wrF (s.setSrch { s.srch with rewrite := none }) R.WMK_SCRUB_POS 19 0 (scrubFirst s)) R.WMK_SCRUB_POS 31 31
      (1 - rdF s R.WMK_SCRUB_POS 31 31)) [] (scrubFinding s.dkl.cyc 0x80 [] 0) := by
  unfold scrubAdvance
  simp only [if_neg hlt, hq, wmkFinding_eq]

theorem advanced_scrubAdvance (hw : Registers.wf s.regs = true) : Advanced s (scrubAdvance s) := by
  by_cases hlt : fld (rd s R.WMK_SCRUB_POS) 19 0 % 16384 < 16383
  · rw [scrubAdvance_of_lt hlt]
    refine ⟨?_, fun o ho => ?_, rfl, rfl, ?_⟩
    · rw [scrubNext, if_pos hlt]
      exact rd_wrF_self (s := s.setSrch _) hw ..
    · exact rd_wrF_ne (s := s.setSrch _) (by simpa using ho)
    · rw [scrubPass, if_pos hlt, List.append_nil]
      rfl
  cases hq : nextQuire s (fld (rd s R.WMK_SCRUB_POS) 19 0 / 16384 + 1) 64 with
  | some q =>
    rw [scrubAdvance_of_some hlt hq]
    refine ⟨?_, fun o ho => ?_, rfl, rfl, ?_⟩
    · rw [scrubNext, if_neg hlt, hq]
      exact rd_wrF_self (s := s.setSrch _) hw ..
    · exact rd_wrF_ne (s := s.setSrch _) (by simpa using ho)
    · rw [scrubPass, if_neg hlt, hq, List.append_nil]
      rfl
  | none =>
    rw [scrubAdvance_of_none hlt hq]
    refine ⟨?_, fun o ho => ?_, ?_, ?_, ?_⟩
    · rw [scrubNext, if_neg hlt, hq, rd_found]
      refine (rd_wrF_self (wf_wrF (s := s.setSrch _) hw ..) ..).trans ?_
      rw [rd_wrF_self (s := s.setSrch _) hw, rd_setSrch]
      rfl
    · have hne : o ≠ R.WMK_SCRUB_POS := by simpa using ho
      rw [rd_found, rd_wrF_ne hne, rd_wrF_ne hne, rd_setSrch]
    · rw [found_upd, wrF_upd, wrF_upd]
      rfl
    · rw [found_srch, wrF_srch, wrF_srch]
      rfl
    · rw [scrubPass, if_neg hlt, hq, found_finds, wrF_ev, wrF_ev]
      rfl

/-- A visit or a rewrite that lets the scrubber go on. -/
theorem scrubbed_of_advance (hs : Canonical s) {c : Nat} {bs : List ArrBeat} {fs : List (Nat × HwReq)} :
    Scrubbed s (scrubAdvance (found (scrubGranted s c) bs fs)) c bs none (scrubNext s) (fs ++ scrubPass s) := by
  have h := advanced_scrubAdvance (s := found (scrubGranted s c) bs fs) hs.1
  have hnext : scrubNext (found (scrubGranted s c) bs fs) = scrubNext s := scrubNext_congr rfl rfl
  have hpass : scrubPass (found (scrubGranted s c) bs fs) = scrubPass s := scrubPass_congr rfl rfl rfl
  refine ⟨⟨by rw [h.upd]; rfl, by rw [h.upd]; rfl⟩, by rw [h.srch]; rfl, by rw [h.srch], h.pos.trans hnext, h.regs, ?_, ?_⟩
  · rw [Landed, h.srch]
    rfl
  · rw [h.finds, hpass, ← List.append_assoc]
    rfl

/-- A visit that leaves a rewrite behind. -/
theorem scrubbed_of_rewrite (s : State) {c : Nat} {bs : List ArrBeat} {fs : List (Nat × HwReq)} (x : Nat × Nat × Nat) :
    Scrubbed s ((found (scrubGranted s c) bs fs).setSrch { (found (scrubGranted s c) bs fs).srch with rewrite := some x }) c bs (some x)
      (rd s R.WMK_SCRUB_POS) fs :=
  ⟨⟨rfl, rfl⟩, rfl, rfl, rfl, regsBut_refl s _, rfl, rfl⟩

theorem scrubbed_scrubRewrite (hs : Canonical s) (c b v m : Nat) :
    Scrubbed s (scrubRewrite (scrubGranted s c) (b, v, m) c) c [{ land := c, addr := b, op := .unit (some (v, m)) none none }] none
      (scrubNext s) (scrubFinding c 4 [(R.WMK_SCRUB, scrubWord 2 b)] (regionTenant s b) ++ scrubPass s) := by
  have htn : regionTenant (scrubGranted s c) b = regionTenant s b := regionTenant_congr (s := s) (t := scrubGranted s c) rfl b
  rw [scrubRewrite, landBeat_eq, wmkFinding_eq, found_found, htn]
  exact scrubbed_of_advance hs

theorem scrubAd_eq (s : State) (c a : Nat) (u : SUnit) : scrubAd s c a u = found s []
    (if ((adBad u).1 || (adBad u).2) = true then
      scrubFinding c 0x20 [(R.WMK_DBAD, BitVec.ofNat 32 (a + b2n (adBad u).1 * 2 ^ 20 + b2n (adBad u).2 * 2 ^ 21 + 2 ^ 22))] (regionTenant s a)
    else []) := by
  unfold scrubAd
  split
  · next h => rw [if_pos h, wmkFinding_eq]
  · next h => rw [if_neg h, found_nil]

/-- What a visit finds in the valid copies of its unit, and writes into them (R158 step 1). -/
def mixedBeats (c a : Nat) (u : SUnit) : List ArrBeat :=
  if u.valid ≠ 0 ∧ u.valid ≠ 7 then [{ land := c, addr := a, op := .fix (if majority3 u.valid then 7 else 0) }] else []

/-- What a visit reports of the valid copies of its unit (R158 step 1). -/
def mixedFinds (s : State) (c a : Nat) (u : SUnit) : List (Nat × HwReq) :=
  if u.valid ≠ 0 ∧ u.valid ≠ 7 then scrubFinding c 8 [(R.WMK_SCRUB, scrubWord 1 a)] (regionTenant s a) else []

/-- A visit behind its step 1. -/
def majorityFixed (s : State) (c a : Nat) (u : SUnit) : State :=
  if u.valid ≠ 0 ∧ u.valid ≠ 7 then
    wmkFinding (landBeat s c a (.fix (if majority3 u.valid then 7 else 0))) c 0 8 [(R.WMK_SCRUB, scrubWord 1 a)] (regionTenant s a)
  else s

theorem majorityFixed_eq (s : State) (c a : Nat) (u : SUnit) : majorityFixed s c a u = found s (mixedBeats c a u) (mixedFinds s c a u) := by
  unfold majorityFixed mixedBeats mixedFinds
  by_cases h : u.valid ≠ 0 ∧ u.valid ≠ 7
  · rw [if_pos h, if_pos h, if_pos h, wmkFinding_eq, landBeat_eq, found_found]
    rfl
  · rw [if_neg h, if_neg h, if_neg h, found_nil]

/-- The steps of a visit behind the first (R158, R159). -/
theorem scrubVisit_eq (s : State) (c : Nat) : scrubVisit s c =
    let a := rdF s R.WMK_SCRUB_POS 19 0
    let e := entryOf (widthUnits (quireCode s (a / 16384))) a
    let u := unitPort s a c
    if !majority3 (unitPort s e c).valid then scrubAdvance (majorityFixed s c a u)
    else if u.spar ≠ shadowParity u.sval u.smask then
      scrubAdvance (wmkFinding (landBeat (majorityFixed s c a u) c e (.valid 0)) c 0 0x10 [(R.WMK_SCRUB, scrubWord 3 a)] (regionTenant s a))
    else if u.value ≠ u.sval ∨ u.mask ≠ u.smask then
      (scrubAd (majorityFixed s c a u) c a u).setSrch { (scrubAd (majorityFixed s c a u) c a u).srch with rewrite := some (a, u.sval, u.smask) }
    else scrubAdvance (scrubAd (majorityFixed s c a u) c a u) := rfl

end Sys2Proof.Machine

namespace Sys2Proof.Claims

open Sys2Proof.Machine

variable {s t : State}

theorem execScrubVisit_of_stopped {cyc : BitVec 4}
    (h : scrubFree s (s.dkl.cyc + cyc.toNat) = false ∨ scrubHas s = false ∨ s.srch.rewrite ≠ none) : execScrubVisit cyc s = .next s := by
  refine congrArg Host.Outcome.next (if_neg fun hgo => ?_)
  rw [Bool.and_eq_true, Bool.and_eq_true, Option.isNone_iff_eq_none] at hgo
  obtain ⟨⟨hfree, hhas⟩, hnone⟩ := hgo
  rcases h with h | h | h
  · exact Bool.false_ne_true (h.symm.trans hfree)
  · exact Bool.false_ne_true (h.symm.trans hhas)
  · exact h hnone

theorem execScrubVisit_of_granted {cyc : BitVec 4} (hfree : scrubFree s (s.dkl.cyc + cyc.toNat) = true) (hhas : scrubHas s = true)
    (hnone : s.srch.rewrite = none) :
    execScrubVisit cyc s = .next (scrubVisit (scrubGranted s (s.dkl.cyc + cyc.toNat)) (s.dkl.cyc + cyc.toNat)) := by
  refine congrArg Host.Outcome.next (if_pos ?_)
  rw [hfree, hhas, hnone]
  rfl

theorem execScrubRewrite_of_stopped {cyc : BitVec 4} (h : scrubFree s (s.dkl.cyc + cyc.toNat) = false ∨ s.srch.rewrite = none) :
    execScrubRewrite cyc s = .next s := by
  unfold execScrubRewrite
  cases hr : s.srch.rewrite with
  | none => rfl
  | some a =>
    rcases h with h | h
    · exact congrArg Host.Outcome.next (if_neg (by rw [h]; exact Bool.false_ne_true))
    · exact absurd (h.symm.trans hr) (by simp)

theorem execScrubRewrite_of_granted {cyc : BitVec 4} {x : Nat × Nat × Nat} (hfree : scrubFree s (s.dkl.cyc + cyc.toNat) = true)
    (hx : s.srch.rewrite = some x) :
    execScrubRewrite cyc s = .next (scrubRewrite (scrubGranted s (s.dkl.cyc + cyc.toNat)) x (s.dkl.cyc + cyc.toNat)) := by
  unfold execScrubRewrite
  simp only [hx, hfree, if_true]

/-- What a granted visit leaves, by the steps that it goes through (R158). -/
theorem scrubbed_scrubVisit (hs : Canonical s) (c : Nat) :
    let a := rdF s R.WMK_SCRUB_POS 19 0
    let e := entryOf (widthUnits (quireCode s (a / 16384))) a
    let u := unitPort s a c
    let valid := majority3 (unitPort s e c).valid = true
    let bad := u.spar ≠ shadowParity u.sval u.smask
    let waits := valid ∧ ¬ bad ∧ (u.value ≠ u.sval ∨ u.mask ≠ u.smask)
    Scrubbed s (scrubVisit (scrubGranted s c) c) c
      (mixedBeats c a u ++ (if valid ∧ bad then [{ land := c, addr := e, op := .valid 0 }] else []))
      (if waits then some (a, u.sval, u.smask) else none)
      (if waits then rd s R.WMK_SCRUB_POS else scrubNext s)
      (mixedFinds s c a u ++ ((if valid ∧ bad then scrubFinding c 0x10 [(R.WMK_SCRUB, scrubWord 3 a)] (regionTenant s a) else []) ++
        ((if valid ∧ ¬ bad ∧ ((adBad u).1 || (adBad u).2) = true then
          scrubFinding c 0x20 [(R.WMK_DBAD, BitVec.ofNat 32 (a + b2n (adBad u).1 * 2 ^ 20 + b2n (adBad u).2 * 2 ^ 21 + 2 ^ 22))] (regionTenant s a) else []) ++
        (if waits then [] else scrubPass s)))) := by
  intro a e u valid bad waits
  have htn : regionTenant (scrubGranted s c) a = regionTenant s a := regionTenant_congr (s := s) (t := scrubGranted s c) rfl a
  have hfix : majorityFixed (scrubGranted s c) c a u = found (scrubGranted s c) (mixedBeats c a u) (mixedFinds s c a u) := by
    rw [majorityFixed_eq]
    unfold mixedFinds
    rw [htn]
  have hgo : scrubVisit (scrubGranted s c) c =
      if !majority3 (unitPort s e c).valid then scrubAdvance (majorityFixed (scrubGranted s c) c a u)
      else if u.spar ≠ shadowParity u.sval u.smask then
        scrubAdvance (wmkFinding (landBeat (majorityFixed (scrubGranted s c) c a u) c e (.valid 0)) c 0 0x10 [(R.WMK_SCRUB, scrubWord 3 a)]
          (regionTenant (scrubGranted s c) a))
      else if u.value ≠ u.sval ∨ u.mask ≠ u.smask then
        (scrubAd (majorityFixed (scrubGranted s c) c a u) c a u).setSrch
          { (scrubAd (majorityFixed (scrubGranted s c) c a u) c a u).srch with rewrite := some (a, u.sval, u.smask) }
      else scrubAdvance (scrubAd (majorityFixed (scrubGranted s c) c a u) c a u) := scrubVisit_eq (scrubGranted s c) c
  rw [hgo, hfix, htn]
  clear hgo hfix htn
  by_cases hv : valid
  case neg =>
    have hbad : ¬ (valid ∧ bad) := fun h => hv h.1
    have hdata : ¬ (valid ∧ ¬ bad ∧ ((adBad u).1 || (adBad u).2) = true) := fun h => hv h.1
    have hw : ¬ waits := fun h => hv h.1
    rw [if_pos (by simpa [valid] using hv), if_neg hbad, if_neg hbad, if_neg hdata, if_neg hw, if_neg hw, if_neg hw, List.append_nil]
    exact scrubbed_of_advance hs
  rw [if_neg (by simpa [valid] using hv)]
  by_cases hb : bad
  case pos =>
    have hbad : valid ∧ bad := ⟨hv, hb⟩
    have hdata : ¬ (valid ∧ ¬ bad ∧ ((adBad u).1 || (adBad u).2) = true) := fun h => h.2.1 hb
    have hw : ¬ waits := fun h => h.2.1 hb
    rw [if_pos hb, if_pos hbad, if_pos hbad, if_neg hdata, if_neg hw, if_neg hw, if_neg hw, landBeat_eq, wmkFinding_eq, found_found,
      found_found, List.append_nil, List.nil_append, List.nil_append, ← List.append_assoc]
    exact scrubbed_of_advance hs
  have hbad : ¬ (valid ∧ bad) := fun h => hb h.2
  have hdata : (valid ∧ ¬ bad ∧ ((adBad u).1 || (adBad u).2) = true) = (((adBad u).1 || (adBad u).2) = true) :=
    propext ⟨fun h => h.2.2, fun h => ⟨hv, hb, h⟩⟩
  have htn : regionTenant (found (scrubGranted s c) (mixedBeats c a u) (mixedFinds s c a u)) a = regionTenant s a :=
    regionTenant_congr (s := s) (t := found (scrubGranted s c) (mixedBeats c a u) (mixedFinds s c a u)) rfl a
  rw [if_neg hb, if_neg hbad, if_neg hbad, scrubAd_eq, found_found, List.append_nil, List.nil_append, htn]
  simp only [hdata]
  by_cases hc : u.value ≠ u.sval ∨ u.mask ≠ u.smask
  case pos =>
    have hw : waits := ⟨hv, hb, hc⟩
    rw [if_pos hc, if_pos hw, if_pos hw, if_pos hw, List.append_nil]
    exact scrubbed_of_rewrite s _
  case neg =>
    have hw : ¬ waits := fun h => hc h.2.2
    rw [if_neg hc, if_neg hw, if_neg hw, if_neg hw, ← List.append_assoc]
    exact scrubbed_of_advance hs

/-- Settles O21: the steps of a visit in their order, each with the beats and the findings it makes, and the rewrite. -/
theorem scrubberSteps : Obligations.ScrubberSteps := by
  intro s cyc hs
  refine ⟨fun h => ?_, fun h => ?_, fun h => ?_, fun hfree hhas hnone => ?_, fun b v m hfree hx => ?_⟩
  case refine_1 => exact ⟨execScrubVisit_of_stopped (.inl h), execScrubRewrite_of_stopped (.inl h)⟩
  case refine_2 => exact execScrubVisit_of_stopped (.inr h)
  case refine_3 => exact execScrubRewrite_of_stopped (.inr h)
  case refine_4 =>
    have hrow := execScrubVisit_of_granted hfree hhas hnone
    obtain ⟨hport, hgranted, hrewrite, hpos, hregs, hbeats, hfinds⟩ := scrubbed_scrubVisit hs (s.dkl.cyc + cyc.toNat)
    refine ⟨_, hrow, keepsMain_of_kept (execScrubVisit_kept (kept_main hs)) hrow, hport, hgranted, hrewrite, hpos, hregs, hbeats, ?_⟩
    rw [hfinds]
    simp only [List.append_assoc, mixedFinds]
  case refine_5 =>
    have hrow := execScrubRewrite_of_granted hfree hx
    obtain ⟨hport, hgranted, hrewrite, hpos, hregs, hbeats, hfinds⟩ := scrubbed_scrubRewrite hs (s.dkl.cyc + cyc.toNat) b v m
    refine ⟨_, hrow, keepsMain_of_kept (execScrubRewrite_kept (kept_main hs)) hrow, hport, hgranted, hrewrite, hpos, hregs, hbeats, ?_⟩
    rw [hfinds, List.append_assoc]

end Sys2Proof.Claims

namespace Sys2Proof.Machine

open Sys2Proof.Claims

variable {s t : State}

/-! ### Searches -/

theorem foldl_landBeat_regs (l : List WmFail) (c w : Nat) (s : State) : (autoInvalidate s c w l).regs = s.regs ∧
    (autoInvalidate s c w l).srch.reqs = s.srch.reqs ∧ (autoInvalidate s c w l).srch.flights = s.srch.flights := by
  unfold autoInvalidate
  induction l generalizing s with
  | nil => exact ⟨rfl, rfl, rfl⟩
  | cons f l ih =>
    obtain ⟨h₁, h₂, h₃⟩ := ih (landBeat s (c + 22) f.addr (.auto c w))
    exact ⟨h₁, h₂, h₃⟩

theorem pipeChoose_of_stopped {pipe c : Nat} (h : inWindow s c = true ∨ c < (if pipe = 0 then s.srch.hold0 else s.srch.hold1)) :
    pipeChoose s pipe c = s := if_pos h

theorem pipeChoose_of_go {pipe c : Nat} (hwin : inWindow s c = false) (hhold : ¬ c < (if pipe = 0 then s.srch.hold0 else s.srch.hold1)) :
    pipeChoose s pipe c = match classOrder.findSome? (fun cls => (nextReq s cls).filter (mayStart s c)) with
      | some r => startSearch s pipe c r
      | none => s := by
  refine if_neg ?_
  rw [hwin, not_or]
  exact ⟨Bool.false_ne_true, hhold⟩

theorem pipeChoose_of_none {pipe c : Nat} (h : classOrder.findSome? (fun cls => (nextReq s cls).filter (mayStart s c)) = none) :
    pipeChoose s pipe c = s := by
  rw [pipeChoose, h]
  exact ite_self s

/-- The findings of one failed candidate (R155, R156). -/
def failFinds (s : State) (f : Flight) (x : WmFail) : List (Nat × HwReq) :=
  let word : Word := BitVec.ofNat 32 (x.addr + x.cause * 2 ^ 20 + x.unit * 2 ^ 22 + x.cand * 2 ^ 24 +
    b2n (autoDiscarded s.srch.beats x.addr f.width f.issue) * 2 ^ 25 + f.pipe * 2 ^ 26)
  [(4 * (f.issue + 28) + (2 * f.pipe + x.cand), .cond R.WMK_STAT 512 1 [(R.WMK_FAIL, word)] 0 .newBits),
   (4 * (f.issue + 28) + (2 * f.pipe + x.cand), .fire 65 (regionTenant s x.addr) word)]

theorem reportFail_eq (s : State) (f : Flight) (x : WmFail) : reportFail s f.pipe f.issue f.width x = found s [] (failFinds s f x) := by
  rw [reportFail, noteFind_eq, noteFind_eq, found_found]
  rfl

theorem failFinds_congr (h : t.regs = s.regs) (hb : t.srch.beats = s.srch.beats) (f : Flight) (x : WmFail) : failFinds t f x = failFinds s f x := by
  rw [failFinds, failFinds, regionTenant_congr h, hb]

theorem foldl_reportFail (f : Flight) (l : List WmFail) (s : State) :
    l.foldl (fun u x => reportFail u f.pipe f.issue f.width x) s = found s [] (l.flatMap (failFinds s f)) := by
  induction l generalizing s with
  | nil => exact (found_nil s).symm
  | cons x l ih =>
    have hcongr : failFinds (found s [] (failFinds s f x)) f = failFinds s f := funext fun y =>
      failFinds_congr (s := s) (t := found s [] (failFinds s f x)) rfl rfl f y
    rw [List.foldl_cons, reportFail_eq, ih, hcongr, found_found]
    rfl

/-- The findings of a data-bad hit (R157). -/
def dbadFinds (s : State) (f : Flight) : List (Nat × HwReq) :=
  if bit f.res.w0 23 then
    [(4 * (f.issue + 28) + 2 * f.pipe, .cond R.WMK_STAT 512 2
      [(R.WMK_DBAD, BitVec.ofNat 32 (recAddr f.res + b2n f.res.badLo * 2 ^ 20 + b2n f.res.badHi * 2 ^ 21))] 0 .newBits),
     (4 * (f.issue + 28) + 2 * f.pipe, .fire 66 (regionTenant s (recAddr f.res)) 2)]
  else []

theorem reportDbad_eq (s : State) (f : Flight) : reportDbad s f.pipe f.issue f.res = found s [] (dbadFinds s f) := by
  unfold reportDbad dbadFinds
  by_cases h : bit f.res.w0 23 = true
  · rw [if_pos h, if_pos h, wmkFinding, noteFind_eq, noteFind_eq, found_found]
    rfl
  · rw [if_neg h, if_neg h, found_nil]

theorem flightFinds_eq (s : State) (f : Flight) : flightFinds s f = f.fails.flatMap (failFinds s f) ++ dbadFinds s f := rfl

/-- The reports of a search that ends, without its delivery. -/
theorem reported_eq (s : State) (f : Flight) :
    reportDbad (f.fails.foldl (fun u x => reportFail u f.pipe f.issue f.width x) s) f.pipe f.issue f.res = found s [] (flightFinds s f) := by
  have hd : dbadFinds (found s [] (f.fails.flatMap (failFinds s f))) f = dbadFinds s f := by
    rw [dbadFinds, dbadFinds, regionTenant_found]
  rw [foldl_reportFail, reportDbad_eq, hd, found_found, flightFinds_eq]
  rfl

/-- The first search of a pipe has ended and left the searches under way. -/
def landed (s : State) (f : Flight) : State := found (s.setSrch { s.srch with flights := s.srch.flights.erase f }) [] (flightFinds s f)

theorem landed_regs (s : State) (f : Flight) : (landed s f).regs = s.regs := found_regs _ _ _

theorem deliverFlight_eq (s : State) (f : Flight) : deliverFlight (s.setSrch { s.srch with flights := s.srch.flights.erase f }) f =
    match f.who with
    | .diag => diagDone (landed s f) f.res
    | .lost => landed s f
    | w => (landed s f).setSrch { (landed s f).srch with done := (landed s f).srch.done ++ [(w, f.res)] } := by
  have hff : flightFinds (s.setSrch { s.srch with flights := s.srch.flights.erase f }) f = flightFinds s f := by
    have h1 : failFinds (s.setSrch { s.srch with flights := s.srch.flights.erase f }) f = failFinds s f :=
      funext fun x =>
        failFinds_congr (s := s) (t := s.setSrch { s.srch with flights := s.srch.flights.erase f }) rfl rfl f x
    rw [flightFinds_eq, flightFinds_eq, h1, dbadFinds, dbadFinds, regionTenant_setSrch]
  rw [deliverFlight, reported_eq, hff]
  rfl

theorem diagDone_eq (s : State) (r : SRec) : diagDone s r = ask (s.setRegs (diagDone s r).regs) [.cond R.SRCH_STAT 64 1 [] 0 .newBits] := by
  unfold diagDone setCond
  dsimp only
  rw [request_eq_ask, ask_regs, wrAll_eq_setRegs]
  rfl

theorem rd_diagDone (hw : Registers.wf s.regs = true) (r : SRec) {o : Nat} {v : Word}
    (h : (o, v) ∈ [(R.SRCH_DIAG_RESm 0, r.w0), (R.SRCH_DIAG_RESm 1, r.w1), (R.SRCH_DIAG_RESm 2, r.adLo), (R.SRCH_DIAG_RESm 3, r.adHi),
      (R.SRCH_DIAG_STAT, (2 : Word))]) : rd (diagDone s r) o = v := by
  unfold diagDone setCond
  dsimp only
  rw [request_eq_ask, rd_ask]
  exact rd_wrAll_of_mem hw (by simp [R.SRCH_DIAG_RESm, R.SRCH_DIAG_STAT]) h

end Sys2Proof.Machine

namespace Sys2Proof.Claims

open Sys2Proof.Machine

variable {s t : State}

theorem execSearchResult_of_some {pipe : BitVec 1} {f : Flight} (h : s.srch.flights.find? (fun f => f.pipe == pipe.toNat) = some f) :
    execSearchResult pipe s = .next (deliverFlight (s.setSrch { s.srch with flights := s.srch.flights.erase f }) f) := by
  rw [execSearchResult, h]

/-- What the end of a search leaves of the searches and the findings, whoever asked for it (R127, R155, R157). -/
theorem deliverFlight_leaves (s : State) (f : Flight) :
    let t := deliverFlight (s.setSrch { s.srch with flights := s.srch.flights.erase f }) f
    t.srch = { s.srch with flights := s.srch.flights.erase f, done := if f.who = .diag ∨ f.who = .lost then s.srch.done else s.srch.done ++ [(f.who, f.res)] } ∧
      t.ev.finds = s.ev.finds ++ flightFinds s f ∧ (f.who ≠ .diag → t.regs = s.regs) := by
  intro t
  have ht : t = _ := deliverFlight_eq s f
  rw [ht]
  cases f.who with
  | diag =>
    dsimp only
    rw [diagDone_eq]
    exact ⟨rfl, rfl, fun h => absurd rfl h⟩
  | lost => exact ⟨rfl, rfl, fun _ => rfl⟩
  | _ => exact ⟨rfl, rfl, fun _ => rfl⟩

/-- Settles O22: what a pipe chooses, and the reports and the delivery of the search that ends. -/
theorem searchesStartAndEnd : Obligations.SearchesStartAndEnd := by
  intro s hs
  refine ⟨fun cyc => ?_, fun pipe c hwin => ?_, fun pipe c r hwin hhold hr => ?_, fun pipe c h => ?_, fun pipe h => ?_, fun pipe f h => ?_,
    fun h => ?_, fun h => ?_⟩
  case refine_1 => exact ⟨_, rfl, keepsMain_of_kept (execSearchIssue_kept (kept_main hs)) rfl, rfl⟩
  case refine_2 => exact pipeChoose_of_stopped (.inl hwin)
  case refine_3 =>
    rw [pipeChoose_of_go hwin (Nat.not_lt.2 hhold), hr]
    obtain ⟨hregs, hreqs, hflights⟩ := foldl_landBeat_regs (runSearch s r.prof r.key r.tenant c).2 c (widthUnits (profWidth s r.prof))
      (s.setSrch { s.srch with
        reqs := dropReq r s.srch.reqs
        flights := s.srch.flights ++ [⟨c, pipe, r.who, widthUnits (profWidth s r.prof), (runSearch s r.prof r.key r.tenant c).2, (runSearch s r.prof r.key r.tenant c).1⟩]
        credit := SMap.put s.srch.credit r.cls (SMap.getD s.srch.credit r.cls 0 - slotCost s r.prof)
        turn := if r.cls ≤ 1 then SMap.put s.srch.turn r.cls r.port else s.srch.turn
        hold0 := if pipe = 0 ∧ slotCost s r.prof = 2 then c + 2 else s.srch.hold0
        hold1 := if pipe = 1 ∧ slotCost s r.prof = 2 then c + 2 else s.srch.hold1 })
    exact ⟨hreqs, hflights, hregs⟩
  case refine_4 =>
    rcases h with h | h
    · exact pipeChoose_of_stopped (.inr h)
    · exact pipeChoose_of_none h
  case refine_5 =>
    refine congrArg Host.Outcome.next ?_
    rw [h]
  case refine_6 =>
    have hrow := execSearchResult_of_some h
    exact ⟨_, hrow, keepsMain_of_kept (execSearchResult_kept (kept_main hs)) hrow, deliverFlight_leaves s f⟩
  case refine_7 =>
    have hrow : execScrubStall s = .next (found (s.setSrch { s.srch with noGrant := s.srch.noGrant - 4096 }) [] (scrubFinding s.dkl.cyc 0x40 [] 0)) :=
      congrArg Host.Outcome.next ((if_pos h).trans (wmkFinding_eq ..))
    exact ⟨_, hrow, keepsMain_of_kept (execScrubStall_kept (kept_main hs)) hrow, by rw [found_srch, State.setSrch_srch],
      by rw [found_finds, State.setSrch_ev], by rw [found_regs, State.setSrch_regs]⟩
  case refine_8 => exact congrArg Host.Outcome.next (if_neg (Nat.not_le.2 h))

theorem execDiagGo_of_access {fn : BitVec 6} {v : Word} (h : accessOk s fn.toNat R.SRCH_DIAG_CTL = true) :
    execDiagGo fn v s = .next (if bit v 31 then diagGo (plainWrite s fn.toNat R.SRCH_DIAG_CTL .base v)
      else plainWrite s fn.toNat R.SRCH_DIAG_CTL .base v) := congrArg Host.Outcome.next (if_pos h)

/-- Settles O23: GO asks for the search of its profile unless it is refused, and the end of that search writes its record. -/
theorem diagnosticSearch : Obligations.DiagnosticSearch := by
  intro s fn v hs hacc u
  have hgo : bit v 31 = true → execDiagGo fn v s = .next (diagGo u) := fun hv => by
    rw [execDiagGo_of_access hacc, if_pos hv]
  refine ⟨fun hv => ?_, fun hv h => ?_, fun hv hbusy hdef hcls hdev => ?_, fun prof tenant hrun => ?_, fun pipe f hf hwho hfails hgood => ?_⟩
  case refine_1 => exact (execDiagGo_of_access hacc).trans (by rw [hv, if_neg Bool.false_ne_true])
  case refine_2 => exact (hgo hv).trans (congrArg Host.Outcome.next (if_pos h))
  case refine_3 =>
    refine (hgo hv).trans (congrArg Host.Outcome.next (if_neg ?_))
    rintro (h | h | h | h)
    · exact Bool.false_ne_true (hbusy.symm.trans h)
    · exact Bool.false_ne_true (h.symm.trans hdef)
    · exact h hcls
    · exact h hdev
  case refine_4 => exact ⟨_, if_pos hrun, rfl, rfl, rfl, rfl, rfl⟩
  case refine_5 =>
    have hrow := execSearchResult_of_some hf
    have hend : deliverFlight (s.setSrch { s.srch with flights := s.srch.flights.erase f }) f = diagDone (landed s f) f.res := by
      rw [deliverFlight_eq, hwho]
    have hw : Registers.wf (landed s f).regs = true := by rw [landed_regs]; exact hs.1
    rw [hend] at hrow
    refine ⟨_, hrow, rd_diagDone hw f.res (by simp), rd_diagDone hw f.res (by simp), rd_diagDone hw f.res (by simp),
      rd_diagDone hw f.res (by simp), rd_diagDone hw f.res (by simp), ?_⟩
    rw [diagDone_eq, ask_reqs]
    simp

end Sys2Proof.Claims
end

section
/-! SUPPORT. The update port (chapter 06), and O25, O26 and O28. -/

namespace Sys2Proof.Machine

open Sys2Proof.Claims

variable {s t u : State}

/-! ### What a rank-0 transfer changes -/

theorem scrubAdvance_upd (s : State) : (scrubAdvance s).upd = s.upd := by
  by_cases hlt : rdF s R.WMK_SCRUB_POS 19 0 % 16384 < 16383
  · rw [scrubAdvance_of_lt hlt, wrF_upd, State.setSrch_upd]
  cases hq : nextQuire s (rdF s R.WMK_SCRUB_POS 19 0 / 16384 + 1) 64 with
  | some q => rw [scrubAdvance_of_some hlt hq, wrF_upd, State.setSrch_upd]
  | none => rw [scrubAdvance_of_none hlt hq, found_upd, wrF_upd, wrF_upd, State.setSrch_upd]

theorem cancelRewrite_upd (s : State) (addr : Nat) : (cancelRewrite s addr).upd = s.upd := by
  unfold cancelRewrite
  split
  · exact scrubAdvance_upd s
  · rfl

theorem dropImage_eq (s : State) (addr : Nat) : ∃ f, dropImage s addr = s.setFwd f := by
  unfold dropImage
  split
  · split
    · exact ⟨_, rfl⟩
    · exact ⟨s.fwd, rfl⟩
  · exact ⟨s.fwd, rfl⟩

theorem inject_upd (s : State) (addr c : Nat) (op : ArrOp) : (inject s addr c op).2.upd = s.upd := by
  unfold inject
  dsimp only
  split
  · rfl
  · split <;> rfl

theorem hostBeat_upd (s : State) (addr c : Nat) (op : ArrOp) : (hostBeat s addr c op).upd = s.upd := by
  obtain ⟨f, hf⟩ := dropImage_eq (landBeat (inject s addr c op).2 c addr (inject s addr c op).1) addr
  rw [hostBeat, cancelRewrite_upd, hf]
  exact inject_upd s addr c op

theorem writeBodies_upd (ws : List Word) (addr c : Nat) (l : List Nat) (s : State) : (writeBodies s ws addr c l).upd = s.upd := by
  induction l generalizing s with
  | nil => rfl
  | cons k l ih => exact (ih _).trans (hostBeat_upd ..)

theorem moveUnits_upd (src dst c rc : Nat) (l : List Nat) (s : State) : (moveUnits s src dst c rc l).upd = s.upd := by
  induction l generalizing s with
  | nil => rfl
  | cons k l ih => exact (ih _).trans (hostBeat_upd ..)

/-- A transfer that leaves the port and its FIFO alone until its end. -/
theorem endTransfer_headLeft (h : t.upd = s.upd) (c : Nat) : HeadLeft s (endTransfer t c) ∧ PortFreeAt (endTransfer t c) c 0 := by
  obtain ⟨reqs, fifo, htail, hend⟩ := endTransfer_eq t c
  rw [hend]
  exact ⟨h ▸ htail, rfl, rfl⟩

/-! ### The beats of a transfer, with no fault injection and no rewrite of the scrubber -/

/-- The array took a list of beats, and everything else that a transfer reads stands. -/
structure Took (s t : State) (bs : List ArrBeat) : Prop where
  landed : Landed s t bs
  base : t.srch.base = s.srch.base
  rewrite : t.srch.rewrite = s.srch.rewrite
  regs : t.regs = s.regs
  upd : t.upd = s.upd
  ev : t.ev = s.ev

/-- No word of fault injection and no rewrite of the scrubber stands in the way of a beat (R160, R165). -/
structure Plain (s : State) : Prop where
  inj : rd s R.WMK_INJ = 0
  rewrite : s.srch.rewrite = none

theorem Took.refl (s : State) : Took s s [] := ⟨rfl, rfl, rfl, rfl, rfl, rfl⟩

theorem Took.trans {as bs : List ArrBeat} (h : Took s t as) (h' : Took t u bs) : Took s u (as ++ bs) :=
  ⟨by rw [Landed, List.foldl_append, ← show t.srch.beats = _ from h.landed]; exact h'.landed, h'.base.trans h.base,
    h'.rewrite.trans h.rewrite, h'.regs.trans h.regs, h'.upd.trans h.upd, h'.ev.trans h.ev⟩

theorem Took.plain {bs : List ArrBeat} (h : Took s t bs) (hp : Plain s) : Plain t :=
  ⟨(rd_of_regs_eq h.regs _).trans hp.inj, h.rewrite.trans hp.rewrite⟩

theorem took_landBeat (s : State) (c addr : Nat) (op : ArrOp) : Took s (landBeat s c addr op) [⟨c, addr, op⟩] :=
  ⟨rfl, rfl, rfl, rfl, rfl, rfl⟩

theorem took_hostBeat (hp : Plain s) (addr c : Nat) (op : ArrOp) : Took s (hostBeat s addr c op) [⟨c, addr, op⟩] := by
  have hinj : inject s addr c op = (op, s) := if_pos hp.inj
  obtain ⟨f, hf⟩ := dropImage_eq (landBeat s c addr op) addr
  have hnone : (landBeat s c addr op).srch.rewrite = none := hp.rewrite
  have hcancel : cancelRewrite ((landBeat s c addr op).setFwd f) addr = (landBeat s c addr op).setFwd f := by
    rw [cancelRewrite, State.setFwd_srch, hnone, Option.map_none, if_neg (by simp)]
  rw [hostBeat, hinj, hf, hcancel]
  exact ⟨rfl, rfl, rfl, rfl, rfl, rfl⟩

theorem took_writeBodies (ws : List Word) (addr c : Nat) (l : List Nat) (hp : Plain s) : Took s (writeBodies s ws addr c l)
    (l.map fun k => ⟨c + k, addr + k, unitOp (unitBody ws k).1 (unitBody ws k).2.1 (unitBody ws k).2.2⟩) := by
  induction l generalizing s with
  | nil => exact Took.refl s
  | cons k l ih =>
    have hk := took_hostBeat hp (addr + k) (c + k) (unitOp (unitBody ws k).1 (unitBody ws k).2.1 (unitBody ws k).2.2)
    exact hk.trans (ih (hk.plain hp))

/-! ### The units that a MOVE reads -/

/-- The words of a unit that a MOVE carries: the shadow word and the associated data (R173). -/
def carried (u : SUnit) : Nat × Nat × Nat := (u.sval, u.smask, u.ad)

/-- What a beat of a list does to the unit of an address, as a beat of the port reads it: the fold of `unitPort`. -/
def portBeat (bs : List ArrBeat) (addr c : Nat) (u : SUnit) (b : ArrBeat) : SUnit :=
  if b.addr = addr ∧ (b.land < c ∨ (b.land = c ∧ (match b.op with | .auto _ _ => false | _ => true) = true)) then applyArr bs u b else u

theorem unitPort_eq (s : State) (addr c : Nat) :
    unitPort s addr c = s.srch.beats.foldl (portBeat s.srch.beats addr c) (SMap.getD s.srch.base addr sunit0) := rfl

theorem carried_applyArr {u v : SUnit} (h : carried u = carried v) (bs bs' : List ArrBeat) (b : ArrBeat) :
    carried (applyArr bs u b) = carried (applyArr bs' v b) := by
  obtain ⟨hv, hm, ha⟩ : u.sval = v.sval ∧ u.smask = v.smask ∧ u.ad = v.ad := by simpa [carried] using h
  unfold applyArr
  cases b.op with
  | unit cells shadow ad => cases cells <;> cases shadow <;> cases ad <;> simp [carried, hv, hm, ha]
  | valid x => exact h
  | fix x => exact h
  | auto i w =>
    dsimp only
    split <;> split <;> exact h
  | flip x n => cases x <;> simp [carried, flipItem, hv, hm, ha]

theorem carried_foldl_portBeat {u v : SUnit} (h : carried u = carried v) (bs bs' l : List ArrBeat) (addr c : Nat) :
    carried (l.foldl (portBeat bs addr c) u) = carried (l.foldl (portBeat bs' addr c) v) := by
  induction l generalizing u v with
  | nil => exact h
  | cons b l ih =>
    refine ih ?_
    have hif : ∀ (p : Prop) [Decidable p], carried (if p then applyArr bs u b else u) = carried (if p then applyArr bs' v b else v) := fun p _ => by
      by_cases hp : p
      · rw [if_pos hp, if_pos hp]
        exact carried_applyArr h bs bs' b
      · rwa [if_neg hp, if_neg hp]
    exact hif _

theorem foldl_insBeat_of_fixed {α : Type} {f : α → ArrBeat → α} {b : ArrBeat} (h : ∀ x, f x b = x) (l : List ArrBeat) (x : α) :
    (insBeat b l).foldl f x = l.foldl f x := by
  induction l generalizing x with
  | nil => exact h x
  | cons c l ih =>
    rw [insBeat]
    split
    · rw [List.foldl_cons, h]
    · rw [List.foldl_cons, ih]
      rfl

/-- A beat that lands after a cycle leaves what a MOVE reads in that cycle. -/
theorem Took.carried_unitPort {b : ArrBeat} (h : Took s t [b]) {c : Nat} (hc : c < b.land) (addr : Nat) :
    carried (unitPort t addr c) = carried (unitPort s addr c) := by
  have hb : t.srch.beats = insBeat b s.srch.beats := h.landed
  have hfix : ∀ x, portBeat (insBeat b s.srch.beats) addr c x b = x := fun x => if_neg (by rintro ⟨-, h | ⟨h, -⟩⟩ <;> omega)
  rw [unitPort_eq, unitPort_eq, hb, h.base, foldl_insBeat_of_fixed hfix]
  exact carried_foldl_portBeat rfl ..

theorem carried_eq {a b : SUnit} (h : carried a = carried b) : unitOp a.sval a.smask a.ad = unitOp b.sval b.smask b.ad := by
  obtain ⟨hv, hm, ha⟩ : a.sval = b.sval ∧ a.smask = b.smask ∧ a.ad = b.ad := by simpa [carried] using h
  rw [hv, hm, ha]

theorem took_moveUnits (src dst c rc : Nat) (hc : rc < c) (l : List Nat) (hp : Plain t)
    (hread : ∀ a, carried (unitPort t a rc) = carried (unitPort s a rc)) : Took t (moveUnits t src dst c rc l)
      (l.map fun k => ⟨c + k, dst + k, unitOp (unitPort s (src + k) rc).sval (unitPort s (src + k) rc).smask (unitPort s (src + k) rc).ad⟩) := by
  induction l generalizing t with
  | nil => exact Took.refl t
  | cons k l ih =>
    have hk := took_hostBeat hp (dst + k) (c + k)
      (unitOp (unitPort t (src + k) rc).sval (unitPort t (src + k) rc).smask (unitPort t (src + k) rc).ad)
    have hrest := ih (hk.plain hp) fun a => (hk.carried_unitPort (Nat.lt_add_right k hc) a).trans (hread a)
    rw [List.map_cons, ← carried_eq (hread (src + k))]
    exact hk.trans hrest

/-! ### The transfers -/

theorem quireUnits_pos (s : State) (addr : Nat) : 0 < quireUnits s addr := by
  unfold quireUnits
  split <;> decide

/-- A transfer of the head of the FIFO in cycle c0: its beats, and then its end in a later cycle. -/
def Transfers (s : State) (c0 : Nat) (t : State) : Prop := ∃ u c, t = endTransfer u c ∧ u.upd = s.upd ∧ c0 < c

theorem Transfers.leaves {c0 : Nat} (h : Transfers s c0 t) : HeadLeft s t ∧ c0 < t.upd.free := by
  obtain ⟨u, c, rfl, hu, hc⟩ := h
  obtain ⟨hleft, hfree, -⟩ := endTransfer_headLeft hu c
  exact ⟨hleft, Nat.lt_of_lt_of_eq hc hfree.symm⟩

theorem transfers_doWrite (s : State) (ws : List Word) (c : Nat) : Transfers s c (doWrite s ws c) := by
  refine ⟨_, _, rfl, (writeBodies_upd ..).trans ?_, by omega⟩
  split <;> rfl

theorem transfers_doWriteAd (s : State) (addr ad c : Nat) : Transfers s c (doWriteAd s addr ad c) :=
  ⟨_, _, rfl, hostBeat_upd .., Nat.lt_succ_self c⟩

theorem transfers_doValid (s : State) (addr v c : Nat) : Transfers s c (doValid s addr v c) := ⟨_, _, rfl, rfl, Nat.lt_succ_self c⟩

theorem transfers_doReplace (s : State) (ws : List Word) (c : Nat) : Transfers s c (doReplace s ws c) := by
  unfold doReplace
  dsimp only
  split
  · exact ⟨_, _, rfl, rfl, Nat.lt_succ_self c⟩
  · exact ⟨_, _, rfl, writeBodies_upd .., by omega⟩

theorem transfers_doMove (s : State) (ws : List Word) (c : Nat) : Transfers s c (doMove s ws c) := by
  unfold doMove
  dsimp only
  split
  · exact ⟨_, _, rfl, rfl, Nat.lt_add_of_pos_right (quireUnits_pos s _)⟩
  · exact ⟨_, _, rfl, moveUnits_upd .., by omega⟩

/-- What a transfer leaves whose beats are known. -/
structure Ended (s t : State) (c : Nat) (bs : List ArrBeat) : Prop where
  port : PortFreeAt t c 0
  landed : Landed s t bs
  regs : t.regs = s.regs
  left : HeadLeft s t

theorem Took.ended {bs : List ArrBeat} (h : Took s u bs) (c : Nat) : Ended s (endTransfer u c) c bs := by
  obtain ⟨hleft, hport⟩ := endTransfer_headLeft h.upd c
  obtain ⟨reqs, fifo, -, hend⟩ := endTransfer_eq u c
  refine ⟨hport, ?_, ?_, hleft⟩
  · rw [hend]
    exact h.landed
  · rw [hend]
    exact h.regs

theorem mem_reqs_endTransfer {q : HwReq} (h : q ∈ u.ev.reqs) (c : Nat) : q ∈ (endTransfer u c).ev.reqs := by
  obtain ⟨reqs, fifo, -, hend⟩ := endTransfer_eq u c
  rw [hend]
  exact List.mem_append_left reqs h

theorem ended_doWriteAd (hp : Plain s) (addr ad c : Nat) :
    Ended s (doWriteAd s addr ad c) (c + 1) [⟨c, addr, .unit none none (some (ad, adParity ad))⟩] := (took_hostBeat hp ..).ended _

theorem ended_doValid (s : State) (addr v c : Nat) : Ended s (doValid s addr v c) (c + 1) [⟨c, addr, .valid v⟩] := (took_landBeat ..).ended _

theorem ended_doCell (hp : Plain s) (addr value mask c : Nat) : Ended s (doCell s addr value mask c) (c + 1)
    [⟨c, addr, .unit (some (value, mask)) (some (value, mask, shadowParity value mask)) none⟩] := (took_hostBeat hp ..).ended _

/-- A WRITE behind the report of a live entry (R184). -/
def liveReported (s : State) (ws : List Word) (c : Nat) : State :=
  let addr := fld (ws.headD 0) 19 0
  let e := entryOf (quireUnits s addr) addr
  if quireUnits s addr ≠ 1 ∧ portValid s e c = true then
    setCondWith s R.UPD_STAT 67 2 [(R.UPD_LIVE, BitVec.ofNat 32 (e + quireCode s (addr / 16384) * 2 ^ 20))] (regionTenant s e) .newBits
  else s

theorem doWrite_eq (s : State) (ws : List Word) (c : Nat) : doWrite s ws c =
    endTransfer (writeBodies (liveReported s ws c) ws (fld (ws.headD 0) 19 0) c (List.range (fld (ws.headD 0) 25 24 + 1)))
      (c + (fld (ws.headD 0) 25 24 + 1)) := rfl

theorem liveReported_eq (s : State) (ws : List Word) (c : Nat) : ∃ l, liveReported s ws c = ask s l := by
  unfold liveReported
  dsimp only
  split
  · exact ⟨_, rfl⟩
  · exact ⟨[], (ask_nil s).symm⟩

theorem ended_doWrite (hp : Plain s) (ws : List Word) (c : Nat) :
    Ended s (doWrite s ws c) (c + (fld (ws.headD 0) 25 24 + 1)) ((List.range (fld (ws.headD 0) 25 24 + 1)).map fun k =>
      ⟨c + k, fld (ws.headD 0) 19 0 + k, unitOp (unitBody ws k).1 (unitBody ws k).2.1 (unitBody ws k).2.2⟩) := by
  obtain ⟨l, hl⟩ := liveReported_eq s ws c
  rw [doWrite_eq, hl]
  have h := (took_writeBodies (s := ask s l) ws (fld (ws.headD 0) 19 0) c (List.range (fld (ws.headD 0) 25 24 + 1)) ⟨hp.inj, hp.rewrite⟩).ended
    (c + (fld (ws.headD 0) 25 24 + 1))
  exact ⟨h.port, h.landed, h.regs, h.left⟩

theorem doWrite_live {ws : List Word} {c : Nat} (hp : Plain s) (hw : quireUnits s (fld (ws.headD 0) 19 0) ≠ 1)
    (hv : portValid s (entryOf (quireUnits s (fld (ws.headD 0) 19 0)) (fld (ws.headD 0) 19 0)) c = true) :
    HwReq.cond R.UPD_STAT 67 2 [(R.UPD_LIVE, BitVec.ofNat 32 (entryOf (quireUnits s (fld (ws.headD 0) 19 0)) (fld (ws.headD 0) 19 0) +
      quireCode s (fld (ws.headD 0) 19 0 / 16384) * 2 ^ 20))]
      (regionTenant s (entryOf (quireUnits s (fld (ws.headD 0) 19 0)) (fld (ws.headD 0) 19 0))) .newBits ∈ (doWrite s ws c).ev.reqs := by
  have hl : liveReported s ws c = _ := if_pos ⟨hw, hv⟩
  have hplain : Plain (liveReported s ws c) := by
    obtain ⟨l, h⟩ := liveReported_eq s ws c
    rw [h]
    exact ⟨hp.inj, hp.rewrite⟩
  rw [doWrite_eq]
  refine mem_reqs_endTransfer ?_ _
  rw [(took_writeBodies ws _ c _ hplain).ev, hl]
  exact List.mem_append_right _ List.mem_cons_self

theorem ended_doReplace (hp : Plain s) {ws : List Word} {c : Nat}
    (hgo : (bit (ws.headD 0) 27 && portValid s (fld (ws.headD 0) 19 0) c) = false) :
    Ended s (doReplace s ws c) (c + quireUnits s (fld (ws.headD 0) 19 0) + 3)
      (⟨c + 1, fld (ws.headD 0) 19 0, .valid 0⟩ :: (List.range (quireUnits s (fld (ws.headD 0) 19 0))).map (fun k =>
        ⟨c + 2 + k, fld (ws.headD 0) 19 0 + k, unitOp (unitBody ws k).1 (unitBody ws k).2.1 (unitBody ws k).2.2⟩) ++
        [⟨c + quireUnits s (fld (ws.headD 0) 19 0) + 2, fld (ws.headD 0) 19 0, .valid 7⟩]) := by
  have h1 := took_landBeat s (c + 1) (fld (ws.headD 0) 19 0) (.valid 0)
  have h2 := took_writeBodies ws (fld (ws.headD 0) 19 0) (c + 2) (List.range (quireUnits s (fld (ws.headD 0) 19 0))) (h1.plain hp)
  have h3 := (h1.trans h2).trans (took_landBeat _ (c + quireUnits s (fld (ws.headD 0) 19 0) + 2) (fld (ws.headD 0) 19 0) (.valid 7))
  unfold doReplace
  simp only [hgo, Bool.false_eq_true, if_false]
  exact h3.ended _

theorem moveBad_iff (s : State) (addr w c : Nat) : ((List.range w).any (fun k =>
    let u := unitPort s (addr + k) c
    u.spar != shadowParity u.sval u.smask)) = true ↔ ∃ k < w, ¬ shadowGood (unitPort s (addr + k) c) := by
  simp [shadowGood]

theorem ended_doMove (hp : Plain s) {ws : List Word} {c : Nat}
    (hgood : ∀ k < quireUnits s (fld (ws.headD 0) 19 0), shadowGood (unitPort s (fld (ws.headD 0) 19 0 + k) c)) :
    Ended s (doMove s ws c) (c + 2 * quireUnits s (fld (ws.headD 0) 19 0) + 3)
      (⟨c + quireUnits s (fld (ws.headD 0) 19 0) + 1, fld ((ws[1]?).getD 0) 19 0, .valid 0⟩ ::
        (List.range (quireUnits s (fld (ws.headD 0) 19 0))).map (fun k =>
          ⟨c + quireUnits s (fld (ws.headD 0) 19 0) + 2 + k, fld ((ws[1]?).getD 0) 19 0 + k,
            unitOp (unitPort s (fld (ws.headD 0) 19 0 + k) c).sval (unitPort s (fld (ws.headD 0) 19 0 + k) c).smask
              (unitPort s (fld (ws.headD 0) 19 0 + k) c).ad⟩) ++
        [⟨c + 2 * quireUnits s (fld (ws.headD 0) 19 0) + 2, fld ((ws[1]?).getD 0) 19 0,
          .valid (if portValid s (fld (ws.headD 0) 19 0) c then 7 else 0)⟩]) := by
  have hbad : ¬ _ := mt (moveBad_iff s (fld (ws.headD 0) 19 0) (quireUnits s (fld (ws.headD 0) 19 0)) c).1 (by
    rintro ⟨k, hk, hb⟩
    exact hb (hgood k hk))
  have h1 := took_landBeat s (c + quireUnits s (fld (ws.headD 0) 19 0) + 1) (fld ((ws[1]?).getD 0) 19 0) (.valid 0)
  have h2 := took_moveUnits (s := s) (fld (ws.headD 0) 19 0) (fld ((ws[1]?).getD 0) 19 0) (c + quireUnits s (fld (ws.headD 0) 19 0) + 2) c
    (by omega) (List.range (quireUnits s (fld (ws.headD 0) 19 0))) (h1.plain hp) (h1.carried_unitPort (show c < c + _ + 1 by omega))
  have h3 := (h1.trans h2).trans (took_landBeat _ (c + 2 * quireUnits s (fld (ws.headD 0) 19 0) + 2) (fld ((ws[1]?).getD 0) 19 0)
    (.valid (if portValid s (fld (ws.headD 0) 19 0) c then 7 else 0)))
  unfold doMove
  simp only [if_neg hbad]
  exact h3.ended _

theorem doMove_of_bad {ws : List Word} {c : Nat}
    (hbad : ∃ k < quireUnits s (fld (ws.headD 0) 19 0), ¬ shadowGood (unitPort s (fld (ws.headD 0) 19 0 + k) c)) :
    doMove s ws c = endTransfer (updReject s 2 6 6 (fld (ws.headD 0) 19 0)) (c + quireUnits s (fld (ws.headD 0) 19 0)) :=
  if_pos ((moveBad_iff ..).2 hbad)

end Sys2Proof.Machine
namespace Sys2Proof.Claims

open Sys2Proof.Machine

variable {s t : State}

/-- A row that answers a state answers any other name of it. -/
theorem next_congr (h : s = t) : (Host.Outcome.next s : Host.Outcome State Fault Refusal) = .next t := congrArg Host.Outcome.next h

theorem execWriteAd_of_cmd {cyc : BitVec 4} {fn c0 : Nat} {ws : List Word}
    (hg : hostGrant s (s.dkl.cyc + cyc.toNat) = some (.cmd fn ws, c0)) (hop : fld (ws.headD 0) 31 28 = 2) :
    execWriteAd cyc s = .next (doWriteAd s (fld (ws.headD 0) 19 0) ((ws.getD 2 0).toNat + (ws.getD 3 0).toNat * 2 ^ 32) c0) := by
  have hserve := serveCmd_of_hostGrant (fun s _ ws c =>
    doWriteAd s (fld (ws.headD 0) 19 0) (((ws[2]?).getD 0).toNat + ((ws[3]?).getD 0).toNat * 2 ^ 32) c) hg hop
  unfold execWriteAd
  simp only [hg, hserve, List.getD_eq_getElem?_getD]

theorem execWriteAd_of_adw {cyc : BitVec 4} {fn addr ad c0 : Nat} (hg : hostGrant s (s.dkl.cyc + cyc.toNat) = some (.adw fn addr ad, c0)) :
    execWriteAd cyc s = .next (doWriteAd s addr ad c0) := by
  unfold execWriteAd
  simp only [hg]

theorem execQuireCellWrite_of_cell {cyc : BitVec 4} {fn addr value mask c0 : Nat}
    (hg : hostGrant s (s.dkl.cyc + cyc.toNat) = some (.cell fn addr value mask, c0)) :
    execQuireCellWrite cyc s = .next (doCell s addr value mask c0) := by
  unfold execQuireCellWrite
  simp only [hg]

/-- A row of the update port that completes: what it keeps, and what its transfer leaves. -/
theorem completes {x : Host.Outcome State Fault Refusal} {c0 : Nat} (k : KeptN (Keep.main s) x) (hrow : x = .next t)
    (h : Transfers s c0 t) : ∃ t, x = .next t ∧ KeepsMain s t ∧ HeadLeft s t ∧ c0 < t.upd.free :=
  ⟨t, hrow, keepsMain_of_kept k hrow, h.leaves⟩

/-- A row of the update port whose beats are known. -/
theorem endsWith {x : Host.Outcome State Fault Refusal} {c : Nat} {bs : List ArrBeat} (k : KeptN (Keep.main s) x) (hrow : x = .next t)
    (h : Ended s t c bs) : ∃ t, x = .next t ∧ KeepsMain s t ∧ PortFreeAt t c 0 ∧ Landed s t bs ∧ t.regs = s.regs ∧ HeadLeft s t :=
  ⟨t, hrow, keepsMain_of_kept k hrow, h.port, h.landed, h.regs, h.left⟩

/-- Settles O26: every transfer ends with the head gone, and without an injection or a rewrite its beats are those of its row. -/
theorem updateCommandBeats : Obligations.UpdateCommandBeats := by
  intro s cyc fn c0 ws hs hg
  have k := kept_main hs
  have hwrite := fun h => next_congr (serveCmd_of_hostGrant (op := 1) (fun s _ ws c => doWrite s ws c) hg h)
  have hwriteAd := fun h => execWriteAd_of_cmd hg h
  have hinv := fun h => next_congr
    (serveCmd_of_hostGrant (op := 3) (fun s _ ws c => doValid s (fld (ws.headD 0) 19 0) 0 c) hg h)
  have hval := fun h => next_congr
    (serveCmd_of_hostGrant (op := 4) (fun s _ ws c => doValid s (fld (ws.headD 0) 19 0) 7 c) hg h)
  have hreplace := fun h => exec_replace_of_hostGrant (s := s) hg h
  have hmove := fun h => next_congr (serveCmd_of_hostGrant (op := 6) (fun s _ ws c => doMove s ws c) hg h)
  intro addr op
  refine ⟨fun o ho hop => ?_, fun hinj hrw => ?_⟩
  case refine_1 =>
    simp only [List.mem_cons, List.not_mem_nil, or_false] at ho
    rcases ho with rfl | rfl | rfl | rfl | rfl | rfl
    · exact completes (execWrite_kept k) (hwrite hop) (transfers_doWrite ..)
    · exact completes (execWriteAd_kept k) (hwriteAd hop) (transfers_doWriteAd ..)
    · exact completes (execInvalidate_kept k) (hinv hop) (transfers_doValid ..)
    · exact completes (execValidate_kept k) (hval hop) (transfers_doValid ..)
    · exact completes (execReplace_kept k) (hreplace hop) (transfers_doReplace ..)
    · exact completes (execMove_kept k) (hmove hop) (transfers_doMove ..)
  case refine_2 =>
    have hp : Plain s := ⟨hinj, hrw⟩
    intro dst w src body
    refine ⟨fun hop => ?_, fun hop => ?_, fun hop => ?_, fun hop => ?_, fun hop hgo => ?_, fun hop hgood => ?_, fun hop hbad => ?_⟩
    case refine_1 => exact endsWith (execInvalidate_kept k) (hinv hop) (ended_doValid ..)
    case refine_2 => exact endsWith (execValidate_kept k) (hval hop) (ended_doValid ..)
    case refine_3 => exact endsWith (execWriteAd_kept k) (hwriteAd hop) (ended_doWriteAd hp ..)
    case refine_4 =>
      obtain ⟨hport, hlanded, hregs, hleft⟩ := ended_doWrite hp ws c0
      exact ⟨_, hwrite hop, keepsMain_of_kept (execWrite_kept k) (hwrite hop), hport, hlanded, hregs, hleft, doWrite_live hp⟩
    case refine_5 =>
      obtain ⟨hport, hlanded, hregs, hleft⟩ := ended_doReplace hp hgo
      exact ⟨_, hreplace hop, keepsMain_of_kept (execReplace_kept k) (hreplace hop), hport, hregs, hleft, hlanded⟩
    case refine_6 =>
      obtain ⟨hport, hlanded, hregs, hleft⟩ := ended_doMove hp hgood
      exact ⟨_, hmove hop, keepsMain_of_kept (execMove_kept k) (hmove hop), hport, hregs, hleft, hlanded⟩
    case refine_7 =>
      have hrow := (hmove hop).trans (next_congr (doMove_of_bad hbad))
      obtain ⟨hleft, hport⟩ := endTransfer_headLeft (s := s) (t := updReject s 2 6 6 addr) rfl (c0 + w)
      obtain ⟨reqs, fifo, -, hend⟩ := endTransfer_eq (updReject s 2 6 6 addr) (c0 + w)
      refine ⟨_, hrow, keepsMain_of_kept (execMove_kept k) hrow, hport, by rw [hend]; rfl, hleft, by rw [hend]; rfl, ?_⟩
      refine mem_reqs_endTransfer ?_ _
      rw [updReject_eq]
      exact List.mem_append_right s.ev.reqs List.mem_cons_self

theorem serveCmd_of_none {op c : Nat} {f : State → Nat → List Word → Nat → State} (h : hostGrant s c = none) : serveCmd s op c f = s := by
  rw [serveCmd, h]

theorem doMark_eq (s : State) (fn : Nat) (ws : List Word) (c : Nat) : doMark s fn ws c =
    endTransfer (ask (wr s (regKey fn R.UPD_DONE) (BitVec.ofNat 32 (fld (ws.getD 1 0) 15 0))) [.cond R.UPD_STAT 67 1 [] 0 .newBits]) (c + 1) := by
  rw [List.getD_eq_getElem?_getD]
  rfl

/-- What a transfer leaves that writes one register and makes requests. -/
theorem endTransfer_wr (hw : Registers.wf s.regs = true) (o : Nat) (v : Word) (l : List HwReq) (c : Nat) :
    (endTransfer (ask (wr s o v) l) c).srch = s.srch ∧ PortFreeAt (endTransfer (ask (wr s o v) l) c) c 0 ∧
      RegsBut s (endTransfer (ask (wr s o v) l) c) [o] ∧ rd (endTransfer (ask (wr s o v) l) c) o = v := by
  have hport := (endTransfer_headLeft (s := s) (t := ask (wr s o v) l) rfl c).2
  obtain ⟨reqs, fifo, -, hend⟩ := endTransfer_eq (ask (wr s o v) l) c
  refine ⟨by rw [hend]; rfl, hport, ?_, ?_⟩
  · rw [hend]
    exact regsBut_wr s o v
  · rw [hend]
    exact rd_wr_self hw o v

/-- Settles O28: MARK and the submissions of the indirect port are transfers like the others, and without a grant no row begins one. -/
theorem markAndCellBeats : Obligations.MarkAndCellBeats := by
  intro s cyc hs c
  have k := kept_main hs
  refine ⟨fun fn ws c0 hg hop => ?_, fun fn addr value mask c0 hg hinj hrw => ?_, fun fn addr ad c0 hg hinj hrw => ?_, fun hg r hr => ?_⟩
  case refine_1 =>
    have hrow := next_congr (serveCmd_of_hostGrant (op := 7) (fun s fn ws c => doMark s fn ws c) hg hop)
    have hkeep := keepsMain_of_kept (execMark_kept k) hrow
    rw [doMark_eq] at hrow hkeep
    obtain ⟨hsrch, hport, hregs, hdone⟩ := endTransfer_wr hs.1 (regKey fn R.UPD_DONE) (BitVec.ofNat 32 (fld (ws.getD 1 0) 15 0))
      [.cond R.UPD_STAT 67 1 [] 0 .newBits] (c0 + 1)
    exact ⟨_, hrow, hkeep, hsrch, hport, hregs, hdone, mem_reqs_endTransfer (List.mem_append_right _ List.mem_cons_self) _⟩
  case refine_2 =>
    have hrow := execQuireCellWrite_of_cell hg
    obtain ⟨hport, hlanded, hregs, -⟩ := ended_doCell ⟨hinj, hrw⟩ addr value mask c0
    exact ⟨_, hrow, keepsMain_of_kept (execQuireCellWrite_kept k) hrow, hport, hregs, hlanded⟩
  case refine_3 =>
    have hrow := execWriteAd_of_adw hg
    obtain ⟨hport, hlanded, hregs, -⟩ := ended_doWriteAd ⟨hinj, hrw⟩ addr ad c0
    exact ⟨_, hrow, keepsMain_of_kept (execWriteAd_kept k) hrow, hport, hregs, hlanded⟩
  case refine_4 =>
    simp only [List.mem_cons, List.not_mem_nil, or_false] at hr
    rcases hr with rfl | rfl | rfl | rfl | rfl | rfl | rfl
    case inr.inr.inr.inr.inr.inr =>
      refine next_congr ?_
      rw [hg]
    all_goals exact next_congr (serveCmd_of_none hg)

end Sys2Proof.Claims
namespace Sys2Proof.Machine

variable {s t : State}

/-! ### The assembly of commands -/

theorem tenantFn_setUpd (s : State) (x : Upd) : tenantFn (s.setUpd x) = tenantFn s := rfl

theorem unitReach_setUpd (s : State) (x : Upd) : unitReach (s.setUpd x) = unitReach s := by
  funext fn addr
  unfold unitReach
  rw [regionOf_congr (s := s) (t := s.setUpd x) rfl, tenantFn_setUpd]
  cases regionOf s addr 256 <;> rfl

theorem runReach_setUpd (s : State) (x : Upd) : runReach (s.setUpd x) = runReach s := by
  funext fn addr n
  rw [runReach, runReach, unitReach_setUpd]

theorem cmdFault_setUpd (s : State) (x : Upd) : cmdFault (s.setUpd x) = cmdFault s := by
  have hunits : quireUnits (s.setUpd x) = quireUnits s := rfl
  have hoff : quireOff (s.setUpd x) = quireOff s := rfl
  have haligned : aligned (s.setUpd x) = aligned s := rfl
  funext fn ws
  unfold cmdFault
  rw [hunits, hoff, haligned, runReach_setUpd]

theorem setUpd_fifo_nil (h : s.upd.fifo = []) : s.setUpd { s.upd with fifo := [] } = s := by
  rw [← h]
  rfl

/-- A command that alone is in the FIFO is checked at once (R178). -/
theorem fifoPush_of_empty {fn : Nat} {ws : List Word} (hroom : ws.length ≤ updFree s) (he : s.upd.fifo = []) :
    fifoPush s (.cmd fn ws) = some (match cmdFault s fn ws with
      | none => s.setUpd { s.upd with fifo := [.cmd fn ws] }
      | some r => updReject s 2 (fld (ws.headD 0) 31 28) r (fld (ws.headD 0) 19 0)) := by
  have hlen : itemWords (.cmd fn ws) ≤ updFree s := hroom
  rw [fifoPush, if_pos hlen, he, List.isEmpty_nil, if_pos rfl, settleHead, itemFault]
  cases cmdFault s fn ws with
  | none => rfl
  | some r => exact congrArg some (setUpd_fifo_nil (s := updReject s 2 _ r _) he)

theorem fifoPush_of_waiting {fn : Nat} {ws : List Word} (hroom : ws.length ≤ updFree s) (hne : s.upd.fifo ≠ []) :
    fifoPush s (.cmd fn ws) = some (s.setUpd { s.upd with fifo := s.upd.fifo ++ [.cmd fn ws] }) := by
  have hlen : itemWords (.cmd fn ws) ≤ updFree s := hroom
  rw [fifoPush, if_pos hlen, if_neg (by simpa using hne)]

theorem fifoPush_of_full {fn : Nat} {ws : List Word} (hroom : updFree s < ws.length) : fifoPush s (.cmd fn ws) = none :=
  if_neg (Nat.not_le.2 hroom)

/-- A word that completes a command (R176). -/
theorem cmdWord_of_complete {fn : Nat} {v : Word} :
    let old := SMap.getD s.upd.asm fn (0, [])
    let buf := old.2 ++ [v]
    let need := if buf.length = 2 then cmdLen s (buf.headD 0) else old.1
    let u := s.setUpd { s.upd with asm := SMap.del s.upd.asm fn }
    2 ≤ buf.length ∧ need ≤ buf.length → cmdWord s fn v =
      if s.dev ≠ .laid then updReject u 2 (fld (buf.headD 0) 31 28) 7 (fld (buf.headD 0) 19 0)
      else match fifoPush u (.cmd fn buf) with
        | some s2 => s2
        | none => updReject u 2 (fld (buf.headD 0) 31 28) 5 (fld (buf.headD 0) 19 0) := fun h => if_pos h

theorem cmdWord_of_short {fn : Nat} {v : Word} :
    let old := SMap.getD s.upd.asm fn (0, [])
    let buf := old.2 ++ [v]
    let need := if buf.length = 2 then cmdLen s (buf.headD 0) else old.1
    ¬ (2 ≤ buf.length ∧ need ≤ buf.length) →
      cmdWord s fn v = s.setUpd { s.upd with asm := SMap.put s.upd.asm fn (need, buf) } := fun h => if_neg h

theorem hostWriteAs_of_no_access {fn off : Nat} {v : Word} {go : State → State} (h : accessOk s fn off = false) :
    hostWriteAs s fn off v go = s := by
  rw [hostWriteAs, h]
  rfl

end Sys2Proof.Machine

namespace Sys2Proof.Claims

open Sys2Proof.Machine

/-- Settles O25: a word of UPD_CMD is assembled, and the command that it completes goes through the entry of the FIFO. -/
theorem updateCommandsAreAssembled : Obligations.UpdateCommandsAreAssembled := by
  intro s fn v hs honce
  refine ⟨fun hacc => ?_, fun hacc => next_congr (hostWriteAs_of_no_access hacc), fun hacc => ⟨fun hv => ?_, fun hv => ?_⟩,
    fun hacc => next_congr (hostWriteAs_of_no_access hacc)⟩
  case refine_1 =>
    have hrow : execUpdCmdWord fn v s = .next (cmdWord s fn.toNat v) :=
      next_congr (hostWriteAs_off fn.toNat (R.UPD_CMD 0) v (fun t => cmdWord t fn.toNat v) honce hacc)
    intro old buf need u op addr
    refine ⟨fun hshort => ?_, fun htwo hneed => ?_⟩
    · exact hrow.trans (next_congr (cmdWord_of_short fun h => hshort.elim (Nat.not_lt.2 h.1) (Nat.not_lt.2 h.2)))
    have hdone := hrow.trans (next_congr (cmdWord_of_complete ⟨htwo, hneed⟩))
    have hlaid : s.dev = .laid → execUpdCmdWord fn v s = .next (match fifoPush u (.cmd fn.toNat buf) with
        | some s2 => s2
        | none => updReject u 2 op 5 addr) := fun hd => hdone.trans (next_congr (if_neg (not_not_intro hd)))
    have hfault : cmdFault u fn.toNat buf = cmdFault s fn.toNat buf := by rw [cmdFault_setUpd]
    refine ⟨⟨_, hrow, keepsMain_of_kept (execUpdCmdWord_kept (kept_main hs)) hrow⟩, fun hd => ?_, fun hd hroom => ?_, fun hd hroom hne => ?_,
      fun hd hroom he hok => ?_, fun r hd hroom he hbad => ?_⟩
    · exact hdone.trans (next_congr (if_pos hd))
    · refine (hlaid hd).trans (next_congr ?_)
      rw [fifoPush_of_full (s := u) hroom]
    · refine (hlaid hd).trans (next_congr ?_)
      rw [fifoPush_of_waiting (s := u) hroom hne]
      rfl
    · refine (hlaid hd).trans (next_congr ?_)
      rw [fifoPush_of_empty (s := u) hroom he, hfault, hok]
    · refine (hlaid hd).trans (next_congr ?_)
      rw [fifoPush_of_empty (s := u) hroom he, hfault, hbad]
  case refine_2 =>
    refine next_congr ((hostWriteAs_off fn.toNat R.UPD_FLUSH v _ honce hacc).trans ?_)
    rw [hv, if_pos rfl]
  case refine_3 =>
    refine next_congr ((hostWriteAs_off fn.toNat R.UPD_FLUSH v _ honce hacc).trans ?_)
    rw [hv, if_neg Bool.false_ne_true]

end Sys2Proof.Claims
end

section
/-! SUPPORT. The parterre seen from the host, and its window (chapter 12), and O29 and O30. -/

namespace Sys2Proof.Machine

open Sys2Proof.Claims

variable {s t : State}

/-! ### The indirect port -/

/-- A word of an indirect space that a function reaches is written at once where no pair mirrors it. -/
theorem indWriteAs_off (fn sel a : Nat) (v : Word) (go : State → State) (h : AtOnce s) : indWriteAs s fn sel a v go = go s := by
  unfold indWriteAs
  split
  · rfl
  · exact mirrored_off _ go h

theorem running_of_laid (hd : s.dev = .laid) : running s = true := by
  rw [running, hd]
  rfl

/-- A running device reaches a word of the parterre space through its zone or its override set (R525). -/
theorem indReach_ptr {fn a : Nat} (hrun : running s = true) (ha : a < 0x44000) : indReach s fn 6 a =
    if a < 0x4000 then reachesObj s fn 0x12 (a / 4) else reachesObj s fn 0x13 ((a - 0x4000) / 64) := by
  have hsize : decide (a < indSize 6) = true := decide_eq_true ha
  have hpf0 : fn == 0 → reachesObj s fn 0x12 (a / 4) = true ∧ reachesObj s fn 0x13 ((a - 0x4000) / 64) = true := fun h => by
    rw [reachesObj, reachesObj, h]
    exact ⟨rfl, rfl⟩
  rw [indReach, hsize, hrun, Bool.true_and, Bool.true_and]
  cases h : fn == 0 with
  | false => rfl
  | true =>
    obtain ⟨h1, h2⟩ := hpf0 h
    rw [h1, h2, ite_self]
    rfl

/-- A write of a word of the parterre space, through either row (R334, R346, R525). -/
def ptrRow (s : State) (fn a : Nat) (v : Word) : State :=
  if !barUp s then s
  else if indReach s fn 6 a then indWriteAs s fn 6 a v (fun t => indWord t fn 6 a v)
  else indRefuse s fn

theorem ptrRow_of_refused {fn a : Nat} {v : Word} (hbar : barUp s = true) (h : indReach s fn 6 a = false) : ptrRow s fn a v = indRefuse s fn := by
  rw [ptrRow, hbar, h]
  rfl

theorem ptrRow_of_reached {fn a : Nat} {v : Word} (hbar : barUp s = true) (hd : s.dev = .laid) (honce : AtOnce s)
    (h : indReach s fn 6 a = true) : ptrRow s fn a v = ptrSpaceWrite s fn a v := by
  rw [ptrRow, hbar, h, if_neg (by decide), if_pos rfl, indWriteAs_off _ _ _ _ _ honce]
  exact if_pos hd

/-! ### The parterre space -/

/-- The state with a word of the parterre space staged. -/
def ptrStaged (s : State) (fn a : Nat) (v : Word) : State := s.setHp { s.hp with staged := SMap.put s.hp.staged (stageKey fn 6 a) v }

theorem ptrSpaceWrite_zone0 {fn z : Nat} {v : Word} (hz : z < 4096) : ptrSpaceWrite s fn (4 * z) v = ptrStaged s fn (4 * z) v := by
  have h1 : 4 * z < 0x4000 := by omega
  have h2 : ¬ 4 * z % 4 = 1 := by omega
  have h3 : 4 * z % 4 = 0 := by omega
  rw [ptrSpaceWrite, if_pos h1, if_neg h2, if_pos h3]
  rfl

theorem ptrSpaceWrite_zone1 {fn z : Nat} {v : Word} (hz : z < 4096) : ptrSpaceWrite s fn (4 * z + 1) v =
    zoneSubmit (unstage (ptrStaged s fn (4 * z + 1) v) fn 6 (4 * z) 2) fn z
      (stagedEntry (ptrStaged s fn (4 * z + 1) v) fn 6 (4 * z) 2 (zoneNow s z)) := by
  have h1 : 4 * z + 1 < 0x4000 := by omega
  have h2 : (4 * z + 1) % 4 = 1 := by omega
  have h3 : (4 * z + 1) / 4 = z := by omega
  rw [ptrSpaceWrite, if_pos h1, if_pos h2, h3]
  rfl

theorem ptrSpaceWrite_set {fn n k : Nat} {v : Word} (hn : n < 4096) (hk : k < 63) :
    ptrSpaceWrite s fn (0x4000 + 64 * n + k) v = ptrStaged s fn (0x4000 + 64 * n + k) v := by
  have h1 : ¬ 0x4000 + 64 * n + k < 0x4000 := by omega
  have h2 : 0x4000 + 64 * n + k < 0x44000 := by omega
  have h3 : ¬ (0x4000 + 64 * n + k) % 64 = 63 := by omega
  rw [ptrSpaceWrite, if_neg h1, if_pos h2, if_neg h3]
  rfl

theorem ptrSpaceWrite_set63 {fn n : Nat} {v : Word} (hn : n < 4096) (hreach : reachesObj s fn 0x13 n = true) :
    ptrSpaceWrite s fn (0x4000 + 64 * n + 63) v =
      let u := unstage (ptrStaged s fn (0x4000 + 64 * n + 63) v) fn 6 (0x4000 + 64 * n) 64
      let ws := stagedEntry (ptrStaged s fn (0x4000 + 64 * n + 63) v) fn 6 (0x4000 + 64 * n) 64 (setWords s n)
      u.setPtr { u.ptr with setPend := u.ptr.setPend ++ [(n, ws)] } := by
  have h1 : ¬ 0x4000 + 64 * n + 63 < 0x4000 := by omega
  have h2 : 0x4000 + 64 * n + 63 < 0x44000 := by omega
  have h3 : (0x4000 + 64 * n + 63) % 64 = 63 := by omega
  have h4 : (0x4000 + 64 * n + 63 - 0x4000) / 64 = n := by omega
  rw [ptrSpaceWrite, if_neg h1, if_pos h2, if_pos h3, h4, hreach, if_pos rfl]
  rfl

/-- A submission that passes and activates nothing, or for which there is room, joins the pending ones (R335, R336). -/
theorem zoneSubmit_of_taken {fn z : Nat} {d : List Word} (hok : zoneOk s fn z d = true)
    (h : zoneEn d = false ∨ zoneEn (zoneNow s z) = true ∨ activationRefusal s z d = none) :
    zoneSubmit s fn z d = s.setPtr { s.ptr with pend := s.ptr.pend ++ [(z, d)] } := by
  rw [zoneSubmit, hok, Bool.not_true, if_neg Bool.false_ne_true]
  rcases h with h | h | h
  · rw [h, Bool.false_and, if_neg Bool.false_ne_true]
  · rw [h, Bool.not_true, Bool.and_false, if_neg Bool.false_ne_true]
  · rw [h, ite_self]

theorem zoneSubmit_of_refused {fn z : Nat} {d : List Word} {r : State} (hok : zoneOk s fn z d = true) (hen : zoneEn d = true)
    (hnow : zoneEn (zoneNow s z) = false) (h : activationRefusal s z d = some r) : zoneSubmit s fn z d = ptrCond r 2 z := by
  rw [zoneSubmit, hok, Bool.not_true, if_neg Bool.false_ne_true, hen, hnow, Bool.not_false, Bool.and_true, if_pos rfl, h]

end Sys2Proof.Machine

namespace Sys2Proof.Claims

open Sys2Proof.Machine

/-- Settles O29: the row of a word is a write of the parterre space where the function reaches it, and that write is split by the word. -/
theorem zoneSubmissions : Obligations.ZoneSubmissions := by
  intro s fn v _ hbar hd honce put
  have hrun := running_of_laid hd
  have hzone : ∀ (z : BitVec 12) (w : Nat), w < 2 → indReach s fn.toNat 6 (4 * z.toNat + w) = reachesObj s fn.toNat 0x12 z.toNat := fun z w hw => by
    have hz := z.isLt
    rw [indReach_ptr hrun (by omega), if_pos (by omega), show (4 * z.toNat + w) / 4 = z.toNat by omega]
  have hset : ∀ (n : BitVec 12) (k : Nat), k < 64 → indReach s fn.toNat 6 (0x4000 + 64 * n.toNat + k) = reachesObj s fn.toNat 0x13 n.toNat :=
    fun n k hk => by
      have hn := n.isLt
      rw [indReach_ptr hrun (by omega), if_neg (by omega), show (0x4000 + 64 * n.toNat + k - 0x4000) / 64 = n.toNat by omega]
  refine ⟨fun z w h => ?_, fun n k h => ?_, fun z h => ?_, fun z h => ?_, fun n k h hk => ?_, fun n h => ?_⟩
  case refine_1 => exact next_congr (ptrRow_of_refused hbar ((hzone z w.toNat w.isLt).trans h))
  case refine_2 => exact next_congr (ptrRow_of_refused hbar ((hset n k.toNat k.isLt).trans h))
  case refine_3 =>
    exact next_congr ((ptrRow_of_reached hbar hd honce ((hzone z 0 (by decide)).trans h)).trans (ptrSpaceWrite_zone0 z.isLt))
  case refine_4 =>
    intro u d taken
    have hrow : execZoneDescriptorSubmit fn z 1 v s = .next (zoneSubmit u fn.toNat z.toNat d) :=
      next_congr ((ptrRow_of_reached hbar hd honce ((hzone z 1 (by decide)).trans h)).trans (ptrSpaceWrite_zone1 z.isLt))
    refine ⟨fun hok => ?_, fun hok htake => ?_, fun r hok hen hnow hr => ?_⟩
    · refine hrow.trans (next_congr ?_)
      rw [zoneSubmit, hok]
      rfl
    · exact hrow.trans (next_congr (zoneSubmit_of_taken hok htake))
    · exact hrow.trans (next_congr (zoneSubmit_of_refused hok hen hnow hr))
  case refine_5 =>
    have hlt : k.toNat < 63 := by
      have hne : k.toNat ≠ 63 := fun e => hk (BitVec.eq_of_toNat_eq e)
      have := k.isLt
      omega
    exact next_congr ((ptrRow_of_reached hbar hd honce ((hset n k.toNat k.isLt).trans h)).trans (ptrSpaceWrite_set n.isLt hlt))
  case refine_6 =>
    exact next_congr ((ptrRow_of_reached hbar hd honce ((hset n 63 (by decide)).trans h)).trans (ptrSpaceWrite_set63 n.isLt h))

/-- Settles O30: the window's guard, the window in an event tick, and the two halves of a status read. -/
theorem parterreWindowAndStatus : Obligations.ParterreWindowAndStatus := by
  intro s hs
  refine ⟨fun gains descs hdue => ?_, fun gains descs hdue => ?_, fun c hrun hst hopen hdone => ?_, fun c h => ?_, fun fn => ?_, fun fn hi hacc => ?_⟩
  case refine_1 =>
    have hrow : execParterreWindow gains descs s = .next
        ((zoneUpsets (gainUpsets s gains) descs).setPtr { (zoneUpsets (gainUpsets s gains) descs).ptr with opened := true }) :=
      next_congr (if_pos hdue)
    exact ⟨_, hrow, keepsMain_of_kept (execParterreWindow_kept (kept_main hs)) hrow, rfl, rfl⟩
  case refine_2 => exact next_congr (if_neg (by rw [hdue]; exact Bool.false_ne_true))
  case refine_3 =>
    rw [windowTick, hrun, hst, hopen, hdone]
    rfl
  case refine_4 =>
    rw [windowTick, if_neg]
    rcases h with h | h <;> simp [h]
  case refine_5 =>
    intro z w
    refine ⟨fun hacc => ?_, fun x hacc hx => ?_, fun hacc hx => ?_⟩
    · exact next_congr (if_pos hacc)
    · refine (next_congr (if_pos hacc)).trans (next_congr ?_)
      rw [zoneStatRead, if_neg (by decide)]
      simp only [hx]
    · refine (next_congr (if_pos hacc)).trans (next_congr ?_)
      rw [zoneStatRead, if_neg (by decide)]
      simp only [hx]
      rfl
  case refine_6 => exact next_congr (if_neg (by rw [hacc]; exact Bool.false_ne_true))

end Sys2Proof.Claims
end

section
/-! SUPPORT. The station table and the forwarding tables seen from the host (chapter 07), and O31 and O32. -/

namespace Sys2Proof.Machine

open Sys2Proof.Claims

variable {s t u : State} {os : List Nat}

/-! ### What a write of other registers leaves of a read -/

/-- The function of a tenant is held outside the registers (R530). -/
theorem tenantFn_of_hp_eq (h : t.hp = s.hp) (n : Nat) : tenantFn t n = tenantFn s n := by
  have hnow : voteNow t 1 n = voteNow s 1 n := by simp only [voteNow, voteStored, h]
  have htriple : ∀ r a b c, tripleNow r 1 a b c = tripleValue 1 a b c := fun r a b c => if_neg fun h => absurd h.1 (by decide)
  unfold tenantFn voteValue
  rw [hnow]
  cases voteNow s 1 n with
  | triple a b c => exact (htriple t a b c).trans (htriple s a b c).symm
  | _ => rfl

theorem reachesTenant_of_hp_eq (h : t.hp = s.hp) (fn n : Nat) : reachesTenant t fn n = reachesTenant s fn n := by
  rw [reachesTenant, reachesTenant, tenantFn_of_hp_eq h]

/-! ### The rows of the station table -/

theorem rd_staOp (s : State) (op : Nat) {o : Nat} (h : o ≠ R.FWD_STA_CMD) : rd (staOp s op) o = rd s o := rd_wrF_ne h

theorem staRegKey_staOp (s : State) (op : Nat) : staRegKey (staOp s op) = staRegKey s := by
  simp only [staRegKey, rdF]
  rw [rd_staOp s op (by decide), rd_staOp s op (by decide), rd_staOp s op (by decide)]

theorem staWord_staOp (s : State) (op loc : Nat) : staWord (staOp s op) loc = staWord s loc := rfl

theorem staHash_staOp (s : State) (op : Nat) {i : Nat} (hi : i < 4) (key : Nat) : staHash (staOp s op) i key = staHash s i key := by
  have hne : R.FWD_HASH_SEEDn i ≠ R.FWD_STA_CMD := by
    unfold R.FWD_HASH_SEEDn R.FWD_STA_CMD
    omega
  rw [staHash, staHash, rd_staOp s op hne]

theorem staLoc_staOp (s : State) (op : Nat) {i : Nat} (hi : i < 4) (key : Nat) : staLoc (staOp s op) i key = staLoc s i key := by
  rw [staLoc, staLoc, staHash_staOp s op hi]

theorem staTenantOk_staOp (s : State) (op fn n : Nat) : staTenantOk (staOp s op) fn n = staTenantOk s fn n :=
  reachesTenant_of_hp_eq (State.setRegs_hp ..) fn n

theorem rdF_staOp (s : State) (op : Nat) {o : Nat} (h : o ≠ R.FWD_STA_CMD) (hi lo : Nat) : rdF (staOp s op) o hi lo = rdF s o hi lo := by
  rw [rdF, rdF, rd_staOp s op h]

theorem staSet_regs (s : State) (loc x : Nat) : (staSet s loc x).regs = s.regs := rfl
theorem hostRam_regs (s : State) : (hostRam s).regs = s.regs := rfl
theorem unmark_regs (s : State) (loc : Nat) : (unmark s loc).regs = s.regs := rfl
theorem moveMark_regs (s : State) (a b : Nat) : (moveMark s a b).regs = s.regs := rfl

theorem clearBad_regs (s : State) (loc : Nat) : (clearBad s loc).regs = s.regs := by
  unfold clearBad
  split
  · rw [ramTake, State.setFwd_regs, fwdPerr, setCondWith, request, State.setEv_regs, staSet, State.setFwd_regs]
  · rfl

theorem clearBadRows_regs (s : State) (key : Nat) : (clearBadRows s key).regs = s.regs := by
  have hfold : ∀ (l : List Nat) (t : State), (l.foldl (fun u i => clearBad u (staLoc u i key)) t).regs = t.regs := fun l => by
    induction l with
    | nil => exact fun _ => rfl
    | cons i l ih => exact fun t => (ih _).trans (clearBad_regs t _)
  exact hfold _ s

/-! ### What a command of the table leaves of the registers -/

theorem regsBut_staOp (s : State) (op : Nat) : RegsBut s (staOp s op) staRegs :=
  (regsBut_wrF s R.FWD_STA_CMD 3 0 op).mono (List.cons_subset_cons _ (List.nil_subset _))

end Sys2Proof.Machine

namespace Sys2Proof.Claims

open Sys2Proof.Machine

variable {s t : State} {os : List Nat}

theorem RegsBut.wr (h : RegsBut s t os) {o : Nat} (ho : o ∈ os) (w : Word) : RegsBut s (wr t o w) os := fun o' ho' =>
  (rd_wr_ne t w fun e => ho' (by rwa [e])).trans (h o' ho')

theorem RegsBut.wrAll (h : RegsBut s t os) {l : List (Nat × Word)} (hl : l.map Prod.fst ⊆ os) : RegsBut s (wrAll t l) os :=
  fun o' ho' => (rd_wrAll_of_not_mem fun hm => ho' (hl hm)).trans (h o' ho')

theorem RegsBut.staEnd (h : RegsBut s t staRegs) (k : Nat) : RegsBut s (staEnd t k) staRegs :=
  RegsBut.of_regs_eq (h.wr (o := R.FWD_STA_CMD) (by decide) _) rfl

theorem RegsBut.clearBad (h : RegsBut s t os) (loc : Nat) : RegsBut s (clearBad t loc) os := h.of_regs_eq (clearBad_regs t loc)

theorem RegsBut.clearBadRows (h : RegsBut s t os) (key : Nat) : RegsBut s (clearBadRows t key) os := h.of_regs_eq (clearBadRows_regs t key)

end Sys2Proof.Claims

namespace Sys2Proof.Machine

open Sys2Proof.Claims

variable {s t u : State} {os : List Nat}

theorem regsBut_staLookup (h : RegsBut s t staRegs) (fn : Nat) : RegsBut s (staLookup t fn) staRegs := by
  unfold staLookup
  dsimp only
  split
  · exact h.staEnd 4
  · split
    · exact ((h.clearBadRows _).wr (by decide) _ |>.wr (by decide) _).staEnd 0
    · exact ((h.clearBadRows _).wr (by decide) _).staEnd 1

theorem regsBut_staRead (h : RegsBut s t staRegs) (fn : Nat) : RegsBut s (staRead t fn) staRegs := by
  unfold staRead
  dsimp only
  split
  · exact (h.clearBad _).staEnd 5
  · split
    · exact h.staEnd 4
    · exact (h.wrAll (by simp [staRegs])).staEnd _

theorem regsBut_staWrite (h : RegsBut s t staRegs) (fn : Nat) : RegsBut s (staWrite t fn) staRegs := by
  unfold staWrite
  dsimp only
  split
  · exact h.staEnd 4
  split
  · exact h.staEnd 2
  split
  · exact h.staEnd 3
  · exact (((h.clearBadRows _).clearBad _).of_regs_eq (by rw [State.setFwd_regs, hostRam_regs, staSet_regs])).staEnd 0

theorem regsBut_staDelete (h : RegsBut s t staRegs) (fn : Nat) : RegsBut s (staDelete t fn) staRegs := by
  unfold staDelete
  dsimp only
  split
  · exact h.staEnd 4
  split
  · exact ((h.clearBadRows _).of_regs_eq (by rw [unmark_regs, hostRam_regs, staSet_regs])).staEnd 0
  · exact (h.clearBadRows _).staEnd 1

theorem regsBut_staMove (h : RegsBut s t staRegs) (fn : Nat) : RegsBut s (staMove t fn) staRegs := by
  unfold staMove
  dsimp only
  split
  · exact (h.clearBad _).staEnd 5
  split
  · exact h.staEnd 1
  split
  · exact h.staEnd 4
  split
  · exact h.staEnd 2
  · exact ((h.clearBad _).of_regs_eq (by rw [moveMark_regs, hostRam_regs, staSet_regs, staSet_regs])).staEnd 0

theorem regsBut_staHashCmd (h : RegsBut s t staRegs) (fn : Nat) : RegsBut s (staHashCmd t fn) staRegs := by
  unfold staHashCmd
  dsimp only
  split
  · exact h.staEnd 4
  · exact (h.wrAll (by simp [staRegs, List.range_succ])).staEnd 0

/-! ### The commands of the table, behind the write of their operation -/

theorem staLookup_staOp (s : State) (op fn : Nat) : staLookup (staOp s op) fn =
    if !staTenantOk s fn (bits (staRegKey s) 69 60) then staEnd (staOp s op) 4
    else
      let u := clearBadRows (staOp s op) (staRegKey s)
      match wayOf u (staRegKey s) with
      | some i => staEnd (wr (wr u R.FWD_STA_LOC (BitVec.ofNat 32 (2 ^ 31 + staLoc u i (staRegKey s)))) R.FWD_STA_DATA
          (staDataWord (staWord u (staLoc u i (staRegKey s))))) 0
      | none => staEnd (wrF u R.FWD_STA_LOC 31 31 0) 1 := by
  unfold staLookup
  dsimp only
  rw [staRegKey_staOp, staTenantOk_staOp] <;> rfl

theorem staRead_staOp (s : State) (op fn : Nat) : staRead (staOp s op) fn =
    let loc := rdF s R.FWD_STA_LOC 17 0
    let x := staWord s loc
    if staBad x then staEnd (clearBad (staOp s op) loc) 5
    else if !staTenantOk s fn (bits x 69 60) then staEnd (staOp s op) 4
    else staEnd (wrAll (staOp s op) [(R.FWD_STA_KEY0, BitVec.ofNat 32 x), (R.FWD_STA_KEY1, BitVec.ofNat 32 (bits x 47 32 + bits x 59 48 * 65536)),
      (R.FWD_STA_KEY2, BitVec.ofNat 32 (bits x 69 60)), (R.FWD_STA_DATA, staDataWord x)]) (if x.testBit 76 then 0 else 1) := by
  unfold staRead
  dsimp only
  rw [rdF_staOp s op (by decide), staWord_staOp, staTenantOk_staOp]

theorem staWrite_staOp (s : State) (op fn : Nat) : staWrite (staOp s op) fn =
    let key := staRegKey s
    let loc := rdF s R.FWD_STA_LOC 17 0
    let x := staWord s loc
    let d := rd s R.FWD_STA_DATA
    let u := hostRam (staSet (clearBad (clearBadRows (staOp s op) key) loc) loc (mkSta key (fld d 4 0) (bit d 5) (fld d 31 16)))
    if !staTenantOk s fn (bits key 69 60) then staEnd (staOp s op) 4
    else if staLive x && staKey x != key then staEnd (staOp s op) 2
    else if (List.range 4).any (fun i => staLoc s i key != loc &&
      (staLive (staWord s (staLoc s i key)) && staKey (staWord s (staLoc s i key)) == key)) then staEnd (staOp s op) 3
    else staEnd (u.setFwd { u.fwd with marks := SMap.del u.fwd.marks loc }) 0 := by
  have hany : (List.range 4).any (fun i => staLoc (staOp s op) i (staRegKey s) != rdF s R.FWD_STA_LOC 17 0 &&
        (staLive (staWord (staOp s op) (staLoc (staOp s op) i (staRegKey s))) &&
          staKey (staWord (staOp s op) (staLoc (staOp s op) i (staRegKey s))) == staRegKey s)) =
      (List.range 4).any (fun i => staLoc s i (staRegKey s) != rdF s R.FWD_STA_LOC 17 0 &&
        (staLive (staWord s (staLoc s i (staRegKey s))) && staKey (staWord s (staLoc s i (staRegKey s))) == staRegKey s)) := by
    rw [Bool.eq_iff_iff, List.any_eq_true, List.any_eq_true]
    refine exists_congr fun i => and_congr_right fun hi => ?_
    rw [staLoc_staOp s op (List.mem_range.1 hi), staWord_staOp]
  have hdata : rd (clearBad (clearBadRows (staOp s op) (staRegKey s)) (rdF s R.FWD_STA_LOC 17 0)) R.FWD_STA_DATA = rd s R.FWD_STA_DATA := by
    rw [rd_of_regs_eq (clearBad_regs ..), rd_of_regs_eq (clearBadRows_regs ..), rd_staOp s op (by decide)]
  unfold staWrite
  dsimp only
  rw [staRegKey_staOp, rdF_staOp s op (by decide), staWord_staOp, staTenantOk_staOp, hany, hdata]

theorem staDelete_staOp (s : State) (op fn : Nat) : staDelete (staOp s op) fn =
    if !staTenantOk s fn (bits (staRegKey s) 69 60) then staEnd (staOp s op) 4
    else
      let u := clearBadRows (staOp s op) (staRegKey s)
      match wayOf u (staRegKey s) with
      | some i => staEnd (unmark (hostRam (staSet u (staLoc u i (staRegKey s)) (staClear (staWord u (staLoc u i (staRegKey s))))))
          (staLoc u i (staRegKey s))) 0
      | none => staEnd u 1 := by
  unfold staDelete
  dsimp only
  rw [staRegKey_staOp, staTenantOk_staOp] <;> rfl

theorem staMove_staOp (s : State) (op fn : Nat) : staMove (staOp s op) fn =
    let loc := rdF s R.FWD_STA_LOC 17 0
    let dst := rdF s R.FWD_STA_DEST 17 0
    let x := staWord s loc
    if staBad x then staEnd (clearBad (staOp s op) loc) 5
    else if !x.testBit 76 then staEnd (staOp s op) 1
    else if !staTenantOk s fn (bits x 69 60) then staEnd (staOp s op) 4
    else if staLive (staWord s dst) then staEnd (staOp s op) 2
    else staEnd (moveMark (hostRam (staSet (staSet (clearBad (staOp s op) dst) loc (staClear x)) dst x)) loc dst) 0 := by
  unfold staMove
  dsimp only
  rw [rdF_staOp s op (by decide), rdF_staOp s op (by decide), staTenantOk_staOp]
  rfl

theorem staHashCmd_staOp (s : State) (op fn : Nat) : staHashCmd (staOp s op) fn =
    if !staTenantOk s fn (bits (staRegKey s) 69 60) then staEnd (staOp s op) 4
    else staEnd (wrAll (staOp s op) ((List.range 4).map (fun i => (R.FWD_STA_HASHn i, BitVec.ofNat 32 (staHash s i (staRegKey s)))))) 0 := by
  have hmap : (List.range 4).map (fun i => (R.FWD_STA_HASHn i, BitVec.ofNat 32 (staHash (staOp s op) i (staRegKey s)))) =
      (List.range 4).map (fun i => (R.FWD_STA_HASHn i, BitVec.ofNat 32 (staHash s i (staRegKey s)))) :=
    List.map_congr_left fun i hi => by rw [staHash_staOp s op (List.mem_range.1 hi)]
  unfold staHashCmd
  dsimp only
  rw [staRegKey_staOp, staTenantOk_staOp, hmap]

end Sys2Proof.Machine
namespace Sys2Proof.Claims

open Sys2Proof.Machine

variable {s t : State}

theorem staCmdRow_off {fn op : Nat} (f : State → State) (honce : AtOnce s) (hacc : accessOk s fn R.FWD_STA_CMD = true) :
    staCmdRow s fn op f = f (staOp s op) := hostWriteAs_off fn R.FWD_STA_CMD _ _ honce hacc

theorem not_of_eq_true {b : Bool} (h : b = true) : ¬ (!b) = true := by rw [h]; decide

theorem not_of_eq_false {b : Bool} (h : b = false) : ¬ b = true := by rw [h]; decide

theorem not_eq_true_of_false {b : Bool} (h : b = false) : (!b) = true := by rw [h]; rfl

/-- A row of the address table: what it keeps, and the registers it writes. -/
theorem staRow {x : Host.Outcome State Fault Refusal} (k : KeptN (Keep.main s) x) (hrow : x = .next t) (h : RegsBut s t staRegs) :
    ∃ t, x = .next t ∧ KeepsMain s t ∧ RegsBut s t staRegs := ⟨t, hrow, keepsMain_of_kept k hrow, h⟩

/-- Settles O31: each command is a write of its operation, and then a choice by the tenant, the entry it names and the rows of the key. -/
theorem addressTableCommands : Obligations.AddressTableCommands := by
  intro s fn hs honce
  have k := kept_main hs
  refine ⟨fun hacc c hc => ?_, fun hacc => ?_⟩
  case refine_1 =>
    simp only [List.mem_cons, List.not_mem_nil, or_false] at hc
    rcases hc with rfl | rfl | rfl | rfl | rfl | rfl <;> exact next_congr (hostWriteAs_of_no_access hacc)
  intro key loc dst x mine its elsewhere
  have hlookup : execStaLookup fn s = .next (staLookup (staOp s 1) fn.toNat) := next_congr (staCmdRow_off _ honce hacc)
  have hread : execStaRead fn s = .next (staRead (staOp s 2) fn.toNat) := next_congr (staCmdRow_off _ honce hacc)
  have hwrite : execStaWrite fn s = .next (staWrite (staOp s 3) fn.toNat) := next_congr (staCmdRow_off _ honce hacc)
  have hdelete : execStaDelete fn s = .next (staDelete (staOp s 4) fn.toNat) := next_congr (staCmdRow_off _ honce hacc)
  have hmove : execStaMove fn s = .next (staMove (staOp s 5) fn.toNat) := next_congr (staCmdRow_off _ honce hacc)
  have hhash : execStaHash fn s = .next (staHashCmd (staOp s 6) fn.toNat) := next_congr (staCmdRow_off _ honce hacc)
  refine ⟨fun c hc => ?_, fun hm => ?_, ⟨fun i hm hi => ?_, fun hm hn => ?_⟩, fun hb => ?_, fun hb ht => ?_, fun hb ht => ?_, fun hm hl => ?_,
    fun hm hl he => ?_, fun hm hl he => ?_, ⟨fun i hm hi => ?_, fun hm hn => ?_⟩, fun hb hv => ?_, fun hb hv ht => ?_, fun hb hv ht hl => ?_,
    fun hb hv ht hl => ?_, fun hm => ?_⟩
  case refine_1 =>
    simp only [List.mem_cons, List.not_mem_nil, or_false] at hc
    rcases hc with rfl | rfl | rfl | rfl | rfl | rfl
    · exact staRow (execStaLookup_kept k) hlookup (regsBut_staLookup (regsBut_staOp s 1) _)
    · exact staRow (execStaRead_kept k) hread (regsBut_staRead (regsBut_staOp s 2) _)
    · exact staRow (execStaWrite_kept k) hwrite (regsBut_staWrite (regsBut_staOp s 3) _)
    · exact staRow (execStaDelete_kept k) hdelete (regsBut_staDelete (regsBut_staOp s 4) _)
    · exact staRow (execStaMove_kept k) hmove (regsBut_staMove (regsBut_staOp s 5) _)
    · exact staRow (execStaHash_kept k) hhash (regsBut_staHashCmd (regsBut_staOp s 6) _)
  case refine_2 =>
    have hno : (!staTenantOk s fn.toNat (bits (staRegKey s) 69 60)) = true := by rw [Bool.not_eq_true']; exact hm
    refine ⟨hlookup.trans (next_congr ?_), hwrite.trans (next_congr ?_), hdelete.trans (next_congr ?_), hhash.trans (next_congr ?_)⟩
    · rw [staLookup_staOp, if_pos hno]
    · rw [staWrite_staOp]
      exact if_pos hno
    · rw [staDelete_staOp, if_pos hno]
    · rw [staHashCmd_staOp, if_pos hno]
  case refine_3 =>
    refine hlookup.trans (next_congr ?_)
    rw [staLookup_staOp, if_neg (not_of_eq_true hm)]
    simp only [hi, key]
  case refine_4 =>
    refine hlookup.trans (next_congr ?_)
    rw [staLookup_staOp, if_neg (not_of_eq_true hm)]
    simp only [hn, key]
  case refine_5 =>
    refine ⟨hread.trans (next_congr ?_), hmove.trans (next_congr ?_)⟩
    · rw [staRead_staOp]
      exact if_pos hb
    · rw [staMove_staOp]
      exact if_pos hb
  case refine_6 =>
    refine hread.trans (next_congr ?_)
    rw [staRead_staOp]
    exact (if_neg (not_of_eq_false hb)).trans (if_pos (not_eq_true_of_false ht))
  case refine_7 =>
    refine hread.trans (next_congr ?_)
    rw [staRead_staOp]
    exact (if_neg (not_of_eq_false hb)).trans (if_neg (not_of_eq_true ht))
  case refine_8 =>
    refine hwrite.trans (next_congr ?_)
    rw [staWrite_staOp]
    exact (if_neg (not_of_eq_true hm)).trans (if_pos hl)
  case refine_9 =>
    refine hwrite.trans (next_congr ?_)
    rw [staWrite_staOp]
    exact (if_neg (not_of_eq_true hm)).trans ((if_neg (not_of_eq_false hl)).trans (if_pos he))
  case refine_10 =>
    refine hwrite.trans (next_congr ?_)
    rw [staWrite_staOp]
    exact (if_neg (not_of_eq_true hm)).trans ((if_neg (not_of_eq_false hl)).trans (if_neg (not_of_eq_false he)))
  case refine_11 =>
    refine hdelete.trans (next_congr ?_)
    rw [staDelete_staOp, if_neg (not_of_eq_true hm)]
    simp only [hi, key]
  case refine_12 =>
    refine hdelete.trans (next_congr ?_)
    rw [staDelete_staOp, if_neg (not_of_eq_true hm)]
    simp only [hn, key]
  case refine_13 =>
    refine hmove.trans (next_congr ?_)
    rw [staMove_staOp]
    exact (if_neg (not_of_eq_false hb)).trans (if_pos (not_eq_true_of_false hv))
  case refine_14 =>
    refine hmove.trans (next_congr ?_)
    rw [staMove_staOp]
    exact (if_neg (not_of_eq_false hb)).trans ((if_neg (not_of_eq_true hv)).trans (if_pos (not_eq_true_of_false ht)))
  case refine_15 =>
    refine hmove.trans (next_congr ?_)
    rw [staMove_staOp]
    exact (if_neg (not_of_eq_false hb)).trans ((if_neg (not_of_eq_true hv)).trans ((if_neg (not_of_eq_true ht)).trans (if_pos hl)))
  case refine_16 =>
    refine hmove.trans (next_congr ?_)
    rw [staMove_staOp]
    exact (if_neg (not_of_eq_false hb)).trans ((if_neg (not_of_eq_true hv)).trans
      ((if_neg (not_of_eq_true ht)).trans (if_neg (not_of_eq_false hl))))
  case refine_17 =>
    refine hhash.trans (next_congr ?_)
    rw [staHashCmd_staOp, if_neg (not_of_eq_true hm)]

/-! ### The direct tables -/

theorem tblRow_off {fn tb i : Nat} {write : Bool} (honce : AtOnce s) (hacc : accessOk s fn R.FWD_TBL_CTL = true) :
    tblRow s fn write tb i = tblGo (wr s R.FWD_TBL_CTL (BitVec.ofNat 32 (i + tb * 2 ^ 24 + b2n write * 2 ^ 29))) :=
  hostWriteAs_off fn R.FWD_TBL_CTL _ _ honce hacc

/-- The control word of a row that reads a direct table, and of one that writes it (R223). -/
def tblCtl (tb i : Nat) (write : Bool) : Word := BitVec.ofNat 32 (i + tb * 2 ^ 24 + b2n write * 2 ^ 29)

theorem tblCtl_read (tb i : Nat) : tblCtl tb i false = BitVec.ofNat 32 (i + tb * 2 ^ 24) := by
  have h : b2n false = 0 := rfl
  rw [tblCtl, h, Nat.zero_mul, Nat.add_zero]

theorem tblCtl_write (tb i : Nat) : tblCtl tb i true = BitVec.ofNat 32 (i + tb * 2 ^ 24 + 2 ^ 29) := by
  have h : b2n true = 1 := rfl
  rw [tblCtl, h, Nat.one_mul]

theorem tblCtl_fields {tb i : Nat} (htb : tb < 4) (hi : i < 65536) (write : Bool) :
    fld (tblCtl tb i write) 25 24 = tb ∧ fld (tblCtl tb i write) 15 0 = i ∧ bit (tblCtl tb i write) 29 = write := by
  have hb : b2n write ≤ 1 := by cases write <;> decide
  refine ⟨(fld_ofNat 25 24 (by decide)).trans ?_, (fld_ofNat 15 0 (by decide)).trans ?_, ?_⟩
  · unfold bits
    omega
  · unfold bits
    omega
  · have hbit : (i + tb * 2 ^ 24 + b2n write * 2 ^ 29).testBit 29 = decide (b2n write = 1) := by
      rw [Nat.testBit_eq_decide_div_mod_eq]
      refine decide_eq_decide.2 ?_
      omega
    rw [tblCtl, bit_ofNat, hbit]
    cases write <;> decide

theorem tblRead_wr (s : State) (o : Nat) (w : Word) (tb i : Nat) : tblRead (wr s o w) tb i = tblRead s tb i := by
  rw [tblRead, tblRead, wr_fwd]

theorem tblGo_read {tb i : Nat} (hs : Canonical s) (htb : tb < 4) (hi : i < 65536) :
    let u := wr s R.FWD_TBL_CTL (tblCtl tb i false)
    let w := if i < tblSize tb then tblRead s tb i else (0, true)
    let v := wr (wr u R.FWD_TBL_LO (BitVec.ofNat 32 w.1)) R.FWD_TBL_HI (BitVec.ofNat 32 (w.1 / 2 ^ 32))
    tblGo u = if w.2 then v else fwdPerr v (tb + 1) 0 i := by
  intro u w v
  obtain ⟨htab, hidx, hwr⟩ := tblCtl_fields htb hi false
  have hctl : rd u R.FWD_TBL_CTL = tblCtl tb i false := rd_wr_self hs.1 _ _
  have hread : tblRead u tb i = tblRead s tb i := tblRead_wr ..
  unfold tblGo
  dsimp only
  rw [hctl, htab, hidx, hwr, if_neg Bool.false_ne_true, hread]

theorem tblGo_write {tb i : Nat} (hs : Canonical s) (htb : tb < 4) (hi : i < 65536) :
    let u := wr s R.FWD_TBL_CTL (tblCtl tb i true)
    tblGo u = if i < tblSize tb then tblWrite u tb i ((rd s R.FWD_TBL_LO).toNat + (rd s R.FWD_TBL_HI).toNat * 2 ^ 32) else u := by
  intro u
  obtain ⟨htab, hidx, hwr⟩ := tblCtl_fields htb hi true
  have hctl : rd u R.FWD_TBL_CTL = tblCtl tb i true := rd_wr_self hs.1 _ _
  have hlo : rd u R.FWD_TBL_LO = rd s R.FWD_TBL_LO := rd_wr_ne s _ (by decide)
  have hhi : rd u R.FWD_TBL_HI = rd s R.FWD_TBL_HI := rd_wr_ne s _ (by decide)
  unfold tblGo
  dsimp only
  rw [hctl, htab, hidx, hwr, if_pos rfl, hlo, hhi]

theorem tblWrite_regs (s : State) (tb i v : Nat) : (tblWrite s tb i v).regs = s.regs := State.setFwd_regs _ _

theorem fwdPerr_regs (s : State) (tb way i : Nat) : (fwdPerr s tb way i).regs = s.regs := State.setEv_regs _ _

/-- Settles O32: the control word that a row writes names its table and its index, and GO of that word does the rest. -/
theorem forwardingTablesByHost : Obligations.ForwardingTablesByHost := by
  intro s fn tb i hs honce
  have k := kept_main hs
  refine ⟨fun hacc => ⟨next_congr (hostWriteAs_of_no_access hacc), next_congr (hostWriteAs_of_no_access hacc)⟩, fun hacc => ⟨?_, ?_⟩⟩
  case refine_1 =>
    have hrow : execTableRead fn tb i s = .next (tblGo (wr s R.FWD_TBL_CTL (tblCtl tb.toNat i.toNat false))) := next_congr (tblRow_off honce hacc)
    have hkeep := keepsMain_of_kept (execTableRead_kept k) hrow
    rw [tblGo_read hs tb.isLt i.isLt, tblCtl_read] at hrow hkeep
    refine ⟨_, hrow, hkeep, ?_, rfl⟩
    have hv : ∀ a b c : Word, RegsBut s (wr (wr (wr s R.FWD_TBL_CTL a) R.FWD_TBL_LO b) R.FWD_TBL_HI c)
        [R.FWD_TBL_CTL, R.FWD_TBL_LO, R.FWD_TBL_HI] := fun a b c =>
      (((regsBut_refl s _).wr (by decide) a).wr (by decide) b).wr (by decide) c
    generalize (if i.toNat < tblSize tb.toNat then tblRead s tb.toNat i.toNat else (0, true)) = w
    split
    · exact hv _ _ _
    · exact (hv _ _ _).of_regs_eq (fwdPerr_regs ..)
  case refine_2 =>
    have hrow : execTableWrite fn tb i s = .next (tblGo (wr s R.FWD_TBL_CTL (tblCtl tb.toNat i.toNat true))) := next_congr (tblRow_off honce hacc)
    have hkeep := keepsMain_of_kept (execTableWrite_kept k) hrow
    rw [tblGo_write hs tb.isLt i.isLt, tblCtl_write] at hrow hkeep
    refine ⟨_, hrow, hkeep, ?_, rfl⟩
    split
    · exact (regsBut_wr s _ _).of_regs_eq (tblWrite_regs ..)
    · exact regsBut_wr s _ _

end Sys2Proof.Claims
end

section
/-! SUPPORT. Learning, aging and flushes (chapter 07), and O33 and O34. -/

namespace Sys2Proof.Machine

open Sys2Proof.Claims

variable {s t u : State}

/-! ### HOLD -/

theorem writeLearnCtl_of_hold {w : Word} (h : bit w 0 = true) : writeLearnCtl s w =
    ((wr s R.FWD_LEARN_CTL w).setFwd { s.fwd with queue := [], relook := false }).setSrch { s.srch with
      reqs := s.srch.reqs.filter (fun r => !ofEngine r.who)
      flights := s.srch.flights.map (fun f => if ofEngine f.who then { f with who := .lost } else f)
      done := s.srch.done.filter (fun d => !ofEngine d.1) } := by
  have hwho : (fun w : Who => match w with | .engine _ => false | _ => true) = fun w => !ofEngine w := funext fun w => by cases w <;> rfl
  have hreqs : (fun r : SReq => match r.who with | .engine _ => false | _ => true) = fun r => !ofEngine r.who :=
    funext fun r => congrFun hwho r.who
  have hdone : (fun d : Who × SRec => match d.1 with | .engine _ => false | _ => true) = fun d => !ofEngine d.1 :=
    funext fun d => congrFun hwho d.1
  have hflights : (fun f : Flight => match f.who with | .engine _ => { f with who := .lost } | _ => f) =
      fun f => if ofEngine f.who then { f with who := .lost } else f := by
    funext f
    cases f.who <;> rfl
  rw [writeLearnCtl, if_pos h, ← hreqs, ← hdone, ← hflights]
  rfl

theorem writeLearnCtl_of_go {w : Word} (h : bit w 0 = false) : writeLearnCtl s w = wr s R.FWD_LEARN_CTL w := by
  rw [writeLearnCtl, h]
  rfl

/-! ### A turn of the learning engine -/

theorem learnTurn_of_no_flush (h : s.fwd.flushes = []) (c : Nat) : learnTurn s c = learnStep s c := by
  rw [learnTurn, h, flushStep, Option.getD_none, ite_self]

theorem learnStep_of_empty (h : s.fwd.queue = []) (c : Nat) : learnStep s c = s := by
  rw [learnStep, h, List.head?_nil]

/-- A request is carried out as its plan says (R212, R213, R218). -/
def learnByPlan (u : State) (r : LearnReq) (c : Nat) : LearnPlan → State
  | .wait => u
  | .look => engineLook u r
  | .drop => learnPop u
  | .fail cause => learnPop (insertionFailure u (reqKey r) r.port cause)
  | .way loc x fresh =>
    if c < u.fwd.staFree ∨ (fresh = true ∧ c < u.fwd.learnFrom) then u
    else if fresh then learnPace (learnPop (unmark (ramWrite u loc x c) loc)) c
    else learnPop (unmark (ramWrite u loc x c) loc)
  | .over i ad =>
    if c < u.fwd.learnFrom ∨ rank1Free u c = false then u
    else learnPop (learnPace (unmark (learnReplace u ((ovfBase u).getD 0 + i) c (ovfValue u (reqKey r)) ad) (2 ^ 18 + i)) c)

theorem learnStep_of_cons {r : LearnReq} {q : List LearnReq} (h : s.fwd.queue = r :: q) (c : Nat) :
    learnStep s c = learnByPlan (clearBadRows s (reqKey r)) r c (learnPlan (clearBadRows s (reqKey r)) r c) := by
  rw [learnStep, h, List.head?_cons]
  dsimp only
  cases learnPlan (clearBadRows s (reqKey r)) r c <;> rfl

theorem learnByPlan_way {r : LearnReq} {c loc x : Nat} {fresh : Bool} (hfree : s.fwd.staFree ≤ c) (hpace : fresh = true → s.fwd.learnFrom ≤ c) :
    learnByPlan s r c (.way loc x fresh) = if fresh then learnPace (learnPop (unmark (ramWrite s loc x c) loc)) c
      else learnPop (unmark (ramWrite s loc x c) loc) :=
  if_neg fun h => h.elim (Nat.not_lt.2 hfree) fun h => (Nat.not_lt.2 (hpace h.1)) h.2

/-! ### Source lookups -/

theorem sourceLookup_of_head {p : Nat} {f : FrameIn} (h : headFrame s p = some f) : sourceLookup s p =
    if rdB s R.FWD_LEARN_CTL 0 || portBlocked s p then
      (match f.src with
       | .due => putFrame s { f with src := .none }
       | .asked => putFrame s { f with src := .none }
       | _ => s)
    else lookupFrame s f := by
  rw [sourceLookup, h] <;> rfl

theorem lookupFrame_of_due {f : FrameIn} (h : f.src = .due) : lookupFrame s f =
    let u := clearBadRows s (sourceKey f)
    if (wayOf u (sourceKey f)).isSome ∨ rdB u R.FWD_PROF 15 = false ∨ (ovfBase u).isNone then sourceOutcome u f none
    else putFrame (u.setSrch { u.srch with reqs := u.srch.reqs ++
      [{ cls := 3, prof := rdF u R.FWD_PROF 13 8, key := buildKey u (rdF u R.FWD_PROF 13 8) (frameSrc f) f.tenant, tenant := f.tenant,
         port := f.port, who := .learn f.id, ready := u.dkl.free }] }) { f with src := .asked } := by
  unfold lookupFrame
  simp only [h]

theorem lookupFrame_of_asked {f : FrameIn} (h : f.src = .asked) : lookupFrame s f =
    match s.srch.done.find? (fun d => d.1 == .learn f.id) with
    | some d => sourceOutcome s f (some d.2)
    | none => s := by
  unfold lookupFrame
  simp only [h] <;> rfl

theorem lookupFrame_of_other {f : FrameIn} (hdue : f.src ≠ .due) (hasked : f.src ≠ .asked) : lookupFrame s f = s := by
  unfold lookupFrame
  cases h : f.src with
  | due => exact absurd h hdue
  | asked => exact absurd h hasked
  | _ => rfl

end Sys2Proof.Machine

namespace Sys2Proof.Claims

open Sys2Proof.Machine

variable {s t : State}

theorem execLearningRequest_of_turn {cyc : BitVec 4} (h : learnHeld s = false) :
    execLearningRequest cyc s = .next (learnTurn s (s.dkl.cyc + cyc.toNat)) := next_congr (if_neg (not_of_eq_false h))

/-- Settles O33: HOLD, the plan of the request at the head of the queue with what stands in its way, and the stages of a source lookup. -/
theorem learningIsPaced : Obligations.LearningIsPaced := by
  intro s hs
  refine ⟨fun fn v honce hacc => ?_, fun cyc h => ?_, fun cyc r q hheld hflush hqueue => ?_, fun u r c => ⟨fun i hi hst => ?_, fun i hi hst => ?_,
    fun i hn hk hf hw => ?_⟩, fun port h => ?_, fun port f hrun hf => ⟨fun hdue hasked => ?_, fun hstop h => ?_, fun hgo hfree => ?_⟩,
    fun f o hnone hq hw hl => ?_⟩
  case refine_1 =>
    intro w
    have hrow : execHold fn v s = .next (writeLearnCtl s w) := next_congr (hostWriteAs_off fn.toNat R.FWD_LEARN_CTL v _ honce hacc)
    refine ⟨_, hrow, keepsMain_of_kept (execHold_kept (kept_main hs)) hrow, ?_⟩
    cases hw : bit w 0 with
    | true =>
      rw [writeLearnCtl_of_hold hw]
      exact ⟨rd_wr_self hs.1 _ _, regsBut_wr s _ _, rfl, rfl⟩
    | false =>
      rw [writeLearnCtl_of_go hw]
      exact ⟨rd_wr_self hs.1 _ _, regsBut_wr s _ _, rfl, rfl⟩
  case refine_2 =>
    rcases h with h | ⟨hf, hq⟩
    · exact next_congr (if_pos h)
    · refine next_congr ?_
      rw [learnTurn_of_no_flush hf, learnStep_of_empty hq, ite_self]
  case refine_3 =>
    intro c u
    have hrow : execLearningRequest cyc s = .next (learnStep s c) :=
      (execLearningRequest_of_turn hheld).trans (next_congr (learnTurn_of_no_flush hflush c))
    have hstep := learnStep_of_cons hqueue c
    refine ⟨fun h => ?_, fun h => ?_, fun h => ?_, fun k h => ?_, fun loc x h hfree => ?_, fun loc x h hfree hpace => ?_, fun loc x fresh h hfree => ?_,
      fun loc x h hpace => ?_, fun i ad h hwait => ?_, fun i ad h hpace hport => ?_⟩
    case refine_1 | refine_2 | refine_3 | refine_4 =>
      refine hrow.trans (next_congr (hstep.trans ?_))
      rw [h]
      rfl
    case refine_5 =>
      refine hrow.trans (next_congr (hstep.trans ?_))
      rw [h]
      exact learnByPlan_way hfree fun h => absurd h (by decide)
    case refine_6 =>
      refine hrow.trans (next_congr (hstep.trans ?_))
      rw [h]
      exact learnByPlan_way hfree fun _ => hpace
    case refine_7 =>
      refine hrow.trans (next_congr (hstep.trans ?_))
      rw [h]
      exact if_pos (.inl hfree)
    case refine_8 =>
      refine hrow.trans (next_congr (hstep.trans ?_))
      rw [h]
      exact if_pos (.inr ⟨rfl, hpace⟩)
    case refine_9 =>
      refine hrow.trans (next_congr (hstep.trans ?_))
      rw [h]
      exact if_pos hwait
    case refine_10 =>
      refine hrow.trans (next_congr (hstep.trans ?_))
      rw [h]
      refine if_neg fun h => h.elim (Nat.not_lt.2 hpace) fun h => ?_
      exact Bool.false_ne_true (h.symm.trans hport)
  case refine_4 =>
    simp only [learnPlan, hi, hst, if_true]
  case refine_5 =>
    simp only [learnPlan, hi, hst, Bool.false_eq_true, if_false]
  case refine_6 =>
    simp only [learnPlan, hn, if_neg hk, hf, planNew, hw]
  case refine_7 =>
    rcases h with h | h
    · exact next_congr (if_neg (not_of_eq_false h))
    · refine next_congr ?_
      rw [sourceLookup, h, ite_self]
  case refine_8 =>
    refine (next_congr (if_pos hrun)).trans (next_congr ?_)
    rw [sourceLookup_of_head hf, lookupFrame_of_other hdue hasked]
    split
    · cases h : f.src with
      | due => exact absurd h hdue
      | asked => exact absurd h hasked
      | _ => rfl
    · rfl
  case refine_9 =>
    refine (next_congr (if_pos hrun)).trans (next_congr ?_)
    rw [sourceLookup_of_head hf, if_pos (by simpa using hstop)]
    rcases h with h | h <;> rw [h]
  case refine_10 =>
    intro u
    have hrow : execSourceLookup port s = .next (lookupFrame s f) := by
      refine (next_congr (if_pos hrun)).trans (next_congr ?_)
      rw [sourceLookup_of_head hf, hgo, hfree]
      rfl
    refine ⟨fun h hor => ?_, fun h hway hprof hbase => ?_, fun d h hd => ?_, fun h hd => ?_⟩
    · refine hrow.trans (next_congr ?_)
      rw [lookupFrame_of_due h]
      exact if_pos hor
    · refine ⟨⟨3, rdF u R.FWD_PROF 13 8, buildKey u (rdF u R.FWD_PROF 13 8) (frameSrc f) f.tenant, f.tenant, f.port, .learn f.id, u.dkl.free⟩,
        rfl, rfl, rfl, rfl, hrow.trans (next_congr ?_)⟩
      rw [lookupFrame_of_due h]
      refine if_neg ?_
      rintro (hw | hp | hb)
      · rw [hway] at hw
        exact absurd hw (by decide)
      · exact Bool.false_ne_true (hp.symm.trans hprof)
      · rw [Option.isNone_iff_eq_none] at hb
        rw [hb] at hbase
        exact absurd hbase (by decide)
    · refine hrow.trans (next_congr ?_)
      rw [lookupFrame_of_asked h, hd]
    · refine hrow.trans (next_congr ?_)
      rw [lookupFrame_of_asked h, hd]
  case refine_11 =>
    simp only [sourceOutcome, hnone, hq, hw, hl, Bool.true_or, Bool.false_eq_true, if_true, if_false]

end Sys2Proof.Claims
namespace Sys2Proof.Machine

open Sys2Proof.Claims

variable {s t u : State}

/-! ### Removals of a sweep -/

theorem agingStep_of_nil (h : s.fwd.marks = []) (c : Nat) : agingStep s c = s := by
  rw [agingStep, h]
  rfl

/-- The station word of a location is as a sweep marked it (R215, R217). -/
def asMarked (s : State) (loc mark : Nat) : Bool :=
  staLive (staWord s loc) && !(staWord s loc).testBit 75 && markWord (staKey (staWord s loc)) (bits (staWord s loc) 95 80) == mark

theorem agingStep_of_way {loc mark : Nat} (h : s.fwd.marks.head? = some (loc, mark)) (hloc : loc < 2 ^ 18) (c : Nat) : agingStep s c =
    if !asMarked s loc mark then unmark (clearBad s loc) loc
    else if c < s.fwd.staFree ∨ learnRam s c = true then s
    else unmark (ramWrite s loc (staClear (staWord s loc)) c) loc := by
  rw [agingStep, h]
  exact if_pos hloc

/-- The INVALIDATE of an overflow entry that a sweep marked (R217, R218). -/
def removeOvf (s : State) (loc addr c : Nat) : State :=
  let s1 := unmark (landBeat s c addr (.valid 0)) loc
  (s1.setUpd { s1.upd with free := c + 1, rank := 2 }).setFwd { s1.fwd with ageFrom := c + rdF s R.FWD_AGE_CFG 27 16 }

theorem agingStep_of_ovf {loc mark : Nat} (h : s.fwd.marks.head? = some (loc, mark)) (hloc : 2 ^ 18 ≤ loc) (c : Nat) : agingStep s c =
    match markedOvf s loc mark c with
    | none => s.setFwd { s.fwd with marks := SMap.del s.fwd.marks loc }
    | some addr => if c < s.fwd.ageFrom ∨ rank2Free s c = false then s else removeOvf s loc addr c := by
  rw [agingStep, h]
  exact if_neg (Nat.not_lt.2 hloc)

/-! ### Flushes -/

/-- A flush behind the clearing of its way entries, before BUSY is set (R220). -/
def flushed (s : State) (sel : Word) (static : Bool) (fn : Nat) : State :=
  let ok := fun (key port : Nat) (st : Bool) => flushTakes sel static key port st && reachesTenant s fn (bits key 69 60)
  let c := s.dkl.cyc
  let gone := s.fwd.sta.filter (fun e => staLive e.2 && ok (staKey e.2) (bits e.2 74 70) (e.2.testBit 75))
  let s1 := gone.foldl (fun t e => unmark (staSet t e.1 (staClear e.2)) e.1) s
  let left := match ovfBase s with
    | none => []
    | some b => ((liveOvf s c).filter (fun i =>
        let u := ovfUnit s b i c
        ok (ovfKey u) (u.ad % 32) (u.ad.testBit 5))).map (fun i => (i, ovfKey (ovfUnit s b i c)))
  let ready := max c s.fwd.staFree + gone.length
  s1.setFwd { s1.fwd with
    staFree := ready
    flushes := s1.fwd.flushes ++ [{ sel := sel, static := static, fn := fn, ready := ready, left := left }] }

theorem flush_eq (s : State) (sel : Word) (static : Bool) (fn : Nat) :
    flush s sel static fn = wrF (flushed s sel static fn) R.FWD_FLUSH_CTL 1 1 1 := rfl

theorem foldl_regs {α : Type} {f : State → α → State} (hf : ∀ t a, (f t a).regs = t.regs) (l : List α) (s : State) :
    (l.foldl f s).regs = s.regs := by
  induction l generalizing s with
  | nil => rfl
  | cons a l ih => exact (ih (f s a)).trans (hf s a)

theorem flushed_regs (s : State) (sel : Word) (static : Bool) (fn : Nat) : (flushed s sel static fn).regs = s.regs := by
  unfold flushed
  dsimp only
  rw [State.setFwd_regs]
  exact foldl_regs (fun t e => by rw [unmark_regs, staSet_regs]) _ s

theorem rdB_wrF_bit (hw : Registers.wf s.regs = true) (o : Nat) {i : Nat} (b : Bool) (hi : i < 32) : rdB (wrF s o i i (b2n b)) o i = b := by
  rw [rdB, rd_wrF_self hw, bit_setFld_bit _ _ hi]

theorem flush_busy (hw : Registers.wf s.regs = true) (sel : Word) (static : Bool) (fn : Nat) :
    rdB (flush s sel static fn) R.FWD_FLUSH_CTL 1 = true := by
  rw [flush_eq]
  exact rdB_wrF_bit (s := flushed s sel static fn) (by rw [flushed_regs]; exact hw) R.FWD_FLUSH_CTL true (by decide)

theorem learnTurn_of_flushStep {c : Nat} (hpace : s.fwd.learnFrom ≤ c) (hport : rank1Free s c = true)
    (h : flushStep s c s.fwd.flushes = some t) : learnTurn s c = t := by
  rw [learnTurn, if_pos ⟨hpace, hport⟩, h, Option.getD_some]

/-- What the INVALIDATE of the oldest flush leaves (R220). -/
theorem flushStep_cons {c addr : Nat} {j : FlushJob} {l : List FlushJob} {rest : List (Nat × Nat)} (h : flushNext s j c = some (addr, rest)) :
    ∃ t, flushStep s c (j :: l) = some t ∧ Landed s t [{ land := c, addr := addr, op := .valid 0 }] ∧ PortFreeAt t (c + 1) 1 ∧
      t.fwd.learnFrom = c + 1600 ∧ t.regs = s.regs := by
  rw [flushStep, h]
  exact ⟨_, rfl, rfl, ⟨rfl, rfl⟩, rfl, rfl⟩

/-- What the end of a flush leaves (R220). -/
theorem flushEnd_leaves (hw : Registers.wf s.regs = true) (j : FlushJob) : (flushEnd s j).fwd = { s.fwd with flushes := s.fwd.flushes.erase j } ∧
    rdB (flushEnd s j) R.FWD_FLUSH_CTL 1 = !(s.fwd.flushes.erase j).isEmpty ∧ RegsBut s (flushEnd s j) [R.FWD_FLUSH_CTL] ∧
      HwReq.cond R.FWD_STAT 68 8 [] 0 .newBits ∈ (flushEnd s j).ev.reqs := by
  have heq : flushEnd s j = ask (wrF (s.setFwd { s.fwd with flushes := s.fwd.flushes.erase j }) R.FWD_FLUSH_CTL 1 1
      (b2n (!(s.fwd.flushes.erase j).isEmpty))) [.cond R.FWD_STAT 68 8 [] 0 .newBits] := rfl
  rw [heq]
  refine ⟨rfl, ?_, regsBut_wrF (s.setFwd _) R.FWD_FLUSH_CTL 1 1 _, List.mem_append_right _ List.mem_cons_self⟩
  exact rdB_wrF_bit (s := s.setFwd _) hw R.FWD_FLUSH_CTL _ (by decide)

end Sys2Proof.Machine

namespace Sys2Proof.Claims

open Sys2Proof.Machine

variable {s t : State}

theorem execAgingRemoval_of_on {cyc : BitVec 4} (h : agingOn s = true) :
    execAgingRemoval cyc s = .next (agingStep s (s.dkl.cyc + cyc.toNat)) := next_congr (if_pos h)

theorem execFlushGo_off {fn : BitVec 6} {v : Word} (honce : AtOnce s) (hacc : accessOk s fn.toNat R.FWD_FLUSH_CTL = true) :
    execFlushGo fn v s = .next (if bit v 0 then flushGo (plainWrite s fn.toNat R.FWD_FLUSH_CTL .base v) fn.toNat
      else plainWrite s fn.toNat R.FWD_FLUSH_CTL .base v) := next_congr (hostWriteAs_off fn.toNat R.FWD_FLUSH_CTL v _ honce hacc)

/-- Settles O34: the aging tick, the removal of the first mark by its kind, the end of a sweep, and the life of a flush. -/
theorem agingAndFlush : Obligations.AgingAndFlush := by
  intro s hs
  have k := kept_main hs
  refine ⟨fun hrun hcfg => ?_, fun h => ?_, fun cyc h => ?_, fun cyc loc mark hon hm => ?_, fun hon hsw hm => ?_, fun h => ?_,
    fun fn v honce hacc => ?_, fun cyc t hheld hpace hport h => ?_, fun cyc j l addr rest hheld hpace hport hj h => ?_, fun h => ?_, fun j h => ?_⟩
  case refine_1 =>
    intro u
    have hon : (running s && rdF s R.FWD_AGE_CFG 15 0 != 0) = true := by simpa [hrun] using hcfg
    have hrow : execAgingTick s = .next (if s.fwd.sweep then setCond (u.setFwd { u.fwd with lagged := true }) R.FWD_AGE_STAT 71 1
        else startSweep u) := next_congr (if_pos hon)
    refine ⟨_, hrow, keepsMain_of_kept (execAgingTick_kept k) hrow, fun h => if_pos h, fun h => ?_⟩
    rw [if_neg (not_of_eq_false h)]
    exact ⟨rfl, rfl⟩
  case refine_2 =>
    refine next_congr (if_neg ?_)
    rcases h with h | h <;> simp [h]
  case refine_3 =>
    rcases h with h | h
    · exact next_congr (if_neg (not_of_eq_false h))
    · refine next_congr ?_
      rw [agingStep_of_nil h, ite_self]
  case refine_4 =>
    intro c x same
    have hrow := execAgingRemoval_of_on (cyc := cyc) hon
    refine ⟨fun hloc hsame hfree hram => ?_, fun hloc hsame hwait => ?_, fun hloc hsame => ?_, fun hloc hnone => ?_, fun a hloc ha hwait => ?_,
      fun a hloc ha hpace hport => ?_⟩
    case refine_1 =>
      refine hrow.trans (next_congr ((agingStep_of_way hm hloc _).trans ?_))
      refine (if_neg (not_of_eq_true hsame)).trans (if_neg ?_)
      exact fun h => h.elim (Nat.not_lt.2 hfree) fun h => Bool.false_ne_true (hram.symm.trans h)
    case refine_2 =>
      refine hrow.trans (next_congr ((agingStep_of_way hm hloc _).trans ?_))
      exact (if_neg (not_of_eq_true hsame)).trans (if_pos hwait)
    case refine_3 =>
      refine hrow.trans (next_congr ((agingStep_of_way hm hloc _).trans ?_))
      exact if_pos (not_eq_true_of_false hsame)
    case refine_4 =>
      refine hrow.trans (next_congr ((agingStep_of_ovf hm hloc _).trans ?_))
      rw [hnone]
    case refine_5 =>
      refine hrow.trans (next_congr ((agingStep_of_ovf hm hloc _).trans ?_))
      rw [ha]
      exact if_pos hwait
    case refine_6 =>
      have hgo : agingStep s c = removeOvf s loc a c := by
        rw [agingStep_of_ovf hm hloc, ha]
        exact if_neg fun h => h.elim (Nat.not_lt.2 hpace) fun h => Bool.false_ne_true (h.symm.trans hport)
      have hrow' := hrow.trans (next_congr hgo)
      exact ⟨_, hrow', keepsMain_of_kept (execAgingRemoval_kept k) hrow', rfl, ⟨rfl, rfl⟩, rfl, rfl⟩
  case refine_5 =>
    refine next_congr (if_pos ?_)
    rw [hon, hsw, hm]
    rfl
  case refine_6 =>
    refine next_congr (if_neg ?_)
    rcases h with h | h | h <;> simp [h]
  case refine_7 =>
    intro u
    have hrow := execFlushGo_off (v := v) honce hacc
    refine ⟨fun hv => ?_, fun hv hbusy => ?_, fun hv hidle => ?_⟩
    · exact hrow.trans (next_congr (if_neg (not_of_eq_false hv)))
    · exact hrow.trans (next_congr ((if_pos hv).trans (if_pos hbusy)))
    · have hrow' := hrow.trans (next_congr ((if_pos hv).trans (if_neg (not_of_eq_false hidle))))
      have hw : Registers.wf u.regs = true := (plainWrite_kept k).regs
      exact ⟨_, hrow', keepsMain_of_kept (execFlushGo_kept k) hrow', rfl, flush_busy hw _ _ _⟩
  case refine_8 =>
    exact (execLearningRequest_of_turn hheld).trans (next_congr (learnTurn_of_flushStep hpace hport h))
  case refine_9 =>
    obtain ⟨t, hstep, hlanded, hfree, hfrom, hregs⟩ := flushStep_cons (l := l) h
    rw [← hj] at hstep
    have hrow := (execLearningRequest_of_turn hheld).trans (next_congr (learnTurn_of_flushStep hpace hport hstep))
    exact ⟨t, hrow, keepsMain_of_kept (execLearningRequest_kept k) hrow, hlanded, hfree, hfrom, hregs⟩
  case refine_10 =>
    refine next_congr ?_
    rw [h]
  case refine_11 =>
    have hrow : execFlushDone s = .next (flushEnd s j) := by rw [execFlushDone, h]
    exact ⟨_, hrow, keepsMain_of_kept (execFlushDone_kept k) hrow, flushEnd_leaves hs.1 j⟩

end Sys2Proof.Claims
end

section
/-! SUPPORT. Received frames, port configuration and links, decisions and launches (chapters 07 and 08), and O35, O36 and O37. -/

namespace Sys2Proof.Machine

open Sys2Proof.Claims

variable {s t u : State}

/-! ### Reception -/

theorem execFrameReceive_of_up {port : BitVec 4} {bs : List Byte} {pcs fec : Bool} {cyc : BitVec 4} (hrun : running s = true)
    (hup : portUp s port.toNat = true) : execFrameReceive port bs pcs fec cyc s =
      .next (acceptFrame s port.toNat bs (pcs || fec) (jumboAt s port.toNat (s.dkl.cyc + cyc.toNat - frameCycles s port.toNat (bs.length - 20)))
        (match ptpOffset (bs.take (bs.length - 4)) with
          | some _ => some (stampAt s cyc.toNat (frameCycles s port.toNat (bs.length - 20)))
          | none => none)) := by
  unfold execFrameReceive
  dsimp only
  rw [hrun, hup]
  rfl

theorem execFrameReceive_of_down {port : BitVec 4} {bs : List Byte} {pcs fec : Bool} {cyc : BitVec 4}
    (h : running s = false ∨ portUp s port.toNat = false) : execFrameReceive port bs pcs fec cyc s = .next s := by
  have hoff : (running s && portUp s port.toNat) = false := by
    rw [Bool.and_eq_false_iff]
    exact h
  unfold execFrameReceive
  dsimp only
  rw [hoff]
  rfl

theorem acceptFrame_of_good {p : Nat} {bs : List Byte} {bad jumbo : Bool} {stamp : Option (Nat × Nat)} (hlong : 63 < bs.length)
    (hfits : bs.length ≤ rxLimit jumbo (fbe bs 12 2 == 0x8100))
    (hgood : (bad || leNat (bs.drop (bs.length - 4)) != crc32 (bs.take (bs.length - 4))) = false) : acceptFrame s p bs bad jumbo stamp =
      if fbe bs 12 2 = 0x8808 then s
      else if 8 * 2 ^ 20 < bufferUsed s + bs.length then portDrop s p 4
      else if fifoSize s p ≤ (s.fwd.frames.filter (fun f => f.port == p)).length then portDrop s p 3
      else classify s p (bs.take (bs.length - 4)) (bs.drop (bs.length - 4)) stamp := by
  unfold acceptFrame
  dsimp only
  rw [if_neg (Nat.not_le.2 hlong), if_neg (Nat.not_lt.2 hfits), hgood]
  rfl

theorem askFrame_fwd (s : State) (f : FrameIn) (which cls prof : Nat) (src : KeySrc) : (askFrame s f which cls prof src).fwd = s.fwd := rfl

theorem askStream_fwd (s : State) (f : FrameIn) : (askStream s f).fwd = s.fwd := rfl

/-- A frame joins its port's FIFO, and the next number is counted on. -/
theorem frame_joins (h : t.fwd = s.fwd) (f : FrameIn) :
    (t.setFwd { t.fwd with frames := t.fwd.frames ++ [f], nextId := t.fwd.nextId + 1 }).fwd.frames = s.fwd.frames ++ [f] ∧
      (t.setFwd { t.fwd with frames := t.fwd.frames ++ [f], nextId := t.fwd.nextId + 1 }).fwd.nextId = s.fwd.nextId + 1 := by
  rw [h]
  exact ⟨rfl, rfl⟩

theorem tblRead_fwdPerr (s : State) (table way i tb j : Nat) : tblRead (fwdPerr s table way i) tb j = tblRead s tb j := rfl

section Classify
variable {p vlan pcp : Nat} {tagged : Bool} {body fcs : List Byte} {stamp : Option (Nat × Nat)}

theorem classify_of_no_vlan (h : ingressTag s p body = some (vlan, pcp, tagged))
    (hv : (tblRead s 0 vlan).2 = false ∨ (tblRead s 0 vlan).1.testBit 50 = false ∨ (tblRead s 0 vlan).1.testBit p = false) :
    classify s p body fcs stamp = fwdDrop (if (tblRead s 0 vlan).2 then s else fwdPerr s 1 0 vlan) p := by
  have hfail : (!((tblRead s 0 vlan).2 && (tblRead s 0 vlan).1.testBit 50 && (tblRead s 0 vlan).1.testBit p)) = true := by
    rcases hv with h | h | h <;> simp [h]
  unfold classify
  rw [h]
  dsimp only
  rw [if_pos hfail]

theorem classify_of_no_tenant (h : ingressTag s p body = some (vlan, pcp, tagged)) (hok : (tblRead s 0 vlan).2 = true)
    (hen : (tblRead s 0 vlan).1.testBit 50 = true) (hmem : (tblRead s 0 vlan).1.testBit p = true)
    (hv : (tblRead s 1 (bits (tblRead s 0 vlan).1 49 40)).2 = false ∨ (tblRead s 1 (bits (tblRead s 0 vlan).1 49 40)).1.testBit 48 = false) :
    classify s p body fcs stamp =
      fwdDrop (if (tblRead s 1 (bits (tblRead s 0 vlan).1 49 40)).2 then s else fwdPerr s 2 0 (bits (tblRead s 0 vlan).1 49 40)) p := by
  have hfail : (!((tblRead s 1 (bits (tblRead s 0 vlan).1 49 40)).2 && (tblRead s 1 (bits (tblRead s 0 vlan).1 49 40)).1.testBit 48)) = true := by
    rcases hv with h | h <;> simp [h]
  unfold classify
  rw [h]
  dsimp only
  rw [if_pos hok, hok, hen, hmem, if_neg (by decide), if_pos hfail]

theorem classify_of_taken (h : ingressTag s p body = some (vlan, pcp, tagged)) (hok : (tblRead s 0 vlan).2 = true)
    (hen : (tblRead s 0 vlan).1.testBit 50 = true) (hmem : (tblRead s 0 vlan).1.testBit p = true)
    (htok : (tblRead s 1 (bits (tblRead s 0 vlan).1 49 40)).2 = true) (hten : (tblRead s 1 (bits (tblRead s 0 vlan).1 49 40)).1.testBit 48 = true) :
    ∃ f, (classify s p body fcs stamp).fwd.frames = s.fwd.frames ++ [f] ∧ f.id = s.fwd.nextId ∧ f.port = p ∧ f.bytes = body ∧ f.fcs = fcs ∧
      f.vlan = vlan ∧ f.pcp = pcp ∧ f.tenant = bits (tblRead s 0 vlan).1 49 40 ∧ f.stamp = stamp ∧ f.mc = mcOf s s.dkl.num 0 ∧
      f.blocked = portBlocked s p ∧ (classify s p body fcs stamp).fwd.nextId = s.fwd.nextId + 1 := by
  unfold classify
  rw [h]
  dsimp only
  rw [if_pos hok, hok, hen, hmem, if_neg (by decide), if_pos htok, htok, hten, if_neg (by decide)]
  refine ⟨_, (frame_joins ?kept _).1, rfl, rfl, rfl, rfl, rfl, rfl, rfl, rfl, rfl, rfl, (frame_joins ?kept _).2⟩
  case kept => simp only [apply_ite State.fwd, askFrame_fwd, askStream_fwd, ite_self]

end Classify

/-- Settles O35: acceptance is a chain of causes, each taken where those before it do not hold; classification reads the VLAN's and the
tenant's word. -/
theorem frameReceptionAndDrops : Obligations.FrameReceptionAndDrops := by
  unfold Obligations.FrameReceptionAndDrops
  intro s port bs pcs fec cyc hs p body fcs limit bad
  have hup : ∀ {t}, running s = true → portUp s p = true → acceptFrame s p bs (pcs || fec)
      (jumboAt s p (s.dkl.cyc + cyc.toNat - frameCycles s p (bs.length - 20))) (match ptpOffset body with
          | some _ => some (stampAt s cyc.toNat (frameCycles s p (bs.length - 20)))
          | none => none) = t → exec (.frameReceive port bs pcs fec cyc) s = .next t := fun hrun hport h =>
    (execFrameReceive_of_up hrun hport).trans (next_congr h)
  refine ⟨⟨_, rfl, keepsMain_of_kept (execFrameReceive_kept (kept_main hs)) rfl⟩, execFrameReceive_of_down, fun hrun hport =>
    ⟨fun hshort => hup hrun hport (if_pos hshort), fun hlong hover => hup hrun hport ?_, fun hlong hfits hbad => hup hrun hport ?_,
      fun hlong hfits hgood => ⟨fun hmac => hup hrun hport ?_, fun hmac hfull => hup hrun hport ?_, fun hmac hroom hfull => hup hrun hport ?_,
        fun hmac hroom hfifo => hup hrun hport ?_⟩, ?_, ?_⟩⟩
  case refine_1 => exact (if_neg (Nat.not_le.2 hlong)).trans (if_pos hover)
  case refine_2 => exact (if_neg (Nat.not_le.2 hlong)).trans ((if_neg (Nat.not_lt.2 hfits)).trans (if_pos hbad))
  case refine_3 => exact (acceptFrame_of_good hlong hfits hgood).trans (if_pos hmac)
  case refine_4 => exact (acceptFrame_of_good hlong hfits hgood).trans ((if_neg hmac).trans (if_pos hfull))
  case refine_5 =>
    exact (acceptFrame_of_good hlong hfits hgood).trans ((if_neg hmac).trans ((if_neg (Nat.not_lt.2 hroom)).trans (if_pos hfull)))
  case refine_6 =>
    exact (acceptFrame_of_good hlong hfits hgood).trans ((if_neg hmac).trans ((if_neg (Nat.not_lt.2 hroom)).trans (if_neg (Nat.not_le.2 hfifo))))
  case refine_7 =>
    intro stamp hnone
    rw [classify, hnone]
  case refine_8 =>
    intro stamp vlan pcp tagged htag
    exact ⟨classify_of_no_vlan htag, classify_of_no_tenant htag, classify_of_taken htag⟩

/-! ### Ports and links -/

/-- A port's configuration stored, with the JUMBO before it kept where it changes (R227). -/
def portCfgStored (s : State) (p : Nat) (w : Word) : State :=
  if bit (rd s (R.ETH_PORTp_CFG p)) 11 = bit w 11 then wr s (R.ETH_PORTp_CFG p) w
  else noteJumbo (wr s (R.ETH_PORTp_CFG p) w) p (bit (rd s (R.ETH_PORTp_CFG p)) 11)

theorem portCfgStored_regs (s : State) (p : Nat) (w : Word) : (portCfgStored s p w).regs = (wr s (R.ETH_PORTp_CFG p) w).regs := by
  unfold portCfgStored noteJumbo
  split
  · rfl
  · rw [State.setEth_regs]

theorem writePortCfg_of_refused {p : Nat} {w : Word} (h : running s = false ∨ portCfgOk s w = false) : writePortCfg s p w = s := by
  refine if_pos ?_
  rw [Bool.or_eq_true, Bool.not_eq_true', Bool.not_eq_true']
  exact h

theorem writePortCfg_of_too_hot {p : Nat} {w : Word} (hrun : running s = true) (hok : portCfgOk s w = true)
    (hr : powerRefusal s (portCfgStored s p w) 5 0 = some t) : writePortCfg s p w = t := by
  unfold portCfgStored at hr
  unfold writePortCfg
  dsimp only
  rw [hrun, hok, if_neg (by decide), hr]

theorem writePortCfg_of_legal {p : Nat} {w : Word} (hrun : running s = true) (hok : portCfgOk s w = true)
    (hr : powerRefusal s (portCfgStored s p w) 5 0 = none) : writePortCfg s p w =
    if fld (rd s (R.ETH_PORTp_CFG p)) 10 6 = fld w 10 6 then portCfgStored s p w else linkDown (portCfgStored s p w) p := by
  unfold portCfgStored at hr ⊢
  unfold writePortCfg
  dsimp only
  rw [hrun, hok, if_neg (by decide), hr]

theorem linkLossFlush_regs (s : State) (p : Nat) {o : Nat} (ho : o ≠ R.FWD_FLUSH_CTL) : rd (linkLossFlush s p) o = rd s o := by
  unfold linkLossFlush
  split
  · rw [flush_eq, rd_wrF_ne ho]
    exact rd_of_regs_eq (flushed_regs ..) o
  · rfl

theorem linkReg_ne_flushCtl (p : Nat) : R.ETH_PORTp_LINK p ≠ R.FWD_FLUSH_CTL := by
  rw [R.ETH_PORTp_LINK, R.FWD_FLUSH_CTL]
  omega

theorem rd_linkDown (hs : Registers.wf s.regs = true) (p : Nat) : rd (linkDown s p) (R.ETH_PORTp_LINK p) = 0 := by
  unfold linkDown
  split
  · rw [linkLossFlush_regs _ _ (linkReg_ne_flushCtl p), ethCond, setCond, request_eq_ask, rd_ask, rd_wr_self hs]
  · exact rd_wr_self hs _ _

theorem portUp_of_link_zero {p : Nat} (hp : p < 16) (h : rd s (R.ETH_PORTp_LINK p) = 0) : portUp s p = false := by
  have hbit : rdB s (R.ETH_PORTp_LINK p) 0 = false := by
    rw [rdB, h]
    rfl
  rw [portUp, if_pos hp, hbit, Bool.false_and]

theorem linkUp_word (n e fec : Nat) : 3 + b2n (decide (n ≠ 0)) * 4 + fec * e = 3 + (if n ≠ 0 then 4 else 0) + fec * e := by
  by_cases h : n = 0 <;> simp [h, b2n]

theorem execUncorrectableCodeword_of_running {port : BitVec 5} (h : running s = true) : execUncorrectableCodeword port s =
    .next (if port.toNat < 16 then (if portUp s port.toNat then ethCond s port.toNat 3 else s)
      else if port.toNat < 20 then (if rdF s (R.EDL_PORTn_LINK (port.toNat - 16)) 2 0 = 4 then edlCond s (port.toNat - 16) 5 else s)
      else s) := by
  unfold execUncorrectableCodeword
  dsimp only
  rw [h, if_neg (by decide)]

/-- Settles O36: each row is one chain of guards. -/
theorem ethernetPortsComeAndGo : Obligations.EthernetPortsComeAndGo := by
  unfold Obligations.EthernetPortsComeAndGo
  intro s hs
  have k := kept_main hs
  refine ⟨fun fn p v => ?_, fun p fec => ?_, fun p => ?_, fun p => ?_, fun port => ?_⟩
  case refine_1 =>
    intro o w u
    refine ⟨fun h => next_congr (if_neg (not_of_eq_false h)), fun hacc => ?_⟩
    have hrow : ∀ {t}, writePortCfg s p.toNat w = t → exec (.ethPortCfgWrite fn p v) s = .next t := fun h =>
      next_congr ((if_pos hacc).trans h)
    have hu : u = portCfgStored s p.toNat w := rfl
    rw [hu]
    refine ⟨fun h => hrow (writePortCfg_of_refused h), fun r hrun hok hr => hrow (writePortCfg_of_too_hot hrun hok hr), fun hrun hok hr hsame => ?_, fun hrun hok hr hdiff => ?_⟩
    case refine_1 =>
      have hgo := hrow ((writePortCfg_of_legal hrun hok hr).trans (if_pos hsame))
      have hregs := portCfgStored_regs s p.toNat w
      exact ⟨_, hgo, keepsMain_of_kept (execEthPortCfgWrite_kept k) hgo, rfl, (rd_of_regs_eq hregs o).trans (rd_wr_self hs.1 o w),
        (regsBut_wr s o w).of_regs_eq hregs⟩
    case refine_2 =>
      have hgo := hrow ((writePortCfg_of_legal hrun hok hr).trans (if_neg hdiff))
      refine ⟨_, hgo, keepsMain_of_kept (execEthPortCfgWrite_kept k) hgo, rfl, rd_linkDown ?_ _⟩
      rw [portCfgStored_regs]
      exact wf_wr hs.1 _ _
  case refine_2 =>
    intro cfg
    refine ⟨fun hrun href hen hmode hpres hdown => ?_, fun h => next_congr (if_neg ?_)⟩
    case refine_1 =>
      have hrow : exec (.ethLinkUp p fec) s = .next (ethCond (wr s (R.ETH_PORTp_LINK p.toNat)
          (BitVec.ofNat 32 (3 + b2n (decide (fld cfg 7 6 ≠ 0)) * 4 + resolveFec s p.toNat (min 2 fec.toNat) * 8))) p.toNat 0) := by
        refine next_congr (if_pos ?_)
        rw [hrun, href, hpres, hdown, hen, decide_eq_true hmode]
        rfl
      rw [linkUp_word] at hrow
      exact ⟨_, hrow, keepsMain_of_kept (execEthLinkUp_kept k) hrow, regsBut_wr s _ _, rd_wr_self hs.1 _ _,
        List.mem_append_right _ (List.mem_singleton_self _)⟩
    case refine_2 =>
      rw [Bool.not_eq_true]
      rcases h with h | h | h | h | h | h <;> simp [h, cfg]
  case refine_3 =>
    refine ⟨fun hrun => ?_, fun h => next_congr (if_neg (not_of_eq_false h))⟩
    have hrow : exec (.ethLinkDown p) s = .next (linkDown s p.toNat) := next_congr (if_pos hrun)
    exact ⟨_, hrow, keepsMain_of_kept (execEthLinkDown_kept k) hrow, rfl, rd_linkDown hs.1 _, portUp_of_link_zero p.isLt (rd_linkDown hs.1 _)⟩
  case refine_4 =>
    intro cfg
    refine ⟨fun hrun hen han hdown => next_congr (if_pos ?_), fun h => next_congr (if_neg ?_)⟩
    case refine_1 =>
      rw [hrun, hdown, hen, decide_eq_true han]
      rfl
    case refine_2 =>
      rw [Bool.not_eq_true]
      rcases h with h | h | h | h <;> simp [h, cfg]
  case refine_5 =>
    refine ⟨fun hrun hp hup => ?_, fun hrun hp hp' hlink => ?_, fun h => ?_⟩
    case refine_1 => exact (execUncorrectableCodeword_of_running hrun).trans (next_congr ((if_pos hp).trans (if_pos hup)))
    case refine_2 =>
      exact (execUncorrectableCodeword_of_running hrun).trans (next_congr ((if_neg (Nat.not_lt.2 hp)).trans ((if_pos hp').trans (if_pos hlink))))
    case refine_3 =>
      by_cases hrun : running s = true
      · rw [exec, execUncorrectableCodeword_of_running hrun]
        rcases h with h | h | ⟨hp, h⟩
        · exact absurd hrun (not_of_eq_false h)
        · exact next_congr ((if_neg (by omega)).trans (if_neg (Nat.not_lt.2 h)))
        · exact next_congr ((if_pos hp).trans (if_neg (not_of_eq_false h)))
      · exact next_congr (if_pos (not_eq_true_of_false (Bool.eq_false_iff.2 hrun)))

/-! ### Decisions -/

/-- What is kept by the commands that may write the deep store. -/
def Keep.butStore (s : State) : Keep := { Keep.main s with mem := fun _ => True }

theorem kept_butStore (hs : Canonical s) : Kept (Keep.butStore s) s := ⟨rfl, hs.1, hs.2, rfl, rfl, trivial, trivial, trivial⟩

theorem Kept.keepsButStore (h : Kept (Keep.butStore s) t) : KeepsButStore s t := ⟨h.queue, h.dev, h.num, h.regs, h.mem⟩

/-- The flood that a source lookup asked for. -/
def floods (f : FrameIn) : Bool := match f.src with | .done b _ => b | _ => false

/-- The decision of a frame that is not dropped, in the state in which the bad words it met are reported (R197, R198). -/
def decisionOf (u : State) (f : FrameIn) : Decision :=
  if floods f then floodDecision u f
  else match streamHit u f with
    | some (_, false) => .drop
    | _ => destDecision u f

section Decide
variable {f : FrameIn}

theorem decideFrame_of_blocked (h : f.blocked = true ∨ portBlocked s f.port = true) : decideFrame s f = retireFrame (toHostPort s f 6) f :=
  if_pos (by rwa [Bool.or_eq_true])

theorem decideFrame_of_dropped (hb : f.blocked = false) (hp : portBlocked s f.port = false) {fl : Bool} (h : f.src = .done fl true) :
    decideFrame s f = retireFrame (fwdDrop s f.port) f := by
  unfold decideFrame
  dsimp only
  rw [hb, hp, h, if_neg (by decide), if_pos rfl]

theorem decideFrame_of_badEntry (hb : f.blocked = false) (hp : portBlocked s f.port = false) (hsrc : ∀ fl, f.src ≠ .done fl true)
    {tb i : Nat} (hbad : badEntry s f = some (tb, i)) : decideFrame s f = retireFrame (fwdDrop (fwdPerr s tb 0 i) f.port) f := by
  unfold decideFrame
  dsimp only
  rw [hb, hp, if_neg (by decide), if_neg ?kept, hbad]
  case kept => split <;> simp_all

theorem decideFrame_of_decision (hb : f.blocked = false) (hp : portBlocked s f.port = false) (hsrc : ∀ fl, f.src ≠ .done fl true)
    (hbad : badEntry s f = none) : decideFrame s f =
    match decisionOf (decisionPerr s f) f with
    | .ask g => putFrame (askFrame (decisionPerr s f) g 4 0 (rdF (decisionPerr s f) R.FWD_PROF 5 0) (frameSrc g)) { f with asked := f.asked ++ [4] }
    | d => retireFrame (carryDecision (match streamHit (decisionPerr s f) f with
        | some (n, _) => rxPacket (decisionPerr s f) n f.port f.mc f.bytes f.l4off
        | none => decisionPerr s f) f (streamHit (decisionPerr s f) f).isSome d) f := by
  unfold decideFrame decisionOf floods
  dsimp only
  rw [hb, hp, if_neg (by decide), if_neg ?kept, hbad]
  case kept => split <;> simp_all
  all_goals rfl

theorem decideFrame_of_carried (hb : f.blocked = false) (hp : portBlocked s f.port = false) (hsrc : ∀ fl, f.src ≠ .done fl true)
    (hbad : badEntry s f = none) (hd : ∀ g, decisionOf (decisionPerr s f) f ≠ .ask g) : decideFrame s f =
    retireFrame (carryDecision (match streamHit (decisionPerr s f) f with
        | some (n, _) => rxPacket (decisionPerr s f) n f.port f.mc f.bytes f.l4off
        | none => decisionPerr s f) f (streamHit (decisionPerr s f) f).isSome (decisionOf (decisionPerr s f) f)) f := by
  rw [decideFrame_of_decision hb hp hsrc hbad]
  cases h : decisionOf (decisionPerr s f) f with
  | ask g => exact absurd h (hd g)
  | send => rfl
  | drop => rfl

end Decide

/-! ### Launches -/

theorem streamSent_eq (s : State) (f : EgFrame) : streamSent s f = s.setStrm (streamSent s f).strm := by
  unfold streamSent
  split
  · split <;> rfl
  · rfl

theorem txStamp_sent (s : State) (f : EgFrame) (p c : Nat) : txStamp (streamSent (dequeue s f) f) p c = txStamp s p c := by
  rw [streamSent_eq]
  rfl

theorem frameCycles_sent (s : State) (f : EgFrame) (p n : Nat) : frameCycles (streamSent (dequeue s f) f) p n = frameCycles s p n := by
  rw [streamSent_eq]
  rfl

theorem rdB_sent (s : State) (f : EgFrame) (o i : Nat) : rdB (streamSent (dequeue s f) f) o i = rdB s o i := by
  rw [streamSent_eq]
  rfl

theorem sent_parts (s : State) (f : EgFrame) : (streamSent (dequeue s f) f).dkl = s.dkl ∧ (streamSent (dequeue s f) f).out = s.out ∧
    (streamSent (dequeue s f) f).eth = { s.eth with egress := s.eth.egress.erase f } := by
  rw [streamSent_eq]
  exact ⟨rfl, rfl, rfl⟩

theorem sendFrame_of_unowned {p c : Nat} {f : EgFrame} (h : f.host = none) :
    (sendFrame s p c f).eth = { s.eth with idle := SMap.put s.eth.idle p (s.dkl.cyc + c + frameCycles s p (f.bytes.length + 4)) } ∧
    (sendFrame s p c f).out = s.out ++ [.frame p (withFcs (match f.ingress with
      | some i => if rdB s R.TB_TC 0 then correctFrame f.bytes i (txStamp s p c) else f.bytes
      | none => f.bytes) f.bad)] := by
  unfold sendFrame
  rw [h]
  cases f.bad <;> exact ⟨rfl, rfl⟩

theorem portUp_lt {p : Nat} (h : portUp s p = true) : p < 20 := by
  unfold portUp at h
  split at h
  · omega
  · exact of_decide_eq_true ((Bool.and_eq_true _ _).mp h).1

section Launch
variable {port : BitVec 5} {cyc : BitVec 4} {bad : Bool}

theorem execFrameLaunch_of_idle (h : running s = false ∨ portUp s port.toNat = false ∨ s.dkl.cyc + cyc.toNat < SMap.getD s.eth.idle port.toNat 0 ∨
    nextFrame s port.toNat cyc.toNat = none) : execFrameLaunch port cyc bad s = .next s := by
  refine next_congr ?_
  rcases h with h | h | h | h
  · exact if_neg (by simp [h])
  · exact if_neg (by simp [h])
  · exact if_neg (by simp [h])
  · dsimp only
    rw [h]
    exact ite_self s

theorem execFrameLaunch_of_next {f : EgFrame} (hrun : running s = true) (hup : portUp s port.toNat = true)
    (hidle : SMap.getD s.eth.idle port.toNat 0 ≤ s.dkl.cyc + cyc.toNat) (hnext : nextFrame s port.toNat cyc.toNat = some f) :
    execFrameLaunch port cyc bad s = .next (if port.toNat < 16 then
        sendFrame (streamSent (dequeue s f) f) port.toNat cyc.toNat { f with bad := f.bad || bad }
      else if (edlTx s (port.toNat - 16)).frames.any (fun x => x.cls == 6) then s
      else
        let u := sendTunnel (streamSent (dequeue s f) f) (port.toNat - 16) (withFcs f.bytes (f.bad || bad))
        match f.host with
        | some (ch, w) => txComplete u ch (BitVec.ofNat 32 w) none
        | none => u) := by
  unfold execFrameLaunch
  dsimp only
  rw [hrun, hup, decide_eq_true (portUp_lt hup), decide_eq_true hidle, hnext, if_pos (by decide)] <;> rfl

end Launch

/-- Settles O37: the decision and the launch are read off their case distinctions. -/
theorem framesAreDecidedAndLaunched : Obligations.FramesAreDecidedAndLaunched := by
  unfold Obligations.FramesAreDecidedAndLaunched
  intro s hs
  have k := kept_main hs
  refine ⟨fun port h => ?_, fun port f hf => ⟨fun hrun hready => ?_, fun h => ?_⟩, fun f h => decideFrame_of_blocked h, fun f hb hp => ?_, fun port cyc bad => ?_⟩
  case refine_1 =>
    refine next_congr ?_
    rw [h]
  case refine_2 =>
    have hrow : exec (.forwardDecision port) s = .next (decideFrame s f) := by
      refine next_congr ?_
      rw [hf]
      exact if_pos (by rw [hrun, hready]; rfl)
    exact ⟨_, hrow, ((execForwardDecision_kept (kept_butStore hs) fun _ _ _ _ => trivial).kept _ hrow).keepsButStore, rfl⟩
  case refine_3 =>
    refine next_congr ?_
    rw [hf]
    refine if_neg ?_
    rw [Bool.not_eq_true, Bool.and_eq_false_iff]
    exact h
  case refine_4 =>
    intro flood u hit d
    refine ⟨fun fl h => decideFrame_of_dropped hb hp h, fun hsrc => ⟨fun tb i hbad => decideFrame_of_badEntry hb hp hsrc hbad,
      fun g hbad hd => ?_, fun hbad hd hhit => ?_, fun n pass hbad hd hhit => ?_⟩⟩
    case refine_1 =>
      have hd : decisionOf u f = .ask g := hd
      rw [decideFrame_of_decision hb hp hsrc hbad, hd]
    case refine_2 =>
      have hhit : streamHit u f = none := hhit
      rw [decideFrame_of_carried hb hp hsrc hbad hd, hhit]
      rfl
    case refine_3 =>
      have hhit : streamHit u f = some (n, pass) := hhit
      rw [decideFrame_of_carried hb hp hsrc hbad hd, hhit]
      rfl
  case refine_5 =>
    intro p c
    refine ⟨execFrameLaunch_of_idle, fun f hrun hup hidle hnext => ⟨fun hp => ?_, fun hp hp' hwait => ?_, fun hp hp' hfree => ?_⟩⟩
    case refine_1 =>
      have hrow := (execFrameLaunch_of_next (bad := bad) hrun hup hidle hnext).trans (next_congr (if_pos hp))
      refine ⟨_, hrow, keepsMain_of_kept (execFrameLaunch_kept k) hrow, rfl, fun hhost => ?_⟩
      obtain ⟨heth, hout⟩ := sendFrame_of_unowned (s := streamSent (dequeue s f) f) (p := p) (c := c) (f := { f with bad := f.bad || bad }) hhost
      obtain ⟨hdkl, hold, hq⟩ := sent_parts s f
      rw [heth, hout, hold, hdkl, hq, txStamp_sent, frameCycles_sent, rdB_sent]
      exact ⟨rfl, rfl, rfl⟩
    case refine_2 =>
      exact (execFrameLaunch_of_next (bad := bad) hrun hup hidle hnext).trans (next_congr ((if_neg (Nat.not_lt.2 hp)).trans (if_pos hwait)))
    case refine_3 =>
      have hrow := (execFrameLaunch_of_next (bad := bad) hrun hup hidle hnext).trans
        (next_congr ((if_neg (Nat.not_lt.2 hp)).trans (if_neg (not_of_eq_false hfree))))
      refine ⟨⟨_, hrow, keepsMain_of_kept (execFrameLaunch_kept k) hrow⟩, fun hhost => hrow.trans (next_congr ?_),
        fun ch w hhost => hrow.trans (next_congr ?_)⟩
      all_goals rw [hhost]

end Sys2Proof.Machine
end

section
/-! SUPPORT. The cue sequencers (chapter 13), and O47 to O51. -/

namespace Sys2Proof.Machine

open Sys2Proof.Claims

variable {s t u : State} {n : Nat}

/-! ### What a sequencer holds, and its state register -/

theorem setSeq_regs (s : State) (n : Nat) (x : SeqSt) : (setSeq s n x).regs = s.regs := rfl

theorem rd_setSeqSt (s : State) (n : Nat) (x : SeqSt) (o : Nat) : rd (setSeq s n x) o = rd s o := rfl

theorem seqState_setSeq (s : State) (m : Nat) (x : SeqSt) (n : Nat) : seqState (setSeq s m x) n = seqState s n := rfl

theorem seqPc_setSeq (s : State) (m : Nat) (x : SeqSt) (n : Nat) : seqPc (setSeq s m x) n = seqPc s n := rfl

theorem seqSt_setSeq (s : State) (n : Nat) (x : SeqSt) : seqSt (setSeq s n x) n = x := by
  rw [seqSt, setSeq, SMap.getD, State.setSeq_seq, SMap.get_put_same, Option.getD_some]

theorem seqSt_congr (h : t.seq = s.seq) (n : Nat) : seqSt t n = seqSt s n := by rw [seqSt, seqSt, h]

theorem seqSt_seqEnter (s : State) (m st pc n : Nat) : seqSt (seqEnter s m st pc) n = seqSt s n := rfl

theorem seqSt_wr (s : State) (o : Nat) (w : Word) (n : Nat) : seqSt (wr s o w) n = seqSt s n := rfl

theorem seqState_congr (h : rd t (R.SEQn_STATE n) = rd s (R.SEQn_STATE n)) : seqState t n = seqState s n := rdF_congr h

theorem seqPc_congr (h : rd t (R.SEQn_STATE n) = rd s (R.SEQn_STATE n)) : seqPc t n = seqPc s n := rdF_congr h

theorem seqState_seqEnter (hw : Registers.wf s.regs = true) (n pc : Nat) {st : Nat} (hst : st < 8) : seqState (seqEnter s n st pc) n = st := by
  rw [seqState, rdF, seqEnter, rd_wr_self hw, fld_setFld_same _ _ (by decide) (by decide)]
  exact Nat.mod_eq_of_lt hst

theorem seqPc_seqEnter (hw : Registers.wf s.regs = true) (n st pc : Nat) : seqPc (seqEnter s n st pc) n = pc % 2 ^ 17 := by
  rw [seqPc, rdF, seqEnter, rd_wr_self hw, fld_setFld_of_disjoint _ _ (by decide) (by decide) (by decide),
    fld_setFld_same _ _ (by decide) (by decide)]

theorem seqSt_counted (s : State) (n : Nat) : seqSt (Counted s n) n = { seqSt s n with count := (seqSt s n).count + 1 } := seqSt_setSeq ..

theorem vk_ne_state (n k : Nat) : R.SEQn_Vk n k ≠ R.SEQn_STATE n := by
  rw [R.SEQn_Vk, R.SEQn_STATE]
  omega

theorem cond_ne_state (m n : Nat) : R.SEQn_COND m ≠ R.SEQn_STATE n := by
  rw [R.SEQn_COND, R.SEQn_STATE]
  omega

theorem ctl_ne_state (m n : Nat) : R.SEQn_CTL m ≠ R.SEQn_STATE n := by
  rw [R.SEQn_CTL, R.SEQn_STATE]
  omega

/-! ### An instruction's turn -/

theorem seqGo_of_ready {op : Nat} (h : SeqReady s n op) (f : Word → Nat → State → State) :
    seqGo s n op f = f (seqWord s n) (seqPc s n) (Counted s n) := by
  obtain ⟨hrun, hst, hyield, hcount, hevt, hop⟩ := h
  refine if_pos ?_
  rw [hrun, hst, hyield, decide_eq_true hcount, hevt, hop]
  simp

theorem seqGo_of_not_ready {op : Nat} (h : ¬ SeqReady s n op) (f : Word → Nat → State → State) : seqGo s n op f = s := by
  refine if_neg fun hgo => h ?_
  simp only [Bool.and_eq_true, beq_iff_eq, Bool.not_eq_true', decide_eq_true_eq] at hgo
  obtain ⟨⟨⟨⟨⟨hrun, hst⟩, hyield⟩, hcount⟩, hevt⟩, hop⟩ := hgo
  exact ⟨hrun, hst, hyield, hcount, hevt, hop⟩

section Rows
variable {x : Host.Outcome State Fault Refusal} {pc : Nat} {os : List Nat}

theorem seqGoesTo_of_row (k : KeptN (Keep.main s) x) (hrow : x = .next (seqEnter u n 1 pc)) (hw : Registers.wf u.regs = true)
    (hseq : u.seq = (Counted s n).seq) (hregs : RegsBut s u os) : SeqGoesTo s (seqEnter u n 1 pc) u n pc os := by
  refine ⟨rfl, keepsMain_of_kept k hrow, seqPc_seqEnter hw n 1 pc, seqState_seqEnter hw n pc (by decide), ?_, ?_⟩
  case refine_1 =>
    rw [seqSt_seqEnter, seqSt_congr hseq, seqSt_counted]
  case refine_2 =>
    exact (hregs.mono (List.subset_cons_self _ _)).wr (List.mem_cons_self ..) _

theorem goes_of_row (k : KeptN (Keep.main s) x) (hrow : x = .next (seqEnter u n 1 pc)) (hw : Registers.wf u.regs = true)
    (hseq : u.seq = (Counted s n).seq) (hregs : RegsBut s u os) : ∃ t, x = .next t ∧ SeqGoesTo s t u n pc os :=
  ⟨_, hrow, seqGoesTo_of_row k hrow hw hseq hregs⟩

theorem sends_of_row {a : HwAct} (hs : Canonical s) (k : KeptN (Keep.main s) x)
    (hrow : x = .next (seqEnter (later (Counted s n) (256 + n) a) n 1 (seqPc s n + 1))) : ∃ t, x = .next t ∧ SeqSends s t n a :=
  ⟨_, hrow, seqGoesTo_of_row k hrow hs.1 rfl (regsBut_refl s []), rfl⟩

theorem sets_of_row {v : Word} (hs : Canonical s) (k : KeptN (Keep.main s) x)
    (hrow : x = .next (seqEnter (wr (Counted s n) (R.SEQn_Vk n (fld (seqWord s n) 22 20)) v) n 1 (seqPc s n + 1))) :
    ∃ t, x = .next t ∧ SeqSets s t n v := by
  refine ⟨_, hrow, rfl, keepsMain_of_kept k hrow, ?_, seqPc_seqEnter (wf_wr hs.1 _ _) _ _ _, seqState_seqEnter (wf_wr hs.1 _ _) _ _ (by decide), ?_, ?_⟩
  case refine_1 =>
    rw [seqEnter, rd_wr_ne _ _ (vk_ne_state _ _)]
    exact rd_wr_self hs.1 _ _
  case refine_2 =>
    rw [seqSt_seqEnter, seqSt_wr, seqSt_counted]
  case refine_3 =>
    exact ((regsBut_wr s _ v).mono (List.cons_subset_cons _ (List.nil_subset _))).wr (List.mem_cons_of_mem _ (List.mem_singleton_self _)) _

theorem rests_of_row {st : Nat} {r : SeqSt} (hs : Canonical s) (k : KeptN (Keep.main s) x) (hst : st < 8)
    (hrow : x = .next (setSeq (seqEnter (Counted s n) n st pc) n r)) : ∃ t, x = .next t ∧ SeqRests s t n st pc r :=
  ⟨_, hrow, rfl, keepsMain_of_kept k hrow, seqPc_seqEnter (s := Counted s n) hs.1 n st pc, seqState_seqEnter (s := Counted s n) hs.1 n pc hst, seqSt_setSeq ..,
    regsBut_wr s _ _⟩

end Rows

/-! ### Immediates, comparisons and inputs -/

theorem seqImm_eq (w : Word) : (BitVec.ofNat 16 (fld w 15 0)).signExtend 32 = seqImm w := by
  rw [BitVec.signExtend, seqImm, BitVec.toInt_eq_toNat_cond, BitVec.toNat_ofNat, sext]
  congr 1
  split <;> split <;> omega

theorem append_low_half (w : Word) (m : Nat) : (BitVec.ofNat 16 m ++ w.extractLsb' 0 16 : BitVec 32) = setFld w 31 16 m := by
  refine word_ext fun i hi => ?_
  rw [bit_setFld _ _ (by decide) (by decide)]
  show BitVec.getLsbD _ i = _
  rw [BitVec.getLsbD_append, BitVec.getLsbD_ofNat, BitVec.getLsbD_extractLsb']
  by_cases h : i < 16
  · rw [if_pos h, if_neg (by omega), decide_eq_true h, Bool.true_and, Nat.zero_add]
    rfl
  · rw [if_neg h, if_pos (by omega), decide_eq_true (by omega), Bool.true_and]

theorem brTaken_spec (x y : Word) : brTaken 0 x y = true ∧ (brTaken 1 x y = true ↔ x = y) ∧ (brTaken 2 x y = true ↔ x ≠ y) ∧
    (brTaken 3 x y = true ↔ x.toInt < y.toInt) ∧ (brTaken 4 x y = true ↔ y.toInt ≤ x.toInt) ∧ (brTaken 5 x y = true ↔ x.toNat < y.toNat) ∧
    (brTaken 6 x y = true ↔ y.toNat ≤ x.toNat) :=
  ⟨rfl, beq_iff_eq, bne_iff_ne, decide_eq_true_iff, decide_eq_true_iff, decide_eq_true_iff, decide_eq_true_iff⟩

theorem seqInput_counted (s : State) (n : Nat) (w : Word) : seqInput (Counted s n) n w = seqInput s n w := rfl

theorem seqInput_spec (s : State) (n : Nat) (w : Word) : (fld w 11 8 = 0 → seqInput s n w = BitVec.ofNat 32 s.dkl.num) ∧
    (fld w 11 8 = 1 → seqInput s n w = rd s (R.SEQn_COND n)) ∧ (fld w 11 8 = 2 → seqInput s n w = rd s (R.SEQn_ZSIG n)) ∧
    (fld w 11 8 = 3 → seqInput s n w = BitVec.ofNat 32 (dciTaken s)) ∧ (fld w 11 8 = 4 → seqInput s n w = BitVec.ofNat 32 s.inp.samp) ∧
    (fld w 11 8 = 5 → seqInput s n w = BitVec.ofNat 32 (s.inp.samp / 2 ^ 32)) ∧
    (fld w 11 8 = 6 → seqInput s n w = BitVec.ofNat 32 (SMap.getD s.ptr.flags (fld w 6 0) 0)) ∧ (fld w 11 8 = 7 → seqInput s n w = flagsNow s n) ∧
    (fld w 11 8 = 8 → seqInput s n w = BitVec.ofNat 32 (sceneEpoch s)) ∧ (fld w 11 8 = 9 → seqInput s n w = playerStat s (fld w 5 0)) := by
  unfold seqInput
  refine ⟨?_, ?_, ?_, ?_, ?_, ?_, ?_, ?_, ?_, ?_⟩ <;> intro h <;> rw [h] <;> rfl

/-- Settles O47: each row is one write of a value register and the step to the next word. -/
theorem sequencerComputes : Obligations.SequencerComputes := by
  unfold Obligations.SequencerComputes
  intro s n hs i w imm a b
  have k := kept_main hs
  refine ⟨fun h => ?_, fun h => ?_, fun h => ?_, fun x y => ⟨rfl, rfl, rfl, rfl, rfl, rfl, rfl⟩, fun h => ?_, fun h => ?_, fun q hq h => ?_⟩
  case refine_1 =>
    rw [show imm = seqImm w from seqImm_eq w]
    exact sets_of_row hs (execLdi_kept k) (next_congr (seqGo_of_ready h _))
  case refine_2 =>
    rw [append_low_half]
    exact sets_of_row hs (execLdih_kept k) (next_congr (seqGo_of_ready h _))
  case refine_3 => exact sets_of_row hs (execAlu_kept k) (next_congr (seqGo_of_ready h _))
  case refine_4 =>
    rw [show imm = seqImm w from seqImm_eq w]
    exact sets_of_row hs (execAddi_kept k) (next_congr (seqGo_of_ready h _))
  case refine_5 =>
    obtain ⟨t, hrow, hsets⟩ := sets_of_row (v := seqInput s i w) hs (execRdin_kept k) (next_congr (seqGo_of_ready h _))
    exact ⟨t, _, hrow, hsets, rfl, seqInput_spec s i w⟩
  case refine_6 =>
    simp only [List.mem_cons, List.not_mem_nil, or_false] at hq
    rcases hq with rfl | rfl | rfl | rfl | rfl
    all_goals exact next_congr (seqGo_of_not_ready h _)

/-- Settles O48: each row goes on at the word it names. -/
theorem sequencerBranches : Obligations.SequencerBranches := by
  unfold Obligations.SequencerBranches
  intro s n hs i w pc a b
  have k := kept_main hs
  have stays := regsBut_refl s []
  refine ⟨fun h => ?_, fun h => ?_, fun h => ?_, brTaken_spec, fun h => ?_, fun h => ?_, fun h => ?_, fun src x v => rfl, fun q hq h => ?_⟩
  case refine_1 => exact goes_of_row (execNop_kept k) (next_congr (seqGo_of_ready h _)) hs.1 rfl stays
  case refine_2 => exact rests_of_row hs (execYieldRow_kept k) (by decide) (next_congr (seqGo_of_ready h _))
  case refine_3 => exact goes_of_row (execBr_kept k) (next_congr (seqGo_of_ready h _)) hs.1 rfl stays
  case refine_4 =>
    have hrow : exec (.brb n) s = .next (seqEnter (Counted s i) i 1 (if bit b (fld w 24 20) == bit w 25 then fld w 16 0 else pc + 1)) :=
      next_congr (seqGo_of_ready h _)
    simp only [beq_iff_eq] at hrow
    exact goes_of_row (execBrb_kept k) hrow hs.1 rfl stays
  case refine_5 =>
    obtain ⟨t, hrow, hgoes⟩ := goes_of_row (execClrc_kept k) (next_congr (seqGo_of_ready h _)) (wf_wr hs.1 _ _) rfl (regsBut_wr s _ _)
    refine ⟨t, hrow, hgoes, ?_⟩
    rw [hgoes.1, seqEnter, rd_wr_ne _ _ (cond_ne_state _ _)]
    exact rd_wr_self hs.1 _ _
  case refine_6 => exact sends_of_row hs (execFlags_kept k) (next_congr (seqGo_of_ready h _))
  case refine_7 =>
    simp only [List.mem_cons, List.not_mem_nil, or_false] at hq
    rcases hq with rfl | rfl | rfl | rfl | rfl | rfl
    all_goals exact next_congr (seqGo_of_not_ready h _)

/-! ### Rows that name one thing a boundary does -/

/-- A row that names one thing a boundary does is the boundary where that thing stands, and else nothing. -/
theorem boundaryRow {x : Host.Outcome State Fault Refusal} {cause : Bool} (hs : Canonical s) (hrow : x = .next (boundaryFor s cause)) :
    (boundaryDue s = true → cause = true → x = .next (boundary s [])) ∧
    (GoesOn s → cause = true → x = .next (boundaryClosed s (stepRest (boundaryMarked s)))) ∧
    ((boundaryDue s = false ∨ cause = false) → x = .next s) := by
  have hdo : boundaryDue s = true → cause = true → boundaryFor s cause = boundary s [] := fun hdue hc =>
    if_pos (by rw [hdue, hc]; rfl)
  refine ⟨fun hdue hc => hrow.trans (next_congr (hdo hdue hc)), fun hgo hc => hrow.trans (next_congr ?_), fun h => hrow.trans (next_congr (if_neg ?_))⟩
  case refine_1 => exact (hdo hgo.1 hc).trans (boundary_of_goesOn hs hgo)
  case refine_2 =>
    rw [Bool.not_eq_true, Bool.and_eq_false_iff]
    exact h

/-! ### The end of a wait -/

theorem seqState_wrF_state (hw : Registers.wf s.regs = true) (n : Nat) {st : Nat} (hst : st < 8) :
    seqState (wrF s (R.SEQn_STATE n) 2 0 st) n = st := by
  rw [seqState, rdF_wrF_self hw _ _ (by decide) (by decide)]
  exact Nat.mod_eq_of_lt hst

theorem seqPc_wrF_state (hw : Registers.wf s.regs = true) (n st : Nat) : seqPc (wrF s (R.SEQn_STATE n) 2 0 st) n = seqPc s n := by
  rw [seqPc, rdF, rd_wrF_self hw, fld_setFld_of_disjoint _ _ (by decide) (by decide) (by decide)]
  rfl

theorem rd_seqResume (s : State) (n : Nat) {o : Nat} (ho : o ≠ R.SEQn_STATE n) : rd (seqResume s n) o = rd s o := rd_wrF_ne ho

theorem regsBut_seqResume (s : State) (n : Nat) : RegsBut s (seqResume s n) [R.SEQn_STATE n] := regsBut_wrF s _ _ _ _

/-- A wait that has ended: RUN, at the same word, without a limit. -/
theorem seqResume_leaves (hw : Registers.wf s.regs = true) (n : Nat) : seqState (seqResume s n) n = 1 ∧ seqPc (seqResume s n) n = seqPc s n ∧
    (seqSt (seqResume s n) n).until_ = none := by
  refine ⟨seqState_wrF_state hw n (by decide), seqPc_wrF_state hw n 1, ?_⟩
  rw [seqResume, seqSt_setSeq]

/-- The conditions of a WAITE that ends (R362). -/
def waiteCond (s : State) (n : Nat) (tmo : Bool) : Word :=
  (if (seqSt s n).clr then rd s (R.SEQn_COND n) &&& ~~~(BitVec.ofNat 32 (seqSt s n).mask) else rd s (R.SEQn_COND n)) ||| (if tmo then 0x40000000 else 0)

theorem waiteEnd_eq (s : State) (n : Nat) (tmo : Bool) : waiteEnd s n tmo = seqResume (wr s (R.SEQn_COND n) (waiteCond s n tmo)) n := by
  unfold waiteEnd waiteCond
  cases tmo
  · dsimp only
    rw [if_neg Bool.false_ne_true, if_neg Bool.false_ne_true, show ∀ w : Word, w ||| 0 = w from fun _ => BitVec.or_zero]
  · rfl

theorem waiteEnd_leaves (hw : Registers.wf s.regs = true) (n : Nat) (tmo : Bool) :
    (seqState (waiteEnd s n tmo) n = 1 ∧ seqPc (waiteEnd s n tmo) n = seqPc s n ∧ (seqSt (waiteEnd s n tmo) n).until_ = none) ∧
    RegsBut s (waiteEnd s n tmo) [R.SEQn_STATE n, R.SEQn_COND n] ∧ rd (waiteEnd s n tmo) (R.SEQn_COND n) = waiteCond s n tmo := by
  rw [waiteEnd_eq]
  obtain ⟨hst, hpc, hun⟩ := seqResume_leaves (s := wr s (R.SEQn_COND n) (waiteCond s n tmo)) (wf_wr hw _ _) n
  refine ⟨⟨hst, hpc.trans (seqPc_congr (rd_wr_ne _ _ (cond_ne_state n n).symm)), hun⟩, ?_, ?_⟩
  case refine_1 =>
    exact ((regsBut_wr s _ _).mono (List.subset_cons_self _ _)).trans_same
      ((regsBut_seqResume _ n).mono (List.cons_subset_cons _ (List.nil_subset _)))
  case refine_2 => exact (rd_seqResume _ n (cond_ne_state n n)).trans (rd_wr_self hw _ _)

theorem seqWait_of_due {e : Nat} (h : waitDue s n e = true) : seqWait e s n =
    if seqState s n = 4 then waiteEnd s n (!waiteHolds s n) else seqResume s n := if_neg (not_of_eq_true h)

/-- Settles O49: a wait is one write of the state register; its end resumes the sequencer, after the conditions of a WAITE are written. -/
theorem sequencerWaits : Obligations.SequencerWaits := by
  unfold Obligations.SequencerWaits
  intro s n hs i w pc
  have k := kept_main hs
  refine ⟨fun h => next_congr (seqGo_of_ready h _), fun src m => ?_, fun h => ?_, fun h => ?_, fun h => ?_, fun q hq h => ?_, fun q hq => ?_,
    fun e => ⟨fun h => if_pos (not_eq_true_of_false h), fun h => ?_⟩⟩
  case refine_1 =>
    exact ⟨rfl, (landAct_kept k).keepsMain, seqPc_seqEnter hs.1 i 0 m, seqState_seqEnter hs.1 i m (by decide), regsBut_wr s _ _⟩
  case refine_2 => exact rests_of_row hs (execWaitd_kept k) (by decide) (next_congr (seqGo_of_ready h _))
  case refine_3 => exact rests_of_row hs (execWaitu_kept k) (by decide) (next_congr (seqGo_of_ready h _))
  case refine_4 => exact rests_of_row hs (execWaite_kept k) (by decide) (next_congr (seqGo_of_ready h _))
  case refine_5 =>
    simp only [List.mem_cons, List.not_mem_nil, or_false] at hq
    rcases hq with rfl | rfl | rfl | rfl
    all_goals exact next_congr (seqGo_of_not_ready h _)
  case refine_6 =>
    simp only [List.mem_cons, List.not_mem_nil, or_false] at hq
    rcases hq with rfl | rfl | rfl
    all_goals exact boundaryRow hs rfl
  case refine_7 =>
    have hdue := seqWait_of_due h
    refine ⟨hdue, (seqWait_kept k).keepsMain, ?_⟩
    by_cases h4 : seqState s i = 4
    · rw [if_pos h4] at hdue
      obtain ⟨⟨hst, hpc, hun⟩, hregs, hcond⟩ := waiteEnd_leaves hs.1 i (!waiteHolds s i)
      rw [hdue]
      refine ⟨hst, hpc, hun, fun h => absurd h4 h, fun _ => ⟨hregs, hcond.trans ?_⟩⟩
      rw [waiteCond]
      cases waiteHolds s i <;> rfl
    · rw [if_neg h4] at hdue
      obtain ⟨hst, hpc, hun⟩ := seqResume_leaves hs.1 i
      rw [hdue]
      exact ⟨hst, hpc, hun, fun _ => regsBut_seqResume s i, fun h => absurd h h4⟩

/-! ### Acts on other units -/

theorem liveLand_of_owned {t : Nat} {w0 w1 : Word} (ho : owner s 0x14 (fld w0 13 0) = some t) (hd : s.dev = .laid) :
    liveLand s (owner s 0x14 (fld w0 13 0) == some t) w0 w1 =
      s.setMix { s.mix with pend := SMap.put s.mix.pend (fld w0 13 0) (fld w0 18 16, w1.toInt) } := by
  refine if_pos ?_
  rw [ho, decide_eq_true hd, beq_self_eq_true]
  rfl

theorem liveLand_of_refused {t : Nat} {w0 w1 : Word} (h : owner s 0x14 (fld w0 13 0) ≠ some t ∨ s.dev ≠ .laid) :
    liveLand s (owner s 0x14 (fld w0 13 0) == some t) w0 w1 = setCond s R.MIX_STAT 192 4 := by
  refine if_neg fun hgo => ?_
  rw [Bool.and_eq_true, beq_iff_eq, decide_eq_true_eq] at hgo
  exact h.elim (fun h => h hgo.1) fun h => h hgo.2

/-- Settles O50: each row is one act handed to its event tick, and each act is one case of what lands. -/
theorem sequencerActs : Obligations.SequencerActs := by
  unfold Obligations.SequencerActs
  intro s n hs i w pc v
  have k := kept_main hs
  refine ⟨fun h => ?_, fun src m b => ⟨fun h => if_neg h, fun h => if_pos h⟩, fun h => ?_, fun h => ?_, fun h => ?_, fun h => ?_, fun q hq h => ?_,
    fun src fwd d tg => rfl, fun src w0 w1 => ⟨liveLand_of_owned, liveLand_of_refused⟩, fun src p => ⟨fun m => rfl, fun h => if_neg h, fun h => if_pos h⟩⟩
  case refine_1 => exact sends_of_row hs (execSig_kept k) (next_congr (seqGo_of_ready h _))
  case refine_2 => exact goes_of_row (execRaise_kept k) (next_congr (seqGo_of_ready h _)) hs.1 rfl (regsBut_refl s [])
  case refine_3 => exact sends_of_row hs (execCommit_kept k) (next_congr (seqGo_of_ready h _))
  case refine_4 =>
    obtain ⟨t, hrow, hsends⟩ := sends_of_row hs (execLive_kept k) (next_congr (seqGo_of_ready h _))
    exact ⟨t, _, hrow, rfl, hsends⟩
  case refine_5 => exact sends_of_row hs (execPlay_kept k) (next_congr (seqGo_of_ready h _))
  case refine_6 =>
    simp only [List.mem_cons, List.not_mem_nil, or_false] at hq
    rcases hq with rfl | rfl | rfl | rfl | rfl
    all_goals exact next_congr (seqGo_of_not_ready h _)

/-! ### Control -/

theorem seqWrite_ctl {n : Nat} (hn : n < 128) (fn : Nat) (v : Word) : seqWrite s fn (R.SEQn_CTL n) .base v =
    seqCtl (if seqState s n ≠ 0 then s else plainWrite s fn (R.SEQn_CTL n) .base v) n v := by
  have hat : (R.SEQn_CTL n - 0xA1000) / 0x80 = n := by rw [R.SEQn_CTL]; omega
  have hoff : R.SEQn_CTL n % 0x80 = 0 := by rw [R.SEQn_CTL]; omega
  have hper : decide (0xA1000 ≤ R.SEQn_CTL n ∧ R.SEQn_CTL n < 0xA5000) = true := decide_eq_true (by rw [R.SEQn_CTL]; omega)
  unfold seqWrite seqFrozen
  rw [hat, hoff, hper]
  simp

theorem seqWrite_kick {n : Nat} (hn : n < 128) (fn : Nat) (v : Word) : seqWrite s fn (R.SEQn_KICK n) .base v =
    let u := plainWrite s fn (R.SEQn_KICK n) .base v
    if bit v 0 then u.setSeq { u.seq with posted := SMap.upd u.seq.posted n 0 (· ||| 0x200) } else u := by
  have hat : (R.SEQn_KICK n - 0xA1000) / 0x80 = n := by rw [R.SEQn_KICK]; omega
  have hoff : R.SEQn_KICK n % 0x80 = 0x18 := by rw [R.SEQn_KICK]; omega
  have hper : decide (0xA1000 ≤ R.SEQn_KICK n ∧ R.SEQn_KICK n < 0xA5000) = true := decide_eq_true (by rw [R.SEQn_KICK]; omega)
  unfold seqWrite seqFrozen
  rw [hat, hoff, hper]
  simp

theorem rd_plainWrite_ne {fn off o : Nat} (q : Quarter) (v : Word) (ho : o ≠ keyFor fn off) : rd (plainWrite s fn off q v) o = rd s o := by
  unfold plainWrite
  split
  · rfl
  · dsimp only
    rw [rd_wr_ne _ _ ho]
    split
    · exact rd_ask s _ o
    · rfl

theorem wf_plainWrite (hw : Registers.wf s.regs = true) (fn off : Nat) (q : Quarter) (v : Word) :
    Registers.wf (plainWrite s fn off q v).regs = true := by
  unfold plainWrite
  split
  · exact hw
  · refine wf_wr ?_ _ _
    split <;> exact hw

theorem perFn_eq_false {off : Nat} (h : 0xA0000 ≤ off ∧ off < 0xB0400) : perFn off = false := by
  rw [Bool.eq_false_iff]
  intro hper
  simp only [perFn, Bool.or_eq_true, decide_eq_true_eq, beq_iff_eq] at hper
  rw [R.UPD_FLUSH, R.UPD_DONE] at hper
  omega

theorem keyFor_ctl {n : Nat} (hn : n < 128) (fn : Nat) : keyFor fn (R.SEQn_CTL n) = R.SEQn_CTL n :=
  if_neg (not_of_eq_false (perFn_eq_false (by rw [R.SEQn_CTL]; omega)))

theorem seqState_plainWrite_ctl {n : Nat} (hn : n < 128) (fn : Nat) (v : Word) : seqState (plainWrite s fn (R.SEQn_CTL n) .base v) n = seqState s n :=
  seqState_congr (rd_plainWrite_ne .base v (by rw [keyFor_ctl hn]; exact (ctl_ne_state n n).symm))

theorem seqReject_one (s : State) (n : Nat) : seqReject s n 1 =
    ask s [.cond R.SEQ_STAT 512 0x100 [(R.SEQ_LAST, BitVec.ofNat 32 (256 + n))] 0 .newBits, .fire (256 + n) (seqTenant s n) 0xC0000001] := by
  rw [seqReject, setCondWith, fireSrc, request_eq_ask, request_eq_ask, ask_ask]
  rfl

/-- What the START of a write asks for (R370): the check, or the rejection of a start. -/
def startAsked (s : State) (n : Nat) (v : Word) : State :=
  if bit v 31 && !rdB s (R.SEQn_CTL n) 29 then (if seqState s n = 0 then wrF s (R.SEQn_CTL n) 29 29 1 else seqReject s n 1) else s

theorem seqCtl_eq (s : State) (n : Nat) (v : Word) : seqCtl s n v =
    if bit v 30 then setSeq (startAsked s n v) n { seqSt (startAsked s n v) n with stop := true } else startAsked s n v := rfl

theorem seqCtl_regs (s : State) (n : Nat) (v : Word) : (seqCtl s n v).regs = (startAsked s n v).regs := by
  rw [seqCtl_eq]
  split
  · rw [setSeq_regs]
  · rfl

theorem seqCtl_ev (s : State) (n : Nat) (v : Word) : (seqCtl s n v).ev = (startAsked s n v).ev := by
  rw [seqCtl_eq]
  split
  · rw [setSeq, State.setSeq_ev]
  · rfl

theorem startAsked_of_idle (hw : Registers.wf s.regs = true) {n : Nat} {v : Word} (h31 : bit v 31 = true) (hst : seqState s n = 0) :
    rdB (startAsked s n v) (R.SEQn_CTL n) 29 = true := by
  rw [startAsked, h31, if_pos hst]
  cases hb : rdB s (R.SEQn_CTL n) 29
  · exact rdB_wrF_bit hw _ true (by decide)
  · exact hb

theorem startAsked_of_busy {n : Nat} {v : Word} (h31 : bit v 31 = true) (hst : seqState s n ≠ 0) (hb : rdB s (R.SEQn_CTL n) 29 = false) :
    startAsked s n v = seqReject s n 1 := by
  rw [startAsked, h31, hb, if_neg hst]
  rfl

theorem seqCtl_stop {n : Nat} {v : Word} (h30 : bit v 30 = true) : (seqSt (seqCtl s n v) n).stop = true := by
  rw [seqCtl_eq, if_pos h30, seqSt_setSeq]

section Check
variable {n : Nat}

theorem seqState_checked (s : State) (n : Nat) : seqState (wrF s (R.SEQn_CTL n) 29 29 0) n = seqState s n :=
  seqState_congr (rd_wrF_ne (ctl_ne_state n n).symm)

theorem checkEnd_of_not_idle (h : s.dev ≠ .laid ∨ seqState s n ≠ 0) : checkEnd s n = seqReject (wrF s (R.SEQn_CTL n) 29 29 0) n 1 := by
  have hrej : (wrF s (R.SEQn_CTL n) 29 29 0).dev ≠ .laid ∨ seqState (wrF s (R.SEQn_CTL n) 29 29 0) n ≠ 0 := by
    rwa [seqState_checked, wrF, wr_dev]
  unfold checkEnd
  dsimp only
  rw [if_pos hrej]

theorem checkEnd_of_idle (hd : s.dev = .laid) (hst : seqState s n = 0) : checkEnd s n =
    let u := wrF s (R.SEQn_CTL n) 29 29 0
    if (programCheck u n).1 = 0 then setSeq u n { seqSt u n with start := true }
    else if (programCheck u n).1 = 6 then seqReject (rtRefuse u 0xA (seqTenant u n) 0x0D (programCheck u n).2 64) n 6
    else seqReject u n (programCheck u n).1 := by
  have hidle : ¬ ((wrF s (R.SEQn_CTL n) 29 29 0).dev ≠ .laid ∨ seqState (wrF s (R.SEQn_CTL n) 29 29 0) n ≠ 0) := by
    rw [seqState_checked, wrF, wr_dev]
    exact fun h => h.elim (fun h => h hd) fun h => h hst
  unfold checkEnd
  dsimp only
  rw [if_neg hidle]

/-- A sequencer's conditions cleared, and RUN entered at ENTRY (R370). -/
def seqRun (s : State) (n : Nat) : State := seqEnter (wr s (R.SEQn_COND n) 0) n 1 (rdF s (R.SEQn_CTL n) 16 0)

theorem fld_mod_self (w : Word) (hi lo : Nat) : fld w hi lo % 2 ^ (hi + 1 - lo) = fld w hi lo := Nat.mod_eq_of_lt (fld_lt w hi lo)

theorem seqRun_leaves (hw : Registers.wf s.regs = true) (n : Nat) : seqState (seqRun s n) n = 1 ∧ seqPc (seqRun s n) n = rdF s (R.SEQn_CTL n) 16 0 ∧
    rd (seqRun s n) (R.SEQn_COND n) = 0 := by
  refine ⟨seqState_seqEnter (wf_wr hw _ _) n _ (by decide), (seqPc_seqEnter (wf_wr hw _ _) n 1 _).trans (fld_mod_self _ 16 0), ?_⟩
  rw [seqRun, seqEnter, rd_wr_ne _ _ (cond_ne_state n n), rd_wr_self hw]

theorem seqStartStop_of_stop (h : (seqSt s n).stop = true) : seqStartStop s n =
    setSeq (wrF (if (seqSt s n).start then seqRun s n else s) (R.SEQn_STATE n) 2 0 0) n { seqSt s n with start := false, stop := false, until_ := none } := by
  unfold seqStartStop
  dsimp only
  rw [h, if_pos rfl, Bool.or_true, if_pos rfl]
  rfl

theorem seqStartStop_of_start (h : (seqSt s n).start = true) (hno : (seqSt s n).stop = false) : seqStartStop s n =
    setSeq (seqRun s n) n { seqSt s n with start := false, stop := false, until_ := none } := by
  unfold seqStartStop
  dsimp only
  rw [h, hno]
  rfl

theorem seqStartStop_of_neither (h : (seqSt s n).start = false) (hno : (seqSt s n).stop = false) : seqStartStop s n = s := by
  unfold seqStartStop
  dsimp only
  rw [h, hno]
  rfl

theorem wf_seqRun (hw : Registers.wf s.regs = true) (n : Nat) : Registers.wf (seqRun s n).regs = true := wf_wr (wf_wr hw _ _) _ _

end Check

section Stall
variable {g m : Nat}

theorem seqGroup_of_moving {l : List Nat} (h : groupStalled s g l = false) : seqGroup l s g = wr s (R.SEQ_GRPg_CNT g) 0 :=
  if_pos (not_eq_true_of_false h)

theorem seqGroup_of_counted {l : List Nat} (h : groupStalled s g l = true) (hc : rdF s (R.SEQ_GRPg_CNT g) 7 0 + 1 < rdF s R.SEQ_CFG 7 0) :
    seqGroup l s g = wr s (R.SEQ_GRPg_CNT g) (BitVec.ofNat 32 (rdF s (R.SEQ_GRPg_CNT g) 7 0 + 1)) :=
  (if_neg (not_of_eq_true h)).trans (if_neg (Nat.not_le.2 hc))

theorem seqGroup_of_limit {l : List Nat} (h : groupStalled s g l = true) (hc : rdF s R.SEQ_CFG 7 0 ≤ rdF s (R.SEQ_GRPg_CNT g) 7 0 + 1) :
    seqGroup l s g = stallRelease s g := (if_neg (not_of_eq_true h)).trans (if_pos hc)

/-- What the release of a stalled group tells (R373). -/
def stallTold (s : State) (g m : Nat) : List HwReq :=
  [.cond R.SEQ_STAT 512 (BitVec.ofNat 32 (2 ^ g)) [] 0 .newBits, .fire (256 + m) (seqTenant s m) (BitVec.ofNat 32 (0x40000000 + g * 65536))]

theorem stallRelease_of_waiting (h : ((List.range 16).map (16 * g + ·)).find? (fun n => seqState s n == 4) = some m) : stallRelease s g =
    wr (ask (seqResume (wr s (R.SEQn_COND m) (rd s (R.SEQn_COND m) ||| 0x80000000)) m) (stallTold s g m)) (R.SEQ_GRPg_CNT g) 0 := by
  unfold stallRelease
  rw [h]
  dsimp only
  rw [setCondWith, fireSrc, request_eq_ask, request_eq_ask, ask_ask]
  rfl

theorem cnt_lt_cond (hg : g < 8) (m : Nat) : R.SEQ_GRPg_CNT g < R.SEQn_COND m := by
  rw [R.SEQ_GRPg_CNT, R.SEQn_COND]
  omega

theorem cnt_lt_state (hg : g < 8) (m : Nat) : R.SEQ_GRPg_CNT g < R.SEQn_STATE m := by
  rw [R.SEQ_GRPg_CNT, R.SEQn_STATE]
  omega

theorem stallRelease_leaves (hw : Registers.wf s.regs = true) (hg : g < 8)
    (h : ((List.range 16).map (16 * g + ·)).find? (fun n => seqState s n == 4) = some m) :
    RegsBut s (stallRelease s g) [R.SEQn_COND m, R.SEQn_STATE m, R.SEQ_GRPg_CNT g] ∧ seqState (stallRelease s g) m = 1 ∧
      rd (stallRelease s g) (R.SEQn_COND m) = rd s (R.SEQn_COND m) ||| 0x80000000 ∧ rd (stallRelease s g) (R.SEQ_GRPg_CNT g) = 0 ∧
      ∀ q ∈ stallTold s g m, q ∈ (stallRelease s g).ev.reqs := by
  rw [stallRelease_of_waiting h]
  refine ⟨fun o ho => ?_, ?_, ?_, ?_, fun q hq => ?_⟩
  case refine_1 =>
    rw [List.mem_cons, List.mem_cons, List.mem_singleton, not_or, not_or] at ho
    obtain ⟨hcond, hst, hcnt⟩ := ho
    rw [rd_wr_ne _ _ hcnt, rd_ask, rd_seqResume _ _ hst, rd_wr_ne _ _ hcond]
  case refine_2 =>
    refine (seqState_congr ((rd_wr_ne _ _ (Nat.ne_of_gt (cnt_lt_state hg m))).trans (rd_ask _ _ _))).trans (seqResume_leaves ?_ m).1
    exact wf_wr hw _ _
  case refine_3 =>
    rw [rd_wr_ne _ _ (Nat.ne_of_gt (cnt_lt_cond hg m)), rd_ask, rd_seqResume _ _ (cond_ne_state m m), rd_wr_self hw]
  case refine_4 =>
    refine rd_wr_self ?_ _ _
    rw [ask_regs]
    exact wf_wrF (wf_wr hw _ _) _ _ _ _
  case refine_5 =>
    rw [wr_ev, ask_reqs]
    exact List.mem_append_right _ hq

end Stall

/-- Settles O51: a write of SEQn_CTL is a plain write and what its START and STOP ask for; the rest is read off the case distinctions. -/
theorem sequencerControl : Obligations.SequencerControl := by
  unfold Obligations.SequencerControl
  intro s fn n v hs i
  have k := kept_main hs
  refine ⟨fun honce hacc c hc => ?_, fun honce hacc => ?_, fun h => ⟨?_, ?_⟩, fun h => ?_, fun h => ?_, fun hbusy => ?_, ?_, fun g => ?_⟩
  case refine_1 =>
    have hrow : exec c s = .next (seqWrite s fn.toNat (R.SEQn_CTL i) .base v) := by
      simp only [List.mem_cons, List.not_mem_nil, or_false] at hc
      rcases hc with rfl | rfl
      all_goals exact next_congr (hostWriteAs_off _ _ _ _ honce hacc)
    refine ⟨_, hrow, (seqWrite_kept k).keepsMain, rfl, ?_⟩
    rw [seqWrite_ctl n.isLt]
    refine ⟨fun h31 hidle _ => ?_, fun h31 hst hb => ?_, seqCtl_stop⟩
    case refine_1 =>
      rw [if_neg (not_not_intro hidle)]
      refine (rdB_congr (rd_of_regs_eq (seqCtl_regs ..) _)).trans (startAsked_of_idle (wf_plainWrite hs.1 _ _ _ _) h31 ?_)
      rw [seqState_plainWrite_ctl n.isLt]
      exact hidle
    case refine_2 =>
      rw [if_pos hst, seqCtl_ev, startAsked_of_busy h31 hst hb, seqReject_one, ask_reqs]
      exact ⟨List.mem_append_right _ (by simp), List.mem_append_right _ (by simp)⟩
  case refine_2 =>
    have hrow : exec (.kick fn n v) s = .next (seqWrite s fn.toNat (R.SEQn_KICK i) .base v) := next_congr (hostWriteAs_off _ _ _ _ honce hacc)
    exact ⟨_, hrow, (seqWrite_kept k).keepsMain, seqWrite_kick n.isLt _ _⟩
  case refine_3 => exact next_congr (hostWriteAs_of_no_access h)
  case refine_4 => exact next_congr (hostWriteAs_of_no_access h)
  case refine_5 => exact next_congr (hostWriteAs_of_no_access h)
  case refine_6 => exact next_congr (if_neg (not_of_eq_false h))
  case refine_7 =>
    have hrow : exec (.programCheckEnd n) s = .next (checkEnd s i) := next_congr (if_pos hbusy)
    refine ⟨_, hrow, keepsMain_of_kept (execProgramCheckEnd_kept k) hrow, checkEnd_of_not_idle, fun hd hst hok => ?_, fun hd hst hbad => ?_,
      fun hd hst hok hbad => ?_⟩
    all_goals rw [checkEnd_of_idle hd hst]
    case refine_1 => exact if_pos hok
    case refine_2 => exact (if_neg (by rw [hbad]; decide)).trans (if_pos hbad)
    case refine_3 => exact (if_neg hok).trans (if_neg hbad)
  case refine_8 =>
    intro x run t
    refine ⟨fun hstart hno => ?_, fun hstop => ?_, seqStartStop_of_neither⟩
    case refine_1 =>
      have ht : t = setSeq (seqRun s i) i x := seqStartStop_of_start hstart hno
      obtain ⟨hst, hpc, hcond⟩ := seqRun_leaves hs.1 i
      rw [ht]
      exact ⟨rfl, hst, hpc, hcond⟩
    case refine_2 =>
      have ht : t = setSeq (wrF (if (seqSt s i).start then run else s) (R.SEQn_STATE i) 2 0 0) i x := seqStartStop_of_stop hstop
      refine ⟨ht, ?_⟩
      rw [ht, seqState_setSeq]
      refine seqState_wrF_state ?_ i (by decide)
      split
      · exact wf_seqRun hs.1 i
      · exact hs.1
  case refine_9 =>
    intro c
    obtain ⟨hdue, hgoes, hnot⟩ := boundaryRow (x := exec (.stallRelease g) s) hs rfl
    refine ⟨hdue, hgoes, hnot, fun l => seqGroup_of_moving, fun l => seqGroup_of_counted, fun l m h hc hm => ?_⟩
    intro t
    have ht : t = stallRelease s g.toNat := seqGroup_of_limit h hc
    obtain ⟨hregs, hst, hcond, hcnt, hreqs⟩ := stallRelease_leaves hs.1 g.isLt hm
    rw [ht]
    exact ⟨rfl, hregs, hst, hcond, hcnt, hreqs _ (List.mem_cons_self ..), hreqs _ (List.mem_cons_of_mem _ (List.mem_singleton_self _))⟩

end Sys2Proof.Machine
end

section
/-! SUPPORT. Stream descriptors, the mix and the strips from the host (chapters 08 to 11), and O39, O40 and O41. -/

namespace Sys2Proof.Machine

open Sys2Proof.Claims

variable {s t u : State}

/-! ### Stream descriptors -/

/-- The control word of an access to a stream's descriptor (R258). -/
def strmCtl (tb n : Nat) (write : Bool) : Word := BitVec.ofNat 32 (n + tb * 2 ^ 16 + b2n write * 2 ^ 29)

theorem strmCtl_read (tb n : Nat) : strmCtl tb n false = BitVec.ofNat 32 (n + tb * 2 ^ 16) := by
  rw [strmCtl, b2n, if_neg Bool.false_ne_true, Nat.zero_mul, Nat.add_zero]

theorem strmCtl_write (tb n : Nat) : strmCtl tb n true = BitVec.ofNat 32 (n + tb * 2 ^ 16 + 2 ^ 29) := by
  rw [strmCtl, b2n, if_pos rfl, Nat.one_mul]

theorem strmRow_off {fn tb n : Nat} {write : Bool} (honce : AtOnce s) (hacc : accessOk s fn R.STRM_DESC_CTL = true) : strmRow s fn write tb n =
    strmGo (wr s (regKey fn R.STRM_DESC_CTL) (strmCtl tb n write)) fn :=
  hostWriteAs_off _ _ _ _ honce hacc

theorem strmCtl_fields {tb n : Nat} (htb : tb < 4) (hn : n < 4096) (write : Bool) :
    fld (strmCtl tb n write) 17 16 = tb ∧ fld (strmCtl tb n write) 11 0 = n ∧
      bit (strmCtl tb n write) 29 = write := by
  have hb : b2n write ≤ 1 := by cases write <;> decide
  refine ⟨(fld_ofNat 17 16 (by decide)).trans ?_, (fld_ofNat 11 0 (by decide)).trans ?_, ?_⟩
  · unfold bits
    omega
  · unfold bits
    omega
  · have hbit : (n + tb * 2 ^ 16 + b2n write * 2 ^ 29).testBit 29 = decide (b2n write = 1) := by
      rw [Nat.testBit_eq_decide_div_mod_eq]
      refine decide_eq_decide.2 ?_
      omega
    rw [strmCtl, bit_ofNat, hbit]
    cases write <;> decide

section Go
variable {fn tb n : Nat} (htb : fld (rd s (regKey fn R.STRM_DESC_CTL)) 17 16 = tb) (hn : fld (rd s (regKey fn R.STRM_DESC_CTL)) 11 0 = n)
include htb hn

theorem strmGo_read (hgo : bit (rd s (regKey fn R.STRM_DESC_CTL)) 29 = false) : strmGo s fn =
    if tb = 3 then wrF s (regKey fn R.STRM_DESC_CTL) 27 24 1
    else if !reachesTenant s fn (if tb = 0 then rxTenant (rxDesc s n) else txTenant (txDesc s n)) then wrF s (regKey fn R.STRM_DESC_CTL) 27 24 2
    else if s.dev ≠ .laid then wrF s (regKey fn R.STRM_DESC_CTL) 27 24 8
    else wrF (wrAll s (((List.range 24).zip (descView s tb n)).map (fun e => (regKey fn (R.STRM_DESC_Dm e.1), e.2)))) (regKey fn R.STRM_DESC_CTL) 27 24 0 := by
  unfold strmGo
  dsimp only
  rw [htb, hn, hgo, if_neg Bool.false_ne_true]

theorem strmGo_write_refused (hgo : bit (rd s (regKey fn R.STRM_DESC_CTL)) 29 = true)
    (hc : (descCheck s fn tb n (descData s fn (if tb = 2 then 24 else 4))).1 ≠ 0) : strmGo s fn =
    wrF (descCheck s fn tb n (descData s fn (if tb = 2 then 24 else 4))).2 (regKey fn R.STRM_DESC_CTL) 27 24
      (descCheck s fn tb n (descData s fn (if tb = 2 then 24 else 4))).1 := by
  unfold strmGo
  dsimp only
  rw [htb, hn, hgo, if_pos rfl, if_neg hc]

theorem strmGo_write_taken (hgo : bit (rd s (regKey fn R.STRM_DESC_CTL)) 29 = true)
    (hc : (descCheck s fn tb n (descData s fn (if tb = 2 then 24 else 4))).1 = 0) :
    ∃ x, x = wrF (descCheck s fn tb n (descData s fn (if tb = 2 then 24 else 4))).2 (regKey fn R.STRM_DESC_CTL) 27 24 0 ∧
      strmGo s fn = x.setStrm { x.strm with pend := x.strm.pend ++ [(tb, n, descData s fn (if tb = 2 then 24 else 4))] } := by
  refine ⟨_, rfl, ?_⟩
  unfold strmGo
  dsimp only
  rw [htb, hn, hgo, if_pos rfl, if_pos hc, hc]

end Go

/-- Settles O39: a GO is one access whose register names the table and the descriptor. -/
theorem streamDescriptorsByHost : Obligations.StreamDescriptorsByHost := by
  unfold Obligations.StreamDescriptorsByHost
  intro s fn tb n hs honce
  have k := kept_main hs
  refine ⟨fun h => ⟨next_congr (hostWriteAs_of_no_access h), next_congr (hostWriteAs_of_no_access h)⟩, fun hacc => ?_⟩
  rw [← strmCtl_read, ← strmCtl_write]
  intro key u w tenant ws c
  refine ⟨?_, ?_⟩
  case refine_1 =>
    obtain ⟨htb, hn, hgo⟩ := strmCtl_fields tb.isLt n.isLt false
    have hctl : rd u key = strmCtl tb.toNat n.toNat false := rd_wr_self hs.1 _ _
    rw [← hctl] at htb hn hgo
    have hrow : exec (.streamDescRead fn tb n) s = .next (strmGo u fn.toNat) := next_congr (strmRow_off honce hacc)
    have hread := strmGo_read (s := u) htb hn hgo
    have hdev : u.dev = s.dev := wr_dev _ _ _
    rw [← hdev]
    have hne : tb ≠ 3 → ¬ tb.toNat = 3 := fun h he => h (BitVec.eq_of_toNat_eq he)
    refine ⟨_, hrow, keepsMain_of_kept (execStreamDescRead_kept k) hrow, fun h => ?_, fun h hr => ?_, fun h hr hd => ?_, fun h hr hd => ?_⟩
    case refine_1 => exact hread.trans (if_pos (by rw [h]; rfl))
    case refine_2 => exact hread.trans ((if_neg (hne h)).trans (if_pos (not_eq_true_of_false hr)))
    case refine_3 => exact hread.trans ((if_neg (hne h)).trans ((if_neg (not_of_eq_true hr)).trans (if_pos hd)))
    case refine_4 => exact hread.trans ((if_neg (hne h)).trans ((if_neg (not_of_eq_true hr)).trans (if_neg (not_not_intro hd))))
  case refine_2 =>
    obtain ⟨htb, hn, hgo⟩ := strmCtl_fields tb.isLt n.isLt true
    have hctl : rd w key = strmCtl tb.toNat n.toNat true := rd_wr_self hs.1 _ _
    rw [← hctl] at htb hn hgo
    have hrow : exec (.streamDescWrite fn tb n) s = .next (strmGo w fn.toNat) := next_congr (strmRow_off honce hacc)
    exact ⟨_, hrow, keepsMain_of_kept (execStreamDescWrite_kept k) hrow, strmGo_write_refused htb hn hgo, strmGo_write_taken htb hn hgo⟩

/-! ### Live commands and plane words -/

theorem liveWord_of_first {fn : Nat} {v : Word} (h : SMap.get s.mix.asm fn = none) :
    liveWord s fn v = s.setMix { s.mix with asm := SMap.put s.mix.asm fn v } := by rw [liveWord, h]

theorem liveWord_of_second {fn : Nat} {v w : Word} (h : SMap.get s.mix.asm fn = some w) : liveWord s fn v =
    liveLand (s.setMix { s.mix with asm := SMap.del s.mix.asm fn }) (reachesObj s fn 0x14 (fld w 13 0)) w v := by rw [liveWord, h]

theorem couchWrite_off {a : BitVec 26} {v : Word} (honce : AtOnce s) (hbar : barUp s = true) (hrun : running s = true) :
    execCouchWrite a v s = .next (planeWrite s a.toNat v) :=
  next_congr ((if_pos (by rw [hbar, hrun]; rfl)).trans (mirrored_off _ _ honce))

/-- A plane word is stored, and no check of the plane is valid any more (R285, R313). -/
def planeStored (s : State) (a : Nat) (v : Word) : State :=
  s.setMix { s.mix with
    words := SMap.putD 0 s.mix.words a v, bad := s.mix.bad.filter (· != a), dirty := true
    chkLog := if rdB s R.MIX_CHK_CTL 30 then s.mix.chkLog ++ [(s.dkl.cyc + tickCycles s, a, mixWord s a)] else [] }

section Plane
variable {a : Nat} {v : Word}

theorem planeWrite_of_outside (h : inPlaneTable a = false) : planeWrite s a v = s := if_neg (not_of_eq_false h)

theorem planeWrite_of_active (h : inPlaneTable a = true) (hp : a / 0x1000000 = activePlane s) : planeWrite s a v = setCond s R.MIX_STAT 192 2 :=
  (if_pos h).trans (if_pos hp)

theorem planeWrite_of_held (h : inPlaneTable a = true) (hp : a / 0x1000000 ≠ activePlane s) (hh : rdB s R.SCN_PLANE 1 = true) :
    planeWrite s a v = setCond s R.SCN_STAT 194 8 := (if_pos h).trans ((if_neg hp).trans (if_pos hh))

theorem planeWrite_of_idle (h : inPlaneTable a = true) (hp : a / 0x1000000 ≠ activePlane s) (hh : rdB s R.SCN_PLANE 1 = false) :
    planeWrite s a v = wrF (planeStored s a v) R.MIX_CHK_CTL 29 29 0 := (if_pos h).trans ((if_neg hp).trans (if_neg (not_of_eq_false hh)))

end Plane

/-! ### The couch check -/

theorem couchGo_of_closed (h : rdB s R.MIX_CHK_CTL 30 = true ∨ running s = false) : couchGo s = s := by
  refine if_pos ?_
  rw [Bool.or_eq_true, Bool.not_eq_true']
  exact h

theorem couchGo_of_open (hb : rdB s R.MIX_CHK_CTL 30 = false) (hrun : running s = true) : couchGo s =
    wrF (s.setMix { s.mix with dirty := false, chkAt := s.dkl.cyc + tickCycles s, chkLog := [] }) R.MIX_CHK_CTL 30 30 1 :=
  if_neg (by rw [hb, hrun]; decide)

theorem planeDisable_regs (s : State) (p : Nat) (l : List PlaneRefusal) : (planeDisable s p l).regs = s.regs :=
  foldl_regs (fun _ _ => State.setMix_regs _ _) l s

theorem rtRefuse_parts (s : State) (unit tenant code need have_ : Nat) :
    (rtRefuse s unit tenant code need have_).regs = s.regs ∧ (rtRefuse s unit tenant code need have_).mix = s.mix ∧
      (rtRefuse s unit tenant code need have_).hp = s.hp := by
  unfold rtRefuse mldCond
  dsimp only
  split <;> exact ⟨rfl, rfl, rfl⟩

/-- What the end of a check leaves before it writes its registers: the plane with its refusals disabled, and a tier that is too long
refused as a runtime addition (R284, R285). -/
def couchDisabled (s : State) : State :=
  let l := planeCheck (walkView s (1 - activePlane s)) (1 - activePlane s)
  let t := planeDisable s (1 - activePlane s) l
  if l.any (fun r => r.reason == 6) then
    rtRefuse t 6 0 0x07 (mixCycles (walkView s (1 - activePlane s)) (fun k => planeM (walkView s (1 - activePlane s)) (1 - activePlane s) k)) (rd t R.DKL_U).toNat
  else t

theorem ite_rtRefuse_parts (b : Bool) (s : State) (unit tenant code need have_ : Nat) :
    (if b then rtRefuse s unit tenant code need have_ else s).regs = s.regs ∧ (if b then rtRefuse s unit tenant code need have_ else s).mix = s.mix := by
  obtain ⟨hregs, hmix, -⟩ := rtRefuse_parts s unit tenant code need have_
  cases b
  · exact ⟨rfl, rfl⟩
  · exact ⟨hregs, hmix⟩

theorem couchDisabled_regs (s : State) : (couchDisabled s).regs = s.regs :=
  (ite_rtRefuse_parts ..).1.trans (planeDisable_regs ..)

theorem couchDisabled_words (s : State) : (couchDisabled s).mix.words =
    (planeDisable s (1 - activePlane s) (planeCheck (walkView s (1 - activePlane s)) (1 - activePlane s))).mix.words :=
  congrArg Mix.words (ite_rtRefuse_parts ..).2

/-- The first of a list of refusals as it is shown (R285). -/
def firstShown (l : List PlaneRefusal) : Word :=
  match l with
  | [] => 0
  | r :: _ => BitVec.ofNat 32 (2 ^ 31 + r.reason * 2 ^ 16 + b2n r.lane * 2 ^ 15 + r.idx)

/-- The registers in which the end of a check shows what it found (R285). -/
def couchShown (s : State) : List (Nat × Word) :=
  let l := planeCheck (walkView s (1 - activePlane s)) (1 - activePlane s)
  (R.MIX_CHK_FIRST, firstShown l) ::
  (List.range 4).map (fun k => (R.MIX_CHK_TIERk k, BitVec.ofNat 32 (planeM (planeDisable (walkView s (1 - activePlane s)) (1 - activePlane s) l) (1 - activePlane s) k)))

theorem couchChecked_eq (s : State) : couchChecked s =
    setCond (wr ((wrAll (couchDisabled s) (couchShown s)).setMix { (wrAll (couchDisabled s) (couchShown s)).mix with chkLog := [] }) R.MIX_CHK_CTL
      (BitVec.ofNat 32 (if s.mix.dirty then 0 else 2 ^ 29))) R.MIX_STAT 192
      (if (planeCheck (walkView s (1 - activePlane s)) (1 - activePlane s)).isEmpty then 8 else 24) := by
  unfold couchChecked couchDisabled couchShown
  dsimp only
  generalize planeCheck (walkView s (1 - activePlane s)) (1 - activePlane s) = l
  cases l <;> rfl

theorem keys_couchShown (s : State) : (couchShown s).map Prod.fst =
    [R.MIX_CHK_FIRST, R.MIX_CHK_TIERk 0, R.MIX_CHK_TIERk 1, R.MIX_CHK_TIERk 2, R.MIX_CHK_TIERk 3] := by
  unfold couchShown
  dsimp only
  rw [List.map_cons, List.map_map]
  rfl

theorem checkCtl_not_mem_couchShown (s : State) : R.MIX_CHK_CTL ∉ (couchShown s).map Prod.fst := by
  rw [keys_couchShown]
  decide

theorem nodup_couchShown (s : State) : ((couchShown s).map Prod.fst).Nodup := by
  rw [keys_couchShown]
  decide

theorem wrAll_mix (s : State) (l : List (Nat × Word)) : (wrAll s l).mix = s.mix := by rw [wrAll_eq_setRegs, State.setRegs_mix]

theorem ask_mix (s : State) (l : List HwReq) : (ask s l).mix = s.mix := rfl

theorem setMix_chkLog_words (s : State) (l : List (Nat × Nat × Word)) : (s.setMix { s.mix with chkLog := l }).mix.words = s.mix.words := rfl

/-- What the end of a check leaves: its registers, and the plane with its refusals disabled. -/
theorem couchChecked_leaves (hw : Registers.wf s.regs = true) : rd (couchChecked s) R.MIX_CHK_CTL = BitVec.ofNat 32 (if s.mix.dirty then 0 else 2 ^ 29) ∧
    (∀ e ∈ couchShown s, rd (couchChecked s) e.1 = e.2) ∧ RegsBut s (couchChecked s) (R.MIX_CHK_CTL :: (couchShown s).map Prod.fst) ∧
    HwReq.cond R.MIX_STAT 192 (BitVec.ofNat 32 (if (planeCheck (walkView s (1 - activePlane s)) (1 - activePlane s)).isEmpty then 8 else 24)) [] 0 .newBits ∈
      (couchChecked s).ev.reqs ∧
    (couchChecked s).mix.words = (planeDisable s (1 - activePlane s) (planeCheck (walkView s (1 - activePlane s)) (1 - activePlane s))).mix.words := by
  have hwf : Registers.wf (couchDisabled s).regs = true := (couchDisabled_regs s).symm ▸ hw
  rw [couchChecked_eq, setCond, request_eq_ask]
  refine ⟨?_, fun e he => ?_, fun o ho => ?_, ?_, ?_⟩
  case refine_1 =>
    rw [rd_ask]
    refine rd_wr_self ?_ _ _
    rw [State.setMix_regs]
    exact wf_wrAll hwf
  case refine_2 =>
    have hne : e.1 ≠ R.MIX_CHK_CTL := fun h => checkCtl_not_mem_couchShown s (h ▸ List.mem_map_of_mem he)
    rw [rd_ask, rd_wr_ne _ _ hne, rd_setMix]
    exact rd_wrAll_of_mem hwf (nodup_couchShown s) he
  case refine_3 =>
    rw [List.mem_cons, not_or] at ho
    rw [rd_ask, rd_wr_ne _ _ ho.1, rd_setMix, rd_wrAll_of_not_mem ho.2]
    exact rd_of_regs_eq (couchDisabled_regs s) o
  case refine_4 =>
    rw [ask_reqs]
    exact List.mem_append_right _ (List.mem_singleton_self _)
  case refine_5 =>
    rw [ask_mix, wr_mix, setMix_chkLog_words, wrAll_mix, couchDisabled_words]

/-- Settles O40: an access is one host write taken at once; the end of a check is its registers, written behind the plane's disabling. -/
theorem mixByHost : Obligations.MixByHost := by
  unfold Obligations.MixByHost
  intro s hs honce
  have k := kept_main hs
  refine ⟨fun fn v => ⟨fun h => next_congr (hostWriteAs_of_no_access h), fun h => next_congr (hostWriteAs_of_no_access h),
    fun h => next_congr (hostWriteAs_of_no_access h)⟩, fun a v h => next_congr (if_neg ?_), fun fn v hacc => ?_,
    fun fn v hacc => next_congr (hostWriteAs_off _ _ _ _ honce hacc), fun a v hbar hrun => ?_, fun fn v hacc => ?_, fun h => next_congr (if_neg (not_of_eq_false h)),
    fun h => ?_⟩
  case refine_1 =>
    rw [Bool.not_eq_true, Bool.and_eq_false_iff]
    exact h
  case refine_2 =>
    have hrow : ∀ {t}, liveWord s fn.toNat v = t → exec (.liveCommand fn v) s = .next t := fun h =>
      next_congr ((hostWriteAs_off _ _ _ _ honce hacc).trans h)
    refine ⟨fun h => hrow (liveWord_of_first h), fun w h => ⟨fun hd hr => hrow ((liveWord_of_second h).trans ?_), fun hno => hrow ((liveWord_of_second h).trans ?_)⟩⟩
    case refine_1 =>
      refine if_pos ?_
      rw [hr, State.setMix_dev, decide_eq_true hd]
      rfl
    case refine_2 =>
      refine if_neg fun hgo => ?_
      rw [Bool.and_eq_true, decide_eq_true_eq, State.setMix_dev] at hgo
      exact hno.elim (fun h => h hgo.2) (not_of_eq_false · hgo.1)
  case refine_3 =>
    have hrow : ∀ {t}, planeWrite s a.toNat v = t → exec (.couchWrite a v) s = .next t := fun h =>
      (couchWrite_off honce hbar hrun).trans (next_congr h)
    refine ⟨fun h => hrow (planeWrite_of_outside h), fun h hp => hrow (planeWrite_of_active h hp), fun h hp hh => hrow (planeWrite_of_held h hp hh),
      fun h hp hh => ?_⟩
    have hgo := hrow (planeWrite_of_idle (v := v) h hp hh)
    refine ⟨_, hgo, keepsMain_of_kept (execCouchWrite_kept k) hgo, ?_, ?_, rdB_wrF_bit hs.1 _ false (by decide), regsBut_wrF _ _ _ _ _⟩
    all_goals rw [wrF, wr_mix, planeStored, State.setMix_mix]
  case refine_4 =>
    have hrow : ∀ {t}, (if bit v 31 then couchGo s else s) = t → exec (.couchCheck fn v) s = .next t := fun h =>
      next_congr ((hostWriteAs_off _ _ _ _ honce hacc).trans h)
    refine ⟨fun h => hrow ?_, fun h31 hb hrun => ?_⟩
    case refine_1 =>
      rcases h with h | h
      · exact if_neg (not_of_eq_false h)
      · rw [couchGo_of_closed h, ite_self]
    case refine_2 =>
      have hgo := hrow ((if_pos h31).trans (couchGo_of_open hb hrun))
      refine ⟨_, hgo, keepsMain_of_kept (execCouchCheck_kept k) hgo, rdB_wrF_bit hs.1 _ true (by decide), ?_, regsBut_wrF _ _ _ _ _⟩
      rw [wrF, wr_mix, State.setMix_mix]
  case refine_5 =>
    intro l
    have hrow : exec .couchCheckDone s = .next (couchChecked s) := next_congr (if_pos h)
    obtain ⟨hctl, hshown, hregs, hreq, hwords⟩ := couchChecked_leaves hs.1
    have hfirst : rd (couchChecked s) R.MIX_CHK_FIRST = firstShown l := hshown (_, firstShown l) (List.mem_cons_self ..)
    refine ⟨_, hrow, keepsMain_of_kept (execCouchCheckDone_kept k) hrow, rfl, hctl.trans ?_, hfirst.trans ?_, hregs.mono ?_, ?_, hwords⟩
    case refine_1 => cases s.mix.dirty <;> rfl
    case refine_2 => cases l <;> rfl
    case refine_3 =>
      rw [keys_couchShown]
      exact List.Subset.refl _
    case refine_4 =>
      have hbits : BitVec.ofNat 32 (if l.isEmpty then 8 else 24) = (if l.isEmpty then 8 else 24 : Word) := by cases l.isEmpty <;> rfl
      exact hbits ▸ hreq

/-! ### Strips -/

/-- A refusal leaves the host port as it is. -/
def KeepsHp (s : State) (o : Option State) : Prop := ∀ t, o = some t → t.hp = s.hp

theorem keepsHp_none (s : State) : KeepsHp s none := fun _ h => absurd h (Option.some_ne_none _).symm

theorem keepsHp_rtRefuse {unit tenant code need have_ : Nat} : KeepsHp s (some (rtRefuse s unit tenant code need have_)) := fun t h => by
  rw [← Option.some.inj h]
  exact (rtRefuse_parts s unit tenant code need have_).2.2

theorem keepsHp_ite {c : Prop} [Decidable c] {o : Option State} (h : KeepsHp s o) : KeepsHp s (if c then o else none) := by
  split
  · exact h
  · exact keepsHp_none s

theorem keepsHp_roomFor {unit tenant code shareCode idx needAll needTenant total : Nat} :
    KeepsHp s (roomFor s unit tenant code shareCode idx needAll needTenant total) := by
  unfold roomFor
  split
  · exact keepsHp_rtRefuse
  · split
    · exact keepsHp_ite (keepsHp_rtRefuse)
    · exact keepsHp_none s

theorem keepsHp_firstRefusal {l : List (Option State)} (h : ∀ o ∈ l, KeepsHp s o) : KeepsHp s (firstRefusal l) := by
  induction l with
  | nil => exact keepsHp_none s
  | cons o l ih =>
    cases o with
    | none => exact ih fun o ho => h o (List.mem_cons_of_mem _ ho)
    | some t => exact h _ (List.mem_cons_self ..)

theorem keepsHp_unitRefusal {kind idx : Nat} {ws : List Word} {tenant : Nat} : KeepsHp s (unitRefusal s kind idx ws tenant) := by
  refine keepsHp_firstRefusal fun o ho => ?_
  simp only [List.mem_cons, List.not_mem_nil, or_false] at ho
  rcases ho with rfl | rfl
  · exact keepsHp_roomFor
  · exact keepsHp_ite (keepsHp_rtRefuse)

theorem keepsHp_descRefusal (s : State) (n : Nat) (d : List Word) : KeepsHp s (descRefusal s n d) := by
  refine keepsHp_firstRefusal fun o ho => ?_
  simp only [List.mem_cons, List.not_mem_nil, or_false] at ho
  rcases ho with rfl | rfl | rfl | rfl | rfl
  · exact keepsHp_unitRefusal
  · exact keepsHp_roomFor
  · exact keepsHp_ite (keepsHp_rtRefuse)
  · exact keepsHp_roomFor
  · exact keepsHp_ite (keepsHp_rtRefuse)

theorem stripCond_hp (s : State) (n b : Nat) : (stripCond s n b).hp = s.hp := rfl

theorem stripPend_hp (s : State) (kind idx : Nat) (ws : List Word) : (stripPend s kind idx ws).hp = s.hp := rfl

/-- A refusal is reported, and what is not refused waits: neither touches the host port. -/
theorem taken_hp {o : Option State} (h : KeepsHp s o) (kind idx : Nat) (ws : List Word) :
    (match o with
      | some t => stripCond t idx 1
      | none => stripPend s kind idx ws).hp = s.hp := by
  cases o with
  | none => rw [stripPend_hp]
  | some t => rw [stripCond_hp, h t rfl]

theorem stripSubmit_hp (s : State) (fn kind idx : Nat) (ws : List Word) : (stripSubmit s fn kind idx ws).hp = s.hp := by
  unfold stripSubmit
  dsimp only
  split
  · split
    · rw [stripCond_hp]
    · split
      · exact taken_hp (keepsHp_descRefusal s idx ws) 0 idx ws
      · rw [stripPend_hp]
  · split
    · rw [stripPend_hp]
    · rw [stripCond_hp]
  · split
    · rw [stripPend_hp]
    · rw [stripCond_hp]
  · split
    · rw [stripPend_hp]
    · rw [stripCond_hp]
  · split
    · rw [stripCond_hp]
    · exact taken_hp (keepsHp_unitRefusal) 4 idx ws

theorem execStripSubmit_of_reached {fn : BitVec 6} {a : BitVec 21} {v : Word} (hbar : barUp s = true) (hd : s.dev = .laid) (honce : AtOnce s)
    (h : indReach s fn.toNat 5 a.toNat = true) : execStripSubmit fn a v s = .next (stripWrite s fn.toNat a.toNat v) := by
  refine next_congr ((if_neg (not_of_eq_true hbar)).trans ((if_pos h).trans ((indWriteAs_off _ _ _ _ _ honce).trans ?_)))
  exact if_pos hd

theorem stripWrite_of_place {fn a kind idx w n : Nat} {v : Word} (h : stripPlace a = some (kind, idx, w, n)) : stripWrite s fn a v =
    if w + 1 = n then
      stripSubmit (unstage (s.setHp { s.hp with staged := SMap.put s.hp.staged (stageKey fn 5 a) v }) fn 5 (a - w) n) fn kind idx
        (stagedEntry (s.setHp { s.hp with staged := SMap.put s.hp.staged (stageKey fn 5 a) v }) fn 5 (a - w) n
          (stripNow (s.setHp { s.hp with staged := SMap.put s.hp.staged (stageKey fn 5 a) v }) kind idx))
    else s.setHp { s.hp with staged := SMap.put s.hp.staged (stageKey fn 5 a) v } := by rw [stripWrite, h]

theorem execMeterRecordRead_of_reached {fn : BitVec 6} {n : BitVec 15} {w : BitVec 1} (hbar : barUp s = true) (hrun : running s = true)
    (h : indReach s fn.toNat 5 (0x120000 + 2 * n.toNat + w.toNat) = true) : execMeterRecordRead fn n w s =
    .next ((stripRead s fn.toNat (0x120000 + 2 * n.toNat + w.toNat)).2.setAns (stripRead s fn.toNat (0x120000 + 2 * n.toNat + w.toNat)).1) := by
  have hread : indRead s fn.toNat 5 (0x120000 + 2 * n.toNat + w.toNat) 0 0 = stripRead s fn.toNat (0x120000 + 2 * n.toNat + w.toNat) := if_pos hrun
  unfold execMeterRecordRead
  dsimp only
  rw [if_neg (not_of_eq_true hbar), if_pos h, hread]

theorem stripRead_meter0 {fn n : Nat} (hn : n < 32768) : stripRead s fn (0x120000 + 2 * n) =
    ((meterWords s n).1, s.setStrp { s.strp with latch := SMap.put s.strp.latch fn (n, (meterWords s n).2) }) := by
  unfold stripRead
  rw [if_pos (by omega), show (0x120000 + 2 * n - 0x120000) / 2 = n by omega]
  dsimp only
  rw [if_pos (by omega)]

theorem stripRead_meter1 {fn n : Nat} (hn : n < 32768) : stripRead s fn (0x120000 + 2 * n + 1) =
    match SMap.get s.strp.latch fn with
    | some (k, w) => if k = n then (w, s.setStrp { s.strp with latch := SMap.del s.strp.latch fn }) else ((meterWords s n).2, s)
    | none => ((meterWords s n).2, s) := by
  unfold stripRead
  rw [if_pos (by omega), show (0x120000 + 2 * n + 1 - 0x120000) / 2 = n by omega]
  dsimp only
  rw [if_neg (by omega)] <;> rfl

/-- Settles O41: a word is staged, and the last one submits the entry; a meter record's second word is latched with its first. -/
theorem stripsByHost : Obligations.StripsByHost := by
  unfold Obligations.StripsByHost
  intro s hs
  have k := kept_main hs
  refine ⟨fun fn a v n w h => ⟨next_congr (if_pos (not_eq_true_of_false h)), next_congr (if_pos (not_eq_true_of_false h))⟩, fun hbar => ⟨?_, ?_, ?_, ?_⟩⟩
  case refine_1 =>
    intro fn a v hd honce hreach u
    have hrow : ∀ {t}, stripWrite s fn.toNat a.toNat v = t → exec (.stripSubmit fn a v) s = .next t := fun h =>
      (execStripSubmit_of_reached hbar hd honce hreach).trans (next_congr h)
    refine ⟨fun h => hrow (by rw [stripWrite, h]), fun kind idx w n h hw => hrow ((stripWrite_of_place h).trans (if_neg hw)), fun kind idx w n h hw => ?_⟩
    have hgo := hrow ((stripWrite_of_place (v := v) h).trans (if_pos hw))
    exact ⟨_, hgo, keepsMain_of_kept (execStripSubmit_kept k) hgo, rfl, stripSubmit_hp ..⟩
  case refine_2 =>
    intro fn a v h
    exact next_congr ((if_neg (not_of_eq_true hbar)).trans (if_neg (not_of_eq_false h)))
  case refine_3 =>
    intro fn n hrun
    refine ⟨fun h => ?_, fun h => ?_⟩
    case refine_1 =>
      refine (execMeterRecordRead_of_reached (w := 0) hbar hrun h).trans (next_congr ?_)
      rw [show ((0 : BitVec 1).toNat) = 0 from rfl, Nat.add_zero, stripRead_meter0 n.isLt]
    case refine_2 =>
      have hrow : ∀ {x y}, stripRead s fn.toNat (0x120000 + 2 * n.toNat + 1) = (x, y) → exec (.meterRecordRead fn n 1) s = .next (y.setAns x) := fun e =>
        (execMeterRecordRead_of_reached (w := 1) hbar hrun h).trans (next_congr (by rw [show ((1 : BitVec 1).toNat) = 1 from rfl, e]))
      have hread := stripRead_meter1 (s := s) (fn := fn.toNat) n.isLt
      refine ⟨fun w hl => hrow ?_, fun m w hl hne => hrow ?_, fun hl => hrow ?_⟩
      case refine_1 =>
        rw [hread, hl]
        exact if_pos rfl
      case refine_2 =>
        rw [hread, hl]
        exact if_neg hne
      case refine_3 => rw [hread, hl]
  case refine_4 =>
    intro fn n w h
    exact next_congr ((if_neg (not_of_eq_true hbar)).trans (if_neg (not_of_eq_false h)))

end Sys2Proof.Machine
end

section
/-! SUPPORT. The stages of the pipeline, and O38. -/

namespace Sys2Proof.Machine

open Sys2Proof.Claims

variable {s t u : State}

theorem foldl_aud {α : Type} {f : State → α → State} (hf : ∀ t a, (f t a).aud = t.aud) (l : List α) (s : State) : (l.foldl f s).aud = s.aud := by
  induction l generalizing s with
  | nil => rfl
  | cons a l ih => exact (ih (f s a)).trans (hf s a)

theorem mixPerr_aud (s : State) (a b c : Nat) : (mixPerr s a b c).aud = s.aud := rfl

theorem planePerr_aud (s : State) (a : Nat) : (planePerr s a).aud = s.aud := by
  unfold planePerr
  dsimp only
  split
  · rw [mixPerr_aud]
  · split <;> rw [mixPerr_aud]

theorem tierReports_aud (s : State) (all segs : List SegHdr) (l : List MixUpset) : (tierReports s all segs l).aud = s.aud := by
  refine (foldl_aud (fun t u => ?_) l _).trans (foldl_aud planePerr_aud _ s)
  cases u <;> rfl

theorem runTier_counts (s : State) (b k : Nat) (l : List MixUpset) : (runTier s b k l).aud.tiers.testBit k = true := by
  unfold runTier
  dsimp only
  rw [tierReports_aud, State.setAud_aud, Nat.testBit_or, Nat.testBit_two_pow_self, Bool.or_true]

theorem tierNext_iff (s : State) (k : Nat) : tierNext s k = true ↔ s.aud.tiers.testBit k = false ∧
    ∀ j, j < k → s.aud.tiers.testBit j = true ∨ rdF s (R.MIX_TIERk_M j) 19 0 = 0 := by
  simp only [tierNext, Bool.and_eq_true, Bool.not_eq_true', List.all_eq_true, List.mem_range, Bool.or_eq_true, beq_iff_eq]

theorem not_tierNext {k : Nat} (h : s.aud.tiers.testBit k = true ∨ ∃ j, j < k ∧ s.aud.tiers.testBit j = false ∧ rdF s (R.MIX_TIERk_M j) 19 0 ≠ 0) :
    tierNext s k = false := by
  rw [Bool.eq_false_iff, ne_eq, tierNext_iff]
  rintro ⟨hk, hlower⟩
  obtain h | ⟨j, hj, hrun, hm⟩ := h
  · exact absurd h (not_of_eq_false hk)
  · exact (hlower j hj).elim (not_of_eq_false hrun) hm

/-- Settles O38: each stage is guarded by its own mark, which it sets. -/
theorem stagesRunOncePerDeckle : Obligations.StagesRunOncePerDeckle := by
  unfold Obligations.StagesRunOncePerDeckle
  intro s hs
  have k := kept_main hs
  have kb := kept_butStore hs
  refine ⟨fun up ecc full => ⟨fun hrun hst hran => ?_, fun h => ?_⟩, fun up full => ⟨fun hrun hst hran => ?_, fun h => ?_⟩, fun hrun hst hc hp => ?_, fun h => ?_,
    fun n up => ⟨fun hrun hst hdone hran hlower hreach => ?_, fun h => ?_⟩⟩
  case refine_1 =>
    have hrow : exec (.stageA up ecc full) s = .next (stageA s up ecc full) := next_congr (if_pos (by rw [hrun, hst, hran]; rfl))
    exact ⟨_, hrow, ((execStageA_kept kb fun _ _ _ _ => trivial).kept _ hrow).keepsButStore, rfl, rfl, _, rfl, rfl⟩
  case refine_2 =>
    refine next_congr (if_neg ?_)
    rcases h with h | h | h <;> simp [h]
  case refine_3 =>
    have hrow : exec (.stageC up full) s = .next (stageC s up full) := next_congr (if_pos (by rw [hrun, hst, hran]; rfl))
    exact ⟨_, hrow, ((execStageC_kept kb fun _ _ _ _ => trivial).kept _ hrow).keepsButStore, rfl, rfl, _, rfl, rfl⟩
  case refine_4 =>
    refine next_congr (if_neg ?_)
    rcases h with h | h | h <;> simp [h]
  case refine_5 =>
    have hrow : exec .packetise s = .next (packetise s) := next_congr (if_pos (by rw [hrun, hst, hc, hp]; rfl))
    exact ⟨_, hrow, keepsMain_of_kept (execPacketise_kept k) hrow, rfl, rfl⟩
  case refine_6 =>
    refine next_congr (if_neg ?_)
    rcases h with h | h | h | h <;> simp [h]
  case refine_7 =>
    rw [Bool.and_eq_true] at hreach
    have hrow : exec (.mixTier n up) s = .next (runTier s (mixBlock s) n.toNat up) := by
      refine next_congr (if_pos ?_)
      rw [tierDue, hrun, hst, hdone, (tierNext_iff s n.toNat).2 ⟨hran, hlower⟩, hreach.1, hreach.2]
      rfl
    exact ⟨_, hrow, keepsMain_of_kept (execMixTier_kept k) hrow, runTier_counts .., rfl⟩
  case refine_8 =>
    refine next_congr (if_neg (not_of_eq_false ?_))
    rw [tierDue]
    obtain h | h | h | h | h | h := h
    · simp [h]
    · simp [h]
    · simp [h]
    · rw [not_tierNext (.inl h)]
      simp
    · rw [not_tierNext (.inr h)]
      simp
    · rw [Bool.and_assoc, show (decide (tierStart s n.toNat + 29 < deckleCycle s (s.dkl.cyc + tickCycles s)) && decide (deckleCycle s s.dkl.cyc < tierStart s (n.toNat + 1))) = false from h,
        Bool.and_false]

end Sys2Proof.Machine
end

section
/-! SUPPORT. The resets of the host port and of a function, the image and its checks (chapters 03 and 19), and O16, O18 and O19. -/

namespace Sys2Proof.Machine

open Sys2Proof.Claims

variable {s t u : State}

/-! ### The targets' return to reset -/

theorem resetTarget_eq_setRegs (s : State) (t : Nat) : resetTarget s t = s.setRegs (resetTarget s t).regs := by
  unfold resetTarget setStack
  rw [foldl_eq_setRegs (fun _ _ => rfl) (List.range 16) s]
  rfl

theorem rd_foldl {α : Type} {f : State → α → State} {o : Nat} (l : List α) (hf : ∀ t, ∀ a ∈ l, rd (f t a) o = rd t o) (s : State) :
    rd (l.foldl f s) o = rd s o := by
  induction l generalizing s with
  | nil => rfl
  | cons a l ih => exact (ih (fun t b hb => hf t b (List.mem_cons_of_mem _ hb)) (f s a)).trans (hf s a (List.mem_cons_self ..))

theorem rd_resetTarget {t o : Nat} (ht : t < 8) (ho : ¬ TargetReg o) : rd (resetTarget s t) o = rd s o := by
  have hrun : o ≠ R.EVC_TGTt_RUN t := fun h => ho (.inr (by rw [h, R.EVC_TGTt_RUN]; omega))
  have hbase : ∀ p ∈ List.range 16, o ≠ R.EVC_TGTt_RINGp_BASE_LO t p := fun p hp h => ho (.inr (by
    rw [h, R.EVC_TGTt_RINGp_BASE_LO]
    have := List.mem_range.1 hp
    omega))
  rw [resetTarget, setStack, rd_wr_ne _ _ hrun]
  exact rd_foldl _ (fun u p hp => rd_wrF_ne (hbase p hp)) s

theorem setActive_eq_setRegs (s : State) (n : Nat) (b : Bool) : setActive s n b = s.setRegs (setActive s n b).regs := rfl

theorem rd_setActive {n o : Nat} (b : Bool) (hn : n < 512) (ho : ¬ TargetReg o) : rd (setActive s n b) o = rd s o :=
  rd_wrF_ne fun h => ho (.inl (by rw [h, R.EVC_ACTw]; omega))

theorem rd_clearActive {o : Nat} (ho : ¬ TargetReg o) : rd (wrAll s ((List.range 16).map (fun w => (R.EVC_ACTw w, 0)))) o = rd s o := by
  refine rd_wrAll_of_not_mem fun h => ho ?_
  rw [List.map_map, List.mem_map] at h
  obtain ⟨w, hw, rfl⟩ := h
  have := List.mem_range.1 hw
  refine .inl ?_
  show 0x10200 ≤ R.EVC_ACTw w ∧ R.EVC_ACTw w < 0x10240
  rw [R.EVC_ACTw]
  omega

/-- A condition of `MLD_STAT` is one request, with its event or without. -/
theorem mldCond_eq_reqs (s : State) (bits : Nat) : ∃ l, (∀ q ∈ l, q = HwReq.fire 0 0 (BitVec.ofNat 32 bits)) ∧
    mldCond s bits [] = s.setEv { s.ev with reqs := s.ev.reqs ++ HwReq.cond R.MLD_STAT 0 (BitVec.ofNat 32 bits) [] 0 .newBits :: l } := by
  unfold mldCond
  dsimp only
  rw [setCondWith, fireSrc, request_eq_ask, request_eq_ask, ask_ask]
  split
  · exact ⟨[], fun q hq => absurd hq List.not_mem_nil, rfl⟩
  · exact ⟨_, fun q hq => List.mem_singleton.1 hq, rfl⟩

/-! ### PERST_N -/

/-- The host port's own parts behind a fall of `PERST_N` (R177, R280, R537). -/
def perstPort (s : State) : State :=
  ((((s.setPwr { s.pwr with perstn := false, link := false }).setUpd { s.upd with asm := [], fifo := [] }).setMix { s.mix with asm := [] }).setHp
    { s.hp with ind := [], staged := [], copying := [], vfs := 0 }).setEth { s.eth with egress := s.eth.egress.map (fun g => { g with host := none }) }

/-- The registers that a fall of `PERST_N` drops, and the link's. -/
def perstDropped (s : State) : State := wr (dropRegs s (fun k => perstReg (k % 0x400000))) R.HOST_LINK 0

/-- The targets in reset, and no source active. -/
def targetsReset (s : State) : State := wrAll ((List.range 8).foldl resetTarget s) ((List.range 16).map (fun w => (R.EVC_ACTw w, 0)))

theorem eq_setRegs_trans (h : t = s.setRegs t.regs) (h' : u = t.setRegs u.regs) : u = s.setRegs u.regs :=
  h'.trans ((congrArg (fun x : State => x.setRegs u.regs) h).trans rfl)

theorem targetsReset_eq_setRegs (s : State) : targetsReset s = s.setRegs (targetsReset s).regs :=
  eq_setRegs_trans (foldl_eq_setRegs resetTarget_eq_setRegs _ s) (wrAll_eq_setRegs _ _)

theorem wr_eq_setRegs (s : State) (o : Nat) (w : Word) : wr s o w = s.setRegs (wr s o w).regs := rfl

theorem dropRegs_eq_setRegs (s : State) (p : Nat → Bool) : dropRegs s p = s.setRegs (dropRegs s p).regs := rfl

theorem perstDropped_eq_setRegs (s : State) : perstDropped s = s.setRegs (perstDropped s).regs :=
  eq_setRegs_trans (dropRegs_eq_setRegs s _) (wr_eq_setRegs _ _ _)

theorem rd_targetsReset {o : Nat} (ho : ¬ TargetReg o) : rd (targetsReset s) o = rd s o := by
  rw [targetsReset, rd_clearActive ho, rd_foldl _ (fun t n hn => rd_resetTarget (List.mem_range.1 hn) ho)]

/-- What a fall of `PERST_N` leaves, the device state, the loader and the report of an aborted load aside. -/
def perstDone (s : State) : State :=
  let u := targetsReset (perstPort (perstDropped (s.setEv { s.ev with acts := s.ev.acts.filter (fun a => !hostAct a.2) })))
  u.setEv { u.ev with msixOn := [], msixOpen := [], msixPend := [], msixTab := [] }

theorem execPerstNAssert_eq (s : State) : execPerstNAssert s = .next (
    if (perstDone s).dev = .laying then abortLaying (perstDone s)
    else if (perstDone s).dev = .lifting then (perstDone s).setMld { (perstDone s).mld with pendLoad := false } else perstDone s) := rfl

theorem perstDone_eq (s : State) : ∃ r, perstDone s = ((perstPort s).setRegs r).setEv
    { s.ev with acts := s.ev.acts.filter (fun a => !hostAct a.2), msixOn := [], msixOpen := [], msixPend := [], msixTab := [] } := by
  unfold perstDone
  rw [perstDropped_eq_setRegs]
  generalize (perstDropped _).regs = r
  rw [targetsReset_eq_setRegs]
  generalize (targetsReset _).regs = r'
  exact ⟨r', rfl⟩

theorem rd_perstPort (s : State) (o : Nat) : rd (perstPort s) o = rd s o := rfl

theorem rd_perstDone {o : Nat} (ho : ¬ TargetReg o) : rd (perstDone s) o = rd (perstDropped s) o := by
  rw [perstDone, rd_setEv, rd_targetsReset ho, rd_perstPort]
  rfl

theorem rd_perstDropped {o : Nat} (hl : o ≠ R.HOST_LINK) :
    rd (perstDropped s) o = if perstReg (o % 0x400000) then regReset (o % 0x400000) else rd s o := by
  rw [perstDropped, rd_wr_ne _ _ hl, rd_dropRegs]

theorem rd_perstDropped_link (hw : Registers.wf s.regs = true) : rd (perstDropped s) R.HOST_LINK = 0 :=
  rd_wr_self (Registers.wf_filter _ hw) _ _

/-- The end of a load by a fall of `PERST_N`: the device state, the loader and the requests aside, nothing changes. -/
theorem perstEnds (u : State) : ∃ m q, (if u.dev = .laying then abortLaying u else if u.dev = .lifting then u.setMld { u.mld with pendLoad := false } else u) =
    ((u.setDev (if u.dev = .laying then .bare else u.dev)).setMld m).setEv { u.ev with reqs := q } := by
  by_cases hlaying : u.dev = .laying
  · obtain ⟨l, -, hcond⟩ := mldCond_eq_reqs ((u.setDev .bare).setMld { u.mld with image := [] }) 2
    rw [if_pos hlaying, if_pos hlaying, abortLaying, if_pos hlaying, hcond]
    exact ⟨_, _, rfl⟩
  · rw [if_neg hlaying, if_neg hlaying]
    split
    · exact ⟨{ u.mld with pendLoad := false }, u.ev.reqs, rfl⟩
    · exact ⟨u.mld, u.ev.reqs, rfl⟩

/-- What a fall of `PERST_N` answers, its registers by what was dropped. -/
theorem perstAnswer (s : State) : ∃ r m q, execPerstNAssert s = .next (((((perstPort s).setRegs r).setDev (if s.dev = .laying then .bare else s.dev)).setMld m).setEv
      { s.ev with acts := s.ev.acts.filter (fun a => !hostAct a.2), msixOn := [], msixOpen := [], msixPend := [], msixTab := [], reqs := q }) ∧
    ∀ o, ¬ TargetReg o → rd (s.setRegs r) o = rd (perstDropped s) o := by
  obtain ⟨r, hdone⟩ := perstDone_eq s
  obtain ⟨m, q, hend⟩ := perstEnds (perstDone s)
  refine ⟨r, m, q, (execPerstNAssert_eq s).trans (next_congr (hend.trans ?_)), fun o ho => ?_⟩
  case refine_1 =>
    rw [hdone]
    rfl
  case refine_2 =>
    rw [← rd_perstDone ho, hdone]
    rfl

/-- Settles O18: the registers are dropped, the port's own parts emptied, the targets reset, and a load under way aborted. -/
theorem perstStopsTheHostPort : Obligations.PerstStopsTheHostPort := by
  unfold Obligations.PerstStopsTheHostPort
  intro s hs
  obtain ⟨r, m, q, hrow, hrd⟩ := perstAnswer s
  obtain ⟨hqueue, hcanon⟩ := exec_keeps_queue_and_canonical (c := .perstNAssert) hs hrow
  refine ⟨_, hrow, hcanon, hqueue, rfl, rfl, rfl, rfl, rfl, rfl, rfl, rfl, rfl, rfl, rfl, rfl, rfl, rfl, rfl, rfl, fun o ho => ?_, fun o hno hto hl => ?_, ?_⟩
  all_goals refine (rd_of_regs_eq (s := s.setRegs r) rfl _).trans ?_
  case refine_1 =>
    have hreg : perstReg (o % 0x400000) = true := by
      simp only [perstReg, stagedReg, Bool.or_eq_true, decide_eq_true_eq, beq_iff_eq]
      grind
    rw [R.HOST_STAT, R.HOST_B2_DST] at ho
    have hto : ¬ TargetReg o := fun h => by
      unfold TargetReg at h
      omega
    have hl : o ≠ R.HOST_LINK := fun h => by
      rw [R.HOST_LINK] at h
      omega
    rw [hrd o hto, rd_perstDropped hl, if_pos hreg]
  case refine_2 =>
    rw [hrd o hto, rd_perstDropped hl, hno]
    rfl
  case refine_3 =>
    rw [hrd _ (by unfold TargetReg; decide)]
    exact rd_perstDropped_link hs.1

/-! ### A function-level reset -/

section Flr
variable {f : Nat}

/-- A register that a function-level reset of f drops (R538). -/
def flrReg (s : State) (f k : Nat) : Bool :=
  (k / 0x400000 == f && perFn (k % 0x400000)) || (boundTo s f).any (fun c => decide (R.HOST_DMAc_CFG c ≤ k ∧ k < R.HOST_DMAc_CFG c + 0x40)) ||
    (f == 0 && (decide (0x40 ≤ k ∧ k < 0x54) || k == R.HOST_B2_DST))

/-- The targets bound to a function. -/
def targetsOf (s : State) (f : Nat) : List Nat := (List.range 8).filter (fun t => tgtBoundTo s t f)

/-- The sources of the targets bound to f no longer active, those targets in reset (R558). -/
def flrTargets (s u : State) (f : Nat) : State :=
  (List.range 512).foldl (fun t n => if srcActive t n && (targetsOf s f).contains (srcTarget t n) then setActive t n false else t)
    ((targetsOf s f).foldl resetTarget u)

/-- The MSI-X entries of a function gone (R538). -/
def msixWithout (e : Ev) (f : Nat) : Ev :=
  { e with
    msixOn := e.msixOn.filter (· ≠ f), msixOpen := e.msixOpen.filter (fun k => k / 8 ≠ f)
    msixPend := e.msixPend.filter (fun k => k / 8 ≠ f), msixTab := e.msixTab.filter (fun e => e.1 / 8 ≠ f) }

/-- What a function-level reset answers: behind the function's own parts p, its targets and its MSI-X entries. -/
theorem flrAnswer (s : State) (fn : BitVec 6) : ∃ p, execFunctionLevelReset fn s =
      .next ((flrTargets s p fn.toNat).setEv (msixWithout (flrTargets s p fn.toNat).ev fn.toNat)) ∧
    p.regs = (dropRegs s (flrReg s fn.toNat)).regs ∧ p.mld = s.mld ∧ p.srch = s.srch ∧ p.tb = s.tb ∧ p.aud = s.aud ∧ p.strm = s.strm ∧ p.fwd = s.fwd ∧
    p.pwr = s.pwr ∧ p.upd = { s.upd with asm := SMap.del s.upd.asm fn.toNat } ∧ p.mix = { s.mix with asm := SMap.del s.mix.asm fn.toNat } ∧
    p.hp.ind = SMap.del s.hp.ind fn.toNat ∧ p.hp.staged = s.hp.staged.filter (fun e => e.1 / 2 ^ 30 != fn.toNat) ∧
    p.hp.copying = s.hp.copying.filter (fun e => !(boundTo s fn.toNat).contains e.1) ∧ p.hp.vfs = (if fn.toNat = 0 then 0 else s.hp.vfs) ∧
    p.eth = { s.eth with egress := s.eth.egress.map (fun g => match g.host with
      | some h => if (boundTo s fn.toNat).contains h.1 then { g with host := none } else g
      | none => g) } ∧ p.ev = s.ev := by
  unfold execFunctionLevelReset flrTargets targetsOf boundTo
  exact ⟨_, rfl, rfl, rfl, rfl, rfl, rfl, rfl, rfl, rfl, rfl, rfl, rfl, rfl, rfl, rfl, rfl, rfl⟩

theorem flrTargets_eq_setRegs (s u : State) (f : Nat) : flrTargets s u f = u.setRegs (flrTargets s u f).regs := by
  refine eq_setRegs_trans (foldl_eq_setRegs resetTarget_eq_setRegs _ u) (foldl_eq_setRegs (fun t n => ?_) _ _)
  split <;> rfl

theorem setEv_flrTargets (s u : State) (f : Nat) : (flrTargets s u f).setEv (msixWithout (flrTargets s u f).ev f) =
    (u.setRegs (flrTargets s u f).regs).setEv (msixWithout u.ev f) := by
  have hev : (flrTargets s u f).ev = u.ev := by rw [flrTargets_eq_setRegs, State.setRegs_ev]
  rw [hev]
  exact congrArg (fun x : State => x.setEv (msixWithout u.ev f)) (flrTargets_eq_setRegs s u f)

theorem rd_flrTargets {o : Nat} (ho : ¬ TargetReg o) : rd (flrTargets s u f) o = rd u o := by
  refine (rd_foldl _ (fun t n hn => ?_) _).trans (rd_foldl _ (fun t n hn => ?_) u)
  case refine_1 =>
    split
    · exact rd_setActive false (List.mem_range.1 hn) ho
    · rfl
  case refine_2 => exact rd_resetTarget (List.mem_range.1 (List.mem_filter.1 hn).1) ho

theorem flrReg_own {o : Nat} (h : o / 0x400000 = f) (hp : perFn (o % 0x400000) = true) : flrReg s f o = true := by
  rw [flrReg, h, hp, beq_self_eq_true]
  rfl

theorem flrReg_channel {c o : Nat} (hc : c ∈ boundTo s f) (h : R.HOST_DMAc_CFG c ≤ o) (h' : o < R.HOST_DMAc_CFG c + 0x40) : flrReg s f o = true := by
  rw [flrReg, show (boundTo s f).any (fun c => decide (R.HOST_DMAc_CFG c ≤ o ∧ o < R.HOST_DMAc_CFG c + 0x40)) = true from
    List.any_eq_true.2 ⟨c, hc, decide_eq_true ⟨h, h'⟩⟩, Bool.or_true]
  rfl

theorem flrReg_pf {o : Nat} (h : (0x40 ≤ o ∧ o < 0x54) ∨ o = R.HOST_B2_DST) : flrReg s 0 o = true := by
  simp only [flrReg, Bool.or_eq_true, Bool.and_eq_true, decide_eq_true_eq, beq_iff_eq]
  exact .inr ⟨trivial, h⟩

theorem flrReg_other {o : Nat} (h : o / 0x400000 ≠ f) (hc : ¬ (R.HOST_DMAc_CFG 0 ≤ o ∧ o < R.HOST_DMAc_CFG 8)) (hw : ¬ (0x40 ≤ o ∧ o < 0x54))
    (hb : o ≠ R.HOST_B2_DST) : flrReg s f o = false := by
  rw [Bool.eq_false_iff]
  intro hreg
  simp only [flrReg, Bool.or_eq_true, Bool.and_eq_true, decide_eq_true_eq, beq_iff_eq, List.any_eq_true] at hreg
  rcases hreg with (⟨hown, -⟩ | ⟨c, hbound, hlo, hhi⟩) | ⟨-, hpf⟩
  · exact h hown
  · have hc8 : c < 8 := List.mem_range.1 (List.mem_filter.1 hbound).1
    rw [R.HOST_DMAc_CFG] at hlo hhi
    rw [R.HOST_DMAc_CFG, R.HOST_DMAc_CFG] at hc
    omega
  · exact hpf.elim hw hb

theorem not_targetReg_of_perFn {o : Nat} (h : perFn (o % 0x400000) = true) : ¬ TargetReg o := fun ho => by
  simp only [perFn, Bool.or_eq_true, decide_eq_true_eq, beq_iff_eq] at h
  rw [R.UPD_FLUSH, R.UPD_DONE] at h
  unfold TargetReg at ho
  omega

end Flr

/-- Settles O19: the dropped registers, the function's own parts, and the targets bound to it. -/
theorem functionLevelResetIsItsOwn : Obligations.FunctionLevelResetIsItsOwn := by
  unfold Obligations.FunctionLevelResetIsItsOwn
  intro s fn hs
  obtain ⟨p, hrow, hregs, hmld, hsrch, htb, haud, hstrm, hfwd, hpwr, hupd, hmix, hind, hstaged, hcopying, hvfs, heth, hev⟩ := flrAnswer s fn
  have hrd : ∀ o, ¬ TargetReg o → rd ((flrTargets s p fn.toNat).setEv (msixWithout (flrTargets s p fn.toNat).ev fn.toNat)) o =
      if flrReg s fn.toNat o then regReset (o % 0x400000) else rd s o := fun o ho => by
    rw [rd_setEv, rd_flrTargets ho, rd_of_regs_eq hregs, rd_dropRegs]
  have hkeep := keepsMain_of_kept (execFunctionLevelReset_kept (kept_main hs)) hrow
  have hzero : fn.toNat = 0 ↔ fn = 0 := ⟨fun h => BitVec.eq_of_toNat_eq h, fun h => by rw [h]; rfl⟩
  refine ⟨_, hrow, hkeep, ?_⟩
  generalize hout : (flrTargets s p fn.toNat).setEv (msixWithout (flrTargets s p fn.toNat).ev fn.toNat) = t at hrd
  have ht : ∃ r, t = (p.setRegs r).setEv (msixWithout p.ev fn.toNat) := by
    rw [← hout]
    exact ⟨_, setEv_flrTargets ..⟩
  obtain ⟨r, rfl⟩ := ht
  refine ⟨hmld, hsrch, htb, haud, hstrm, hfwd, hpwr, hupd, hmix, hind, hstaged, hcopying, hvfs.trans ?_, heth, ?_, ?_, ?_, ?_, fun c hc8 hc o hlo hhi => ?_,
    fun h0 => ⟨?_, fun o hlo hhi => ?_⟩, fun o hown hper => ?_, fun o hown hc hw hb hto => ?_⟩
  case refine_1 => exact ite_cond_congr hzero
  case refine_6 =>
    rw [hrd o, flrReg_channel hc hlo hhi]
    · exact if_pos rfl
    · unfold TargetReg
      rw [R.HOST_DMAc_CFG] at hlo hhi
      omega
  case refine_7 =>
    rw [hrd _ (by unfold TargetReg; decide), hzero.2 h0, flrReg_pf (.inr rfl)]
    exact if_pos rfl
  case refine_8 =>
    rw [hrd o (by unfold TargetReg; omega), hzero.2 h0, flrReg_pf (.inl ⟨hlo, hhi⟩), if_pos rfl, Nat.mod_eq_of_lt (by omega)]
  case refine_9 =>
    rw [hrd o (not_targetReg_of_perFn hper), flrReg_own hown hper]
    exact if_pos rfl
  case refine_10 =>
    rw [hrd o hto, flrReg_other hown hc hw hb]
    exact if_neg Bool.false_ne_true
  all_goals
    rw [← hev]
    rfl

/-! ### The image -/

theorem layBytes_fold (l : List (Nat × List Byte)) (s : State) : (l.foldl layBytes s).dst = l.foldl (fun d w => dstPutBytes d w.1 w.2) s.dst ∧
    l.foldl layBytes s = (s.setDst (l.foldl layBytes s).dst).setDste { s.dste with writeBack := (l.foldl layBytes s).dste.writeBack } := by
  induction l generalizing s with
  | nil => exact ⟨rfl, rfl⟩
  | cons w l ih =>
    obtain ⟨hdst, hall⟩ := ih (layBytes s w)
    exact ⟨hdst, hall.trans rfl⟩

theorem layStore_of_ready {img : List Byte} {old : Nat} (h : s.pwr.dram = .ready) :
    layStore s img old = (layStoreFrom img old (min 4096 (imgSections img)) 32).foldl layBytes s := if_pos h

/-- What the report of a refused image says. -/
def reportWords (r : Report) : List (Nat × Word) :=
  [(R.MLD_REFUSE, BitVec.ofNat 32 r.code), (R.MLD_ITEM, BitVec.ofNat 32 (r.sec % 65536 * 65536 + r.idx % 65536)),
    (R.MLD_NEED, BitVec.ofNat 32 r.need), (R.MLD_HAVE, BitVec.ofNat 32 r.have_)]

theorem nodup_reportWords (r : Report) : ((reportWords r).map Prod.fst).Nodup := by
  simp [reportWords, R.MLD_REFUSE, R.MLD_ITEM, R.MLD_NEED, R.MLD_HAVE]

theorem wrAll_mld (s : State) (l : List (Nat × Word)) : (wrAll s l).mld = s.mld := by rw [wrAll_eq_setRegs, State.setRegs_mld]

theorem mldCond_regs (s : State) (bits : Nat) : (mldCond s bits []).regs = s.regs := by
  obtain ⟨l, -, h⟩ := mldCond_eq_reqs s bits
  rw [h, State.setEv_regs]

theorem execCheckingEnd_of_refused {r : Report} (hd : s.dev = .checking) (h : checkImage s s.mld.image = .inl r) : execCheckingEnd s =
    .next (mldCond ((wrAll (s.setDev .refused) (reportWords r)).setMld { s.mld with image := [] }) 1 []) := by
  refine next_congr ((if_pos hd).trans ?_)
  rw [checkingEnd, h]
  dsimp only
  rw [wrAll_mld, State.setDev_mld]
  all_goals rfl

theorem execCheckingEnd_of_passed (hd : s.dev = .checking) (h : checkImage s s.mld.image = .inr u) :
    execCheckingEnd s = .next (enterLaid u (mouldOf s.mld.image).events) := by
  refine next_congr ((if_pos hd).trans ?_)
  rw [checkingEnd, h]

theorem checkImage_passed {bs : List Byte} (h : checkImage s bs = .inr u) : u = layTrial s (mouldOf bs) (imgDigest bs) := by
  unfold checkImage at h
  split at h
  · exact absurd h (by simp)
  · dsimp only at h
    split at h
    · exact absurd h (by simp)
    · exact (Sum.inr.inj h).symm

/-- What is said of the device that enters LAID. -/
def Keep.laid (s : State) : Keep :=
  { queue := s.pending, dev := (· = .laid), num := (· = 0), mem := (· = s.dst), mld := fun _ => True, mgt := fun _ => True }

theorem kept_enterLaid (hs : Canonical s) (m : Mould) (digest : Nat) (events : List Word) : Kept (Keep.laid s) (enterLaid (layTrial s m digest) events) := by
  have k : Kept (Keep.laid s).anyNum (s.setDev .laid) := ⟨rfl, hs.1, hs.2, rfl, trivial, rfl, trivial, trivial⟩
  exact enterLaid_kept (layTrial_kept (s := s.setDev .laid) (m := m) (digest := digest) k rfl fun _ => trivial) rfl fun _ => trivial

/-- Settles O16: the bytes arrive, are laid, and the image is judged; each is one case of its row. -/
theorem imageIsReadCheckedAndLaid : Obligations.ImageIsReadCheckedAndLaid := by
  unfold Obligations.ImageIsReadCheckedAndLaid
  intro s hs
  refine ⟨?_, fun img old => ⟨fun h => if_neg h, fun h => ?_⟩, fun bytes h => next_congr (if_neg h), fun h => next_congr (if_pos h), fun h => next_congr (if_neg h),
    fun h => next_congr (if_neg h), fun r hd h => ?_, fun u hd h => ?_, fun u b _ => mldCond_eq_reqs u b⟩
  case refine_1 =>
    intro bytes hd img m u v himg hm hu hv
    subst himg hm hu hv
    refine ⟨fun hlen => next_congr ((if_pos hd).trans (if_pos hlen)), fun hlen => ⟨List.take_of_length_le ?_, next_congr ((if_pos hd).trans (if_neg (Nat.not_le.2 hlen)))⟩⟩
    rw [List.length_append]
    exact Nat.le_of_lt hlen
  case refine_2 =>
    intro t
    have ht : t = (layStoreFrom img old (min 4096 (imgSections img)) 32).foldl layBytes s := layStore_of_ready h
    rw [ht]
    exact layBytes_fold _ s
  case refine_3 =>
    have hrd : ∀ {o : Nat}, rd (mldCond ((wrAll (s.setDev .refused) (reportWords r)).setMld { s.mld with image := [] }) 1 []) o =
        rd (wrAll (s.setDev .refused) (reportWords r)) o := fun {o} => rd_of_regs_eq (mldCond_regs _ 1) o
    have hword : ∀ {o w}, (o, w) ∈ reportWords r → rd (mldCond ((wrAll (s.setDev .refused) (reportWords r)).setMld { s.mld with image := [] }) 1 []) o = w :=
      fun he => hrd.trans (rd_wrAll_of_mem (by exact hs.1) (nodup_reportWords r) he)
    refine ⟨_, execCheckingEnd_of_refused hd h, ?_, hword (by simp [reportWords]), hword (by simp [reportWords]), hword (by simp [reportWords]),
      hword (by simp [reportWords]), fun o ho => ?_⟩
    · rw [mldCond_regs, State.setMld_regs]
      exact congrArg (fun u => mldCond (State.setMld u { s.mld with image := [] }) 1 []) (wrAll_eq_setRegs (s.setDev .refused) (reportWords r))
    · exact hrd.trans (rd_wrAll_of_not_mem (s := s.setDev .refused) ho)
  case refine_4 =>
    have hu := checkImage_passed h
    have k := kept_enterLaid hs (mouldOf s.mld.image) (imgDigest s.mld.image) (mouldOf s.mld.image).events
    rw [← hu] at k
    exact ⟨hu, _, execCheckingEnd_of_passed hd h, rfl, k.dev, k.num, k.store, k.queue, k.regs, k.mem⟩

end Sys2Proof.Machine
end

section
/-! SUPPORT. Commits and their boundary (chapter 11), and O42. -/

namespace Sys2Proof.Machine

open Sys2Proof.Claims

variable {s t u : State}

/-! ### The front end of a received frame -/

/-- A frame that the front end passes is done with as its row says. -/
theorem edlFront_of_accepted {n : Nat} {bytes : List Byte} {g : EdlFrame} {go : State → EdlFrame → State} (h : Accepted s n bytes g) :
    edlFront s n (frameOf (edlGen1 s n) bytes) false go = strayGranules n (frameOf (edlGen1 s n) bytes) (go s g) := by
  obtain ⟨hc, hm, hg, he⟩ := h
  subst hg
  rw [edlFront, hc, hm]
  refine (if_neg (by decide)).trans ((if_neg (by decide)).trans ((if_neg (by decide)).trans ?_))
  exact congrArg (strayGranules n _) (if_neg (not_of_eq_false he))

/-- A frame of the kind that a row handles is delivered where it is bound to the device, and goes on. -/
theorem edlDst_of_accepted {n : Nat} {bytes : List Byte} {g : EdlFrame} {isIt : EdlFrame → Bool} {deliver : State → EdlFrame → State}
    (h : Accepted s n bytes g) (hit : isIt g = true) :
    TakenAs s n bytes (edlDst s n (frameOf (edlGen1 s n) bytes) false isIt deliver)
      (forwardOn (if (routeFrame s n g.src g.dst).1 then deliver s g else s) (edlGen1 s n) g (routeFrame s n g.src g.dst).2) := by
  refine (edlFront_of_accepted h).trans (congrArg (strayGranules n _) (if_neg ?_))
  rw [hit]
  decide

/-! ### Step 3 of a boundary -/

/-- What a carry-out writes: its target, and the tier figures of the two planes exchanged. -/
def carriedWords (s : State) (t : Nat) : List (Nat × Word) :=
  (R.SCN_DONE_T, BitVec.ofNat 32 t) ::
    (List.range 4).map (fun k => (R.MIX_TIERk_M k, rd s (R.MIX_CHK_TIERk k))) ++
    (List.range 4).map (fun k => (R.MIX_CHK_TIERk k, rd s (R.MIX_TIERk_M k)))

theorem carriedWords_keys (s : State) (t : Nat) : (carriedWords s t).map Prod.fst =
    R.SCN_DONE_T :: (List.range 4).map R.MIX_TIERk_M ++ (List.range 4).map R.MIX_CHK_TIERk := rfl

/-- The registers of the carry-out, up to the hold that it may begin. -/
def carriedRegs (s : State) (t e : Nat) : State :=
  wrAll (putSceneEpoch (wrF (setPendCommit s none) R.SCN_PLANE 0 0 (1 - activePlane s)) e) (carriedWords s t)

theorem setPendCommit_none (s : State) : setPendCommit s none =
    wrF (wrAll (s.setScn { s.scn with pend := none }) [(R.SCN_PEND_T, 0), (R.SCN_PEND, 0)]) R.SCN_PLANE 2 2 0 := rfl

theorem setPendCommit_none_pend (s : State) : (setPendCommit s none).scn.pend = none := by
  rw [setPendCommit_none, wrAll_eq_setRegs]
  rfl

theorem carriedRegs_pend (s : State) (tg e : Nat) : (carriedRegs s tg e).scn.pend = none := by
  rw [carriedRegs, wrAll_eq_setRegs]
  exact setPendCommit_none_pend s

/-- The hold that a carry-out begins, where the ramps are longer than nothing (R314). -/
def holdFrom (s : State) (tg : Nat) : State :=
  let s4 := s.setMix { s.mix with carry := some tg, badAt := [], liveAt := s.mix.live }
  if holdLength s4 = 0 then s4 else wrF (s4.setScn { s4.scn with holdEnd := some ((tg + 2 + holdLength s4) % 2 ^ 48) }) R.SCN_PLANE 1 1 1

theorem carryOut_eq (s : State) (tg e : Nat) : carryOut s tg e = setCond (holdFrom (carriedRegs s tg e) tg) R.SCN_STAT 194 1 := rfl

theorem holdFrom_pend (s : State) (tg : Nat) : (holdFrom s tg).scn.pend = s.scn.pend := by
  unfold holdFrom
  dsimp only
  split <;> rfl

theorem rd_holdFrom (s : State) (tg : Nat) {o : Nat} (ho : o ≠ R.SCN_PLANE) : rd (holdFrom s tg) o = rd s o := by
  unfold holdFrom
  dsimp only
  split
  case isTrue => rfl
  case isFalse => exact rd_wrF_ne ho

theorem activePlane_holdFrom (hw : Registers.wf s.regs = true) (tg : Nat) : activePlane (holdFrom s tg) = activePlane s := by
  unfold holdFrom
  dsimp only
  split
  case isTrue => rfl
  case isFalse =>
    refine (congrArg (fld · 0 0) (rd_wrF_self ?_ _ _ _ _)).trans (fld_setFld_of_disjoint _ _ (by decide) (by decide) (by decide))
    exact hw

theorem rd_carryOut (s : State) (tg e : Nat) {o : Nat} (ho : o ≠ R.SCN_PLANE) : rd (carryOut s tg e) o = rd (carriedRegs s tg e) o :=
  rd_holdFrom _ tg ho

theorem wf_setPendCommit_none (hw : Registers.wf s.regs = true) : Registers.wf (setPendCommit s none).regs = true := by
  rw [setPendCommit_none]
  refine wf_wrF (wf_wrAll ?_) _ _ _ _
  exact hw

theorem wf_putSceneEpoch (hw : Registers.wf s.regs = true) (e : Nat) : Registers.wf (putSceneEpoch s e).regs = true := wf_wrF hw _ _ _ _

theorem wf_carriedRegs (hw : Registers.wf s.regs = true) (tg e : Nat) : Registers.wf (carriedRegs s tg e).regs = true :=
  wf_wrAll (wf_putSceneEpoch (wf_wrF (wf_setPendCommit_none hw) _ _ _ _) e)

theorem activePlane_setPendCommit_none (hw : Registers.wf s.regs = true) : activePlane (setPendCommit s none) = activePlane s := by
  have h : rd (wrAll (s.setScn { s.scn with pend := none }) [(R.SCN_PEND_T, 0), (R.SCN_PEND, 0)]) R.SCN_PLANE = rd s R.SCN_PLANE :=
    rd_wrAll_of_not_mem (s := s.setScn { s.scn with pend := none }) (by decide)
  refine (congrArg (fld · 0 0) (rd_wrF_self (wf_wrAll ?_) _ _ _ _)).trans
    ((fld_setFld_of_disjoint _ _ (by decide) (by decide) (by decide)).trans (congrArg (fld · 0 0) h))
  exact hw

theorem activePlane_carriedRegs (hw : Registers.wf s.regs = true) (tg e : Nat) : activePlane (carriedRegs s tg e) = 1 - activePlane s := by
  have hlt := fld_lt (rd s R.SCN_PLANE) 0 0
  have h : rd (carriedRegs s tg e) R.SCN_PLANE = rd (wrF (setPendCommit s none) R.SCN_PLANE 0 0 (1 - activePlane s)) R.SCN_PLANE :=
    (rd_wrAll_of_not_mem (by rw [carriedWords_keys]; decide)).trans (rd_wrF_ne (by decide))
  rw [activePlane, rdF_congr h, rdF_wrF_self (wf_setPendCommit_none hw) _ _ (by decide) (by decide)]
  exact Nat.mod_eq_of_lt (by omega)

theorem epoch_carriedRegs (hw : Registers.wf s.regs = true) (tg e : Nat) : rdF (carriedRegs s tg e) R.SCN_EPOCH 15 0 = e % 65536 := by
  have h : rd (carriedRegs s tg e) R.SCN_EPOCH = rd (wrF (wrF (setPendCommit s none) R.SCN_PLANE 0 0 (1 - activePlane s)) R.SCN_EPOCH 15 0 e) R.SCN_EPOCH :=
    rd_wrAll_of_not_mem (by rw [carriedWords_keys]; decide)
  exact (rdF_congr h).trans (rdF_wrF_self (wf_wrF (wf_setPendCommit_none hw) _ _ _ _) _ _ (by decide) (by decide))

theorem rd_carriedRegs_of_mem (hw : Registers.wf s.regs = true) (tg e : Nat) {o : Nat} {w : Word}
    (h : (o, w) ∈ carriedWords s tg) : rd (carriedRegs s tg e) o = w := by
  refine rd_wrAll_of_mem (wf_putSceneEpoch (wf_wrF (wf_setPendCommit_none hw) _ _ _ _) e) ?_ h
  rw [carriedWords_keys]
  decide

theorem rd_carryOut_tiers (hw : Registers.wf s.regs = true) (tg e : Nat) {k : Nat} (hk : k < 4) :
    rd (carryOut s tg e) (R.MIX_TIERk_M k) = rd s (R.MIX_CHK_TIERk k) ∧ rd (carryOut s tg e) (R.MIX_CHK_TIERk k) = rd s (R.MIX_TIERk_M k) := by
  constructor
  · rw [rd_carryOut s tg e (by simp only [R.MIX_TIERk_M, R.SCN_PLANE]; omega)]
    exact rd_carriedRegs_of_mem hw tg e (List.mem_append_left _ (List.mem_cons_of_mem _ (List.mem_map.2 ⟨k, List.mem_range.2 hk, rfl⟩)))
  · rw [rd_carryOut s tg e (by simp only [R.MIX_CHK_TIERk, R.SCN_PLANE]; omega)]
    exact rd_carriedRegs_of_mem hw tg e (List.mem_append_right _ (List.mem_map.2 ⟨k, List.mem_range.2 hk, rfl⟩))

theorem carryOut_shows (hw : Registers.wf s.regs = true) (tg e : Nat) : (carryOut s tg e).scn.pend = none ∧
    activePlane (carryOut s tg e) = 1 - activePlane s ∧ rdF (carryOut s tg e) R.SCN_EPOCH 15 0 = e % 65536 ∧
    rd (carryOut s tg e) R.SCN_DONE_T = BitVec.ofNat 32 tg ∧
    (∀ k < 4, rd (carryOut s tg e) (R.MIX_TIERk_M k) = rd s (R.MIX_CHK_TIERk k) ∧ rd (carryOut s tg e) (R.MIX_CHK_TIERk k) = rd s (R.MIX_TIERk_M k)) :=
  ⟨(holdFrom_pend _ tg).trans (carriedRegs_pend s tg e),
    (activePlane_holdFrom (wf_carriedRegs hw tg e) tg).trans (activePlane_carriedRegs hw tg e),
    (rdF_congr (rd_carryOut s tg e (by decide))).trans (epoch_carriedRegs hw tg e),
    (rd_carryOut s tg e (by decide)).trans (rd_carriedRegs_of_mem hw tg e (List.mem_append_left _ List.mem_cons_self)),
    fun _ hk => rd_carryOut_tiers hw tg e hk⟩

theorem holdBoundary_of_due {e : Nat} (hw : Registers.wf s.regs = true) (h : s.scn.holdEnd = some (e % 2 ^ 48)) :
    (holdBoundary s e).scn.holdEnd = none ∧ rdB (holdBoundary s e) R.SCN_PLANE 1 = false ∧ RegsBut s (holdBoundary s e) [R.SCN_PLANE] := by
  have he : holdBoundary s e = wrF (s.setScn { s.scn with holdEnd := none }) R.SCN_PLANE 1 1 0 := by
    rw [holdBoundary, h]
    exact if_pos rfl
  rw [he]
  refine ⟨rfl, ?_, fun o ho => rd_wrF_ne (List.ne_of_not_mem_cons ho)⟩
  exact (congrArg (bit · 1) (rd_wrF_self (s := s.setScn { s.scn with holdEnd := none }) (by exact hw) _ _ _ _)).trans (bit_setFld_bit _ false (by decide))

theorem commitBoundary_of_due {e tg ep o : Nat} (hp : s.scn.pend = some (tg, ep, o)) (h : commitDue s e = true) : commitBoundary s e =
    if rdB s R.SCN_PLANE 1 then dropCommit s 5
    else if !rdB s R.MIX_CHK_CTL 29 || rdB s R.MIX_CHK_CTL 30 then dropCommit s 4 else carryOut s tg ep := by
  rw [commitBoundary, hp]
  exact if_pos h

/-! ### Judging a commit -/

theorem submitCommit_of_newer {tg e src : Nat} {margin : Bool} (hd : s.dev = .laid) (hn : newerEpoch s e = true) : submitCommit s tg e src margin =
    if margin && (decide (modDist 48 tg s.dkl.num < rdF s R.SCN_CFG 7 0) || decide (2 ^ 47 ≤ modDist 48 tg s.dkl.num)) then
      commitFail s 1 tg e src else acceptCommit s tg e src := by
  refine (if_neg (not_not_intro hd)).trans (if_neg ?_)
  rw [hn]
  decide

theorem landAct_frameCommit (s : State) (src target epoch : Nat) (gen1 : Bool) : landAct s (src, .frameCommit gen1 target epoch) =
    if gen1 then gen1Commit s 2 else submitCommit s target epoch 2 true := rfl

/-- Settles O42: the commit's rows, its judgement, and step 3 of a boundary. -/
theorem commitsAreJudgedAndCarriedOut : Obligations.CommitsAreJudgedAndCarriedOut := by
  unfold Obligations.CommitsAreJudgedAndCarriedOut
  intro s hs
  have hcarry := boundaryRow (x := exec .commitCarryOut s) (cause := commitDue s (tickNumber s)) hs rfl
  have hhold := boundaryRow (x := exec .holdEnd s) (cause := s.scn.holdEnd == some (tickNumber s)) hs rfl
  obtain ⟨hcarry1, hcarry2, hcarry3⟩ := hcarry
  obtain ⟨hhold1, hhold2, hhold3⟩ := hhold
  refine ⟨?write, ?host, ?frame, fun src target epoch => ⟨(landAct_frameCommit s src target epoch false).trans (if_neg (by decide)), (landAct_frameCommit s src target epoch true).trans (if_pos rfl)⟩, fun src => rfl, ?gen1, ?judged,
    hcarry1, hcarry3, fun hdue h => hhold1 hdue (beq_iff_eq.2 h), fun h => hhold3 (h.imp_right beq_false_of_ne),
    fun hgo => ⟨boundary_of_goesOn hs hgo, hcarry2 hgo, fun h => hhold2 hgo (beq_iff_eq.2 h)⟩, rfl, fun e => rfl, ?held, ?due⟩
  case write =>
    intro fn v u
    exact ⟨fun ha => next_congr (if_neg (not_of_eq_false ha)), fun ha hgo => next_congr ((if_pos ha).trans (if_neg (not_of_eq_false hgo))),
      fun ha hgo => next_congr ((if_pos ha).trans (if_pos hgo))⟩
  case host => exact rfl
  case frame =>
    intro n bytes g hacc htype hsub r u
    refine ⟨_, rfl, keepsMain_of_kept (execCommitFrame_kept (n := n) (frame := bytes) (uncorr := false) (kept_main hs)) rfl, ?_⟩
    exact edlDst_of_accepted hacc (by rw [htype, hsub]; rfl)
  case gen1 => exact fun tg e src hd hn => (submitCommit_of_newer hd hn).trans (if_neg Bool.false_ne_true)
  case judged =>
    refine fun tg e src margin => ⟨fun hd => if_pos hd, fun hd hn => (if_neg (not_not_intro hd)).trans (if_pos ?_),
      fun hd hn hlate => (submitCommit_of_newer hd hn).trans (if_pos ?_), fun hd hn hm hp => (submitCommit_of_newer hd hn).trans (if_neg ?_)⟩
    · rw [hn]
      rfl
    · simpa using hlate
    · simpa using ⟨hm, hp⟩
  case held =>
    refine fun h e hh => ⟨fun he => holdBoundary_of_due hs.1 (hh.trans (congrArg some he)), fun he => ?_⟩
    rw [holdBoundary, hh]
    exact if_neg he
  case due =>
    intro tg ep o e hp hdue
    rw [commitBoundary_of_due hp hdue]
    refine ⟨fun hhold => if_pos hhold, fun hhold hchk => (if_neg (not_of_eq_false hhold)).trans (if_pos ?_),
      fun hhold hvalid hplane => ⟨(if_neg (not_of_eq_false hhold)).trans (if_neg ?_), carryOut_shows hs.1 tg ep⟩⟩
    · rcases hchk with h | h <;> rw [h]
      · rfl
      · exact Bool.or_true _
    · rw [hvalid, hplane]
      decide

end Sys2Proof.Machine
end

section
/-! SUPPORT. The Edarlink ports as the host and the link reach them (chapter 14), and O43 to O46. -/

namespace Sys2Proof.Machine

open Sys2Proof.Claims

variable {s t u : State}

/-! ### A flow descriptor that finds no room -/

/-- A LAID device whose PF0 has staged an enabled receive flow of one channel, four deckles late, and that holds no receive bytes for it. -/
def roomlessFlow : State :=
  wr ((State.reset.setPwr { State.reset.pwr with link := true, bare := true }).setDev .laid) (R.EDL_FLOW_Dm 0) 0x40001

theorem canonical_roomlessFlow : Canonical roomlessFlow := by
  unfold Canonical
  decide

/-- Refutes O46: an enabled receive flow for which the device declares no receive bytes is refused with code 3, and the refusal also requests the
condition of a refused runtime addition, so that the row leaves more than the code in the control register. -/
theorem not_edarlinkByHost : ¬ Obligations.EdarlinkByHost := by
  unfold Obligations.EdarlinkByHost
  intro h
  obtain ⟨-, -, hflow, -⟩ := h roomlessFlow 0 0 0 canonical_roomlessFlow
  obtain ⟨-, t, hrow, -, hrefused, -⟩ := hflow true 0 (.inl (by decide)) (by decide)
  have ht : t = flowRow roomlessFlow 0 true true 0 := (Host.Outcome.next.inj hrow).symm
  have hsaid : t.ev.reqs.length = 0 := by
    rw [hrefused (by decide)]
    rfl
  have hdone : t.ev.reqs.length = 1 := by
    rw [ht]
    decide
  omega

/-! ### The states of a link -/

/-- The port heeds a page that arrives. -/
def heeds (s : State) (i : Nat) : Bool := decide (s.dev = .laid) && (edlState s i == 1 || edlState s i == 5 || edlState s i == 6)

theorem heeds_of_parley {i : Nat} (hd : s.dev = .laid) (h : edlState s i = 1 ∨ edlState s i = 5 ∨ edlState s i = 6) : heeds s i = true := by
  rw [heeds, decide_eq_true hd]
  rcases h with h | h | h <;> rw [h] <;> rfl

theorem not_heeds {i : Nat} (h : s.dev ≠ .laid ∨ (edlState s i ≠ 1 ∧ edlState s i ≠ 5 ∧ edlState s i ≠ 6)) : heeds s i = false := by
  rcases h with h | ⟨h1, h5, h6⟩
  · rw [heeds, decide_eq_false h]
    rfl
  · rw [heeds, beq_false_of_ne h1, beq_false_of_ne h5, beq_false_of_ne h6]
    exact Bool.and_false _

theorem pageArrives_of_not_heeds {i lane : Nat} {bs : List Byte} (h : heeds s i = false) : pageArrives s i lane bs = s := if_pos (not_eq_true_of_false h)

/-- The lanes known to be good once a page has come on one. -/
def lanesAfter (s : State) (i lane : Nat) (bs : List Byte) : Nat :=
  if bs.length == 64 && crcGood bs && lef bs 0 1 == 0xA5 then (edlP s i).lanes ||| 2 ^ lane else (edlP s i).lanes - ((edlP s i).lanes &&& 2 ^ lane)

theorem pageArrives_of_other_lane {i lane : Nat} {bs : List Byte} (h : heeds s i = true) (hl : lane ≠ 0) : pageArrives s i lane bs =
    if parleyDone { edlP s i with lanes := lanesAfter s i lane bs } && edlState s i != 5 then
      judgePages (setEdl s i { edlP s i with lanes := lanesAfter s i lane bs }) i else setEdl s i { edlP s i with lanes := lanesAfter s i lane bs } :=
  (if_neg (not_of_eq_true h)).trans (if_pos hl)

theorem pageArrives_of_bad {i : Nat} {bs : List Byte} (h : heeds s i = true) (hg : (bs.length == 64 && crcGood bs && lef bs 0 1 == 0xA5) = false) :
    pageArrives s i 0 bs = setEdl s i { edlP s i with lanes := lanesAfter s i 0 bs, equal := if (edlP s i).accepted then (edlP s i).equal else 0 } :=
  (if_neg (not_of_eq_true h)).trans ((if_neg (not_not_intro rfl)).trans (if_pos (not_eq_true_of_false hg)))

/-- Whether the page that comes on lane 0 is accepted. -/
def pageAccepted (s : State) (i : Nat) (bs : List Byte) : Bool :=
  !(lef bs 2 2 % 4096 == devId s) && (((edlP s i).page == pageNorm bs && (edlP s i).accepted) ||
    decide (3 ≤ if (edlP s i).page == pageNorm bs then min 3 ((edlP s i).equal + 1) else 1))

/-- The port once a good page has come on lane 0. -/
def pagePort (s : State) (i : Nat) (bs : List Byte) : EdlPort :=
  { edlP s i with
    lanes := lanesAfter s i 0 bs, page := pageNorm bs, equal := if (edlP s i).page == pageNorm bs then min 3 ((edlP s i).equal + 1) else 1
    accepted := pageAccepted s i bs, ackSent := pageAccepted s i bs && (edlP s i).ackSent, gotAck := bit (BitVec.ofNat 32 (lef bs 1 1)) 6 }

/-- The state once a good page has come on lane 0, before the modes are judged. -/
def pageTaken (s : State) (i : Nat) (bs : List Byte) : State :=
  let u := wrF (setEdl s i (pagePort s i bs)) (R.EDL_PORTn_LINK i) 7 7 0
  let w := if lef bs 2 2 % 4096 == devId s then healCond u i 6 else u
  if pageAccepted s i bs then wrF w (R.EDL_PORTn_LINK i) 27 16 (lef bs 2 2) else w

theorem pageArrives_of_good {i : Nat} {bs : List Byte} (h : heeds s i = true) (hg : (bs.length == 64 && crcGood bs && lef bs 0 1 == 0xA5) = true) :
    pageArrives s i 0 bs = if parleyDone (pagePort s i bs) && edlState s i != 5 then judgePages (pageTaken s i bs) i
      else if edlState s i = 6 then wrF (pageTaken s i bs) (R.EDL_PORTn_LINK i) 2 0 1 else pageTaken s i bs :=
  (if_neg (not_of_eq_true h)).trans ((if_neg (not_not_intro rfl)).trans (if_neg (not_of_eq_true hg)))

/-- A trained port that loses its link parleys again. -/
theorem loss_of_trained {i cause : Nat} {cut : Option (List Byte)} (h : trained s i = true) (hc : cause ≠ 5) : loss s i cause cut =
    parley (edlCond (wr (dropJoin (cutHeader s i cut) i) (R.EDL_PORTn_LOSS i) (BitVec.ofNat 32 (s.dkl.num % 65536 * 65536 + cause))) i 1) i :=
  (if_neg (not_of_eq_true h)).trans (if_neg hc)

theorem loss_of_not_trained {i cause : Nat} {cut : Option (List Byte)} (h : trained s i = false) : loss s i cause cut = s := if_pos (not_eq_true_of_false h)

/-- A row that brings a loss of the link ends the link of a trained port, and no other. -/
theorem lossRow {x : Host.Outcome State Fault Refusal} {i cause : Nat} {cut : Option (List Byte)} (hk : KeptN (Keep.main s) x)
    (hx : x = .next (loss s i cause cut)) (hc : cause ≠ 5) :
    (trained s i = false → x = .next s) ∧
    (trained s i = true → ∃ t, x = .next t ∧ KeepsMain s t ∧
      t = parley (edlCond (wr (dropJoin (cutHeader s i cut) i) (R.EDL_PORTn_LOSS i) (BitVec.ofNat 32 (s.dkl.num % 65536 * 65536 + cause))) i 1) i) :=
  ⟨fun h => hx.trans (next_congr (loss_of_not_trained h)), fun h =>
    ⟨_, hx.trans (next_congr (loss_of_trained h hc)), keepsMain_of_kept hk (hx.trans (next_congr (loss_of_trained h hc))), rfl⟩⟩

/-- Settles O43: each row of a port's link is one branch of its function. -/
theorem edarlinkLinkStates : Obligations.EdarlinkLinkStates := by
  unfold Obligations.EdarlinkLinkStates
  intro s n hs i
  have k := kept_main hs
  refine ⟨fun hd hr h0 => ?start, fun h => ?stays, ?page, fun hd h5 => ?retry, fun h => ?noRetry,
    fun h2 href => ?success, fun h2 => ?timeout, fun h => ?noSuccess, fun h2 => ?noTimeout, fun cut q hq => ?lost, fun h => ?noLock, fun h3 hst hne => ?lock⟩
  case start =>
    have hrow : exec (.parleyStart n) s = .next (parley s i) := next_congr ((if_pos hd).trans (if_pos ⟨hr, h0⟩))
    exact ⟨_, hrow, keepsMain_of_kept (execParleyStart_kept k) hrow, rfl⟩
  case stays =>
    by_cases hd : s.dev = .laid
    · exact next_congr ((if_pos hd).trans (if_neg (by grind)))
    · exact next_congr (if_neg hd)
  case page =>
    intro lane page st p good lanes
    refine ⟨fun h => next_congr (pageArrives_of_not_heeds (not_heeds h)), fun hd hst => ?_⟩
    have hh := heeds_of_parley hd hst
    refine ⟨fun hl => ?_, fun hl hg => ?_, fun hl hg => ?_⟩
    case refine_1 =>
      have hl' : lane.toNat ≠ 0 := fun h => hl (BitVec.eq_of_toNat_eq h)
      have hrow : exec (.capabilityPage n lane page) s = .next _ := next_congr (pageArrives_of_other_lane hh hl')
      exact ⟨_, hrow, keepsMain_of_kept (execCapabilityPage_kept k) hrow, rfl⟩
    case refine_2 =>
      subst hl
      exact next_congr (pageArrives_of_bad hh hg)
    case refine_3 =>
      intro same eq dup acc q u w v
      subst hl
      have hrow : exec (.capabilityPage n 0 page) s = .next _ := next_congr (pageArrives_of_good hh hg)
      exact ⟨_, hrow, keepsMain_of_kept (execCapabilityPage_kept k) hrow, rfl⟩
  case retry =>
    have hrow : exec (.nomodeRetry n) s = .next (parley (setEdl s i { edlP s i with failed := 0 }) i) := next_congr (if_pos ⟨hd, h5⟩)
    exact ⟨_, hrow, keepsMain_of_kept (execNomodeRetry_kept k) hrow, rfl⟩
  case noRetry => exact next_congr (if_neg (by grind))
  case success => exact next_congr (if_pos ⟨h2, href⟩)
  case timeout =>
    have hrow : exec (.trainingTimeout n) s = .next (parley (setEdl s i { edlP s i with failed := (edlP s i).failed ||| 2 ^ (edlMode s i - 1) }) i) :=
      next_congr (if_pos h2)
    exact ⟨_, hrow, keepsMain_of_kept (execTrainingTimeout_kept k) hrow, rfl⟩
  case noSuccess =>
    refine next_congr (if_neg fun h' => ?_)
    rcases h with h | h
    · exact h h'.1
    · exact absurd (h'.2.symm.trans h) (by decide)
  case noTimeout => exact next_congr (if_neg h2)
  case lost =>
    simp only [List.mem_cons, List.not_mem_nil, or_false] at hq
    rcases hq with rfl | rfl | rfl
    · exact lossRow (cause := 1) (execLossOfSignal_kept k) rfl (by decide)
    · exact lossRow (cause := 2) (execLossOfLock_kept k) rfl (by decide)
    · exact lossRow (cause := 3) (execMarkerMissing_kept k) rfl (by decide)
  case noLock =>
    by_cases h' : tbDisc s = 3 ∧ (tbDstate s = 2 ∨ tbDstate s = 4)
    · refine next_congr ((if_pos h').trans (if_neg ?_))
      rw [bne_iff_ne, ne_eq, Classical.not_not]
      grind
    · exact next_congr (if_neg h')
  case lock =>
    have hrow : exec .lockChange s = .next (lockReport (rdB s R.TB_DISC 8) (countLock s)) :=
      next_congr ((if_pos ⟨h3, hst⟩).trans (if_pos (bne_iff_ne.2 hne)))
    exact ⟨_, hrow, keepsMain_of_kept (execLockChange_kept k) hrow, rfl⟩

/-! ### Frames from the ring -/

section Front
variable {n : Nat} {f : EdlFrame} {uncorr : Bool} {go : State → EdlFrame → State}

theorem edlFront_of_shut (h : carries s n = false) : edlFront s n f uncorr go = s := if_pos (not_eq_true_of_false h)

theorem edlFront_of_uncorr (h : carries s n = true) : edlFront s n f true go = edlCond (cutFrame s n f) n 5 :=
  (if_neg (not_of_eq_true h)).trans (if_pos rfl)

theorem edlFront_of_malformed (h : carries s n = true) (hm : malformed s n f = true) : edlFront s n f false go = edlCond s n 4 :=
  (if_neg (not_of_eq_true h)).trans ((if_neg Bool.false_ne_true).trans (if_pos hm))

theorem edlFront_of_stale (h : carries s n = true) (hm : malformed s n f = false)
    (he : (epochBound (normFrame s n f) && !edlGen1 s n && leaseStale s (normFrame s n f).src (normFrame s n f).lepoch) = true) :
    edlFront s n f false go = strayGranules n f (pairCond s 4) :=
  (if_neg (not_of_eq_true h)).trans ((if_neg Bool.false_ne_true).trans ((if_neg (not_of_eq_false hm)).trans (congrArg (strayGranules n f) (if_pos he))))

end Front

/-- Every row by which a frame arrives goes through the front end. -/
theorem exec_of_ringRow {n : BitVec 2} {bytes : List Byte} {uncorr : Bool} {c : Instr} (h : c ∈ ringRows n bytes uncorr) :
    ∃ go, exec c s = .next (edlFront s n.toNat (frameOf (edlGen1 s n.toNat) bytes) uncorr go) := by
  simp only [ringRows, List.mem_cons, List.not_mem_nil, or_false] at h
  rcases h with rfl | rfl | rfl | rfl | rfl | rfl | rfl | rfl | rfl | rfl <;> exact ⟨_, rfl⟩

theorem exec_ethChunk_good (s : State) (n : BitVec 2) (bytes : List Byte) : ∃ go, exec (.ethChunk n bytes false) s =
    .next (edlFront s n.toNat (frameOf (edlGen1 s n.toNat) bytes) false go) := by
  refine ⟨_, next_congr (?_ : _ = edlFront s _ _ _ fun u g => if g.type = 4 then chunkTake u n.toNat g else u)⟩
  exact congrArg (fun t => edlFront t n.toNat _ false _) (if_neg (by rw [Bool.and_false]; decide))

theorem exec_of_good_row {n : BitVec 2} {bytes : List Byte} {c : Instr} (h : c ∈ Instr.ethChunk n bytes false :: ringRows n bytes false) :
    ∃ go, exec c s = .next (edlFront s n.toNat (frameOf (edlGen1 s n.toNat) bytes) false go) := by
  rcases List.mem_cons.1 h with rfl | h
  · exact exec_ethChunk_good s n bytes
  · exact exec_of_ringRow h

theorem carries_dropJoin (s : State) (i j : Nat) : carries (dropJoin s i) j = carries s j := by
  unfold dropJoin
  split <;> rfl

theorem edlUp_of_carries {i : Nat} (h : carries s i = true) : edlUp s i = true := (Bool.and_eq_true_iff.1 h).1

/-- A frame that passes the front end of a row that only looks at its type is done with. -/
theorem front_of_accepted {n : Nat} {bytes : List Byte} {g : EdlFrame} {p : Prop} [Decidable p] {a : State} (h : Accepted s n bytes g) (hp : p)
    {go : State → EdlFrame → State} (hgo : go s g = if p then a else s) : TakenAs s n bytes (edlFront s n (frameOf (edlGen1 s n) bytes) false go) a :=
  (edlFront_of_accepted h).trans (congrArg (strayGranules n _) (hgo.trans (if_pos hp)))

/-! ### The receive box -/

/-- The words of a mailbox frame. -/
def boxWords (g : EdlFrame) (k : Nat) : SMap Word :=
  (List.range k).foldl (fun m w => SMap.putD 0 m w (BitVec.ofNat 32 (lef g.payload (4 * w) 4))) ([] : SMap Word)

theorem boxWords_succ (g : EdlFrame) (k : Nat) : boxWords g (k + 1) = SMap.putD 0 (boxWords g k) k (BitVec.ofNat 32 (lef g.payload (4 * k) 4)) := by
  rw [boxWords, List.range_succ, List.foldl_append]
  rfl

theorem sorted_boxWords (g : EdlFrame) (k : Nat) : SMap.sorted (boxWords g k) = true := by
  induction k with
  | zero => rfl
  | succ k ih =>
    rw [boxWords_succ]
    exact SMap.sorted_putD _ _ _ ih

theorem getD_boxWords (g : EdlFrame) {k w : Nat} (h : w < k) : SMap.getD (boxWords g k) w 0 = BitVec.ofNat 32 (lef g.payload (4 * w) 4) := by
  induction k with
  | zero => omega
  | succ k ih =>
    rw [boxWords_succ]
    rcases Nat.lt_succ_iff_lt_or_eq.1 h with h | rfl
    · rw [SMap.getD_putD_ne _ _ _ _ (by omega), ih h]
    · exact SMap.getD_putD_same _ _ _ (sorted_boxWords g w)

theorem strayGranules_regs (n : Nat) (f : EdlFrame) (s : State) : (strayGranules n f s).regs = s.regs := by
  unfold strayGranules
  split <;> rfl

theorem strayGranules_edl (n : Nat) (f : EdlFrame) (s : State) : (strayGranules n f s).edl = s.edl := by
  unfold strayGranules
  split <;> rfl

theorem edlP_setEdl (s : State) (i : Nat) (p : EdlPort) : edlP (setEdl s i p) i = p := by
  rw [edlP, setEdl, State.setEdl_edl, SMap.getD, SMap.get_put_same]
  rfl

/-- The state once a mailbox frame has come into an empty box. -/
def boxFilled (s : State) (i : Nat) (g : EdlFrame) : State :=
  let u := setEdl s i { edlP s i with rxBox := boxWords g (4 * g.len) }
  edlCond (wr u (R.EDL_PORTn_MBOX i) (setFld (setFld (rd u (R.EDL_PORTn_MBOX i)) 28 28 1) 24 16 g.len)) i 8

theorem regs_boxFilled (s : State) (i : Nat) (g : EdlFrame) : (boxFilled s i g).regs =
    (wr s (R.EDL_PORTn_MBOX i) (setFld (setFld (rd s (R.EDL_PORTn_MBOX i)) 28 28 1) 24 16 g.len)).regs := rfl

theorem edlP_boxFilled (s : State) (i : Nat) (g : EdlFrame) : (edlP (boxFilled s i g) i).rxBox = boxWords g (4 * g.len) := by
  have h : (boxFilled s i g).edl = (setEdl s i { edlP s i with rxBox := boxWords g (4 * g.len) }).edl := by
    unfold boxFilled edlCond setCond
    rw [request_edl, wr_edl]
  rw [edlP, h]
  exact congrArg EdlPort.rxBox (edlP_setEdl s i _)

/-- Settles O44: every row goes through the front end, and an accepted frame is done with as its type says. -/
theorem ringFramesAreChecked : Obligations.RingFramesAreChecked := by
  unfold Obligations.RingFramesAreChecked
  intro s n bytes hs i f
  have k := kept_main hs
  refine ⟨fun hc u => ⟨fun c h => ?_, ?_⟩, fun hc => ⟨fun c h => ?_, ?_⟩, fun hc hm c h => ?_, fun hc hm he c h => ?_, fun g hg => ⟨?audio, ?chunk, ?request, ?response, ?full, ?empty⟩⟩
  case refine_1 =>
    obtain ⟨go, hrow⟩ := exec_of_ringRow (s := s) h
    exact hrow.trans (next_congr (edlFront_of_shut hc))
  case refine_2 =>
    refine next_congr (edlFront_of_shut (Eq.trans ?_ hc))
    split
    · exact carries_dropJoin s i i
    · rfl
  case refine_3 =>
    obtain ⟨go, hrow⟩ := exec_of_ringRow (s := s) h
    exact hrow.trans (next_congr (edlFront_of_uncorr hc))
  case refine_4 =>
    have hup : (edlUp s i && true) = true := by rw [edlUp_of_carries hc]; rfl
    refine next_congr ((congrArg (fun t => edlFront t i f true _) (if_pos hup)).trans (edlFront_of_uncorr ?_))
    exact (carries_dropJoin s i i).trans hc
  case refine_5 =>
    obtain ⟨go, hrow⟩ := exec_of_good_row (s := s) h
    exact hrow.trans (next_congr (edlFront_of_malformed hc hm))
  case refine_6 =>
    obtain ⟨go, hrow⟩ := exec_of_good_row (s := s) h
    exact hrow.trans (next_congr (edlFront_of_stale hc hm he))
  case audio =>
    intro ht r
    exact ⟨_, rfl, keepsMain_of_kept (execAudio_kept (n := n) (frame := bytes) (uncorr := false) k) rfl, edlDst_of_accepted hg (by rw [ht]; rfl)⟩
  case chunk =>
    intro ht
    have hrow : exec (.ethChunk n bytes false) s = .next (edlFront s i f false fun u g => if g.type = 4 then chunkTake u i g else u) :=
      next_congr (congrArg (fun t => edlFront t i f false _) (if_neg (by rw [Bool.and_false]; decide)))
    exact ⟨_, hrow, keepsMain_of_kept (execEthChunk_kept k) hrow, front_of_accepted hg ht rfl⟩
  case request =>
    intro ht hsub
    exact ⟨_, rfl, keepsMain_of_kept (execLoopReq_kept (n := n) (frame := bytes) (uncorr := false) k) rfl, front_of_accepted hg ⟨ht, hsub⟩ rfl⟩
  case response =>
    exact ⟨_, rfl, keepsMain_of_kept (execLoopRsp_kept (n := n) (frame := bytes) (uncorr := false) k) rfl, edlFront_of_accepted hg⟩
  case full =>
    intro ht hsub hfull
    refine next_congr ((edlFront_of_accepted hg).trans (congrArg (strayGranules i f) ((if_pos ⟨ht, hsub⟩).trans (if_pos hfull))))
  case empty =>
    intro ht hsub hfree
    have hrow : exec (.mailbox n bytes false) s = .next (strayGranules i f (boxFilled s i g)) :=
      next_congr ((edlFront_of_accepted hg).trans (congrArg (strayGranules i f) ((if_pos ⟨ht, hsub⟩).trans (if_neg (not_of_eq_false hfree)))))
    have hrd : ∀ o, rd (strayGranules i f (boxFilled s i g)) o = _ := rd_of_regs_eq ((strayGranules_regs i f _).trans (regs_boxFilled s i g))
    refine ⟨_, hrow, keepsMain_of_kept (execMailbox_kept k) hrow, rfl, fun o ho => ?_, ?_, fun w hw => ?_⟩
    · rw [hrd]
      exact rd_wr_ne s _ (List.ne_of_not_mem_cons ho)
    · rw [hrd]
      exact rd_wr_self hs.1 _ _
    · have hp : edlP (strayGranules i f (boxFilled s i g)) i = edlP (boxFilled s i g) i := by rw [edlP, edlP, strayGranules_edl]
      rw [hp, edlP_boxFilled]
      exact getD_boxWords g hw

/-! ### Sets between frames -/

/-- A set of a length, with a good check, of a kind. -/
def goodSet (bs : List Byte) (len kind : Nat) : Bool := bs.length == len && crcGood bs && lef bs 0 1 == kind

theorem goodSet_of {bs : List Byte} {len kind : Nat} (hl : bs.length = len) (hc : crcGood bs = true) (hk : lef bs 0 1 = kind) : goodSet bs len kind = true := by
  rw [goodSet, hl, hc, hk, beq_self_eq_true, beq_self_eq_true]
  rfl

theorem not_goodSet {bs : List Byte} {len kind : Nat} (h : bs.length ≠ len ∨ crcGood bs = false ∨ lef bs 0 1 ≠ kind) : goodSet bs len kind = false := by
  rcases h with h | h | h <;> simp [goodSet, h]

theorem and_goodSet_eq_false {b : Bool} {bs : List Byte} {len kind : Nat} (h : b = false ∨ goodSet bs len kind = false) :
    (b && bs.length == len && crcGood bs && lef bs 0 1 == kind) = false := by
  rw [Bool.and_assoc, Bool.and_assoc, ← Bool.and_assoc (bs.length == len)]
  exact Bool.and_eq_false_iff.2 h

theorem and_goodSet_eq_true {b : Bool} {bs : List Byte} {len kind : Nat} (hb : b = true) (h : goodSet bs len kind = true) :
    (b && bs.length == len && crcGood bs && lef bs 0 1 == kind) = true := by
  rw [Bool.and_assoc, Bool.and_assoc, ← Bool.and_assoc (bs.length == len)]
  exact Bool.and_eq_true_iff.2 ⟨hb, h⟩

theorem execEcho_of_sent {n : BitVec 2} {bs : List Byte} {cyc : BitVec 4} {d t1 : Nat} (h : (edlP s n.toNat).sent = some (d, t1)) :
    exec (.echo n bs cyc) s = .next
      (if trained s n.toNat && bs.length == 32 && crcGood bs && lef bs 0 1 == 2 && lef bs 4 6 == d then
        wr (setEdl s n.toNat { edlP s n.toNat with echo := some (stampOf bs 16, stamp40 s cyc.toNat) }) (R.EDL_PORTn_DELAY n.toNat)
          (linkDelay t1 (stampOf bs 10) (stampOf bs 16) (stamp40 s cyc.toNat))
      else s) := by
  change execEcho n bs cyc s = _
  unfold execEcho
  dsimp only
  rw [h]

theorem execEcho_of_unsent {n : BitVec 2} {bs : List Byte} {cyc : BitVec 4} (h : (edlP s n.toNat).sent = none) : exec (.echo n bs cyc) s = .next s := by
  change execEcho n bs cyc s = _
  unfold execEcho
  dsimp only
  rw [h]

theorem pnpArrives_of_bad {i : Nat} {bs : List Byte} {at_ : PnpAt} (h : goodSet bs 16 3 = false) : pnpArrives s i bs at_ = s := if_pos (not_eq_true_of_false h)

theorem pnpArrives_parley {i : Nat} {bs : List Byte} (h : goodSet bs 16 3 = true) : pnpArrives s i bs .parley =
    if edlState s i = 1 then
      if edlRole s i = 2 ∧ rdF s R.PAIR_CFG 2 1 = i then
        pairDisarm (pairHeard (wrF s (R.EDL_PORTn_LINK i) 7 7 1) (rdF s R.PAIR_CFG 27 16)) (rdF s R.PAIR_CFG 27 16)
      else wrF s (R.EDL_PORTn_LINK i) 7 7 1
    else s := if_neg (not_of_eq_true h)

/-- The state once a PNP set at a trained port is heard, its reason given, and the device it names out of the pair. -/
def pnpHeard (s : State) (i : Nat) (bs : List Byte) : State :=
  let u := wrF (pairHeard s (lef bs 2 2 % 4096)) (R.EDL_PORTn_LINK i) 11 8 (lef bs 1 1)
  if lef bs 1 1 ≤ 2 then pairDisarm u (lef bs 2 2 % 4096) else u

theorem pnpArrives_mode {i : Nat} {bs : List Byte} {cut : Option (List Byte)} (h : goodSet bs 16 3 = true) : pnpArrives s i bs (.mode cut) =
    if !trained s i then s
    else if edlState (pnpHeard s i bs) i = 4 then loss (pnpHeard s i bs) i 5 cut
    else setEdl (pnpHeard s i bs) i { edlP (pnpHeard s i bs) i with marker := false } := if_neg (not_of_eq_true h)

/-- Settles O45: each set is one row, which checks it first. -/
theorem edarlinkExchange : Obligations.EdarlinkExchange := by
  unfold Obligations.EdarlinkExchange
  intro s n bs cyc cut hs i src
  have k := kept_main hs
  refine ⟨fun m ht hm => ?_, fun h => ?_, fun d t1 hsent ht hl hc hk hd => ?_, fun h => ?_, fun d t1 hsent hd => ?_, fun h => ?_, fun h => ?_, fun hl hc hk => ?pnp,
    fun ht hl hc => ⟨fun hk => ?leave, fun h hk hcut => ?abort⟩, fun h => ?_, fun h => ?_⟩
  case refine_1 =>
    have hrow : exec (.marker n bs cyc) s = .next (markerArrives s i cyc.toNat m) := by
      refine next_congr ((if_pos ht).trans ?_)
      rw [hm] <;> rfl
    exact ⟨_, hrow, keepsMain_of_kept (execMarker_kept k) hrow, rfl⟩
  case refine_2 =>
    by_cases ht : trained s i = true
    · have hm := h.resolve_left (by rw [ht]; decide)
      refine next_congr ((if_pos ht).trans ?_)
      rw [hm] <;> rfl
    · exact next_congr (if_neg ht)
  case refine_3 =>
    have hrow := (execEcho_of_sent (s := s) (n := n) (bs := bs) (cyc := cyc) hsent).trans (next_congr (if_pos
      (Bool.and_eq_true_iff.2 ⟨and_goodSet_eq_true ht (goodSet_of hl hc hk), beq_iff_eq.2 hd⟩)))
    refine ⟨_, hrow, keepsMain_of_kept (execEcho_kept k) hrow, regsBut_wr _ _ _, rd_wr_self (s := setEdl s i _) (by exact hs.1) _ _, ?_⟩
    rw [edlP, wr_edl]
    exact congrArg EdlPort.echo (edlP_setEdl s i _)
  case refine_4 =>
    rcases hsent : (edlP s i).sent with _ | ⟨d, t1⟩
    · exact execEcho_of_unsent hsent
    · refine (execEcho_of_sent hsent).trans (next_congr (if_neg ?_))
      have hno := and_goodSet_eq_false (b := trained s i) (bs := bs) (len := 32) (kind := 2)
        ((h.resolve_left (by rw [hsent]; exact Option.some_ne_none _)).imp_right not_goodSet)
      rw [hno, Bool.false_and]
      decide
  case refine_5 =>
    refine (execEcho_of_sent hsent).trans (next_congr (if_neg ?_))
    rw [beq_false_of_ne hd, Bool.and_false]
    decide
  case refine_6 =>
    by_cases hg : goodSet bs 16 3 = true
    · have hst : edlState s i ≠ 1 := fun h1 => absurd hg (by rw [not_goodSet (by grind)]; decide)
      exact next_congr ((pnpArrives_parley hg).trans (if_neg hst))
    · exact next_congr (pnpArrives_of_bad (Bool.eq_false_iff.2 hg))
  case refine_7 =>
    by_cases hg : goodSet bs 16 3 = true
    · have ht : trained s i = false := by
        refine Classical.byContradiction fun h' => ?_
        exact absurd hg (by rw [not_goodSet (by grind)]; decide)
      exact next_congr ((pnpArrives_mode hg).trans (if_pos (not_eq_true_of_false ht)))
    · exact next_congr (pnpArrives_of_bad (Bool.eq_false_iff.2 hg))
  case pnp =>
    have hg := goodSet_of hl hc hk
    refine ⟨fun h1 hno => ?_, fun h1 hrole hport => ?_, fun ht => ?_⟩
    case refine_1 => exact next_congr ((pnpArrives_parley hg).trans ((if_pos h1).trans (if_neg (by grind))))
    case refine_2 =>
      have hrow : exec (.pnp n bs .parley) s = .next _ := next_congr ((pnpArrives_parley hg).trans ((if_pos h1).trans (if_pos ⟨hrole, hport⟩)))
      exact ⟨_, hrow, keepsMain_of_kept (execPnp_kept k) hrow, rfl⟩
    case refine_3 =>
      intro u v
      have hrow : exec (.pnp n bs (.mode cut)) s = .next _ := next_congr ((pnpArrives_mode hg).trans (if_neg (not_of_eq_true ht)))
      exact ⟨_, hrow, keepsMain_of_kept (execPnp_kept k) hrow, fun h4 => if_pos h4, fun h4 => if_neg h4⟩
  case leave =>
    have hrow : exec (.leave n bs cut) s = .next (loss (pairDisarm (pairHeard s src) src) i 4 cut) :=
      next_congr (if_pos (and_goodSet_eq_true ht (goodSet_of hl hc hk)))
    exact ⟨_, hrow, keepsMain_of_kept (execLeave_kept k) hrow, rfl⟩
  case abort =>
    subst hcut
    have hrow : exec (.abortSet n bs (some h)) s =
        .next (if (frameOf (edlGen1 s i) h).type = 4 then dropJoin s i else cutFrame s i (frameOf (edlGen1 s i) h)) :=
      next_congr (if_pos (and_goodSet_eq_true ht (goodSet_of hl hc hk)))
    exact ⟨_, hrow, keepsMain_of_kept (execAbortSet_kept (n := n) (bytes := bs) (cut := some h) k) hrow, rfl⟩
  case refine_8 => exact next_congr (if_neg (by rw [and_goodSet_eq_false (h.imp_right not_goodSet)]; decide))
  case refine_9 =>
    rcases cut with _ | h'
    · exact next_congr (ite_self _)
    · refine next_congr (if_neg ?_)
      rw [and_goodSet_eq_false (h.imp_right fun h => not_goodSet (h.imp_right (Or.imp_right fun h => h.resolve_right (Option.some_ne_none _))))]
      decide

end Sys2Proof.Machine
end

section
/-! SUPPORT. Trellis buses and pairs (chapters 15 and 16), and O52 and O53. -/

namespace Sys2Proof.Machine

open Sys2Proof.Claims

/-- A LAID device with a transit allowance of eight deckles, whose PF0 has staged an enabled bus that the device owns, and that holds no receive
bytes for it. -/
def roomlessBus : State :=
  wrAll ((State.reset.setPwr { State.reset.pwr with link := true, bare := true }).setDev .laid) [(R.TRL_CFG, 8), (R.TRL_BUS_Dm 0, 9)]

theorem canonical_roomlessBus : Canonical roomlessBus := by
  unfold Canonical
  decide

/-- Refutes O52: an enabled bus entry for which the device declares no receive bytes is refused with code 3, and the refusal also requests the
condition of a refused runtime addition, so that the row leaves more than the code in the control register. -/
theorem not_trellisBuses : ¬ Obligations.TrellisBuses := by
  unfold Obligations.TrellisBuses
  intro h
  obtain ⟨-, -, -, -, -, -, -, -, -, -, -, -, -, hbus⟩ := h roomlessBus canonical_roomlessBus
  obtain ⟨hentry, -⟩ := hbus
  obtain ⟨-, -, -, hrefused, -⟩ := hentry 0 0 (.inl (by decide)) (by decide)
  have hrow := Host.Outcome.next.inj (hrefused (by decide))
  have hdone : (busRow roomlessBus 0 true 0).ev.reqs.length = 1 := by decide
  have hsaid : (busRow roomlessBus 0 true 0).ev.reqs.length = 0 := by
    exact congrArg (fun t => t.ev.reqs.length) hrow
  omega

/-- An active pair member that was told to yield, whose three copies of the pair state stand in the table of upsets twice each, so that the write
of the fence takes one entry of each away and leaves the other. -/
def doubledCopies : State :=
  let s := wr ((State.reset.setPwr { State.reset.pwr with link := true, bare := true }).setDev .laid) R.PAIR_CFG 1
  (s.setPair { s.pair with yield_ := true }).setHp { s.hp with voteDiff := [(8192, 1), (8192, 1), (8193, 1), (8193, 1), (8194, 1), (8194, 1)] }

theorem canonical_doubledCopies : Canonical doubledCopies := by
  unfold Canonical
  decide

/-- Refutes O53: the canonical form says nothing of the table of upsets, and where it holds a key twice a fence writes FENCED and the vote still
returns another state. -/
theorem not_pairLeaseProtocol : ¬ Obligations.PairLeaseProtocol := by
  unfold Obligations.PairLeaseProtocol
  intro h
  obtain ⟨-, -, -, -, -, -, -, hturn, -⟩ := h doubledCopies canonical_doubledCopies
  obtain ⟨hfence, -, -⟩ := hturn 0 rfl (by decide)
  obtain ⟨hstate, -, -⟩ := hfence (by decide)
  exact absurd hstate (by decide)

end Sys2Proof.Machine
end

section
/-! SUPPORT. The writes and reads of registers (chapter 19), and O54 and O55. -/

namespace Sys2Proof.Machine

open Sys2Proof.Claims

variable {s t u : State}

/-! ### The rows of a register write -/

section Bar
variable {fn a off c : Nat} {q : Quarter} {v : Word}

theorem barWrite_of_unmapped (h : barOffset fn a = none) : barWrite s fn a q v c = s := by
  rw [barWrite, h]

theorem barWrite_of_mapped (h : barOffset fn a = some off) : barWrite s fn a q v c = hostWrite s fn off q v c := by
  rw [barWrite, h]

theorem hostWrite_of_no_access (h : accessOk s fn off = false) : hostWrite s fn off q v c = s := if_pos (not_eq_true_of_false h)

theorem hostWrite_of_own (h : accessOk s fn off = true) (hm : mirrorBar0 off = false) : hostWrite s fn off q v c = regWrite s fn off q v c :=
  (if_neg (not_of_eq_true h)).trans (if_neg (not_of_eq_false hm))

theorem hostWrite_of_mirrored (h : accessOk s fn off = true) (hm : mirrorBar0 off = true) : hostWrite s fn off q v c =
    mirrored s { addr := quarterAt q + off, data := v, kind := 0, sel := 0, fn := fn } (fun t => regWrite t fn off q v c) :=
  (if_neg (not_of_eq_true h)).trans (if_pos hm)

theorem barRead_of_alias (hq : q ≠ .base) : barRead s fn a q c = (0, s) := by
  unfold barRead
  cases q
  case base => exact absurd rfl hq
  all_goals rfl

theorem barRead_of_unmapped (h : barOffset fn a = none) : barRead s fn a .base c = (0, s) := by
  unfold barRead
  rw [h]

theorem barRead_of_mapped (h : barOffset fn a = some off) : barRead s fn a .base c =
    if reach s fn off then (readWord (voteRead s off) fn off c, voteRead s off) else (0, s) := by
  unfold barRead
  rw [h]

end Bar

/-- The rows of a whole register write are the write at an offset of BAR0, each in its quarter. -/
theorem exec_of_writeRow {fn : BitVec 6} {word : BitVec 20} {v : Word} {cyc : BitVec 4} {x : Instr × Quarter}
    (h : x ∈ [(Instr.registerWrite fn word v 15 cyc, Quarter.base), (.setAliasWrite fn word v cyc, .set), (.clearAliasWrite fn word v cyc, .clear),
      (.toggleAliasWrite fn word v cyc, .toggle)]) : exec x.1 s = .next (barWrite s fn.toNat (4 * word.toNat) x.2 v cyc.toNat) := by
  simp only [List.mem_cons, List.not_mem_nil, or_false] at h
  rcases h with rfl | rfl | rfl | rfl
  · exact next_congr (if_pos rfl)
  all_goals rfl

theorem exec_clearBySequence_of_unmapped {fn : BitVec 6} {word : BitVec 20} {v : Word} (h : barOffset fn.toNat (4 * word.toNat) = none) :
    exec (.clearBySequence fn word v) s = .next s := by
  change execClearBySequence fn word v s = _
  rw [execClearBySequence, h]
  all_goals rfl

theorem exec_clearBySequence_of_sc {fn : BitVec 6} {word : BitVec 20} {v : Word} {off : Nat} {r : RegRow} (h : barOffset fn.toNat (4 * word.toNat) = some off)
    (hr : regFind off = some r) (hsc : r.sc ≠ 0) : exec (.clearBySequence fn word v) s = .next (hostWrite s fn.toNat off .base v 0) := by
  change execClearBySequence fn word v s = _
  rw [execClearBySequence, h, Option.bind_some, hr, barWrite_of_mapped h]
  exact next_congr (if_pos hsc)

theorem exec_clearBySequence_of_plain {fn : BitVec 6} {word : BitVec 20} {v : Word} {off : Nat} (h : barOffset fn.toNat (4 * word.toNat) = some off)
    (hno : ∀ r, regFind off = some r → r.sc = 0) : exec (.clearBySequence fn word v) s = .next s := by
  change execClearBySequence fn word v s = _
  rw [execClearBySequence, h, Option.bind_some]
  rcases hr : regFind off with _ | r
  · rfl
  · exact next_congr (if_neg (not_not_intro (hno r hr)))

/-! ### One register write -/

section Reg
variable {fn off c : Nat} {q : Quarter} {v : Word} {r : RegRow}

/-- The state in which a write of a locked block's register is carried out: the violation is reported. -/
def lockSeen (s : State) (fn off : Nat) (r : RegRow) : State := if locked s off = true ∧ r.lk ≠ 0 then lockViolation s fn off else s

theorem lockSeen_eq (s : State) (fn off : Nat) (r : RegRow) : (if locked s off && decide (r.lk ≠ 0) then lockViolation s fn off else s) = lockSeen s fn off r :=
  ite_cond_congr (by rw [Bool.and_eq_true, decide_eq_true_iff])

theorem lockSeen_regs (s : State) (fn off : Nat) (r : RegRow) : (lockSeen s fn off r).regs = s.regs := by
  unfold lockSeen
  split <;> rfl

theorem regWrite_of_hole (h : regFind off = none) : regWrite s fn off q v c = s := by rw [regWrite, h]

theorem regWrite_of_found (h : regFind off = some r) : regWrite s fn off q v c =
    if q ≠ .base ∧ r.rw = 0 then s
    else if off / 0x10000 = 0xA then seqWrite s fn off q v
    else (unitWrite (lockSeen s fn off r) fn off q (newWord (lockSeen s fn off r) fn off q v) v c).getD
      (wr (lockSeen s fn off r) (keyFor fn off) (if q = .base ∧ r.sc ≠ 0 then scClear (newWord (lockSeen s fn off r) fn off q v) v
        else newWord (lockSeen s fn off r) fn off q v)) := by
  rw [regWrite, h]
  dsimp only
  rw [lockSeen_eq]
  cases unitWrite (lockSeen s fn off r) fn off q (newWord (lockSeen s fn off r) fn off q v) v c <;> rfl

theorem newWord_of_found (h : regFind off = some r) : newWord s fn off q v = applyForm q (writable s r off) (rd s (keyFor fn off)) v := by
  rw [newWord, h]

end Reg

/-- Settles O54: the rows are one write at an offset, and a register write is judged branch by branch. -/
theorem registerWritesAndAliases : Obligations.RegisterWritesAndAliases := by
  unfold Obligations.RegisterWritesAndAliases
  intro s fn word v cyc off hs rows
  refine ⟨fun h => ⟨fun x hx => ?_, exec_clearBySequence_of_unmapped h⟩, fun be hbe => next_congr (if_neg hbe),
    fun a c => ⟨fun q hq => barRead_of_alias hq, barRead_of_unmapped, fun o ho => barRead_of_mapped ho⟩, fun h => ⟨fun ha => ?_, fun ha => ?_, ?_⟩,
    fun q c => ⟨regWrite_of_hole, fun r hr => ⟨fun hq hrw => ?_, fun hq ho => ?_, fun hq ho u hu => ⟨fun t ht => ?_, fun ht => ?_⟩⟩⟩⟩
  case refine_1 => exact (exec_of_writeRow hx).trans (next_congr (barWrite_of_unmapped h))
  case refine_2 =>
    refine ⟨fun x hx => (exec_of_writeRow hx).trans (next_congr ((barWrite_of_mapped h).trans (hostWrite_of_no_access ha))), ?_⟩
    by_cases hsc : ∀ r, regFind off = some r → r.sc = 0
    · exact exec_clearBySequence_of_plain h hsc
    · obtain ⟨r, hsc⟩ := Classical.not_forall.1 hsc
      obtain ⟨hr, hsc⟩ := Classical.not_imp.1 hsc
      exact (exec_clearBySequence_of_sc h hr hsc).trans (next_congr (hostWrite_of_no_access ha))
  case refine_3 =>
    refine ⟨fun x hx => ⟨fun hm => ?_, fun hm => ?_⟩, fun r hr hsc hm => ?_⟩
    · exact (exec_of_writeRow hx).trans (next_congr ((barWrite_of_mapped h).trans (hostWrite_of_own ha hm)))
    · exact (exec_of_writeRow hx).trans (next_congr ((barWrite_of_mapped h).trans (hostWrite_of_mirrored ha hm)))
    · exact (exec_clearBySequence_of_sc h hr hsc).trans (next_congr (hostWrite_of_own ha hm))
  case refine_4 => exact exec_clearBySequence_of_plain h
  case refine_5 => exact (regWrite_of_found hr).trans (if_pos ⟨hq, hrw⟩)
  case refine_6 => exact (regWrite_of_found hr).trans ((if_neg (by grind)).trans (if_pos ho))
  case refine_7 =>
    have hu' : u = lockSeen s fn.toNat off r := hu
    rw [regWrite_of_found hr, if_neg (by grind), if_neg ho, ← hu', ht]
    rfl
  case refine_8 =>
    have hu' : u = lockSeen s fn.toNat off r := hu
    intro k m w hk hm hw t
    have hregs : u.regs = s.regs := hu' ▸ lockSeen_regs s fn.toNat off r
    have hnew : newWord u fn.toNat off q v = w := by
      rw [newWord_of_found hr, rd_of_regs_eq hregs, hw, hm, hk]
      cases q <;> rfl
    have hrow : t = wr u k (if q = .base ∧ r.sc ≠ 0 then scClear w v else w) := by
      refine (regWrite_of_found hr).trans ?_
      rw [if_neg (by grind), if_neg ho, ← hu', ht, hnew, hk]
      rfl
    rw [hrow]
    refine ⟨rfl, fun o ho => ?_, rd_wr_self (hregs ▸ hs.1) _ _⟩
    exact (regsBut_wr u k _ o ho).trans (rd_of_regs_eq hregs o)

/-! ### Registers with an effect of their own -/

section Effect
variable {fn off c : Nat} {v : Word}

theorem hostWrite_base (h : accessOk s fn off = true) (hm : mirrorBar0 off = false) : hostWrite s fn off .base v c = regWrite s fn off .base v c :=
  hostWrite_of_own h hm

/-- A write of a register in an open block is its unit's effect. -/
theorem regWrite_of_effect (hr : (regFind off).isSome = true) (ha : off / 0x10000 ≠ 0xA) (hl : locked s off = false)
    (h : unitWrite s fn off .base (newWord s fn off .base v) v c = some t) : regWrite s fn off .base v c = t := by
  obtain ⟨r, hr⟩ := Option.isSome_iff_exists.1 hr
  have hu : lockSeen s fn off r = s := if_neg fun h' => not_of_eq_false hl h'.1
  rw [regWrite_of_found hr, if_neg (by simp), if_neg ha, hu, h]
  rfl

theorem regWrite_ind (hi : off = R.IND_SEL ∨ off = R.IND_ADDR ∨ off = R.IND_DATA) (hl : locked s off = false) :
    regWrite s fn off .base v c = indAccess s fn (.write off .base v) := by
  rcases hi with rfl | rfl | rfl <;> exact regWrite_of_effect (by decide) (by decide) hl rfl

theorem applyForm_base_all (cur v : Word) : applyForm .base 0xFFFFFFFF cur v = v := by
  show (cur &&& ~~~(BitVec.allOnes 32)) ||| (v &&& BitVec.allOnes 32) = v
  rw [BitVec.not_allOnes, BitVec.and_zero, BitVec.zero_or, BitVec.and_allOnes]

theorem fld_applyForm_low (cur v : Word) : fld (applyForm .base 0x3F cur v) 5 0 = fld v 5 0 := by
  refine Nat.eq_of_testBit_eq fun i => ?_
  rw [testBit_fld, testBit_fld]
  by_cases hi : i < 6
  · have hm : (BitVec.ofNat 32 0x3F).getLsbD i = true := (by decide : ∀ i < 6, (BitVec.ofNat 32 0x3F).getLsbD i = true) i hi
    show (_ && ((cur &&& ~~~(BitVec.ofNat 32 0x3F)) ||| (v &&& BitVec.ofNat 32 0x3F)).getLsbD (0 + i)) = (_ && v.getLsbD (0 + i))
    rw [Nat.zero_add, BitVec.getLsbD_or, BitVec.getLsbD_and, BitVec.getLsbD_and, BitVec.getLsbD_not, hm]
    simp
  · simp [hi]

end Effect

/-! ### The controls of the GLB block -/

theorem lockSeen_eq_setEv (s : State) (fn off : Nat) (r : RegRow) : lockSeen s fn off r = s.setEv (lockSeen s fn off r).ev := by
  unfold lockSeen
  split <;> rfl

/-- What a write of GLB_LOCK_SET leaves, the violation it may report aside. -/
def lockTurned (s : State) (v : Word) : State := wrF s R.GLB_LOCK 15 0 (rdF s R.GLB_LOCK 15 0 ||| fld v 15 0)

theorem regWrite_lockSet (s : State) (fn c : Nat) (v : Word) :
    ∃ e, regWrite s fn R.GLB_LOCK_SET .base v c = lockTurned (s.setEv e) v := by
  obtain ⟨r, hr⟩ := Option.isSome_iff_exists.1 (show (regFind R.GLB_LOCK_SET).isSome = true by decide)
  refine ⟨(lockSeen s fn R.GLB_LOCK_SET r).ev, ?_⟩
  rw [regWrite_of_found hr, if_neg (by simp), if_neg (by decide), ← lockSeen_eq_setEv]
  rfl

theorem lockTurned_parts (hw : Registers.wf s.regs = true) (v : Word) (e : Ev) : let t := lockTurned (s.setEv e) v
    t = (s.setRegs t.regs).setEv t.ev ∧ RegsBut s t [R.GLB_LOCK] ∧ rdF t R.GLB_LOCK 15 0 = rdF s R.GLB_LOCK 15 0 ||| fld v 15 0 := by
  refine ⟨rfl, fun o ho => rd_wrF_ne (List.ne_of_not_mem_cons ho), ?_⟩
  have h1 := fld_lt (rd s R.GLB_LOCK) 15 0
  have h2 := fld_lt v 15 0
  refine (rdF_wrF_self (s := s.setEv e) (by exact hw) _ _ (by decide) (by decide)).trans (Nat.mod_eq_of_lt ?_)
  exact Nat.or_lt_two_pow h1 h2

theorem tpart_effect {fn c : Nat} {v : Word} (h : running s = true) (hn : rdF s R.GLB_TPART_SEL 9 0 < item s (declKey 0x10 0)) (w : Word) :
    unitWrite s fn R.GLB_TPART .base w v c = some (s.setHp { s.hp with tpartPend := s.hp.tpartPend ++ [(rdF s R.GLB_TPART_SEL 9 0, fld v 5 0)] }) := by
  refine congrArg some ((if_pos ?_).trans ?_)
  · rw [h, decide_eq_true hn]
    rfl
  · rw [fld_applyForm_low]

theorem tpart_no_effect {fn c : Nat} {v : Word} (h : running s = false ∨ item s (declKey 0x10 0) ≤ rdF s R.GLB_TPART_SEL 9 0) (w : Word) :
    unitWrite s fn R.GLB_TPART .base w v c = some s := by
  refine congrArg some (if_neg ?_)
  rcases h with h | h
  · rw [h, Bool.false_and]
    decide
  · rw [decide_eq_false (by omega), Bool.and_false]
    decide

theorem wideReq_of_open {w : Word} {c : Nat} (h : running s = true) (hw : rdB s R.GLB_CFG 0 = true) : wideReq s w c =
    wrAll ((List.range (if bit w 20 then 4 else 2)).foldl (fun t m => voteRead t (4 * fld w 19 2 + 4 * m)) s) ((R.GLB_WIDE_REQ, setFld w 31 31 1) ::
      (List.range 4).map (fun m => (R.GLB_WIDE_DATAm m, if m < (if bit w 20 then 4 else 2) then
        readWord ((List.range (if bit w 20 then 4 else 2)).foldl (fun t m => voteRead t (4 * fld w 19 2 + 4 * m)) s) 0 (4 * fld w 19 2 + 4 * m) c else 0))) :=
  if_pos (by rw [h, hw]; rfl)

theorem wideReq_of_shut {w : Word} {c : Nat} (h : running s = false ∨ rdB s R.GLB_CFG 0 = false) : wideReq s w c = s := by
  refine if_neg ?_
  rcases h with h | h
  · rw [h, Bool.false_and]
    decide
  · rw [h, Bool.and_false]
    decide

/-! ### The indirect port -/

section Ind
variable {f sp a : Nat}

theorem indAccess_of_waiting {x : IndAcc} (h : (indOf s f).waiting ≠ []) : indAccess s f x = setWaiting s f ((indOf s f).waiting ++ [x]) := if_neg h

theorem indAccess_of_free {x : IndAcc} (h : (indOf s f).waiting = []) : indAccess s f x = indDrain f [x] s := if_pos h

theorem indDrain_read_of_pending (h : (indOf s f).pend.isSome = true) : indDrain f [.read] s = setWaiting s f [.read] := if_pos h

theorem indDrain_read_of_idle (h : (indOf s f).pend = none) : indDrain f [.read] s =
    setWaiting (if (indOf s f).zero then s.setAns (indOf s f).data else indAdvance (s.setAns (indOf s f).data) f) f [] :=
  if_neg (by rw [h]; decide)

theorem indDrain_write (off : Nat) (v : Word) : indDrain f [.write off .base v] s = setWaiting (indRegDo s f off .base v) f [] := rfl

theorem indRegDo_data (v : Word) : indRegDo s f R.IND_DATA .base v = indDataWrite s f v := by
  refine (if_neg (by decide)).trans ((if_pos rfl).trans ?_)
  rw [applyForm_base_all]

theorem indDataWrite_of_out {v : Word} (h : indReach s f (rdF s (regKey f R.IND_SEL) 7 0) (rd s (regKey f R.IND_ADDR)).toNat = false) :
    indDataWrite s f v = indRefuse s f := if_neg (not_of_eq_false h)

theorem indDataWrite_of_in {v : Word} (hsp : sp = rdF s (regKey f R.IND_SEL) 7 0) (ha : a = (rd s (regKey f R.IND_ADDR)).toNat)
    (h : indReach s f sp a = true) : indDataWrite s f v = indAdvance (if sp = 8 ∨ sp = 10 then indWord s f sp a v
      else mirrored s { addr := a, data := v, kind := 2, sel := sp, fn := f } (fun u => indWord u f sp a v)) f := by
  subst hsp ha
  exact if_pos h

theorem indRegDo_place {off : Nat} {v : Word} (h : off = R.IND_SEL ∨ off = R.IND_ADDR) :
    indRegDo s f off .base v = indFetchGo (wr s (regKey f off) (newWord s f off .base v)) f := if_pos h

end Ind

section Fetch
variable {fn : BitVec 6} {cyc corr unc : BitVec 4} {sp a : Nat}

theorem exec_indFetch_of_word (hp : (indOf s fn.toNat).pend = some (sp, a)) (h : 4 ≤ sp) : exec (.indFetch fn cyc corr unc) s =
    .next (indFetched (indRead s fn.toNat sp a corr.toNat unc.toNat).2 fn.toNat (indRead s fn.toNat sp a corr.toNat unc.toNat).1) := by
  change execIndFetch fn cyc corr unc s = _
  unfold execIndFetch
  dsimp only
  rw [hp]
  exact next_congr (if_pos h)

/-- What the grant of a fetch gives to function f's fetch of word a of space sp. -/
def fetchServed (u : State) (f sp a : Nat) : Option (UpdItem × Nat) → State
  | some (.fetch g sp' a', c) =>
    if g = f then if sp' = sp ∧ a' = a then indFetched (endTransfer u (c + 1)) f (quireRead u sp a c) else endTransfer u (c + 1)
    else u
  | _ => u

theorem exec_indFetch_of_quire (hp : (indOf s fn.toNat).pend = some (sp, a)) (h : sp < 4) : exec (.indFetch fn cyc corr unc) s =
    .next (fetchServed (indQueue s fn.toNat) fn.toNat sp a (hostGrant (indQueue s fn.toNat) ((indQueue s fn.toNat).dkl.cyc + cyc.toNat))) := by
  change execIndFetch fn cyc corr unc s = _
  unfold execIndFetch
  dsimp only
  rw [hp]
  refine next_congr ((if_neg (by omega)).trans ?_)
  generalize hostGrant (indQueue s fn.toNat) ((indQueue s fn.toNat).dkl.cyc + cyc.toNat) = g
  rcases g with _ | ⟨item, c⟩
  · rfl
  · cases item <;> rfl

/-- What the grant of a fetch that nobody awaits leaves. -/
def fetchDropped (s : State) (f : Nat) : Option (UpdItem × Nat) → State
  | some (.fetch g _ _, c) => if g = f then endTransfer s (c + 1) else s
  | _ => s

theorem exec_indFetch_of_none (hp : (indOf s fn.toNat).pend = none) : exec (.indFetch fn cyc corr unc) s =
    .next (fetchDropped s fn.toNat (hostGrant s (s.dkl.cyc + cyc.toNat))) := by
  change execIndFetch fn cyc corr unc s = _
  unfold execIndFetch
  dsimp only
  rw [hp]
  dsimp only
  generalize hostGrant s (s.dkl.cyc + cyc.toNat) = g
  rcases g with _ | ⟨item, c⟩
  · rfl
  · cases item <;> rfl

theorem fetchServed_of_other {f : Nat} {g : Option (UpdItem × Nat)} (h : ∀ sp' a' c, g ≠ some (.fetch f sp' a', c)) : fetchServed s f sp a g = s := by
  rcases g with _ | ⟨item, c⟩
  · rfl
  · cases item
    case fetch g' sp' a' => exact if_neg fun hg => h sp' a' c (by rw [hg])
    all_goals rfl

theorem fetchDropped_of_other {f : Nat} {g : Option (UpdItem × Nat)} (h : ∀ sp' a' c, g ≠ some (.fetch f sp' a', c)) : fetchDropped s f g = s := by
  rcases g with _ | ⟨item, c⟩
  · rfl
  · cases item
    case fetch g' sp' a' => exact if_neg fun hg => h sp' a' c (by rw [hg])
    all_goals rfl

end Fetch

theorem exec_indtmo_of_none {fn : BitVec 6} (hp : (indOf s fn.toNat).pend = none) : exec (.indtmo fn) s = .next s := by
  change execIndtmo fn s = _
  unfold execIndtmo
  rw [hp]

theorem exec_indtmo_of_pending {fn : BitVec 6} {sp a : Nat} (hp : (indOf s fn.toNat).pend = some (sp, a)) :
    exec (.indtmo fn) s = .next (indFetched (if sp = 8 then dstCond s 6 [] else hostCond s 1) fn.toNat 0) := by
  change execIndtmo fn s = _
  unfold execIndtmo
  rw [hp]

/-! ### Mirrored writes -/

section Mirror
variable {r : MirrorRec} {go : State → State}

theorem mirrored_of_active (h : rdB s R.PAIR_CFG 0 = true) (h1 : pairState s = 1) : mirrored s r go =
    if rdB s R.PAIR_CFG 4 then (mirrorSend s s.dkl.num [r] false).setPair { (mirrorSend s s.dkl.num [r] false).pair with
      heldWrites := (mirrorSend s s.dkl.num [r] false).pair.heldWrites ++ [(s.dkl.num, r)] }
    else go (mirrorSend s s.dkl.num [r] false) :=
  if_pos (by rw [h, h1]; rfl)

theorem mirrorSend_fwd (s : State) (e : Nat) (recs : List MirrorRec) (fin : Bool) : (mirrorSend s e recs fin).fwd = s.fwd := by
  unfold mirrorSend
  dsimp only
  split <;> rfl

theorem mirrorSend_pair (s : State) (e : Nat) (recs : List MirrorRec) (fin : Bool) : (mirrorSend s e recs fin).pair = s.pair := by
  unfold mirrorSend
  dsimp only
  split <;> rfl

end Mirror

section Apply
variable {e : Nat}

theorem mirrorApply_of_no_pair (h : pairEn s = false ∨ s.dev ≠ .laid) : mirrorApply s e = s := by
  refine if_pos ?_
  rcases h with h | h
  · rw [h]
    rfl
  · rw [decide_eq_true h]
    exact Bool.or_true _

/-- The writes of set e that the member held itself. -/
def ownHeld (s : State) (e : Nat) : List (Nat × MirrorRec) := s.pair.heldWrites.filter (fun h => h.1 == e)

theorem any_held_iff (s : State) (e : Nat) : s.pair.heldWrites.any (fun h => h.1 == e) = true ↔ ownHeld s e ≠ [] := by
  rw [List.any_eq_true, ownHeld, Ne, List.filter_eq_nil_iff]
  exact ⟨fun ⟨x, hx, h⟩ hall => hall x hx h, fun h => Classical.byContradiction fun hno => h fun a ha hb => hno ⟨a, ha, hb⟩⟩

/-- The device is a LAID pair member. -/
theorem mirrorApply_guard (h : pairEn s = true) (hd : s.dev = .laid) : ¬ (!pairEn s || decide (s.dev ≠ .laid)) = true := by
  rw [h, hd]
  decide

theorem mirrorApply_of_held (h : pairEn s = true) (hd : s.dev = .laid) (hn : s.dkl.num = (e + 1) % 2 ^ 48) (ho : ownHeld s e ≠ []) :
    mirrorApply s e = (ownHeld s e).foldl (fun t h => applyRec t h.2)
      (s.setPair { s.pair with heldWrites := s.pair.heldWrites.filter (fun h => h.1 != e) }) :=
  (if_neg (mirrorApply_guard h hd)).trans (if_pos ⟨hn, (any_held_iff s e).2 ho⟩)

theorem mirrorApply_not_held (ho : s.dkl.num ≠ (e + 1) % 2 ^ 48 ∨ ownHeld s e = []) :
    ¬ (s.dkl.num = (e + 1) % 2 ^ 48 ∧ s.pair.heldWrites.any (fun h => h.1 == e) = true) := by
  rw [any_held_iff]
  grind

section Set
variable (h : pairEn s = true) (hd : s.dev = .laid) (ho : s.dkl.num ≠ (e + 1) % 2 ^ 48 ∨ ownHeld s e = [])
include h hd ho

theorem mirrorApply_of_active (h1 : pairState s = 1) : mirrorApply s e = s :=
  (if_neg (mirrorApply_guard h hd)).trans ((if_neg (mirrorApply_not_held ho)).trans (if_pos h1))

variable (h1 : pairState s ≠ 1)
include h1

theorem mirrorApply_of_no_set (hs : SMap.get s.pair.sets e = none) : mirrorApply s e = s := by
  refine (if_neg (mirrorApply_guard h hd)).trans ((if_neg (mirrorApply_not_held ho)).trans ((if_neg h1).trans ?_))
  rw [hs]

theorem mirrorApply_of_open_set {recs : List MirrorRec} (hs : SMap.get s.pair.sets e = some { recs := recs, done := none }) : mirrorApply s e = s := by
  refine (if_neg (mirrorApply_guard h hd)).trans ((if_neg (mirrorApply_not_held ho)).trans ((if_neg h1).trans ?_))
  rw [hs]

/-- The state once a gap before a set is reported. -/
def gapSeen (x : State) (e : Nat) : Option Nat → State
  | some n => if n = e then x else wrF (pairCond x 8) R.PAIR_STATE 3 3 0
  | none => x

theorem mirrorApply_of_set {recs : List MirrorRec} {d : Nat} (hs : SMap.get s.pair.sets e = some { recs := recs, done := some d }) :
    let late := decide (d ≠ (e + 1) % 2 ^ 48) && inPast 48 ((e + 1) % 2 ^ 48) d
    mirrorApply s e = if s.dkl.num ≠ (if late then d else (e + 1) % 2 ^ 48) then s
      else recs.foldl applyRec ((gapSeen (if late then wrF (pairCond s 7) R.PAIR_STATE 3 3 0 else s) e s.pair.nextSet).setPair
        { (gapSeen (if late then wrF (pairCond s 7) R.PAIR_STATE 3 3 0 else s) e s.pair.nextSet).pair with
          sets := SMap.del (gapSeen (if late then wrF (pairCond s 7) R.PAIR_STATE 3 3 0 else s) e s.pair.nextSet).pair.sets e
          nextSet := some ((e + 1) % 2 ^ 48) }) := by
  intro late
  refine (if_neg (mirrorApply_guard h hd)).trans ((if_neg (mirrorApply_not_held ho)).trans ((if_neg h1).trans ?_))
  rw [hs]
  dsimp only
  have hne : (d != (e + 1) % 2 ^ 48) = decide (d ≠ (e + 1) % 2 ^ 48) := by
    rw [Bool.eq_iff_iff, bne_iff_ne, decide_eq_true_iff]
  rw [hne]
  generalize s.pair.nextSet = n
  cases n <;> rfl

end Set

end Apply

theorem mirrorBar0_control : ∀ o ∈ [R.GLB_LOCK_SET, R.GLB_OUTEN, R.GLB_MUTE, R.GLB_TPART, R.GLB_WIDE_REQ, R.IND_DATA, R.IND_ADDR, R.IND_SEL],
    mirrorBar0 o = false := by decide

/-- The rows whose register lies in a block that no pair mirrors write their register as any write does. -/
theorem exec_of_controlRow {fn : BitVec 6} {v : Word} {cyc : BitVec 4} {q : Instr × Nat}
    (hq : q ∈ [(Instr.lockSet fn v, R.GLB_LOCK_SET), (.outenWrite fn v, R.GLB_OUTEN), (.muteWrite fn v, R.GLB_MUTE), (.tpartWrite fn v, R.GLB_TPART),
      (.wideReq fn v cyc, R.GLB_WIDE_REQ), (.indDataWrite fn v, R.IND_DATA), (.indSelAddrWrite fn true v, R.IND_ADDR), (.indSelAddrWrite fn false v, R.IND_SEL)]) :
    exec q.1 s = .next (hostWrite s fn.toNat q.2 .base v (if q.2 = R.GLB_WIDE_REQ then cyc.toNat else 0)) ∧ mirrorBar0 q.2 = false := by
  simp only [List.mem_cons, List.not_mem_nil, or_false] at hq
  rcases hq with rfl | rfl | rfl | rfl | rfl | rfl | rfl | rfl <;> exact ⟨rfl, mirrorBar0_control _ (by simp)⟩

theorem exec_of_control {fn : BitVec 6} {v : Word} {cyc : BitVec 4} {q : Instr × Nat}
    (hq : q ∈ [(Instr.lockSet fn v, R.GLB_LOCK_SET), (.outenWrite fn v, R.GLB_OUTEN), (.muteWrite fn v, R.GLB_MUTE), (.tpartWrite fn v, R.GLB_TPART),
      (.wideReq fn v cyc, R.GLB_WIDE_REQ), (.indDataWrite fn v, R.IND_DATA), (.indSelAddrWrite fn true v, R.IND_ADDR), (.indSelAddrWrite fn false v, R.IND_SEL)])
    (ha : accessOk s fn.toNat q.2 = true) : exec q.1 s = .next (regWrite s fn.toNat q.2 .base v (if q.2 = R.GLB_WIDE_REQ then cyc.toNat else 0)) := by
  obtain ⟨hrow, hm⟩ := exec_of_controlRow (s := s) hq
  exact hrow.trans (next_congr (hostWrite_base ha hm))

/-- Settles O55: each row is a register write, an access of the indirect port, or an application of mirrored records. -/
theorem globalControlsAndIndirect : Obligations.GlobalControlsAndIndirect := by
  unfold Obligations.GlobalControlsAndIndirect
  intro s fn v cyc hs f
  have k := kept_main hs
  refine ⟨fun q hq => ⟨fun ha => ?shut, exec_of_control hq⟩, fun ha => next_congr (if_neg (not_of_eq_false ha)), fun ha => next_congr (if_neg (not_of_eq_false ha)),
    ?lock, ?outen, ?tpart, ?wide, fun ha => next_congr (if_pos ha), ?read, ?write, ?place, ?word, ?quire, ?dropped, fun w => rfl,
    exec_indtmo_of_none, ?timeout, ?mirrored, ?hold, ?apply⟩
  case shut =>
    obtain ⟨hrow, -⟩ := exec_of_controlRow (s := s) hq
    exact hrow.trans (next_congr (hostWrite_of_no_access ha))
  case lock =>
    intro ha
    have hrow := exec_of_control (s := s) (q := (.lockSet fn v, R.GLB_LOCK_SET)) (cyc := cyc) (v := v) (fn := fn) (by simp) ha
    obtain ⟨e, he⟩ := regWrite_lockSet s f (if R.GLB_LOCK_SET = R.GLB_WIDE_REQ then cyc.toNat else 0) v
    exact ⟨_, hrow.trans (next_congr he), lockTurned_parts hs.1 v e⟩
  case outen =>
    intro q hq ha hl
    simp only [List.mem_cons, List.not_mem_nil, or_false] at hq
    rcases hq with rfl | rfl
    · exact (exec_of_control (q := (.outenWrite fn v, R.GLB_OUTEN)) (cyc := cyc) (v := v) (by simp) ha).trans
        (next_congr (regWrite_of_effect (off := R.GLB_OUTEN) (by decide) (by decide) hl rfl))
    · exact (exec_of_control (q := (.muteWrite fn v, R.GLB_MUTE)) (cyc := cyc) (v := v) (by simp) ha).trans
        (next_congr (regWrite_of_effect (off := R.GLB_MUTE) (by decide) (by decide) hl rfl))
  case tpart =>
    intro ha hl n
    have hrow := exec_of_control (s := s) (q := (.tpartWrite fn v, R.GLB_TPART)) (cyc := cyc) (v := v) (fn := fn) (by simp) ha
    exact ⟨fun h hn => hrow.trans (next_congr (regWrite_of_effect (off := R.GLB_TPART) (by decide) (by decide) hl (tpart_effect h hn _))),
      fun h => hrow.trans (next_congr (regWrite_of_effect (off := R.GLB_TPART) (by decide) (by decide) hl (tpart_no_effect h _)))⟩
  case wide =>
    intro ha hl
    have hrow := exec_of_control (s := s) (q := (.wideReq fn v cyc, R.GLB_WIDE_REQ)) (cyc := cyc) (v := v) (fn := fn) (by simp) ha
    have hwide : regWrite s f R.GLB_WIDE_REQ .base v cyc.toNat = wideReq s (newWord s f R.GLB_WIDE_REQ .base v) cyc.toNat :=
      regWrite_of_effect (by decide) (by decide) hl rfl
    rw [if_pos rfl, hwide] at hrow
    refine ⟨fun h => hrow.trans (next_congr (wideReq_of_shut h)), fun h hc w n a u hw hn hA hu => ?_⟩
    subst hw hn hA hu
    exact hrow.trans (next_congr (wideReq_of_open h hc))
  case read =>
    intro ha
    have hrow : exec (.indDataRead fn) s = .next (indAccess s f .read) := next_congr (if_pos ha)
    refine ⟨fun hw => hrow.trans (next_congr (indAccess_of_waiting hw)),
      fun hw hp => hrow.trans (next_congr ((indAccess_of_free hw).trans (indDrain_read_of_pending hp))), fun hw hp => ?_⟩
    have hrow' := hrow.trans (next_congr ((indAccess_of_free hw).trans (indDrain_read_of_idle hp)))
    exact ⟨_, hrow', keepsMain_of_kept (execIndDataRead_kept k) hrow', rfl⟩
  case write =>
    intro sp a hsp hA ha hl
    have hrow := (exec_of_control (s := s) (q := (.indDataWrite fn v, R.IND_DATA)) (cyc := cyc) (v := v) (fn := fn) (by simp) ha).trans
      (next_congr (regWrite_ind (.inr (.inr rfl)) hl))
    have hfree : (indOf s f).waiting = [] → exec (.indDataWrite fn v) s = .next (setWaiting (indDataWrite s f v) f []) := fun hw => by
      refine hrow.trans (next_congr ((indAccess_of_free hw).trans ((indDrain_write _ v).trans ?_)))
      rw [indRegDo_data]
    refine ⟨fun hw => hrow.trans (next_congr (indAccess_of_waiting hw)), fun hw hr => ?_, fun hw hr => ⟨_, hfree hw, ?_⟩⟩
    · subst hsp hA
      exact (hfree hw).trans (next_congr (congrArg (setWaiting · f []) (indDataWrite_of_out hr)))
    · exact congrArg (setWaiting · f []) (indDataWrite_of_in hsp hA hr)
  case place =>
    intro a off hoff ha hl
    have hi : off = R.IND_SEL ∨ off = R.IND_ADDR := by cases a <;> simp [hoff]
    have hrow : exec (.indSelAddrWrite fn a v) s = .next (indAccess s f (.write off .base v)) := by
      refine Eq.trans (?_ : _ = .next (hostWrite s f off .base v 0)) (next_congr ((hostWrite_base ha ?_).trans (regWrite_ind (by grind) hl)))
      · rw [hoff]
        rfl
      · rcases hi with rfl | rfl <;> decide
    exact ⟨fun hw => hrow.trans (next_congr (indAccess_of_waiting hw)),
      fun hw => hrow.trans (next_congr ((indAccess_of_free hw).trans ((indDrain_write off v).trans (congrArg (setWaiting · f []) (indRegDo_place hi)))))⟩
  case word =>
    intro corr unc sp a hp h4
    have hrow := exec_indFetch_of_word (cyc := cyc) (corr := corr) (unc := unc) hp h4
    exact ⟨_, hrow, keepsMain_of_kept (execIndFetch_kept k) hrow, rfl⟩
  case quire =>
    intro corr unc sp a hp h4 u
    have hrow := exec_indFetch_of_quire (cyc := cyc) (corr := corr) (unc := unc) hp h4
    refine ⟨fun c hg => ?_, fun sp' a' c hg hne => ?_, fun hg => hrow.trans (next_congr (fetchServed_of_other hg))⟩
    · have hrow' := hrow.trans (next_congr ((congrArg (fetchServed u f sp a) hg).trans ((if_pos rfl).trans (if_pos ⟨rfl, rfl⟩))))
      exact ⟨_, hrow', keepsMain_of_kept (execIndFetch_kept k) hrow', rfl⟩
    · exact hrow.trans (next_congr ((congrArg (fetchServed u f sp a) hg).trans ((if_pos rfl).trans (if_neg (by grind)))))
  case dropped =>
    intro corr unc hp
    have hrow := exec_indFetch_of_none (cyc := cyc) (corr := corr) (unc := unc) hp
    exact ⟨fun sp a c hg => hrow.trans (next_congr ((congrArg (fetchDropped s f) hg).trans (if_pos rfl))),
      fun hg => hrow.trans (next_congr (fetchDropped_of_other hg))⟩
  case timeout =>
    intro sp a hp
    exact ⟨_, exec_indtmo_of_pending hp, keepsMain_of_kept (execIndtmo_kept k) (exec_indtmo_of_pending hp), rfl⟩
  case mirrored =>
    intro r go u
    exact ⟨mirrored_off r go, fun h h1 hm => (mirrored_of_active h h1).trans (if_neg (not_of_eq_false hm)),
      fun h h1 hm => (mirrored_of_active h h1).trans (if_pos hm)⟩
  case hold =>
    intro h h1 hm ha
    have hrow : exec (.hold fn v) s = .next _ :=
      next_congr ((if_neg (not_of_eq_true ha)).trans ((if_pos (by decide)).trans ((mirrored_of_active h h1).trans (if_pos hm))))
    refine ⟨_, hrow, keepsMain_of_kept (execHold_kept k) hrow, mirrorSend_fwd _ _ _ _, ?_⟩
    exact congrArg (fun p : Pair => p.heldWrites ++ _) (mirrorSend_pair _ _ _ _)
  case apply =>
    intro e d own
    refine ⟨fun h => next_congr (mirrorApply_of_no_pair h), fun h hd hn ho => next_congr (mirrorApply_of_held h hd hn ho),
      fun h hd ho h1 => next_congr (mirrorApply_of_active h hd ho h1), fun h hd ho h1 => ⟨fun hset => next_congr (mirrorApply_of_no_set h hd ho h1 hset),
      fun recs hset => next_congr (mirrorApply_of_open_set h hd ho h1 hset), fun recs b hset => ?_⟩⟩
    have hall := mirrorApply_of_set h hd ho h1 hset
    intro late
    refine ⟨fun hn => next_congr (hall.trans (if_pos hn)), ?_⟩
    intro x
    generalize s.pair.nextSet = m at hall ⊢
    intro y hn
    refine next_congr (hall.trans ((if_neg (not_not_intro hn)).trans ?_))
    cases m <;> rfl

end Sys2Proof.Machine
end

section
/-! SUPPORT. The time bases (chapter 17), and O56. -/

namespace Sys2Proof.Machine

open Sys2Proof.Claims

variable {s t u : State}

/-! ### Rates -/

/-- A write of a rate that takes effect at once. -/
theorem writeRate_at_once {n c : Nat} {w : Word} (h : n ≠ 0 ∨ running s = false) : writeRate s n c w =
    if clampInt (-rateMax) rateMax w.toInt = w.toInt then
      setApplied (wr s (R.TBn_RATE n) (BitVec.ofInt 32 (clampInt (-rateMax) rateMax w.toInt))) n c (clampInt (-rateMax) rateMax w.toInt)
    else tbCond (setApplied (wr s (R.TBn_RATE n) (BitVec.ofInt 32 (clampInt (-rateMax) rateMax w.toInt))) n c (clampInt (-rateMax) rateMax w.toInt)) n 1 := by
  refine (if_pos h).trans ?_
  by_cases hr : clampInt (-rateMax) rateMax w.toInt = w.toInt
  · exact (if_neg (by rw [decide_eq_true_iff]; exact not_not_intro hr)).trans (if_pos hr).symm
  · exact (if_pos (decide_eq_true hr)).trans (if_neg hr).symm

theorem writeRate_in_holdover {c : Nat} {w : Word} (hr : running s = true) (hd : 2 ≤ tbDisc s) (hs : tbDstate s = 3) : writeRate s 0 c w = tbCond s 0 9 :=
  (if_neg (by simp [hr])).trans (if_pos ⟨hd, hs⟩)

theorem writeRate_stored {c : Nat} {w : Word} (hr : running s = true) (hs : tbDisc s < 2 ∨ tbDstate s ≠ 3) : writeRate s 0 c w =
    let req := clampInt (-rateMax) rateMax w.toInt
    let rate := wr s (R.TBn_RATE 0) (BitVec.ofInt 32 req)
    let kept := rate.setTb { rate.tb with hostLost := false }
    if req ≠ w.toInt ∨ (tbDisc s ≤ 1 ∧ beyondSlew s req = true) then tbCond kept 0 1 else kept := by
  refine (if_neg (by simp [hr])).trans ((if_neg (by omega)).trans (ite_cond_congr ?_))
  rw [Bool.or_eq_true, Bool.and_eq_true, decide_eq_true_iff, decide_eq_true_iff]

theorem rate_ne_applied (n : Nat) : R.TBn_RATE n ≠ R.TBn_APPLIED n := by
  simp only [R.TBn_RATE, R.TBn_APPLIED]
  omega

theorem rd_setApplied_ne {n c o : Nat} {a : Int} (h : o ≠ R.TBn_APPLIED n) : rd (setApplied s n c a) o = rd s o := rd_wr_ne s _ h

/-! ### Acquisition -/

/-- A base that is put to a count t with no steps pending. -/
def placedBase (b : TBase) (x : Nat) (d : Int) : TBase := { b with t := (((x : Int) - d) % (2 ^ 75 : Nat)).toNat, steps := [] }

/-- TB0 as ACQ sets it in cycle c: the rate of TB1 from then on, and the count that TB1 has there. -/
def acquired (s : State) (c : Nat) : State :=
  let u := setDstate (wr s (R.TBn_APPLIED 0) (BitVec.ofInt 32 (tbApplied s 1))) 2
  placeBoundaries (setTbase u 0 (placedBase (tbase s 0) (tbAt s 1 c) ((c : Int) * tbInc u 0))) c

theorem tbAcq_of_acquiring {c : Nat} (hd : s.dev = .laid) (h1 : tbDisc s = 1) (ha : tbAcquiring s = true) : tbAcq s c = acquired s c := if_pos ⟨hd, h1, ha⟩

theorem tbAt_lt (s : State) (n c : Nat) : tbAt s n c < 2 ^ 75 := by
  unfold tbAt
  omega

theorem tbase_setTbase (s : State) (n : Nat) (b : TBase) : tbase (setTbase s n b) n = b := by
  rw [tbase, setTbase, State.setTb_tb, SMap.getD, SMap.get_put_same]
  rfl

/-- The base's count in cycle c, when it is placed to be x there. -/
theorem placed_count {x : Nat} (hx : x < 2 ^ 75) (d : Int) :
    ((((((x : Int) - d) % (2 ^ 75 : Nat)).toNat : Int) + d - 0) % (2 ^ 75 : Nat)).toNat = x := by
  rw [Int.toNat_of_nonneg (Int.emod_nonneg _ (by decide)), Int.sub_zero, Int.emod_add_emod, Int.sub_add_cancel,
    Int.emod_eq_of_lt (Int.natCast_nonneg x) (Int.ofNat_lt.2 hx), Int.toNat_natCast]

theorem tbInc_of_regs_eq (h : t.regs = s.regs) (n : Nat) : tbInc t n = tbInc s n := by
  unfold tbInc tbAcquiring tbDstate tbApplied rdF
  rw [rd_of_regs_eq h, rd_of_regs_eq h]

theorem stepsAfter_of_none {n c : Nat} (h : (tbase s n).steps = []) : stepsAfter s n c = 0 := by rw [stepsAfter, h, List.filter_nil, List.foldl_nil]

theorem tbAt_of_placed {n c x : Nat} {b : TBase} {d : Int} (hx : x < 2 ^ 75) (hb : tbase s n = placedBase b x d) (hd : (c : Int) * tbInc s n = d) :
    tbAt s n c = x := by
  have ht : (tbase s n).t = (((x : Int) - d) % (2 ^ 75 : Nat)).toNat := congrArg TBase.t hb
  rw [tbAt, stepsAfter_of_none (congrArg TBase.steps hb), ht, hd]
  exact placed_count hx d

theorem placeBoundaries_tb (s : State) (c : Nat) : (placeBoundaries s c).tb = s.tb := by rw [placeBoundaries, State.setDkl_tb]

theorem placeBoundaries_regs (s : State) (c : Nat) : (placeBoundaries s c).regs = s.regs := by rw [placeBoundaries, State.setDkl_regs]

theorem tbAt_placed (u : State) (b : TBase) {x : Nat} (hx : x < 2 ^ 75) (c : Nat) :
    tbAt (placeBoundaries (setTbase u 0 (placedBase b x ((c : Int) * tbInc u 0))) c) 0 c = x := by
  refine tbAt_of_placed (b := b) (d := (c : Int) * tbInc u 0) hx ?_ ?_
  · rw [tbase, placeBoundaries_tb]
    exact tbase_setTbase u 0 _
  · exact congrArg ((c : Int) * ·) (tbInc_of_regs_eq ((placeBoundaries_regs _ _).trans (State.setTb_regs _ _)) 0)

theorem tbAt_acquired (s : State) (c : Nat) : tbAt (acquired s c) 0 c = tbAt s 1 c := by
  rw [acquired]
  exact tbAt_placed _ _ (tbAt_lt s 1 c) c

theorem tbDstate_placed (u : State) (b : TBase) (c : Nat) : tbDstate (placeBoundaries (setTbase u 0 b) c) = tbDstate u :=
  rdF_congr (rd_of_regs_eq ((placeBoundaries_regs _ _).trans (State.setTb_regs _ _)) _)

theorem tbDstate_setDstate_tracking (hw : Registers.wf s.regs = true) : tbDstate (setDstate s 2) = 2 :=
  rdF_wrF_self hw R.TB_DISC 2 (by decide) (by decide)

theorem tbDstate_acquired (hw : Registers.wf s.regs = true) (c : Nat) : tbDstate (acquired s c) = 2 := by
  rw [acquired, tbDstate_placed]
  exact tbDstate_setDstate_tracking (wf_wr hw _ _)

/-! ### Pulses and captures -/

theorem pulseCatchUp_of_past {n c : Nat} (ha : (tbase s n).armed = true) (hp : nsPast (rd s (R.TBn_PNEXT n)).toNat (tbNs s n c) = true) : pulseCatchUp s n c =
    tbCond (wr s (R.TBn_PNEXT n) (BitVec.ofNat 32 (advanceInstant (rd s (R.TBn_PNEXT n)).toNat (rd s (R.TBn_PPER n)).toNat (tbNs s n c)))) n 3 :=
  if_pos (by rw [ha, hp]; rfl)

theorem pulseCatchUp_of_not_past {n c : Nat} (h : (tbase s n).armed = false ∨ nsPast (rd s (R.TBn_PNEXT n)).toNat (tbNs s n c) = false) : pulseCatchUp s n c = s :=
  if_neg (not_of_eq_false (Bool.and_eq_false_iff.2 h))

theorem pulse_of_still {n c : Nat} (h : pulsesRun s n = false ∨ (tbase s n).armed = false) : pulse s n c = s :=
  if_pos (not_eq_true_of_false (Bool.and_eq_false_iff.2 h))

section Pulse
variable {n c : Nat} (hr : pulsesRun s n = true) (ha : (tbase s n).armed = true)
include hr ha

theorem pulse_running : ¬ (!(pulsesRun s n && (tbase s n).armed)) = true := not_of_eq_true (Bool.and_eq_true_iff.2 ⟨hr, ha⟩)

theorem pulse_of_past (hp : nsPast (rd s (R.TBn_PNEXT n)).toNat (tbNs s n 0) = true) : pulse s n c = pulseCatchUp s n c :=
  (if_neg (pulse_running hr ha)).trans (if_pos hp)

variable (hp : nsPast (rd s (R.TBn_PNEXT n)).toNat (tbNs s n 0) = false)
include hp

theorem pulse_of_future (hne : (rd s (R.TBn_PNEXT n)).toNat ≠ tbNs s n c) (hf : nsPast (tbNs s n c) (rd s (R.TBn_PNEXT n)).toNat = true) : pulse s n c = s := by
  refine (if_neg (pulse_running hr ha)).trans ((if_neg (not_of_eq_false hp)).trans (if_neg (not_of_eq_true ?_)))
  rw [hf, decide_eq_true hne]
  rfl

theorem pulse_of_now (h : (rd s (R.TBn_PNEXT n)).toNat = tbNs s n c ∨ nsPast (tbNs s n c) (rd s (R.TBn_PNEXT n)).toNat = false) : pulse s n c =
    let at_ := (rd s (R.TBn_PNEXT n)).toNat
    let per := (rd s (R.TBn_PPER n)).toNat
    let fallen := setTbase s n { tbase s n with fall := some ((at_ + min (rdF s (R.TBn_PCFG n) 15 0 * 1000) (per / 2)) % 2 ^ 32) }
    let moved := wr fallen (R.TBn_PNEXT n) (BitVec.ofNat 32 ((at_ + per) % 2 ^ 32))
    if rdB s (R.TBn_PCFG n) 30 then fireSrc moved (33 + 2 * n) 0 (BitVec.ofNat 32 at_) else moved := by
  refine (if_neg (pulse_running hr ha)).trans ((if_neg (not_of_eq_false hp)).trans (if_pos (not_eq_true_of_false (Bool.and_eq_false_iff.2 ?_))))
  exact h.imp_left fun h => decide_eq_false (not_not_intro h)

end Pulse

/-- The edge of a capture input counts. -/
def edgeCounts (s : State) (k : Nat) (falling : Bool) : Prop :=
  running s = true ∧ bit (rd s (R.TB_CAPk_CFG k)) 31 = true ∧
    (fld (rd s (R.TB_CAPk_CFG k)) 29 28 = 2 ∨ fld (rd s (R.TB_CAPk_CFG k)) 29 28 = (if falling then 1 else 0))

theorem edgeCounts_iff (s : State) (k : Nat) (falling : Bool) :
    (running s && bit (rd s (R.TB_CAPk_CFG k)) 31 && (fld (rd s (R.TB_CAPk_CFG k)) 29 28 == 2 || fld (rd s (R.TB_CAPk_CFG k)) 29 28 == b2n falling)) = true ↔
      edgeCounts s k falling := by
  rw [Bool.and_eq_true, Bool.and_eq_true, Bool.or_eq_true, beq_iff_eq, beq_iff_eq, and_assoc]
  exact Iff.rfl

/-- A capture input's record once an edge is held in it. -/
def captureHeld (s : State) (k c : Nat) (falling : Bool) : Capture :=
  let b := fld (rd s (R.TB_CAPk_CFG k)) 26 24
  let info := 2 ^ 31 + b2n falling * 2 ^ 30 + b2n (tbAcquiring s) * 2 ^ 29 + tbFrac s (captureBase s b) c / 2 ^ 24 * 256 + tbFrac s (stampBase s) c / 2 ^ 24
  { SMap.getD s.tb.cap k capture0 with
    valid := true, ns0 := tbNs s (stampBase s) c, nsb := tbNs s (captureBase s b) c, info := info, seen := false, last := some (s.dkl.cyc + c) }

theorem captureEdge_of_not_counts {k c : Nat} {falling : Bool} (h : ¬ edgeCounts s k falling) : captureEdge s k c falling = s :=
  if_neg fun h' => h ((edgeCounts_iff s k falling).1 h')

theorem captureEdge_of_near {k c l : Nat} {falling : Bool} (h : edgeCounts s k falling) (hl : (SMap.getD s.tb.cap k capture0).last = some l)
    (hn : s.dkl.cyc + c - l < 160) : captureEdge s k c falling =
    setCondWith s (R.TBn_STAT (fld (rd s (R.TB_CAPk_CFG k)) 26 24)) (32 + 2 * fld (rd s (R.TB_CAPk_CFG k)) 26 24) 64 [] 0 (.capture k) := by
  refine (if_pos ((edgeCounts_iff s k falling).2 h)).trans (if_pos ?_)
  rw [hl]
  exact decide_eq_true hn

theorem overrun_bits (b : Bool) : 16 + (if b then 32 else 0) = if b then 48 else 16 := by cases b <;> rfl

theorem captureEdge_of_far {k c : Nat} {falling : Bool} (h : edgeCounts s k falling)
    (hl : ∀ l, (SMap.getD s.tb.cap k capture0).last = some l → 160 ≤ s.dkl.cyc + c - l) : captureEdge s k c falling =
    setCondWith (s.setTb { s.tb with cap := SMap.put s.tb.cap k (captureHeld s k c falling) }) (R.TBn_STAT (fld (rd s (R.TB_CAPk_CFG k)) 26 24))
      (32 + 2 * fld (rd s (R.TB_CAPk_CFG k)) 26 24) (if (SMap.getD s.tb.cap k capture0).valid then 48 else 16) [] 0 (.capture k) := by
  rw [← overrun_bits]
  refine (if_pos ((edgeCounts_iff s k falling).2 h)).trans (if_neg ?_)
  rcases hlast : (SMap.getD s.tb.cap k capture0).last with _ | l
  · exact Bool.false_ne_true
  · have := hl l hlast
    exact fun hn => absurd (of_decide_eq_true hn) (by omega)

/-- Settles O56: each row is one branch of its operation on a base or an input. -/
theorem timeBases : Obligations.TimeBases := by
  unfold Obligations.TimeBases
  intro s fn n v cyc hs i c req rate moves kept
  have k := kept_main hs
  refine ⟨fun ha => ⟨fun h => ?now, fun h0 hr hd hst => ?holdover, fun h0 hr hst => ?stored⟩, fun ha => next_congr (if_neg (not_of_eq_false ha)), ?step,
    fun h => next_congr (if_neg (not_of_eq_false (Bool.and_eq_false_iff.2 h))), fun ha => next_congr (if_pos ha), fun ha => next_congr (if_neg (not_of_eq_false ha)),
    fun ha hb => ⟨fun h => ?noAcq, fun hd h1 hacq => ?acq⟩, fun h => next_congr (if_neg (not_of_eq_false (Bool.and_eq_false_iff.2 h))), rfl, rfl,
    ?catchUp, ?pulse, fun ha => next_congr (if_neg (not_of_eq_false ha)), fun ha => next_congr (if_pos ha), ?capture, ?latch⟩
  case now =>
    have hrow : exec (.tbRateWrite fn n v cyc) s = .next (if req = v.toInt then moves else tbCond moves i 1) :=
      next_congr ((if_pos ha).trans (writeRate_at_once h))
    refine ⟨_, hrow, keepsMain_of_kept (execTbRateWrite_kept k) hrow, rfl, ?_⟩
    have hrd : rd moves (R.TBn_RATE i) = BitVec.ofInt 32 req := (rd_setApplied_ne (rate_ne_applied i)).trans (rd_wr_self hs.1 _ _)
    split
    · exact hrd
    · exact hrd
  case holdover =>
    have hrow : exec (.tbRateWrite fn n v cyc) s = .next (writeRate s i c v) := next_congr (if_pos ha)
    rw [hrow, h0, writeRate_in_holdover hr hd hst]
  case stored =>
    have hrow : exec (.tbRateWrite fn n v cyc) s = .next (writeRate s i c v) := next_congr (if_pos ha)
    have h0' : n.toNat = 0 := h0
    subst kept rate
    rw [hrow, h0, writeRate_stored hr hst]
  case step =>
    intro st u ha hb
    have hgo : (accessOk s fn.toNat (R.TBn_CTL i) && bit v 0) = true := Bool.and_eq_true_iff.2 ⟨ha, hb⟩
    refine ⟨fun h0 hr => next_congr ((if_pos hgo).trans (if_pos ⟨h0, hr⟩)), fun h => ?_⟩
    have hrow : exec (.tbStep fn n v cyc) s = .next (pulseCatchUp (u.setTb { u.tb with stepped := u.tb.stepped ||| 2 ^ i }) i (c + 1)) := by
      refine next_congr ((if_pos hgo).trans (if_neg fun h' => ?_))
      rcases h with h | h
      · exact h h'.1
      · exact not_of_eq_false h h'.2
    exact ⟨_, hrow, keepsMain_of_kept (execTbStep_kept k) hrow, rfl⟩
  case noAcq =>
    refine next_congr ((if_pos (Bool.and_eq_true_iff.2 ⟨ha, hb⟩)).trans (if_neg fun h' => ?_))
    obtain ⟨hd, h1, hacq⟩ := h'
    rcases h with h | h | h
    · exact h hd
    · exact h h1
    · exact not_of_eq_false h hacq
  case acq =>
    intro u
    have hrow : exec (.acq fn v cyc) s = .next (acquired s c) := next_congr ((if_pos (Bool.and_eq_true_iff.2 ⟨ha, hb⟩)).trans (tbAcq_of_acquiring hd h1 hacq))
    exact ⟨_, hrow, keepsMain_of_kept (execAcq_kept k) hrow, rfl, tbAt_acquired s c, tbDstate_acquired hs.1 c⟩
  case catchUp =>
    intro m next
    exact ⟨pulseCatchUp_of_past, pulseCatchUp_of_not_past⟩
  case pulse =>
    intro at_ per fallen moved
    exact ⟨fun h => next_congr (pulse_of_still h), fun hr ha => ⟨fun hp => next_congr (pulse_of_past hr ha hp),
      fun hp hne hf => next_congr (pulse_of_future hr ha hp hne hf), fun hp h => next_congr (pulse_of_now hr ha hp h)⟩⟩
  case capture =>
    intro falling cfg b old now info taken counts
    exact ⟨fun h => next_congr (captureEdge_of_not_counts h), fun h => ⟨fun l hl hn => next_congr (captureEdge_of_near h hl hn),
      fun hl => next_congr (captureEdge_of_far h hl)⟩⟩
  case latch =>
    intro x u
    refine ⟨fun ha => next_congr (if_pos ha), fun ha => next_congr (if_neg (not_of_eq_false ha)), ?_⟩
    intro w
    exact ⟨fun ha => next_congr (if_pos ha), fun ha => next_congr (if_neg (not_of_eq_false ha))⟩

end Sys2Proof.Machine
end

section
/-! SUPPORT. The deep store: players, missed requests, the scrubber and the aperture (chapter 18), and O57. -/

namespace Sys2Proof.Machine

open Sys2Proof.Claims

variable {s t u : State}

/-! ### Players -/

theorem running_plainWrite (s : State) (fn off : Nat) (q : Quarter) (v : Word) : running (plainWrite s fn off q v) = running s := by
  unfold plainWrite
  split
  · rfl
  · dsimp only
    split <;> rfl

theorem plainWrite_dkl (s : State) (fn off : Nat) (q : Quarter) (v : Word) : (plainWrite s fn off q v).dkl = s.dkl := by
  unfold plainWrite
  split
  · rfl
  · dsimp only
    split <;> rfl

theorem playerCtl_not_running {n : Nat} {v : Word} (hr : running s = false) : playerCtl s n v = s := if_pos (not_eq_true_of_false hr)

/-- The command bit k of a word that carries nothing but it and the bits below. -/
theorem bit_command {k msg : Nat} (hk : k < 32) (hmsg : msg < 2 ^ k) : bit (BitVec.ofNat 32 (2 ^ k + msg)) k = true := by
  rw [bit_ofNat, Nat.testBit_two_pow_add_eq, Nat.testBit_lt_two_pow hmsg, decide_eq_true hk]
  rfl

theorem playerCtl_go {n msg : Nat} (hr : running s = true) (hmsg : msg < 2 ^ 16) :
    playerCtl s n (BitVec.ofNat 32 (2 ^ 31 + msg)) = playerStart s n (rdF s (R.DST_PLAYn_CTL n) 15 0) none := by
  have hstop : bit (BitVec.ofNat 32 (2 ^ 31 + msg)) 30 = false := by
    rw [bit_ofNat, Nat.testBit_two_pow_add_gt (by omega), Nat.testBit_lt_two_pow (by omega), Bool.and_false]
  refine (if_neg (not_of_eq_true hr)).trans ?_
  dsimp only
  rw [if_pos (bit_command (by omega) (by omega)), if_neg (not_of_eq_false hstop)]

theorem playerCtl_stop {n msg : Nat} (hr : running s = true) (hmsg : msg < 2 ^ 16) : playerCtl s n (BitVec.ofNat 32 (2 ^ 30 + msg)) = playerStop s n := by
  have hgo : bit (BitVec.ofNat 32 (2 ^ 30 + msg)) 31 = false := by
    rw [bit_ofNat, Nat.testBit_lt_two_pow (by omega), Bool.and_false]
  refine (if_neg (not_of_eq_true hr)).trans ?_
  dsimp only
  rw [if_neg (not_of_eq_false hgo), if_pos (bit_command (by omega) (by omega))]

/-! ### What the operations on a unit leave unchanged -/

theorem foldl_dst {α : Type} {f : State → α → State} (hf : ∀ t a, (f t a).dst = t.dst) (l : List α) (s : State) : (l.foldl f s).dst = s.dst := by
  induction l generalizing s with
  | nil => rfl
  | cons a l ih => exact (ih (f s a)).trans (hf s a)

theorem foldl_dste {α : Type} {f : State → α → State} (hf : ∀ t a, (f t a).dste = t.dste) (l : List α) (s : State) : (l.foldl f s).dste = s.dste := by
  induction l generalizing s with
  | nil => rfl
  | cons a l ih => exact (ih (f s a)).trans (hf s a)

theorem ringChannel_eq_setStrm (s : State) (n c q : Nat) (v : Nat → Int) : ∃ x, ringChannel s n c q v = s.setStrm x := by
  unfold ringChannel
  generalize List.range 8 = l
  induction l generalizing s with
  | nil => exact ⟨s.strm, rfl⟩
  | cons i l ih =>
    dsimp only [List.foldl_cons]
    split
    · obtain ⟨x, hx⟩ := ih (s.setStrm _)
      exact ⟨x, hx⟩
    · exact ih s

theorem ringChannel_dst (s : State) (n c q : Nat) (v : Nat → Int) : (ringChannel s n c q v).dst = s.dst := by
  obtain ⟨x, hx⟩ := ringChannel_eq_setStrm s n c q v
  rw [hx, State.setStrm_dst]

theorem ringChannel_dste (s : State) (n c q : Nat) (v : Nat → Int) : (ringChannel s n c q v).dste = s.dste := by
  obtain ⟨x, hx⟩ := ringChannel_eq_setStrm s n c q v
  rw [hx, State.setStrm_dste]

theorem ringRewritten_dst (unit : Nat) (s : State) (n : Nat) : (ringRewritten unit s n).dst = s.dst := by
  unfold ringRewritten
  dsimp only
  split
  · refine foldl_dst (fun t c => foldl_dst (fun t q => ?_) _ t) _ s
    split
    · exact ringChannel_dst ..
    · rfl
  · rfl

theorem ringRewritten_dste (unit : Nat) (s : State) (n : Nat) : (ringRewritten unit s n).dste = s.dste := by
  unfold ringRewritten
  dsimp only
  split
  · refine foldl_dste (fun t c => foldl_dste (fun t q => ?_) _ t) _ s
    split
    · exact ringChannel_dste ..
    · rfl
  · rfl

theorem lineRewritten_dst (unit : Nat) (s : State) (n : Nat) : (lineRewritten unit s n).dst = s.dst := by
  unfold lineRewritten
  dsimp only
  split
  · rfl
  · refine foldl_dst (fun t q => ?_) _ s
    split <;> rfl

theorem lineRewritten_dste (unit : Nat) (s : State) (n : Nat) : (lineRewritten unit s n).dste = s.dste := by
  unfold lineRewritten
  dsimp only
  split
  · rfl
  · refine foldl_dste (fun t q => ?_) _ s
    split <;> rfl

theorem unitRewritten_dst (s : State) (unit : Nat) : (unitRewritten s unit).dst = s.dst := by
  unfold unitRewritten
  refine (foldl_dst ?_ _ _).trans (foldl_dst ?_ _ s)
  · exact fun t e => ringRewritten_dst unit t e.1
  · exact fun t e => lineRewritten_dst unit t e.1

theorem unitRewritten_dste (s : State) (unit : Nat) : (unitRewritten s unit).dste = s.dste := by
  unfold unitRewritten
  refine (foldl_dste ?_ _ _).trans (foldl_dste ?_ _ s)
  · exact fun t e => ringRewritten_dste unit t e.1
  · exact fun t e => lineRewritten_dste unit t e.1

theorem eccReports_dst (s : State) (rank unit corr unc : Nat) : (eccReports s rank unit corr unc).dst = s.dst := by
  unfold eccReports
  dsimp only
  split <;> split <;> rfl

theorem eccReports_dste (s : State) (rank unit corr unc : Nat) : (eccReports s rank unit corr unc).dste = s.dste := by
  unfold eccReports
  dsimp only
  split <;> split <;> rfl

theorem writeUnit_dst (s : State) (unit rank : Nat) (bytes : List Byte) : (writeUnit s unit rank bytes).dst = dstPutBytes s.dst (32 * unit) bytes := rfl

theorem writeUnit_queue (s : State) (unit rank : Nat) (bytes : List Byte) : (writeUnit s unit rank bytes).dste.queue = s.dste.queue := rfl

/-! ### The aperture -/

theorem mirrorAll_off (l : List (Nat × Word)) (go : State → State) (honce : AtOnce s) : mirrorAll s l go = go s := by
  induction l with
  | nil => rfl
  | cons e l ih =>
    unfold mirrorAll
    split
    · exact mirrored_off _ _ honce
    · rw [mirrored_off _ _ honce, ih]

theorem length_hostBytes (off : Nat) (data : List Byte) : (hostBytes off data).length = min data.length (32 - off) := by
  rw [hostBytes, List.length_map, List.length_range]

theorem getElem?_hostBytes {off i : Nat} {data : List Byte} (hi : i < (hostBytes off data).length) :
    (hostBytes off data)[i]? = some (off + i, data.getD i 0) := by
  rw [length_hostBytes] at hi
  rw [hostBytes, List.getElem?_map, List.getElem?_range hi, Option.map_some, List.getD_eq_getElem?_getD]

theorem length_mergeUnit (old : List Byte) (new : List (Nat × Byte)) (unc : Nat) : (mergeUnit old new unc).length = 32 := by
  rw [mergeUnit, List.length_map, List.length_range]

theorem getElem_mergeUnit_clean {i : Nat} (old : List Byte) (new : List (Nat × Byte)) (hi : i < (mergeUnit old new 0).length) :
    (mergeUnit old new 0)[i] = ((new.find? (fun e => e.1 == i)).map Prod.snd).getD ((old[i]?).getD 0) := by
  simp only [mergeUnit, List.getElem_map, List.getElem_range, Nat.zero_testBit, Bool.false_and, Bool.false_eq_true, if_false]
  cases new.find? (fun e => e.1 == i) <;> rfl

theorem getElem?_dstBytes (m : List Host.Cell) (a : Nat) {n i : Nat} (hi : i < n) : (dstBytes m a n)[i]? = some (dstByte m (a + i)) := by
  induction n generalizing a i with
  | zero => exact absurd hi (Nat.not_lt_zero i)
  | succ n ih =>
    cases i with
    | zero => rfl
    | succ i =>
      rw [dstBytes, List.getElem?_cons_succ, ih (a + 1) (by omega)]
      rw [Nat.add_right_comm, Nat.add_assoc]

theorem mayGrant_of_not_serving {rank : Nat} (hd : dstServes s = false) (unit : Nat) (hrank : rank < 6) : mayGrant s unit rank = false := by
  have hmask : (dstMask s).testBit rank = true := by
    rw [dstMask, if_pos (not_eq_true_of_false hd)]
    exact (by decide : ∀ r < 6, Nat.testBit 63 r = true) rank hrank
  rw [mayGrant, hmask]
  rfl

/-- The state in which the oldest queued write goes to its unit: out of the queue, its reads reported. -/
def servedFrom (s : State) (corr unc : Nat) (u : Nat) (new : List (Nat × Byte)) (q : List (Nat × List (Nat × Byte))) : State :=
  if partWords new = 0 then s.setDste { s.dste with queue := q }
  else eccReports (granted (s.setDste { s.dste with queue := q }) u 4) 4 u corr unc

theorem servedFrom_dst (s : State) (corr unc u : Nat) (new : List (Nat × Byte)) (q : List (Nat × List (Nat × Byte))) :
    (servedFrom s corr unc u new q).dst = s.dst := by
  unfold servedFrom
  split
  · rfl
  · rw [eccReports_dst]
    rfl

theorem servedFrom_queue (s : State) (corr unc u : Nat) (new : List (Nat × Byte)) (q : List (Nat × List (Nat × Byte))) :
    (servedFrom s corr unc u new q).dste.queue = q := by
  unfold servedFrom
  split
  · rfl
  · rw [eccReports_dste]
    rfl

theorem execApertureWriteServed_empty {corr unc : BitVec 4} (h : s.dste.queue = []) : execApertureWriteServed corr unc s = .next s := by
  unfold execApertureWriteServed
  rw [h]

theorem execApertureWriteServed_head {corr unc : BitVec 4} {u : Nat} {new : List (Nat × Byte)} {q : List (Nat × List (Nat × Byte))}
    (h : s.dste.queue = (u, new) :: q) : execApertureWriteServed corr unc s = .next (if mayGrant s u 4 then
      unitRewritten (writeUnit (servedFrom s corr.toNat unc.toNat u new q) u 4 (mergeUnit (dstBytes s.dst (32 * u) 32) new (unc.toNat &&& partWords new))) u
      else s) := by
  rw [← servedFrom_dst s corr.toNat unc.toNat u new q]
  unfold execApertureWriteServed
  rw [h]
  rfl

/-- Settles O57: each row is its operation where the function may use it and the arbiter grants it; the bytes of the store follow from what
the write of a unit puts there. -/
theorem deepStoreServesAndReports : Obligations.DeepStoreServesAndReports := by
  unfold Obligations.DeepStoreServesAndReports
  intro s hs
  have k := kept_main hs
  refine ⟨fun fn n msg => ?players, fun req unit => ⟨fun h => ?noMiss, fun hr hu => ?miss⟩, ?abandoned, fun corr unc => ?scrub,
    fun h => ?noBack, fun u h => ?back, fun h => next_congr (if_neg (by omega)), fun h => next_congr (if_pos h), fun hb unit off data => ?write,
    fun addr corr unc hb => ⟨fun hd => ?notServing, fun hd hg => ?waits, fun hd hg => ?reads⟩, fun hb => ⟨fun unit off data => ?_, fun addr corr unc => ?_, ?_⟩,
    fun hb => next_congr (if_pos hb), fun corr unc h => execApertureWriteServed_empty h, fun corr unc u new q hq => ⟨fun hg => ?ungranted, fun hg => ?served⟩,
    fun corr u new q hq hg => ?bytes⟩
  case players =>
    intro off go halt p q
    refine ⟨fun ha => ⟨next_congr (if_neg (not_of_eq_false ha)), next_congr (if_neg (not_of_eq_false ha))⟩, fun ha hr => ⟨?_, ?_⟩, fun ha hr => ⟨?_, ?_⟩⟩
    · exact next_congr ((if_pos ha).trans (playerCtl_not_running ((running_plainWrite ..).trans hr)))
    · exact next_congr ((if_pos ha).trans (playerCtl_not_running ((running_plainWrite ..).trans hr)))
    · refine next_congr ((if_pos ha).trans ((playerCtl_go ((running_plainWrite ..).trans hr) msg.isLt).trans ?_))
      rw [playerStart, plainWrite_dkl]
    · have hrow : exec (.playerStop fn n msg) s = .next (playerStop halt n.toNat) :=
        next_congr ((if_pos ha).trans (playerCtl_stop ((running_plainWrite ..).trans hr) msg.isLt))
      have hdkl : halt.dkl = s.dkl := plainWrite_dkl ..
      refine ⟨fun h => hrow.trans (next_congr (if_pos h)), fun h => hrow.trans (next_congr ((if_neg h).trans ?_))⟩
      rw [hdkl]
  case noMiss =>
    refine next_congr (if_neg fun hgo => ?_)
    rw [Bool.and_eq_true, beq_iff_eq] at hgo
    rcases h with h | h
    · exact not_of_eq_false h hgo.1
    · exact h hgo.2
  case miss =>
    have hrow : exec (.deadlineMiss req unit) s = .next (dstCond (missRequest s req unit.toNat) 2
        [(R.DST_MISS, BitVec.ofNat 32 (unit.toNat / 8 % 32 + reqRank req * 32 + s.dkl.num % 65536 * 65536))]) :=
      next_congr (if_pos (Bool.and_eq_true_iff.2 ⟨hr, beq_iff_eq.2 hu⟩))
    exact ⟨_, hrow, ((execDeadlineMiss_kept (kept_butStore hs) fun _ _ _ _ => trivial).kept _ hrow).keepsButStore, rfl⟩
  case abandoned =>
    intro n age c slot u unit
    refine ⟨fun h => ?_, rfl, rfl, ?_, rfl⟩
    · dsimp only [missRequest]
      rw [h]
      rfl
    · dsimp only [missRequest]
      rw [State.setDst_dst, ringChannel_dst]
  case scrub =>
    intro u r k'
    refine ⟨fun hg => next_congr (if_neg (not_of_eq_false hg)), fun hg => ?_⟩
    have hrow : exec (.dstScrubRead corr unc) s = .next (if u + 1 = 2 ^ 29 then
        dstCond (wr k' R.DST_SCRUB_POS (BitVec.ofNat 32 (if rdB s R.DST_SCRUB_POS 31 then 0 else 2 ^ 31))) 3 []
        else wrF k' R.DST_SCRUB_POS 28 0 (u + 1)) := next_congr (if_pos hg)
    exact ⟨_, hrow, keepsMain_of_kept (execDstScrubRead_kept k) hrow, fun h => if_neg h, fun h => if_pos h⟩
  case noBack =>
    refine next_congr ?_
    rw [h]
  case back =>
    have hrow : exec .dstScrubWriteback s = .next (granted (s.setDste { s.dste with writeBack := s.dste.writeBack.erase u, granted := true }) u 5) := by
      refine next_congr ?_
      rw [h]
    exact ⟨_, hrow, keepsMain_of_kept (execDstScrubWriteback_kept k) hrow, rfl⟩
  case write =>
    intro new take
    have hrow : exec (.apertureWrite unit off data) s = .next (mirrorAll s (barWords s unit.toNat new) take) := next_congr (if_pos hb)
    exact ⟨hrow, fun honce => hrow.trans (next_congr (mirrorAll_off _ _ honce)), length_hostBytes .., fun i hi => getElem?_hostBytes hi⟩
  case notServing =>
    refine next_congr ((if_neg (not_of_eq_true hb)).trans ((if_neg (by rw [hd]; exact Bool.false_ne_true)).trans ?_))
    rw [apertureRead, if_neg (not_of_eq_false (mayGrant_of_not_serving hd _ (by decide)))]
  case waits =>
    refine next_congr ((if_neg (not_of_eq_true hb)).trans (if_pos ?_))
    rw [hd, hg]
    rfl
  case reads =>
    refine next_congr ((if_neg (not_of_eq_true hb)).trans ((if_neg (by rw [hg, Bool.not_true, Bool.and_false]; exact Bool.false_ne_true)).trans ?_))
    rw [apertureRead, if_pos hg]
  case ungranted => exact (execApertureWriteServed_head hq).trans (next_congr (if_neg (not_of_eq_false hg)))
  case served =>
    intro t r bytes
    have hrow : exec (.apertureWriteServed corr unc) s = .next (unitRewritten (writeUnit r u 4 bytes) u) :=
      (execApertureWriteServed_head hq).trans (next_congr (if_pos hg))
    refine ⟨_, hrow, ((execApertureWriteServed_kept (kept_butStore hs) fun _ _ _ _ => trivial).kept _ hrow).keepsButStore, rfl, ?_⟩
    have hr : r.dst = s.dst := servedFrom_dst s corr.toNat unc.toNat u new q
    rw [unitRewritten_dst, writeUnit_dst, hr]
  case bytes =>
    have hrow : exec (.apertureWriteServed corr 0) s = .next (unitRewritten (writeUnit (servedFrom s corr.toNat 0 u new q) u 4
        (mergeUnit (dstBytes s.dst (32 * u) 32) new 0)) u) := by
      refine (execApertureWriteServed_head hq).trans (next_congr ((if_pos hg).trans ?_))
      rw [show (0 : BitVec 4).toNat = 0 from rfl, Nat.zero_and]
    have hdst : ∀ r : State, r.dst = s.dst → (unitRewritten (writeUnit r u 4 (mergeUnit (dstBytes s.dst (32 * u) 32) new 0)) u).dst =
        dstPutBytes s.dst (32 * u) (mergeUnit (dstBytes s.dst (32 * u) 32) new 0) := fun r hr => by rw [unitRewritten_dst, writeUnit_dst, hr]
    refine ⟨_, hrow, ((execApertureWriteServed_kept (kept_butStore hs) fun _ _ _ _ => trivial).kept _ hrow).keepsButStore, ?_, fun a ha => ?_, fun _ i hi => ?_⟩
    · rw [unitRewritten_dste, writeUnit_queue, servedFrom_queue]
    · rw [hdst _ (servedFrom_dst ..), dstByte_putBytes_ne _ _ _ _ (by rwa [length_mergeUnit])]
    · have hlen : i < (mergeUnit (dstBytes s.dst (32 * u) 32) new 0).length := by rwa [length_mergeUnit]
      rw [hdst _ (servedFrom_dst ..), dstByte_putBytes_same _ _ _ hlen hs.2, getElem_mergeUnit_clean, getElem?_dstBytes _ _ hi]
      cases new.find? (fun e => e.1 == i) <;> rfl
  · exact next_congr (if_neg (not_of_eq_false hb))
  · exact next_congr (if_pos (not_eq_true_of_false hb))
  · exact next_congr (if_neg (not_of_eq_false hb))

end Sys2Proof.Machine
end

section
/-! SUPPORT. The DMA channels of the host port (chapter 19), the dual-channel and general inputs (chapter 22), and O58. -/

namespace Sys2Proof.Machine

open Sys2Proof.Claims

variable {s t u : State}

/-! ### The tail of a channel -/

/-- A write of a register that no pair mirrors and to which no unit gives an effect, in an open block, writes it alone. -/
theorem hostWrite_plain {fn off c : Nat} {v : Word} {r : RegRow} (h : accessOk s fn off = true) (hm : mirrorBar0 off = false)
    (hr : regFind off = some r) (hsc : r.sc = 0) (ha : off / 0x10000 ≠ 0xA) (hl : locked s off = false)
    (hu : ∀ w, unitWrite s fn off .base w v c = none) : hostWrite s fn off .base v c = wr s (keyFor fn off) (newWord s fn off .base v) := by
  have hopen : lockSeen s fn off r = s := if_neg fun h' => not_of_eq_false hl h'.1
  rw [hostWrite_of_own h hm, regWrite_of_found hr, if_neg (by simp), if_neg ha, hopen, hu, if_neg fun h' => h'.2 hsc]
  rfl

theorem tail_facts {c : Nat} (hc : c < 8) : mirrorBar0 (R.HOST_DMAc_TAIL c) = false ∧ (regFind (R.HOST_DMAc_TAIL c)).map RegRow.sc = some 0 :=
  (by decide : ∀ c < 8, mirrorBar0 (R.HOST_DMAc_TAIL c) = false ∧ (regFind (R.HOST_DMAc_TAIL c)).map RegRow.sc = some 0) c hc

theorem keyFor_tail {c : Nat} (hc : c < 8) (fn : Nat) : keyFor fn (R.HOST_DMAc_TAIL c) = R.HOST_DMAc_TAIL c :=
  if_neg ((by decide : ∀ c < 8, ¬ perFn (R.HOST_DMAc_TAIL c) = true) c hc)

theorem unitWrite_tail {c : Nat} (hc : c < 8) (s : State) (fn k : Nat) (w v : Word) : unitWrite s fn (R.HOST_DMAc_TAIL c) .base w v k = none := by
  have hblock : R.HOST_DMAc_TAIL c / 0x10000 = 2 := by
    rw [R.HOST_DMAc_TAIL]
    omega
  unfold unitWrite
  rw [hblock]
  exact if_neg ((by decide : ∀ c < 8, ¬ (R.HOST_DMAc_TAIL c = R.IND_SEL ∨ R.HOST_DMAc_TAIL c = R.IND_ADDR ∨ R.HOST_DMAc_TAIL c = R.IND_DATA ∨
    R.HOST_DMAc_TAIL c = R.IND_CTL)) c hc)

theorem hostWrite_tail {fn c : Nat} {v : Word} (hc : c < 8) (h : accessOk s fn (R.HOST_DMAc_TAIL c) = true) (hl : locked s (R.HOST_DMAc_TAIL c) = false) :
    hostWrite s fn (R.HOST_DMAc_TAIL c) .base v 0 = wr s (R.HOST_DMAc_TAIL c) (newWord s fn (R.HOST_DMAc_TAIL c) .base v) := by
  obtain ⟨hm, hsc⟩ := tail_facts hc
  obtain ⟨r, hr, hsc⟩ := Option.map_eq_some_iff.1 hsc
  rw [hostWrite_plain h hm hr hsc (by rw [R.HOST_DMAc_TAIL]; omega) hl (unitWrite_tail hc s fn 0 · v), keyFor_tail hc]

/-! ### Transmit channels -/

section Transmit

variable {c : Nat} {d : List Word} {b : List Byte}

theorem dmaTransmit_no_port (h : 20 ≤ fld (dw d 2) 20 16 ∨ running s = false ∨ portUp s (fld (dw d 2) 20 16) = false) :
    dmaTransmit s c d (some b) = txComplete s c (doneWord (dw d 7) 3) none := if_pos h

theorem dmaTransmit_short (hp : fld (dw d 2) 20 16 < 20) (hr : running s = true) (hup : portUp s (fld (dw d 2) 20 16) = true)
    (h : b.length < fld (dw d 2) 13 0) : dmaTransmit s c d (some b) = txComplete s c (doneWord (dw d 7) 6) none :=
  (if_neg (by simp [hr, hup, hp])).trans (if_pos h)

theorem dmaTransmit_long (hp : fld (dw d 2) 20 16 < 20) (hr : running s = true) (hup : portUp s (fld (dw d 2) 20 16) = true)
    (hlen : fld (dw d 2) 13 0 ≤ b.length) (h : frameLimit s (fld (dw d 2) 20 16) (fbe (padFrame (b.take (fld (dw d 2) 13 0))) 12 2 == 0x8100) <
      (padFrame (b.take (fld (dw d 2) 13 0))).length + 4) : dmaTransmit s c d (some b) = txComplete s c (doneWord (dw d 7) 2) none :=
  (if_neg (by simp [hr, hup, hp])).trans ((if_neg (by omega)).trans (if_pos h))

/-- The launch time that a transmit descriptor asks for. -/
def askedLaunch (d : List Word) : Option Nat := if bit (dw d 2) 29 then some (dw d 3).toNat else none

/-- Word 7 of a descriptor whose frame joins its queue: status 4 where its launch time has passed. -/
def queuedWord (s : State) (d : List Word) : Word :=
  doneWord (dw d 7) (if (match askedLaunch d with | some x => nsPast x (tbNs s 0 0) | none => false) = true then 4 else 0)

/-- The frame of a transmit descriptor as it joins its queue. -/
def hostFrame (s : State) (c : Nat) (d : List Word) (b : List Byte) : EgFrame :=
  { port := fld (dw d 2) 20 16, queue := fld (dw d 2) 26 24, bytes := padFrame (b.take (fld (dw d 2) 13 0)), launch := askedLaunch d,
    deckle := none, ingress := none, host := if bit (dw d 2) 28 then some (c, (queuedWord s d).toNat) else none, bad := false }

theorem dmaTransmit_queued (hp : fld (dw d 2) 20 16 < 20) (hr : running s = true) (hup : portUp s (fld (dw d 2) 20 16) = true)
    (hlen : fld (dw d 2) 13 0 ≤ b.length) (h : (padFrame (b.take (fld (dw d 2) 13 0))).length + 4 ≤
      frameLimit s (fld (dw d 2) 20 16) (fbe (padFrame (b.take (fld (dw d 2) 13 0))) 12 2 == 0x8100)) : dmaTransmit s c d (some b) =
    if (enqueue s (hostFrame s c d b)).eth.egress.length = s.eth.egress.length then txComplete (enqueue s (hostFrame s c d b)) c (doneWord (dw d 7) 1) none
    else if bit (dw d 2) 28 then enqueue s (hostFrame s c d b) else txComplete (enqueue s (hostFrame s c d b)) c (queuedWord s d) none :=
  (if_neg (by simp [hr, hup, hp])).trans ((if_neg (by omega)).trans (if_neg (by omega)))

end Transmit

/-! ### Receive channels -/

section Receive

variable {d : List Word} {m : Bool} {f : FrameIn} {rsn : Nat} {rest : List (FrameIn × Nat)}

theorem execDmaReceive_of_none (h : s.eth.toHost = []) : execDmaReceive d m s = .next s := by
  rw [execDmaReceive, h]

theorem execDmaReceive_of_no_channel (h : s.eth.toHost = (f, rsn) :: rest) (ht : t = s.setEth { s.eth with toHost := rest })
    (hc : rxChannel t (tenantFn t f.tenant) f.pcp = none) : execDmaReceive d m s = .next (rxDrop t) := by
  subst ht
  rw [execDmaReceive, h]
  dsimp only
  rw [hc]

theorem execDmaReceive_of_channel {c : Nat} (h : s.eth.toHost = (f, rsn) :: rest) (ht : t = s.setEth { s.eth with toHost := rest })
    (hc : rxChannel t (tenantFn t f.tenant) f.pcp = some c) : execDmaReceive d m s = .next (
      if dmaWaits t c = false ∨ bit (dw d 7) 31 = false ∨ fld (dw d 2) 13 0 < f.bytes.length then rxDrop t
      else if m then dmaComplete t c 2 (rxWords d f rsn) (doneWord (dw d 7) 6)
      else dmaComplete (emit t (.hostBytes (dmaFn t c) ((dw d 0).toNat + (dw d 1).toNat * 2 ^ 32) f.bytes)) c 2 (rxWords d f rsn) (doneWord (dw d 7) 0)) := by
  subst ht
  rw [execDmaReceive, h]
  dsimp only
  rw [hc]

end Receive

/-! ### Copies -/

/-- The state after a portion of a copy: a refused word or the last word ends the descriptor, else the copy goes on. -/
def portionDone (k : Nat) (d : List Word) (old : Nat × Bool) (u : State) (moved : Nat) (refused bad : Bool) : State :=
  if refused then dmaComplete (u.setHp { u.hp with copying := SMap.del u.hp.copying k }) k 7 [] (doneWord (dw d 7) 5)
  else if (dw d 2).toNat / 4 ≤ old.1 + moved then
    dmaComplete (u.setHp { u.hp with copying := SMap.del u.hp.copying k }) k 7 [] (doneWord (dw d 7) (if old.2 || bad then 7 else 0))
  else u.setHp { u.hp with copying := SMap.put u.hp.copying k (old.1 + moved, old.2 || bad) }

/-! ### Inputs -/

theorem b2n_mul (b : Bool) (k : Nat) : b2n b * k = if b then k else 0 := by
  cases b
  · exact Nat.zero_mul k
  · exact Nat.one_mul k

/-- The filters move the filter outputs and their counts alone: the synchroniser's stages stand. -/
theorem filterChannels_stages (s : State) (lvls : Nat) : (filterChannels s lvls).inp.dciSt1 = s.inp.dciSt1 ∧
    (filterChannels s lvls).inp.dciSeen = s.inp.dciSeen ∧ (filterChannels s lvls).inp.dciSt2 = s.inp.dciSt2 ∧
    (filterChannels s lvls).inp.dciLvl = s.inp.dciLvl := by
  unfold filterChannels
  generalize List.range 32 = l
  induction l generalizing s with
  | nil => exact ⟨rfl, rfl, rfl, rfl⟩
  | cons i l ih => exact ih _

theorem filterStep_agree (filt held : Nat) (b : Bool) : filterStep filt b b held = (b, 0) := if_pos (beq_self_eq_true b)

theorem filterStep_against {filt held : Nat} {lvl raw : Bool} (h : lvl ≠ raw) :
    filterStep filt lvl raw held = if filt * 100 ≤ held + 1 then (lvl, 0) else (raw, held + 1) := if_neg (by simpa using h)

theorem runPair_of_off {n : Nat} (h : rdB s (R.DCI_PAIRn_CFG n) 0 = false) : runPair s n = s := if_pos (not_eq_true_of_false h)

/-- The registers of an enabled pair after its evaluation: its counts, and its bits of DCI_STATE. -/
def pairRegs (s : State) (n : Nat) : State :=
  wr (wr s (R.DCI_PAIRn_CNT n) (BitVec.ofNat 32 ((evalPair s n).dis + (evalPair s n).ra * 65536))) R.DCI_STATE
    (setFld (setFld (rd s R.DCI_STATE) n n (b2n (evalPair s n).taken)) (16 + n) (16 + n) (b2n (evalPair s n).fault))

/-- The condition that an evaluation reports. -/
def pairAsk (n : Nat) (b : Nat) : HwReq := .cond R.DCI_STAT 243 (BitVec.ofNat 32 (2 ^ b)) [(R.DCI_LAST, BitVec.ofNat 32 (n + b * 65536))] 0 .newBits

theorem runPair_of_on {n : Nat} (h : rdB s (R.DCI_PAIRn_CFG n) 0 = true) :
    runPair s n = ask (pairRegs s n) ((evalPair s n).report.toList.map (pairAsk n)) := by
  refine (if_neg (not_of_eq_true h)).trans ?_
  dsimp only
  cases (evalPair s n).report with
  | none => exact (ask_nil _).symm
  | some b => rfl

theorem pairRegs_spec (hw : Registers.wf s.regs = true) {n : Nat} (hn : n < 16) : RegsBut s (pairRegs s n) [R.DCI_PAIRn_CNT n, R.DCI_STATE] ∧
    rd (pairRegs s n) (R.DCI_PAIRn_CNT n) = BitVec.ofNat 32 ((evalPair s n).dis + (evalPair s n).ra * 65536) ∧
    rdB (pairRegs s n) R.DCI_STATE n = (evalPair s n).taken ∧ rdB (pairRegs s n) R.DCI_STATE (16 + n) = (evalPair s n).fault := by
  have hne : R.DCI_PAIRn_CNT n ≠ R.DCI_STATE := by
    rw [R.DCI_PAIRn_CNT, R.DCI_STATE]
    omega
  have hst : rd (pairRegs s n) R.DCI_STATE = setFld (setFld (rd s R.DCI_STATE) n n (b2n (evalPair s n).taken)) (16 + n) (16 + n) (b2n (evalPair s n).fault) :=
    rd_wr_self (wf_wr hw _ _) _ _
  refine ⟨((regsBut_wr s _ _).trans (regsBut_wr _ _ _)).mono (by simp), (rd_wr_ne _ _ hne).trans (rd_wr_self hw _ _), ?_, ?_⟩
  · rw [rdB, hst, bit_setFld_of_not_mem _ _ (Nat.le_refl (16 + n)) (by omega) (by omega), bit_setFld_bit _ _ (by omega)]
  · rw [rdB, hst, bit_setFld_bit _ _ (by omega)]

/-- Settles O58: the rows of the channels case by case, a pin's level at its pin, and step 4 pair by pair. -/
theorem dmaChannelsAndInputs : Obligations.DmaChannelsAndInputs := by
  unfold Obligations.DmaChannelsAndInputs
  intro s hs
  have k := kept_main hs
  refine ⟨fun fn c v ha => next_congr (hostWrite_of_no_access ha), fun fn c v ha hl => ?tail, fun c d h f => ?txOff, fun c d hon hw hown hp => ?tx,
    fun c d f h => ?txNot, fun h d m => execDmaReceive_of_none h, fun f rsn rest t h ht d m => ?rx, fun c d data n m corr unc hon hw hown => ?copy,
    fun c d data n m corr unc h => ?copyOff, fun n b level late => ?pin, ?sync, fun filt lvl raw held => ⟨fun h => ?_, fun h hf => ?_, fun h hf => ?_⟩,
    fun n q hq => ?boundary, fun n hn => ⟨runPair_of_off, fun hon => ?pair⟩, fun p level => ?gpio⟩
  case tail =>
    have hrow : exec (.dmaTailWrite fn c v) s = .next (wr s (R.HOST_DMAc_TAIL c.toNat) (newWord s fn.toNat (R.HOST_DMAc_TAIL c.toNat) .base v)) :=
      next_congr (hostWrite_tail c.isLt ha hl)
    exact ⟨_, hrow, rfl, regsBut_wr s _ _, rd_wr_self hs.1 _ _⟩
  case txOff =>
    refine next_congr (if_neg ?_)
    rcases h with h | h <;> simp [h]
  case txNot =>
    refine next_congr (if_neg ?_)
    rcases h with h | h <;> simp [h]
  case tx =>
    have hrow : ∀ f, exec (.dmaTransmit c d f) s = .next (dmaTransmit s c.toNat d f) := fun f => next_congr (if_pos (by rw [hon, hw, hown, hp]; rfl))
    refine ⟨hrow none, fun b h => (hrow _).trans (next_congr (dmaTransmit_no_port h)), fun b p hpp hp20 hr hup => ?_⟩
    subst hpp
    refine ⟨fun h => (hrow _).trans (next_congr (dmaTransmit_short hp20 hr hup h)), fun body hlen hbody => ?_⟩
    subst hbody
    refine ⟨fun h => (hrow _).trans (next_congr (dmaTransmit_long hp20 hr hup hlen h)), fun h launch w t hlaunch hw' ht => ?_⟩
    subst hlaunch hw' ht
    have hq := (hrow (some b)).trans (next_congr (dmaTransmit_queued hp20 hr hup hlen h))
    exact ⟨fun h => hq.trans (next_congr (if_pos h)), fun h h28 => hq.trans (next_congr ((if_neg h).trans (if_pos h28))),
      fun h h28 => hq.trans (next_congr ((if_neg h).trans (if_neg (not_of_eq_false h28))))⟩
  case rx =>
    refine ⟨execDmaReceive_of_no_channel h ht, fun c hc hno => (execDmaReceive_of_channel h ht hc).trans (next_congr (if_pos hno)), fun c hc hw hown hlen => ?_⟩
    have hgo : ¬ (dmaWaits t c = false ∨ bit (dw d 7) 31 = false ∨ fld (dw d 2) 13 0 < f.bytes.length) := by
      rw [hw, hown]
      simp [hlen]
    have hrow : exec (.dmaReceive d m) s = _ := (execDmaReceive_of_channel h ht hc).trans (next_congr (if_neg hgo))
    refine ⟨fun hm => hrow.trans (next_congr (if_pos hm)), fun hm => ?_⟩
    have hrow := hrow.trans (next_congr (if_neg (not_of_eq_false hm)))
    exact ⟨_, hrow, keepsMain_of_kept (execDmaReceive_kept k) hrow, rfl⟩
  case copyOff =>
    refine next_congr (if_neg ?_)
    rcases h with h | h | h <;> simp [h]
  case copy =>
    have hgo : (dmaOn s c.toNat 3 && dmaWaits s c.toNat && bit (dw d 7) 31) = true := by rw [hon, hw, hown]; rfl
    refine ⟨fun h => next_congr ((if_pos hgo).trans (if_pos h)), fun h4 hlo hhi hm => next_congr ((if_pos hgo).trans ((if_neg (by omega)).trans (if_pos hm))),
      fun h4 hlo hhi hm old u moved refused bad hold hout hin => ?_⟩
    have hrow : exec (.dmaCopy c d data n m corr unc) s = .next (portionDone c.toNat d old u moved refused bad) := by
      refine next_congr ((if_pos hgo).trans ((if_neg (by omega)).trans ((if_neg (not_of_eq_false hm)).trans ?_)))
      subst hold
      rcases Bool.eq_false_or_eq_true (bit (dw d 4) 8) with hdir | hdir
      · obtain ⟨rfl, rfl, rfl, rfl⟩ := hout hdir _ rfl
        exact if_pos hdir
      · obtain ⟨rfl, rfl, rfl, rfl⟩ := hin hdir _ rfl
        exact if_neg (not_of_eq_false hdir)
    exact ⟨fun h => hrow.trans (next_congr (if_pos h)), fun h hend => hrow.trans (next_congr ((if_neg (not_of_eq_false h)).trans (if_pos hend))),
      fun h hgo => hrow.trans (next_congr ((if_neg (not_of_eq_false h)).trans (if_neg (by omega))))⟩
  case pin =>
    intro i put
    refine next_congr ?_
    simp only [put, i, b2n_mul]
  case sync => exact filterChannels_stages _ _
  case boundary =>
    simp only [List.mem_cons, List.not_mem_nil, or_false] at hq
    rcases hq with rfl | rfl
    · exact boundaryRow hs rfl
    · exact boundaryRow hs rfl
  case pair =>
    intro e t
    obtain ⟨hbut, hcnt, htaken, hfault⟩ := pairRegs_spec hs.1 hn
    have ht : t = ask (pairRegs s n) (e.report.toList.map (pairAsk n)) := runPair_of_on hon
    rw [ht]
    refine ⟨hbut.of_regs_eq rfl, hcnt, htaken, hfault, fun b hb => ?_, fun hb => ?_⟩
    · rw [hb]
      exact List.mem_append_right _ (List.mem_singleton_self _)
    · rw [hb]
      exact (congrArg State.ev (ask_nil (pairRegs s n))).trans rfl
  case gpio =>
    refine next_congr ?_
    simp only [b2n_mul]
  · rw [h, filterStep_agree]
  · rw [filterStep_against h, if_pos hf]
  · rw [filterStep_against h, if_neg (by omega)]

end Sys2Proof.Machine
end

section
/-! SUPPORT. The event controller: pending bits, rings, bindings and MSI-X entries (chapter 20), and O59. -/

namespace Sys2Proof.Machine

open Sys2Proof.Claims

variable {s t u : State}

/-! ### Folds over a list of numbers -/

/-- What the operation of one element establishes, and those of the others keep, holds behind all of them. -/
theorem foldl_establishes {f : State → Nat → State} {inv p : State → Prop} {a : Nat} {l : List Nat} (ha : a ∈ l)
    (hinv : ∀ u b, inv u → inv (f u b)) (hmake : ∀ u, inv u → p (f u a)) (hkeep : ∀ u, ∀ b ∈ l, b ≠ a → p u → p (f u b)) (hs : inv s) :
    p (l.foldl f s) := by
  induction l generalizing s with
  | nil => exact absurd ha List.not_mem_nil
  | cons b l ih =>
    have hkeep' : ∀ u, ∀ c ∈ l, c ≠ a → p u → p (f u c) := fun u c hc => hkeep u c (List.mem_cons_of_mem _ hc)
    by_cases hal : a ∈ l
    · exact ih hal hkeep' (hinv s b hs)
    · obtain rfl : a = b := (List.mem_cons.1 ha).resolve_right hal
      exact List.foldlRecOn l f (hmake s hs) fun u hu c hc => hkeep' u c hc (fun h => hal (h ▸ hc)) hu

/-! ### Pending bits -/

theorem clearPending_eq_setEv (w : Nat) (v : Word) : ∃ m, clearPending s w v = s.setEv { s.ev with firings := m } := by
  unfold clearPending
  generalize wordSources w v = l
  induction l generalizing s with
  | nil => exact ⟨s.ev.firings, rfl⟩
  | cons n l ih =>
    obtain ⟨m, hm⟩ := ih (s := s.setEv { s.ev with firings := SMap.del s.ev.firings n })
    exact ⟨m, hm⟩

theorem clearPending_forgets {w n : Nat} {v : Word} (hn : n ∈ wordSources w v) (hs : SMap.sorted s.ev.firings = true) :
    SMap.get (clearPending s w v).ev.firings n = none :=
  foldl_establishes (inv := fun u => SMap.sorted u.ev.firings = true) (p := fun u => SMap.get u.ev.firings n = none) hn
    (fun _ b hu => SMap.sorted_del b hu) (fun _ hu => SMap.get_del_same hu) (fun _ _ _ hb hu => (SMap.get_del_ne _ hb.symm).trans hu) hs

/-! ### The stack and the rings of a target -/

theorem bestRing_lt {k n p : Nat} (h : bestRing s k n = some p) : p < n := by
  induction n with
  | zero => cases h
  | succ n ih =>
    unfold bestRing at h
    split at h
    · cases h
      exact Nat.lt_succ_self _
    · exact Nat.lt_succ_of_lt (ih h)

theorem readAck_of_some {k p : Nat} (h : bestRing s k 16 = some p) : readAck s k =
    (setStack s k (stackLevels s k ||| 2 ^ p)).setAns (BitVec.ofNat 32 (2 ^ 31 + p * 2 ^ 20 + ringCount s k p % 2 ^ 17)) := by
  rw [readAck, ackWord, h]

theorem readAck_of_none {k : Nat} (h : bestRing s k 16 = none) : readAck s k = s.setAns 0 := by
  rw [readAck, ackWord, h]

theorem stackLevels_setAns (s : State) (w : Word) (k : Nat) : stackLevels (s.setAns w) k = stackLevels s k := rfl

theorem rd_resetTarget_of_ne {k o : Nat} (hrun : o ≠ R.EVC_TGTt_RUN k) (hbase : ∀ p < 16, o ≠ R.EVC_TGTt_RINGp_BASE_LO k p) :
    rd (resetTarget s k) o = rd s o := by
  rw [resetTarget, setStack, rd_wr_ne _ _ hrun]
  exact rd_foldl _ (fun u p hp => rd_wrF_ne (hbase p (List.mem_range.1 hp))) s

theorem rd_resetTarget_other_run {k j : Nat} (h : j ≠ k) : rd (resetTarget s k) (R.EVC_TGTt_RUN j) = rd s (R.EVC_TGTt_RUN j) := by
  refine rd_resetTarget_of_ne ?_ fun p hp => ?_ <;> simp only [R.EVC_TGTt_RUN, R.EVC_TGTt_RINGp_BASE_LO] <;> omega

theorem rd_resetTarget_other_base {k j p : Nat} (hp : p < 16) (h : j ≠ k) :
    rd (resetTarget s k) (R.EVC_TGTt_RINGp_BASE_LO j p) = rd s (R.EVC_TGTt_RINGp_BASE_LO j p) := by
  refine rd_resetTarget_of_ne ?_ fun q hq => ?_ <;> simp only [R.EVC_TGTt_RUN, R.EVC_TGTt_RINGp_BASE_LO] <;> omega

theorem wf_disarmed (hw : Registers.wf s.regs = true) (k : Nat) (l : List Nat) :
    Registers.wf (l.foldl (fun u p => wrF u (R.EVC_TGTt_RINGp_BASE_LO k p) 9 9 0) s).regs = true :=
  List.foldlRecOn (motive := fun u : State => Registers.wf u.regs = true) l _ hw fun _ hu _ _ => wf_wrF hu _ _ _ _

theorem wf_resetTarget (hw : Registers.wf s.regs = true) (k : Nat) : Registers.wf (resetTarget s k).regs = true := wf_wr (wf_disarmed hw k _) _ _

/-- The rings of a target are disarmed and its stack is empty. -/
def TargetCleared (u : State) (k : Nat) : Prop := stackLevels u k = 0 ∧ ∀ p, p < 16 → rdB u (R.EVC_TGTt_RINGp_BASE_LO k p) 9 = false

theorem targetCleared_resetTarget (hw : Registers.wf s.regs = true) (k : Nat) : TargetCleared (resetTarget s k) k := by
  refine ⟨stackLevels_setStack (wf_disarmed hw k _) (by decide), fun p hp => ?_⟩
  have hne : R.EVC_TGTt_RINGp_BASE_LO k p ≠ R.EVC_TGTt_RUN k := by
    simp only [R.EVC_TGTt_RUN, R.EVC_TGTt_RINGp_BASE_LO]
    omega
  rw [resetTarget, rdB, rd_setStack_of_ne hne]
  refine foldl_establishes (inv := fun u => Registers.wf u.regs = true) (p := fun u => bit (rd u (R.EVC_TGTt_RINGp_BASE_LO k p)) 9 = false)
    (List.mem_range.2 hp) (fun u b hu => wf_wrF hu _ _ _ _) (fun u hu => ?_) (fun u b _ hb hu => ?_) hw
  · rw [rd_wrF_self hu]
    exact bit_setFld_bit _ false (by decide)
  · rwa [rd_wrF_ne (by simp only [R.EVC_TGTt_RINGp_BASE_LO]; omega)]

theorem TargetCleared.resetTarget {k j : Nat} (h : TargetCleared s k) (hne : k ≠ j) : TargetCleared (resetTarget s j) k := by
  refine ⟨?_, fun p hp => ?_⟩
  · rw [stackLevels, rdF, rd_resetTarget_other_run hne]
    exact h.1
  · rw [rdB, rd_resetTarget_other_base hp hne]
    exact h.2 p hp

/-! ### A new binding -/

/-- A field of a binding register keeps its function and its enable. -/
def SameBind (old w : Word) (k : Nat) : Prop := bit old (8 * k + 7) = bit w (8 * k + 7) ∧ fld old (8 * k + 5) (8 * k) = fld w (8 * k + 5) (8 * k)

/-- What a new word of a binding register does to the target of its field k (R547). -/
def bindTarget (old w : Word) (first : Nat) (u : State) (k : Nat) : State :=
  if bit old (8 * k + 7) = bit w (8 * k + 7) ∧ fld old (8 * k + 5) (8 * k) = fld w (8 * k + 5) (8 * k) then u else resetTarget u (k + first)

section Bind

variable {old w : Word} {first k : Nat}

theorem bindTarget_of_same (h : SameBind old w k) (u : State) : bindTarget old w first u k = u := if_pos h

theorem bindTarget_of_changed (h : ¬ SameBind old w k) (u : State) : bindTarget old w first u k = resetTarget u (k + first) := if_neg h

/-- What a reset of target k + first keeps, the field's own target apart, its row keeps. -/
theorem bindTarget_induction {p : State → Prop} (hu : p u) (h : ¬ SameBind old w k → p (resetTarget u (k + first))) : p (bindTarget old w first u k) := by
  by_cases hsame : SameBind old w k
  · rwa [bindTarget_of_same hsame]
  · rw [bindTarget_of_changed hsame]
    exact h hsame

theorem wf_bindTarget (k : Nat) (hw : Registers.wf u.regs = true) : Registers.wf (bindTarget old w first u k).regs = true :=
  bindTarget_induction (p := fun u => Registers.wf u.regs = true) hw fun _ => wf_resetTarget hw _

theorem bindTarget_eq_setRegs (u : State) (k : Nat) : bindTarget old w first u k = u.setRegs (bindTarget old w first u k).regs :=
  bindTarget_induction (p := fun v => v = u.setRegs v.regs) rfl fun _ => resetTarget_eq_setRegs u _

theorem rd_bindTarget {o : Nat} (ho : ¬ TargetReg o) (hk : k + first < 8) : rd (bindTarget old w first u k) o = rd u o :=
  bindTarget_induction (p := fun v => rd v o = rd u o) rfl fun _ => rd_resetTarget hk ho

/-- A register of a target whose field stays is kept by the fields of the other targets. -/
theorem rd_binds_of_same {o : Nat} (hsame : SameBind old w k) (hother : ∀ u j, k + first ≠ j → rd (resetTarget u j) o = rd u o) (s : State) :
    rd ((List.range 4).foldl (bindTarget old w first) s) o = rd s o := by
  refine rd_foldl _ (fun u j _ => ?_) s
  refine bindTarget_induction (p := fun v => rd v o = rd u o) rfl fun hch => hother u _ fun h => hch ?_
  obtain rfl : k = j := by omega
  exact hsame

theorem targetCleared_binds (hk : k < 4) (hch : ¬ SameBind old w k) (hw : Registers.wf s.regs = true) :
    TargetCleared ((List.range 4).foldl (bindTarget old w first) s) (k + first) := by
  refine foldl_establishes (inv := fun u => Registers.wf u.regs = true) (p := fun u => TargetCleared u (k + first)) (List.mem_range.2 hk)
    (fun u b hu => wf_bindTarget b hu) (fun u hu => ?_) (fun u b _ hb hu => ?_) hw
  · rw [bindTarget_of_changed hch]
    exact targetCleared_resetTarget hu _
  · exact bindTarget_induction (p := fun u => TargetCleared u (k + first)) hu fun _ => hu.resetTarget (by omega)

end Bind

theorem writeTgtBind_eq (s : State) (hi : Bool) (w : Word) : writeTgtBind s hi w =
    (List.range 4).foldl (bindTarget (rd s (if hi then R.EVC_TGTBIND1 else R.EVC_TGTBIND0)) w (if hi then 4 else 0))
      (wr s (if hi then R.EVC_TGTBIND1 else R.EVC_TGTBIND0) w) := rfl

theorem bindReg_not_targetReg (hi : Bool) : ¬ TargetReg (if hi then R.EVC_TGTBIND1 else R.EVC_TGTBIND0) := by
  rw [TargetReg]
  cases hi <;> decide

/-! ### MSI-X entries -/

/-- Membership behind a switch of one element. -/
theorem mem_switched (l : List Nat) (f x : Nat) (on : Bool) : x ∈ (if on then (if l.contains f then l else l ++ [f]) else l.filter (· ≠ f)) ↔
    (x = f ∧ on = true) ∨ (x ≠ f ∧ x ∈ l) := by
  cases on
  · simp [and_comm]
  · by_cases hl : f ∈ l
    · by_cases hx : x = f <;> simp [hl, hx]
    · by_cases hx : x = f <;> simp [hl, hx]

/-- The event controller behind a write of an entry of the MSI-X table. -/
def msixEv (e : Ev) (f k : Nat) (w : MsixWrite) : Ev :=
  { e with
    msixOn := if w.on then (if e.msixOn.contains f then e.msixOn else e.msixOn ++ [f]) else e.msixOn.filter (· ≠ f)
    msixOpen := if w.mask then e.msixOpen.filter (· ≠ k) else if e.msixOpen.contains k then e.msixOpen else e.msixOpen ++ [k]
    msixPend := if w.on && w.mask then e.msixPend else e.msixPend.filter (· ≠ k)
    msixTab := SMap.put e.msixTab k (w.addr.toNat, w.data) }

theorem mem_msixOpen (e : Ev) (f k x : Nat) (w : MsixWrite) : x ∈ (msixEv e f k w).msixOpen ↔ (x = k ∧ w.mask = false) ∨ (x ≠ k ∧ x ∈ e.msixOpen) := by
  rw [msixEv]
  cases w.mask
  · exact (mem_switched e.msixOpen k x true).trans (by simp)
  · exact (mem_switched e.msixOpen k x false).trans (by simp)

theorem mem_msixPend (e : Ev) (f k x : Nat) (w : MsixWrite) :
    x ∈ (msixEv e f k w).msixPend ↔ x ∈ e.msixPend ∧ (x ≠ k ∨ (w.on = true ∧ w.mask = true)) := by
  rw [msixEv, ← Bool.and_eq_true]
  cases w.on && w.mask <;> simp

theorem msixMsg_of_put {m : SMap (Nat × Word)} {f k a : Nat} {d : Word} (h : s.ev.msixTab = SMap.put m (8 * f + k) (a, d)) : msixMsg s f k = .msix f k a d := by
  rw [msixMsg, h, SMap.getD, SMap.get_put_same]
  rfl

/-- Settles O59: a row that the function may make is its write of the event controller, judged branch by branch. -/
theorem eventControllerAccesses : Obligations.EventControllerAccesses := by
  unfold Obligations.EventControllerAccesses
  intro s fn v hs
  have k := kept_main hs
  refine ⟨fun w p t m hi q hq ha => ?shut, fun t ha => next_congr (if_neg (not_of_eq_false ha)), fun w ha => ?pclr, fun w ha => next_congr (if_pos ha),
    fun t ha => ⟨fun hb => next_congr ((if_pos ha).trans (if_pos hb)), fun hb => next_congr ((if_pos ha).trans (if_neg (not_of_eq_false hb)))⟩,
    fun t ha => ?ack, fun t p w ha hw => ?base, fun t p ha => ⟨fun h => next_congr ((if_pos ha).trans (if_pos h)),
      fun h => next_congr ((if_pos ha).trans (if_neg (Nat.not_lt.2 h)))⟩, fun n w ha hw => ?source, fun hi off hoff ha hl => ?bindLocked,
    fun hi w off hoff ha hl hw => ?bind, fun t w => ?msix⟩
  case shut =>
    simp only [List.mem_cons, List.not_mem_nil, or_false] at hq
    rcases hq with rfl | rfl | rfl | rfl | rfl | rfl | rfl | rfl <;> exact next_congr (if_neg (not_of_eq_false ha))
  case pclr =>
    have hrow : exec (.pclr fn w v) s = .next (clearPending s w.toNat v) := next_congr (if_pos ha)
    obtain ⟨m, hm⟩ := clearPending_eq_setEv (s := s) w.toNat v
    refine ⟨_, hrow, keepsMain_of_kept (execPclr_kept k) hrow, rfl, ?_, ?_, fun n hn hsort => clearPending_forgets hn hsort⟩
    · rw [hm]
      rfl
    · rw [hm]
      rfl
  case ack =>
    have hrow : exec (.ack fn t) s = .next (readAck s t.toNat) := next_congr (if_pos ha)
    refine ⟨_, hrow, keepsMain_of_kept (execAck_kept k) hrow, fun p hp => ⟨readAck_of_some hp, fun hp16 => ?_⟩, readAck_of_none⟩
    rw [readAck_of_some hp, stackLevels_setAns]
    exact stackLevels_setStack hs.1 (Nat.or_lt_two_pow (stackLevels_lt s _) (Nat.pow_lt_pow_right (by decide) hp16))
  case base =>
    subst hw
    have hrow : exec (.ringBaseWrite fn t p v) s = .next (writeRingBase s t.toNat p.toNat
        (newWord s fn.toNat (R.EVC_TGTt_RINGp_BASE_LO t.toNat p.toNat) .base v)) := next_congr (if_pos ha)
    refine ⟨fun h => hrow.trans (next_congr (if_pos h)), fun h h9 => hrow.trans (next_congr ((if_neg (Nat.not_lt.2 h)).trans (if_neg (not_of_eq_false h9)))),
      fun h h9 => ?_⟩
    have harm := hrow.trans (next_congr ((if_neg (Nat.not_lt.2 h)).trans (if_pos h9)))
    refine ⟨_, harm, keepsMain_of_kept (execRingBaseWrite_kept k) harm, rfl, ?_, ?_, rd_wr_self (wf_wr (wf_wr hs.1 _ _) _ _) _ _,
      (((regsBut_wr s _ _).trans (regsBut_wr _ _ _)).trans (regsBut_wr _ _ _)).of_regs_eq rfl⟩
    · refine (rd_wr_ne _ _ ?_).trans ((rd_wr_ne _ _ ?_).trans (rd_wr_self hs.1 _ _)) <;>
        simp only [R.EVC_TGTt_RINGp_BASE_LO, R.EVC_TGTt_RINGp_CONS, R.EVC_TGTt_RINGp_PROD] <;> omega
    · refine (rd_wr_ne _ _ ?_).trans (rd_wr_self (wf_wr hs.1 _ _) _ _)
      simp only [R.EVC_TGTt_RINGp_CONS, R.EVC_TGTt_RINGp_PROD]
      omega
  case source =>
    subst hw
    refine ⟨fun hl => next_congr ((if_pos ha).trans (if_pos hl)), fun hl hsense => ?_, fun hl hsense hsame => ?_, fun hl hsense hnew => ?_⟩
    · exact next_congr ((if_pos ha).trans ((if_neg (not_of_eq_false hl)).trans (if_neg (not_of_eq_false hsense))))
    · exact next_congr ((if_pos ha).trans ((if_neg (not_of_eq_false hl)).trans ((if_pos hsense).trans (if_pos hsame))))
    · exact next_congr ((if_pos ha).trans ((if_neg (not_of_eq_false hl)).trans ((if_pos hsense).trans (if_neg hnew))))
  case bindLocked =>
    subst hoff
    exact next_congr ((if_pos ha).trans (if_pos hl))
  case bind =>
    have hrow : exec (.targetBindWrite fn hi v) s = .next ((List.range 4).foldl (bindTarget (rd s off) w (if hi then 4 else 0)) (wr s off w)) := by
      subst hoff hw
      exact next_congr ((if_pos ha).trans ((if_neg (not_of_eq_false hl)).trans (writeTgtBind_eq s hi _)))
    have hfirst : ∀ n ∈ List.range 4, n + (if hi then 4 else 0) < 8 := fun n hn => by
      have := List.mem_range.1 hn
      split <;> omega
    have hoffNot : ¬ TargetReg off := hoff ▸ bindReg_not_targetReg hi
    have hkeep : ∀ o, ¬ TargetReg o → rd ((List.range 4).foldl (bindTarget (rd s off) w (if hi then 4 else 0)) (wr s off w)) o = rd (wr s off w) o :=
      fun o ho => rd_foldl _ (fun u n hn => rd_bindTarget ho (hfirst n hn)) _
    refine ⟨_, hrow, keepsMain_of_kept (execTargetBindWrite_kept k) hrow, (hkeep off hoffNot).trans (rd_wr_self hs.1 _ _),
      eq_setRegs_trans (wr_eq_setRegs s off w) (foldl_eq_setRegs bindTarget_eq_setRegs _ _), fun o ho hne => (hkeep o ho).trans (rd_wr_ne s w hne),
      fun n hn => ?target⟩
    case target =>
      intro t same
      have ht : t < 8 := hfirst n (List.mem_range.2 hn)
      have hne : ∀ o, TargetReg o → rd (wr s off w) o = rd s o := fun o ho => rd_wr_ne s w fun h => hoffNot (h ▸ ho)
      refine ⟨fun hsame => ⟨?_, fun p hp => ?_⟩, fun hch => targetCleared_binds hn hch (wf_wr hs.1 _ _)⟩
      · refine (rd_binds_of_same hsame (fun u j hj => rd_resetTarget_other_run hj) _).trans (hne _ (.inr ?_))
        rw [R.EVC_TGTt_RUN]
        omega
      · refine (rd_binds_of_same hsame (fun u j hj => rd_resetTarget_other_base hp hj) _).trans (hne _ (.inr ?_))
        rw [R.EVC_TGTt_RINGp_BASE_LO]
        omega
  case msix =>
    intro f e vfs
    have hrow : exec (.msixVectorUnmask fn t w) s = .next (if w.on && !w.mask && decide (f ≤ vfs) && s.ev.msixPend.contains e
        then emit ((s.setEv (msixEv s.ev f e w)).setHp { s.hp with vfs := vfs }) (msixMsg ((s.setEv (msixEv s.ev f e w)).setHp { s.hp with vfs := vfs }) f t.toNat)
        else (s.setEv (msixEv s.ev f e w)).setHp { s.hp with vfs := vfs }) := rfl
    refine ⟨(s.setEv (msixEv s.ev f e w)).setHp { s.hp with vfs := vfs }, _, hrow, keepsMain_of_kept (execMsixVectorUnmask_kept k) hrow, rfl, rfl,
      fun x => mem_switched s.ev.msixOn f x w.on, fun x => mem_msixOpen s.ev f e x w, fun x => mem_msixPend s.ev f e x w, ?_⟩
    rw [msixMsg_of_put (m := s.ev.msixTab) (a := w.addr.toNat) (d := w.data) rfl]
    refine ite_cond_congr ?_
    simp only [Bool.and_eq_true, Bool.not_eq_true', decide_eq_true_eq, List.contains_iff_mem, and_assoc]

end Sys2Proof.Machine
end
